-- ==== Sys2Proof/Word.lean ====
section
/-! DEFINITION. The word types of the device: 32-bit registers and packet words (R10), bytes, and 64-bit nonces. -/

namespace Sys2Proof

/-- A register, a packet word or a word of host memory (R10, R96). -/
abbrev Word := BitVec 32

/-- A byte, as keys and check fields hold them (R102). -/
abbrev Byte := BitVec 8

end Sys2Proof
end

