-- ==== Sys2Proof/Syntax.lean ====
section
/-! DEFINITION. The commands of the device: one constructor for each row of the command table. A command is something that
happens to the device: a step of a command packet, a BAR0 access, an instruction of the test access port, an event of the link
or of a pin, or a moment that one of its engines has reached.

Operands. `q` is the ring whose command runs (0 to 7). Packet fields are no operands: the running command of the ring holds its
packet, fetched by COMMAND_FETCH. Operands beside it are what the world outside contributes: the words that a DMA read
gives (`data`, `packet`, `entry`; none where the read fails), what the units of a two-phase request report (`env`), whether fuses
and flash program (`burned`, `burnOk`, `recordOk`, `storeOk`, `persistOk`), what an analog input shows, what another device sends.
Other operands number a unit in the way the spec does: `i` a site, `k` a tile, channel or sensor, `n` a pin or a producer, `d` a
front-end die, `j` a pulse engine, `b` a block, `u` a unit identifier; `a` is a BAR0 address and `w` or `v` the word written. -/

namespace Sys2Proof

/-- What the units of a two-phase request report: units that fail to prepare, each with its hardware-fault status; units
that report failure at commit; units that do not acknowledge it; units whose output has moved and cannot be put back
(R42, R43). -/
structure CommitEnv where
  prepare : List (Nat × Nat) := []
  commit : List Nat := []
  silent : List Nat := []
  stuck : List Nat := []
  deriving DecidableEq, Repr

/-- What a pin's ball shows in one compare: pin, outcome bit, and moments with the ball voltage in microvolts: the strobe's, or
those of the window that matter, each with its time in timing units (R246, R249, R250). A compare without a sample sees a ball of
0 V (DESIGN CHOICE, log entry 86). -/
structure Sample where
  pin : Nat
  obit : Nat
  seen : List (Nat × Int)
  deriving DecidableEq, Repr

/-- What the measure converter of a pin's PMU gave (R282, R283): its raw value in result units, whether it stood at the end
of its voltage range, whether the sense voltage was held at a compliance limit (R274). -/
structure PmuSample where
  pin : Nat
  value : Int
  sat : Bool
  clamp : Bool
  deriving DecidableEq, Repr

/-- What a calibration sequence measured on a unit of its group: its index, whether the measurement settled, and the new
entries of the sequence's items in item and entry order (for TIMING and ALIGN the measured path delays; R415, R416). -/
structure CalResult where
  unit : Nat
  settled : Bool
  values : List Int
  deriving DecidableEq, Repr

/-- A firmware package as host memory holds it: its words, whether its MAGIC, size and header fields are valid, VERSION, and
its Lenmas images in native and mirror form, and its Subsystem Vendor and Subsystem IDs (R461, R73; DESIGN CHOICE, log entry 45). -/
structure FwPackage where
  words : List Word
  headerOk : Bool
  version : Nat
  native : List Word
  mirror : List Word
  subVendor : Nat := 0
  subsystem : Nat := 0
  deriving DecidableEq, Repr

/-- The commands: those with operands in the order of the command table, then those without (its rows' rules are named here; their
meanings stand in Machine/). -/
inductive Instr where
  /-- NOP (R100): Command 0x0000: echoes its payload and makes no other change. -/
  | nop (q : Nat)
  /-- IDENTIFY (R495): Command 0x0001: returns stepping, grade, part, mode flags, versions, die serials and pins in service.
  -/
  | identify (q : Nat)
  /-- SESSION_OPEN (R101): Command 0x0901: opens a session on the ring with a fresh nonce and a counter of 0. -/
  | sessionOpen (q : Nat)
  /-- SESSION_CLOSE (R105): Command 0x0902: closes the ring's session. -/
  | sessionClose (q : Nat)
  /-- KEY_PROVISION (R106): Command 0x0903: programs a blank key slot and returns its key check value; a fuse failure revokes
  the slot. -/
  | keyProvision (q : Nat) (burned : Bool)
  /-- KEY_REVOKE (R105): Command 0x0904: blows a slot's revoke fuse and closes every session on that slot. -/
  | keyRevoke (q : Nat) (burned : Bool)
  /-- KEY_STATUS (R106): Command 0x0905: returns the state and key check value of each key slot. -/
  | keyStatus (q : Nat)
  /-- PATTERN_LOAD (R117): Command 0x0101: checks a container, places its segments locally or in the stream as a two-phase
  request, and returns a handle. -/
  | patternLoad (q ce : Nat) (data : Option (List Word)) (ue : Option Nat) (env : CommitEnv)
  /-- PATTERN_FREE (R115): Command 0x0102: frees a pattern object handle and unbinds the windows bound to it. -/
  | patternFree (q : Nat)
  /-- PLACE_REPORT (R118): Command 0x0103: reports where a handle's data or units have been placed. -/
  | placeReport (q : Nat)
  /-- BUFFER_ALLOC (R131): Command 0x0110: admits the RATE of a capture buffer or fail log and allocates it in HBM. -/
  | bufferAlloc (q : Nat)
  /-- BUFFER_FREE (R132): Command 0x0111: frees a buffer unless it is bound or belongs to a site that holds a reservation. -/
  | bufferFree (q : Nat)
  /-- MEAS_PLACE (R133): Command 0x0120: chooses units for a measurement, sets their prism paths and returns a handle. -/
  | measPlace (q : Nat)
  /-- MEAS_RELEASE (R133): Command 0x0121: releases a measurement's units and clears the prism bits it set. -/
  | measRelease (q : Nat)
  /-- WINDOW_BIND (R137): Command 0x0130: binds or unbinds a local-memory window to a handle at an offset. -/
  | windowBind (q : Nat)
  /-- LEDGER_READ (R129): Command 0x0140: returns buffer reservations, stream reservations and the free budget. -/
  | ledgerRead (q : Nat)
  /-- SITE_FORM (R139): Command 0x0401: forms a site over a contiguous range of tiles as a two-phase request. -/
  | siteForm (q : Nat) (env : CommitEnv)
  /-- SITE_DISSOLVE (R141): Command 0x0402: dissolves an idle or halted site and unbinds its objects. -/
  | siteDissolve (q : Nat) (env : CommitEnv)
  /-- RUN_START (R163): Command 0x0410: covers, admits, claims power for and primes each named site, then starts or arms it.
  -/
  | runStart (q : Nat) (env : CommitEnv)
  /-- RUN_PAUSE (R164): Command 0x0411: registers a pause request at each named running site. -/
  | runPause (q : Nat) (env : CommitEnv)
  /-- RUN_RESUME (R164): Command 0x0412: registers a resume at each named paused site. -/
  | runResume (q : Nat) (env : CommitEnv)
  /-- RUN_STEP (R165): Command 0x0413: resumes a paused site for COUNT dispatched instructions. -/
  | runStep (q : Nat)
  /-- RUN_HALT (R166): Command 0x0414: halts the named running or paused sites, or disarms armed ones, with cause HOST_HALT.
  -/
  | runHalt (q : Nat) (env : CommitEnv)
  /-- RUN_JUMP (R168): Command 0x0415: sets a pending host jump to a local segment for the next jump boundary. -/
  | runJump (q : Nat)
  /-- RUN_STATUS (R161): Command 0x0418: returns a site's state, handle, counters and stamps read in one FAB cycle. -/
  | runStatus (q : Nat)
  /-- UC_LOAD (R193): Command 0x0420: verifies a Miram image and loads it into every tile as a two-phase request, optionally
  enrolling and persisting. -/
  | ucLoad (q : Nat) (data : Option (List Word)) (signerOk : Bool) (kept : Option Nat) (env : CommitEnv)
  /-- UC_CLEAR (R193): Command 0x0421: empties the open or patch region and invalidates its dispatch entries. -/
  | ucClear (q : Nat) (env : CommitEnv)
  /-- UC_STATUS (R191): Command 0x0422: returns the region and signer registers. -/
  | ucStatus (q : Nat)
  /-- TSET_PERIOD (R216): Command 0x0301: writes period records into the shadow banks of the named tiles and applies idle
  tiles unless deferred. -/
  | tsetPeriod (q : Nat) (env : CommitEnv)
  /-- TSET_EDGES (R216): Command 0x0302: writes edge offset and enable records into pin edge tables and applies idle tiles
  unless deferred. -/
  | tsetEdges (q : Nat) (env : CommitEnv)
  /-- TSET_READ (R13): Command 0x0303: returns one pin's live or shadow view of one timing set. -/
  | tsetRead (q : Nat)
  /-- TSET_APPLY (R209): Command 0x0304: applies the timing shadow banks of the named tiles that are not running or paused. -/
  | tsetApply (q : Nat) (env : CommitEnv)
  /-- PIN_MODE_SET (R218): Command 0x0201: changes pin modes and drive settings under the mode interlocks, starting break-
  before-make changes. -/
  | pinModeSet (q : Nat) (env : CommitEnv)
  /-- LEVEL_SET (R239): Command 0x0202: writes shadow level codes and strobe groups, with an optional strobe at commit. -/
  | levelSet (q : Nat) (env : CommitEnv)
  /-- LEVEL_STROBE (R240): Command 0x0203: strobes the named groups of the four dies in one FAB cycle. -/
  | levelStrobe (q : Nat) (env : CommitEnv)
  /-- LEVEL_READ (R245): Command 0x0204: returns the live or shadow codes, groups and LOADED bits of one pin's DACs. -/
  | levelRead (q : Nat)
  /-- FORMAT_SET (R229): Command 0x0205: writes pin formats per timing set into the timing shadow bank. -/
  | formatSet (q : Nat) (env : CommitEnv)
  /-- PIN_MAP_SET (R227): Command 0x0206: writes pin pair tables and state-map entries under the coverage rule. -/
  | pinMapSet (q : Nat) (env : CommitEnv)
  /-- GANG_SET (R236): Command 0x0207: forms, changes or dissolves the gang of one octet. -/
  | gangSet (q : Nat)
  /-- HV_LIMIT_SET (R238): Command 0x0208: sets the high-voltage ceiling of the named dies. -/
  | hvLimitSet (q : Nat) (env : CommitEnv)
  /-- CMP_CFG_SET (R270): Command 0x0430: writes compare configuration or the static mask of pins. -/
  | cmpCfgSet (q : Nat) (env : CommitEnv)
  /-- MASK_SET (R255): Command 0x0431: writes mask sets 1 to 15 of tiles into the timing shadow bank. -/
  | maskSet (q : Nat) (env : CommitEnv)
  /-- FAIL_CFG_SET (R263): Command 0x0432: sets the fail-log mode and full policy of a site number. -/
  | failCfgSet (q : Nat)
  /-- FAIL_READ (R262): Command 0x0B10: returns records of a tile's first-fail store complete at command start. -/
  | failRead (q : Nat) (bad : List Nat)
  /-- FAIL_SUMMARY (R257): Command 0x0B11: returns per-pin fail counts and first-fail cycles of a site. -/
  | failSummary (q : Nat)
  /-- PMU_SET (R280): Command 0x0210: writes PMU configuration and shadow force codes, claiming power and starting breaks
  where needed. -/
  | pmuSet (q : Nat) (env : CommitEnv)
  /-- PMU_MEASURE (R282): Command 0x0211: starts a simultaneous averaged measurement of the named pins in mode 2. -/
  | pmuMeasure (q : Nat) (env : CommitEnv)
  /-- AW_SET (R285): Command 0x0501: enables, disables or reconfigures source channels with their power claims. -/
  | awSet (q : Nat) (env : CommitEnv)
  /-- AW_SEG_LOAD (R288): Command 0x0502: stores a waveform segment of a source channel in die waveform memory. -/
  | awSegLoad (q : Nat) (data : Option (List Word))
  /-- AW_SEQ_LOAD (R290): Command 0x0503: writes steps of a source channel's sequence table. -/
  | awSeqLoad (q : Nat)
  /-- AW_RUN (R291): Command 0x0504: checks the reachable steps and starts the named source channels at a step. -/
  | awRun (q : Nat) (env : CommitEnv)
  /-- AW_STOP (R294): Command 0x0505: schedules the named source channels to go idle. -/
  | awStop (q : Nat) (env : CommitEnv)
  /-- AW_JUMP (R293): Command 0x0506: sets a pending jump of a playing or waiting channel to a step. -/
  | awJump (q : Nat)
  /-- WM_SET (R319): Command 0x0520: configures window monitors, refusing changes that lower the protection of guarded
  monitors. -/
  | wmSet (q : Nat) (env : CommitEnv)
  /-- PG_SET (R308): Command 0x0530: configures, enables or disables a pulse engine with its power claim. -/
  | pgSet (q : Nat)
  /-- PG_LIST_LOAD (R312): Command 0x0531: loads a pulse list into an engine that is not armed or running. -/
  | pgListLoad (q : Nat)
  /-- PG_START (R310): Command 0x0532: starts or arms the named pulse engines. -/
  | pgStart (q : Nat) (env : CommitEnv)
  /-- PG_STOP (R314): Command 0x0533: schedules the end of the named engines' runs. -/
  | pgStop (q : Nat) (env : CommitEnv)
  /-- PG_CLEAR (R316): Command 0x0534: sets the named faulted engines idle and clears FAULT_KIND. -/
  | pgClear (q : Nat) (env : CommitEnv)
  /-- AQ_SET (R332): Command 0x0510: sets a digitizer channel's input, range, decimation and trigger conditions. -/
  | aqSet (q : Nat)
  /-- AQ_ARM (R327): Command 0x0511: divides capture buffers into slots, clears headers and starts filling. -/
  | aqArm (q : Nat) (env : CommitEnv)
  /-- AQ_FORCE (R335): Command 0x0512: requests a forced trigger on each named filling channel. -/
  | aqForce (q : Nat) (env : CommitEnv)
  /-- AQ_STOP (R336): Command 0x0513: requests a stop of the named digitizer channels. -/
  | aqStop (q : Nat) (env : CommitEnv)
  /-- AQ_READ (R338): Command 0x0514: returns a record header and its samples in time order. -/
  | aqRead (q ce : Nat) (bad : Option Nat)
  /-- TU_SET (R354): Command 0x0540: sets a time-interval channel's inputs, windows, gate, counts and log buffer. -/
  | tuSet (q : Nat)
  /-- TU_ARM (R361): Command 0x0541: clears counters and arms the named time-interval channels. -/
  | tuArm (q : Nat) (env : CommitEnv)
  /-- TU_STOP (R361): Command 0x0542: requests the end of measuring on the named channels. -/
  | tuStop (q : Nat) (env : CommitEnv)
  /-- TU_READ (R367): Command 0x0543: removes result records from a measurement's queue. -/
  | tuRead (q : Nat)
  /-- TU_BINCAL (R359): Command 0x0544: runs bin calibration on the named channels and reports failures. -/
  | tuBincal (q : Nat) (env : CommitEnv)
  /-- XR_DELAY_SET (R348): Command 0x0548: writes the ring segment and bypass delay tables. -/
  | xrDelaySet (q : Nat)
  /-- PROFILE_SET (R379): Command 0x0440: checks, prepares, records and commits a switch between native and mirror profiles.
  -/
  | profileSet (q : Nat) (recordOk : Bool) (env : CommitEnv)
  /-- PRISM_SET (R409): Command 0x0A01: sets or clears enable-matrix bits in one FAB cycle. -/
  | prismSet (q : Nat)
  /-- PRISM_CONS_SET (R409): Command 0x0A02: sets consumer KMASKs and die-line target masks in one FAB cycle. -/
  | prismConsSet (q : Nat)
  /-- PRISM_FIRE (R399): Command 0x0A03: registers software producer events at or after a given stamp. -/
  | prismFire (q : Nat)
  /-- PRISM_TIO_SET (R398): Command 0x0A04: sets TIO pins as inputs or outputs. -/
  | prismTioSet (q : Nat)
  /-- LENS_READ (R403): Command 0x0B01: returns incident records in SEQ order. -/
  | lensRead (q : Nat)
  /-- LENS_ACK (R405): Command 0x0B02: acknowledges closed incidents up to a SEQ, freeing their slots. -/
  | lensAck (q : Nat)
  /-- CAL_RUN (R418): Command 0x0601: claims power and starts a calibration sequence on the named units. -/
  | calRun (q : Nat) (env : CommitEnv)
  /-- CAL_WRITE (R427): Command 0x0602: writes working-set entries or marks units stale. -/
  | calWrite (q : Nat) (env : CommitEnv)
  /-- CAL_READ (R411): Command 0x0603: returns working-set entries of a unit and item. -/
  | calRead (q : Nat)
  /-- CAL_STORE (R425): Command 0x0604: snapshots the working set and writes it to the bank not in use, committing last. -/
  | calStore (q : Nat) (left : Option (Option Nat))
  /-- CAL_STATUS (R424): Command 0x0605: returns calibration status and both bank states and sequence numbers. -/
  | calStatus (q : Nat)
  /-- CAL_EXT (R420): Command 0x0606: connects the calibration bus of a die to one target, break-before-make. -/
  | calExt (q : Nat)
  /-- POWER_BUDGET_SET (R442): Command 0x0701: changes the power budget in force. -/
  | powerBudgetSet (q : Nat)
  /-- POWER_FLOOR_SET (R437): Command 0x0702: sets host floors of power-managed blocks in one FAB cycle. -/
  | powerFloorSet (q : Nat)
  /-- POWER_STATUS (R439): Command 0x0703: returns the arbiter registers, clearing the refused count. -/
  | powerStatus (q : Nat)
  /-- THERMAL_SET (R443): Command 0x0704: lowers a sensor's throttle and critical limits. -/
  | thermalSet (q : Nat)
  /-- RESET (R453): Command 0x0801: performs an isolated or site reset, or schedules a software reset source. -/
  | reset (q : Nat)
  /-- FW_LOAD (R461): Command 0x0810: verifies a firmware package and runs, stores or activates it. -/
  | fwLoad (q : Nat) (pkg : Option FwPackage) (storeOk : Bool)
  /-- REACH_SET (R448): Command 0x0811: programs the next blank reach-table fuse row. -/
  | reachSet (q : Nat) (burnOk : Bool)
  /-- REMAP (R463): Command 0x0820: maps a spare in for a tile, lane engine or time-interval section, or undoes it. -/
  | remap (q ce : Nat) (hits : List Nat) (recordOk : Bool) (ue : Option Nat) (env : CommitEnv)
  /-- RETIRE (R464): Command 0x0821: permanently isolates a pin or returns it to service. -/
  | retire (q : Nat) (recordOk : Bool)
  /-- RING_CTRL (R465): Command 0x0830: makes the Xearn ports join the ring or leave to pass-through. -/
  | ringCtrl (q : Nat)
  /-- RST_LOG_READ (R457): Command 0x0B20: returns the reset cause history newest first. -/
  | rstLogRead (q : Nat)
  /-- SMB_HISTORY_READ (R460): SMBus block read with command code 0x41 plus i returns history entry i. -/
  | smbHistoryRead (target i : Nat)
  /-- EXTEST (R467): TAP instruction 0x00: the boundary register drives and samples the scanned balls. -/
  | extest (seen : List Bool)
  /-- SAMPLE_PRELOAD (R467): TAP instruction 0x01: samples and preloads without driving. -/
  | samplePreload (seen cells : List Bool)
  /-- EXTEST_PULSE (R467): TAP instruction 0x05: IEEE 1149.6 pulse test on AC-coupled pairs. -/
  | extestPulse (seen : List Bool)
  /-- EXTEST_TRAIN (R467): TAP instruction 0x06: IEEE 1149.6 train test on AC-coupled pairs. -/
  | extestTrain (seen : List Bool)
  /-- BYPASS (R467): TAP instruction 0xFF and every unlisted code select the one-bit bypass register. -/
  | bypass (code : Nat)
  /-- SQ_TAIL_DOORBELL (R85): Write of a ring's SQ tail doorbell makes entries up to the tail available to fetch. -/
  | sqTailDoorbell (q : Nat) (v : Word)
  /-- CQ_HEAD_DOORBELL (R86): Write of a ring's CQ head doorbell frees completion slots so held completions can resume. -/
  | cqHeadDoorbell (q : Nat) (v : Word)
  /-- RING_ENABLE (R95): Write of ENABLE 1 in HL_RING_CFG resets head, tail, error and phase and enables the pair. -/
  | ringEnable (q : Nat) (w : Word)
  /-- RING_DISABLE (R95): Write of ENABLE 0 finishes the executing command and discards fetched unstarted commands. -/
  | ringDisable (q : Nat) (w : Word)
  /-- SITE_CTRL_PAUSE (R162): Write of PAUSE in SEQ_SITE_CTRL requests a pause of the site. -/
  | siteCtrlPause (i : Nat)
  /-- SITE_CTRL_RESUME (R162): Write of RESUME in SEQ_SITE_CTRL resumes a paused site. -/
  | siteCtrlResume (i : Nat)
  /-- SITE_CTRL_HALT (R162): Write of HALT in SEQ_SITE_CTRL halts the site with cause HOST_HALT. -/
  | siteCtrlHalt (i : Nat)
  /-- SITE_CTRL_STEP (R162): Write of STEP in SEQ_SITE_CTRL steps one instruction of a paused site. -/
  | siteCtrlStep (i : Nat)
  /-- EV_SET (R158): Write of EV_SET in SEQ_EVT sets the site's event flag. -/
  | evSet (i : Nat)
  /-- SEQ_JUMP_REQ (R168): Write of REQ in SEQ_JUMP requests a host jump to SEG. -/
  | seqJumpReq (i seg : Nat)
  /-- TSET_CTRL_APPLY (R209): Write of APPLY in TSET_CTRL applies the tile's timing shadow bank unless its site runs or is
  paused. -/
  | tsetCtrlApply (k : Nat)
  /-- TSET_ENTRY_LO_WRITE (R210): BAR0 write of a timing entry's LO word holds it in the tile's write latch. -/
  | tsetEntryLoWrite (a : Nat) (w : Word)
  /-- TSET_ENTRY_HI_WRITE (R210): BAR0 write of a timing entry's HI word updates the entry with the latched or current LO and
  empties the latch. -/
  | tsetEntryHiWrite (a : Nat) (w : Word)
  /-- PG_TIMING_HI_WRITE (R313): BAR0 write of a pulse-engine timing HI word updates the shadow value as the timing latch
  does. -/
  | pgTimingHiWrite (j w : Nat) (v : Word)
  /-- LVL_STROBE_GO (R240): Write of GO in LVL_STROBE strobes the selected groups of the die. -/
  | lvlStrobeGo (d mask : Nat)
  /-- PL_WIN_WRITE (R137): Write of a window's handle binds or unbinds the window as WINDOW_BIND does. -/
  | plWinWrite (w : Nat) (v : Word)
  /-- PR_SWFIRE_WRITE (R399): Write of 1 to a PR_SWFIRE bit registers a software producer event in that FAB cycle. -/
  | prSwfireWrite (w : Word)
  /-- LENS_ACKSEQ_WRITE (R405): Write of LENS_ACKSEQ acknowledges closed incidents up to the SEQ. -/
  | lensAckseqWrite (w : Word)
  /-- WD_KICK (R456): Write of 0xA5 to WD_KICK restarts the host watchdog count; other keys are discarded. -/
  | wdKick (key : Nat)
  /-- TRIPPED_CLEAR (R445): Write of 1 to TRIPPED clears it when the reading is 10 °C below the critical limit, allowing
  reconnection. -/
  | trippedClear (k : Nat)
  /-- REG_READ_CLEAR (R11): Read of an RC field returns its value and clears it to its reset value. -/
  | regReadClear (bar a ce : Nat) (ue : Bool)
  /-- REG_WRITE (R111): BAR0 write to a register without a row of its own, subject to window mode, access codes and validity.
  -/
  | regWrite (bar a : Nat) (w : Word)
  /-- COMMAND_FETCH (R85): DMA fetch of a submission entry and its packet from host memory completes. -/
  | commandFetch (q : Nat) (entry packet : Option (List Word))
  /-- UNIT_ACQUIRE (R89): A waiting command acquires units released by another holder and continues. -/
  | unitAcquire (q : Nat)
  /-- UNIT_WAIT_TIMEOUT (R45): A command that has waited 10 ms for held units ends with 0x0302, discarding its prepares. -/
  | unitWaitTimeout (q : Nat)
  /-- COMMIT_ACK_TIMEOUT (R43): A unit not acknowledging its commit within 2 µs fails at commit and the others are restored.
  -/
  | commitAckTimeout (q : Nat)
  /-- COMPLETION_WRITE (R81): The reply buffer and completion entry of a finished command are written when the completion ring
  has room. -/
  | completionWrite (q : Nat) (written : Bool)
  /-- CQ_IRQ_TIMEOUT (R93): The oldest unsignalled completion reaching IRQ_TIME microseconds signals the ring's vector. -/
  | cqIrqTimeout (q : Nat)
  /-- STREAM_PRIME_DONE (R125): Priming of prefetch buffers and control queue completes and cycle 0 of the run starts. -/
  | streamPrimeDone (q ce : Nat) (ues : List (Nat × Bool × Nat × Nat))
  /-- ARMED_START (R163): Cycle 0 of an armed site starts 640 MTC ticks after the FAB cycle of its START event. -/
  | armedStart (i : Nat)
  /-- RESUME_START (R164): A resumed site starts its next cycle 640 MTC ticks after the resume reaches the lead tile. -/
  | resumeStart (i : Nat)
  /-- REFILL_REQUEST (R124): A tile with 2 KiB or more free in its prefetch buffer or control queue requests a refill burst.
  -/
  | refillRequest (k : Nat) (ctrl : Bool)
  /-- REFILL_COMPLETE (R134): An HBM refill burst arrives in a tile's prefetch buffer or control queue. -/
  | refillComplete (k : Nat) (ctrl : Bool) (err ofs addr : Nat)
  /-- SCRUB_STEP (R441): Every 337.5 s a patrol-scrub step claims 600 mW and scrubs 64 MiB of HBM. -/
  | scrubStep (ce : Nat) (ues : List Nat)
  /-- ROUTINE_DISPATCH (R178): At routine end the lead tile looks up the next control word's dispatch entry and starts its
  routine. -/
  | routineDispatch (i : Nat) (parityOk : Bool)
  /-- MICROWORD_EXEC (R173): The lead tile executes one microword in a microcycle, issuing cycles and deciding control. -/
  | microwordExec (i : Nat) (parityOk : Bool)
  /-- MICRO_WATCHDOG (R182): The microcycle count since dispatch or last YIELD reaching 4,096 raises the WATCHDOG machine
  check. -/
  | microWatchdog (i : Nat)
  /-- CYCLE_READ (R24): Tiles of a site read the state codes of a cycle 62.5 ns before it starts at the pins. -/
  | cycleRead (i : Nat) (lm : Option (Nat × Bool))
  /-- CYCLE_TAKE (R199): The timing generator takes a cycle from the alignment queue and computes its edge times. -/
  | cycleTake (i : Nat)
  /-- COMPARE_OUTCOME (R256): Compare outcomes of a cycle reach the lane engine, which masks, counts and records them. -/
  | compareOutcome (i : Nat) (l : List Sample) (faults : List (Nat × Nat))
  /-- FAIL_LOG_WRITE (R265): A fail record or GAP record is written to the site's fail log as credit allows, or lost. -/
  | failLogWrite (i : Nat)
  /-- FAIL_LOG_HEADER (R264): The fail-log header is written at run start and after all records at end, halt or pause. -/
  | failLogHeader (i : Nat)
  /-- SITE_PARK (R243): The pins of a site go to their park states after the stop cycle or after the last edge at END. -/
  | sitePark (i : Nat)
  /-- PRISM_DELIVER (R391): The prism delivers a registered event to every consumer that takes it in one FAB cycle. -/
  | prismDeliver (n : Nat)
  /-- RING_EVENT_RECEIVE (R397): A ring event frame received by another member fires its RING producer. -/
  | ringEventReceive (origin n gen coarse frac : Nat) (hasFrac : Bool)
  /-- TIO_INPUT_EDGE (R398): A selected edge at a TIO input produces an event. -/
  | tioInputEdge (n : Nat) (rising : Bool)
  /-- TIO_PULSE_END (R398): A TIO output pulse ends after WIDTH FAB cycles. -/
  | tioPulseEnd (n : Nat)
  /-- TICK_FIRE (R386): TICK_US, TICK_MS or TICK_S fires at a gnomon count that is a multiple of its period. -/
  | tickFire (k : Nat)
  /-- LEVEL_DAC_UPDATE (R240): Level DACs of strobed groups load their shadow codes 128 ns after the strobe. -/
  | levelDacUpdate (close : List Nat)
  /-- SWITCH_CLOSE (R242): An output's isolation switch closes 2.0 µs after the DAC update that completed its conditions. -/
  | switchClose (u : Nat)
  /-- PIN_MODE_DISCONNECT (R219): At tc + 0.5 µs of a mode change the driver, load and clamps turn off and the claim is
  released. -/
  | pinModeDisconnect (n : Nat)
  /-- MODE_BUSY_CLEAR (R219): At tc + 50 µs of a mode change MODE_BUSY clears and strobes reach the pin's DACs. -/
  | modeBusyClear (n : Nat)
  /-- RANGE_BREAK_OPEN (R280): At tc + 0.5 µs of a PMU or source-channel break the isolation switch opens. -/
  | rangeBreakOpen (u : Nat)
  /-- RANGE_BUSY_CLEAR (R280): At tc + 20 µs of a PMU or source-channel break RANGE_BUSY clears and any STROBE is made. -/
  | rangeBusyClear (u : Nat)
  /-- CURRENT_LIMIT_ONSET (R233): An HV driver, PMU or source output begins limiting its current and sets LIMITING. -/
  | currentLimitOnset (u : Nat)
  /-- PIN_DWELL_EXPIRE (R233): HV-driver limiting longer than DWELL opens the pin, sets OVERCURRENT and reports to the lens.
  -/
  | pinDwellExpire (n : Nat)
  /-- PMU_DWELL_EXPIRE (R281): PMU limiting longer than DWELL opens the pin, sets OVERCURRENT and reports to the lens. -/
  | pmuDwellExpire (n : Nat)
  /-- AW_DWELL_EXPIRE (R287): Source-channel limiting longer than DWELL opens the switch, sets OVERCURRENT and reports. -/
  | awDwellExpire (k : Nat)
  /-- SENSE_OPEN_DETECT (R275): Remote and local sense differing by over 1.0 V for 10 µs switches to local sense and sets
  SENSE_OPEN. -/
  | senseOpenDetect (u : Nat)
  /-- PMU_SERVO_TICK (R276): Each microsecond the loop engine corrects a servoed PMU setpoint within ±0.5 V. -/
  | pmuServoTick (n : Nat) (sensed : Int)
  /-- PMU_SAMPLE (R282): A PMU_MEASURE takes one sample on each named pin every microsecond and flags happenings. -/
  | pmuSample (q : Nat) (samples : List PmuSample)
  /-- PMU_MEASURE_DONE (R282): After N samples the loop engines return the rounded means and the command completes. -/
  | pmuMeasureDone (q : Nat)
  /-- AW_BOUNDARY (R291): At the end of a repetition a channel repeats, follows NEXTM, takes a jump or waits. -/
  | awBoundary (k : Nat)
  /-- AW_TRIG_PRESENT (R292): An event becomes present at a channel 128 ns after delivery and starts a waiting step or sets
  TRIG_PEND. -/
  | awTrigPresent (k : Nat)
  /-- AW_JUMP_PRESENT (R293): A jump request becomes present 128 ns after its commit and is taken at a boundary or at once
  when waiting. -/
  | awJumpPresent (k : Nat)
  /-- WM_INPUT_CROSSING (R298): A monitor's input crosses an effective threshold and its comparisons and output change. -/
  | wmInputCrossing (k : Nat) (v : Int)
  /-- WM_SETTLE_EXPIRE (R300): The settle time after enable or change passes, letting resolving start once thresholds are
  loaded. -/
  | wmSettleExpire (k : Nat)
  /-- ECLIPSE_CLOSE (R303): A monitor's eclipse window closes ECL_LEN ticks after its opening edge. -/
  | eclipseClose (k : Nat)
  /-- WM_TAP_UPDATE (R304): Each microsecond the tap converter gives the mean of the monitor's input. -/
  | wmTapUpdate (k : Nat) (mean : Int)
  /-- PG_GO (R310): A pulse engine reaches its go time after PG_START or a PG_TRIG event and starts running. -/
  | pgGo (j : Nat)
  /-- PG_LEADING_EDGE (R311): A scheduled leading edge starts a pulse, or is skipped or faults when a masked monitor is
  active. -/
  | pgLeadingEdge (j : Nat)
  /-- PG_TRAILING_EDGE (R311): A scheduled trailing edge ends a pulse and may end the run, rearming or idling the engine. -/
  | pgTrailingEdge (j : Nat)
  /-- PG_TRIP (R315): An active gated output of a TRIP_MASK monitor ends the pulse in progress through the asynchronous path.
  -/
  | pgTrip (j : Nat)
  /-- PG_FAULT (R317): A FAULT_MASK monitor ends the pulse and puts the engine into the faulted state with a lens report. -/
  | pgFault (j : Nat)
  /-- PG_KILL (R318): An event at PG_KILL faults the engine at the first FEM tick 128 ns after delivery. -/
  | pgKill (j : Nat)
  /-- PG_SERVO_TICK (R320): Each microsecond the servo moves the live TH_HI of its monitor toward TARGET. -/
  | pgServoTick (j : Nat)
  /-- AQ_TRIGGER (R330): A met condition, link or force at a filling channel takes the trigger sample and fires AQ_TRIGD. -/
  | aqTrigger (k : Nat)
  /-- AQ_RECORD_COMPLETE (R329): After POST samples the channel writes the record header and starts the next record or ends
  the arm. -/
  | aqRecordComplete (k : Nat)
  /-- AQ_FORCE_ACT (R335): A forced trigger acts at the first sample 128 ns after AQ_FORCE. -/
  | aqForceAct (k : Nat)
  /-- AQ_TRIG_EVENT (R332): An event at AQ_TRIG meets EVENT conditions at the first sample 128 ns after delivery. -/
  | aqTrigEvent (k : Nat)
  /-- TU_MEASURE_START (R361): A time-interval channel starts measuring 128 ns after TU_ARM or after a TU_GATE event. -/
  | tuMeasureStart (k : Nat)
  /-- TU_EDGE (R356): An input edge is selected, counted, prescaled, dead-timed and stamped into the channel's queue. -/
  | tuEdge (k b : Nat) (rising : Bool) (tick bin : Nat)
  /-- TU_WINDOW_CLOSE (R362): At the close of a start's stop window the engine pairs it with a stop or counts it unpaired. -/
  | tuWindowClose (k : Nat)
  /-- TU_GATE_CLOSE (R365): A frequency gate closes and its regression result is queued. -/
  | tuGateClose (k : Nat)
  /-- BINCAL_AUTO (R359): Every second the die island checks temperature and starts bin calibration of idle channels that
  drifted. -/
  | bincalAuto (d : Nat)
  /-- BINCAL_DONE (R360): A 15 ms bin calibration ends, keeping the new table or setting BIN_FAIL and reporting. -/
  | bincalDone (k : Nat) (hits : List Nat)
  /-- SYNC_FRAME_SEND (R348): Every 1 ms the ring master sends a sync frame carrying its departure stamp. -/
  | syncFrameSend (frac : Nat)
  /-- SYNC_FRAME_RECEIVE (R348): A member receives a sync frame, forwards it, computes its offset and corrects its phase. -/
  | syncFrameReceive (origin up : Nat) (stamp : Int) (residence map onTime frac through : Nat)
  /-- OVEN_LEVEL_CHANGE (R342): A change of the wired OVEN_WARM level sets or clears WARMING. -/
  | ovenLevelChange (level : Bool)
  /-- CLOCK_WINDOW_CHECK (R430): Each window of 64 REF periods a monitor compares a domain's count; two failures fail the
  domain and report. -/
  | clockWindowCheck (n count : Nat) (lost : Bool)
  /-- LINK_LANE_LOSS (R34): A die link losing lane lock reports to the lens and halts every site with a tile on that die. -/
  | linkLaneLoss (d : Nat)
  /-- LENS_REMOTE_INCIDENT (R406): An incident received from another ring member is merged or recorded with REMOTE set. -/
  | lensRemoteIncident (words : List Word)
  /-- POWER_STATE_EVAL (R437): A block's power state is selected from horizon, limit and floor, every 1 ms or after a change.
  -/
  | powerStateEval (b : Nat)
  /-- POWER_STATE_ENTER_DONE (R438): A block completes entry into a deeper power state. -/
  | powerStateEnterDone (b : Nat)
  /-- POWER_STATE_EXIT_DONE (R434): A block completes its exit latency and operates as in P0, releasing deferred requests. -/
  | powerStateExitDone (b : Nat)
  /-- TEMP_READ (R443): Every 100 µs each sensor is read and its throttle and critical limits judged. -/
  | tempRead (temps : List Int)
  /-- THERMAL_SHUTDOWN (R473): A die's shutdown comparator trips at absolute maximum and brings all outputs to reset state. -/
  | thermalShutdown (k : Nat)
  /-- RAIL_FAULT (R446): A rail outside ±5 % for 10 µs reports code 0x10 to the lens. -/
  | railFault (rail : Nat)
  /-- CAL_GROUP_END (R419): A calibration group ends, its new entries are written and held strobes applied. -/
  | calGroupEnd (d : Nat) (results : List CalResult)
  /-- CAL_WARM_EXPIRE (R414): 1,200 s after a die island returns to P0 its units stop being warming. -/
  | calWarmExpire (d : Nat)
  /-- ISO_RESET_IDLE (R453): A block under isolated reset reports idle and is reset for 16 FAB cycles. -/
  | isoResetIdle (u : Nat)
  /-- ISO_RESET_TIMEOUT (R453): A block not idle within TIMEOUT is reset anyway, with FORCED and the discarded traffic
  recorded. -/
  | isoResetTimeout (u count kinds : Nat)
  /-- BROWN_OUT (R447): A rail below 90 % for 2 µs asserts the brown-out source. -/
  | brownOut (rail : Nat)
  /-- FW_WATCHDOG_EXPIRE (R456): A command core not servicing its watchdog for 100 ms fires the watchdog source. -/
  | fwWatchdogExpire (core : Nat)
  /-- DOUBLE_EXCEPTION (R456): A command core taking an exception while handling one fires the lock-up source. -/
  | doubleException (core : Nat)
  /-- WAIT_CLK_TIMEOUT (R452): A block held in WAIT_CLK for 2 ms fires the clock-failure source. -/
  | waitClkTimeout (u : Nat)
  /-- OVEN_SAMPLE_FIRST (R65): At tP + 16 µs OVEN_WARM is sampled and the pull-down replaces the pull-up. -/
  | ovenSampleFirst (level : Bool)
  /-- OVEN_SAMPLE_SECOND (R66): At tP + 32 µs OVEN_WARM is sampled again and OVEN_WIRED decided. -/
  | ovenSampleSecond (level : Bool)
  /-- STRAP_SAMPLE (R65): At tP + 64 µs the straps and TEST_EN are sampled and release sequencing may begin. -/
  | strapSample (boot ring smba : Nat) (ref100 testEn : Bool)
  /-- BLOCK_RELEASE (R452): A block leaves reset once its clock monitor has seen 64 good REF periods and its PLL locks. -/
  | blockRelease (u : Nat)
  /-- BRINGUP_COMPLETE (R451): Banks, records and microcode are loaded, READY rises and bring-up completes. -/
  | bringupComplete (sfdp : Nat)
  /-- DIGITIZER_SAMPLE (R330): Each stored sample of a filling or capturing digitizer channel is written to the ring and
  checked for priming, clipping and conditions met during capture. -/
  | digitizerSample (k : Nat) (raws : List Int)
  /-- TU_GATE_OPEN (R365): With GATE_SRC 1 a later frequency gate opens at the tick reckoned 128 ns after a TU_GATE event. -/
  | tuGateOpen (k : Nat)
  /-- CURRENT_LIMIT_END (R233): An HV driver, PMU or source output stops limiting before its dwell ends; LIMITING clears and
  the dwell count stops. -/
  | currentLimitEnd (u : Nat)
  /-- CAL_EXT_SETTLED (R420): The calibration-bus relay connection or disconnection settles 1 ms after it began, and the
  CAL_EXT reply is written. -/
  | calExtSettled (d : Nat)
  /-- PCIE_LINK_UP (R74): PCI Express link training completes and the link is up, so BAR0 becomes reachable and ring pairs can
  be enabled. -/
  | pcieLinkUp (speed width : Nat)
  /-- SMB_CAUSE_READ (R460): SMBus block read with command code 0x40 returns the last cause record. -/
  | smbCauseRead (target : Nat)
  /-- IDCODE (R467): TAP instruction 0x02: selects the identification register. -/
  | idcode
  /-- CLAMP (R467): TAP instruction 0x03: drives preloaded values and selects bypass. -/
  | clamp
  /-- HIGHZ (R467): TAP instruction 0x04: scanned outputs high-impedance and PGO balls low. -/
  | highz
  /-- SYS_RESET (R447): TAP instruction 0x40 in Run-Test/Idle asserts the debug reset source. -/
  | sysReset
  /-- TAP_RESET (R467): TRST_N or the TMS reset sequence resets the test access port. -/
  | tapReset
  /-- GN_NOW_LO_READ (R345): Read of GN_NOW_LO latches the whole gnomon count and returns its low word. -/
  | gnNowLoRead
  /-- WINDOW_WRITE (R137): Write to a local-memory window is discarded and counted. -/
  | windowWrite
  /-- PERST_ASSERT (R58): Assertion of PERST_N isolates and holds the host-link block in reset. -/
  | perstAssert
  /-- PERST_RELEASE (R74): Release of PERST_N lets the host-link block leave reset and link training start. -/
  | perstRelease
  /-- FUNCTION_LEVEL_RESET (R74): Initiate Function Level Reset performs an isolated reset of the host-link block with the
  link up. -/
  | functionLevelReset
  /-- D3HOT_ENTER (R75): Entry to D3hot stops fetching, completions and MSI-X messages. -/
  | d3hotEnter
  /-- D0_RETURN (R75): Return to D0 resumes fetching with ring configuration and sessions kept. -/
  | d0Return
  /-- BUS_MASTER_DISABLE (R76): Clearing Bus Master Enable stops DMA and holds completion entries. -/
  | busMasterDisable
  /-- BUS_MASTER_ENABLE (R76): Setting Bus Master Enable resumes fetching and held completions. -/
  | busMasterEnable
  /-- MSIX_ENABLE (R93): Enabling MSI-X after a host-link reset signals each still-pending source once. -/
  | msixEnable (mask : Bool)
  /-- COMMAND_START (R88): A free command core takes the next command by priority and ring order, respecting BARRIER. -/
  | commandStart
  /-- STROBE_HELD_RELEASE (R241): A strobe held for DACs prepared by a two-phase request applies when that request commits or
  discards. -/
  | strobeHeldRelease
  /-- AW_RUN_START (R291): Named source channels enter waiting or playing 128 ns after the AW_RUN commit. -/
  | awRunStart
  /-- AW_STOP_ACT (R294): Named channels go idle at the update 128 ns after AW_STOP. -/
  | awStopAct
  /-- PG_STOP_ACT (R314): Named engines' runs end at the first FEM tick 128 ns after PG_STOP, truncating any pulse. -/
  | pgStopAct
  /-- AQ_STOP_ACT (R336): At the first sample 128 ns after AQ_STOP records are closed or abandoned and the channel is done. -/
  | aqStopAct
  /-- TU_STOP_ACT (R361): Measuring ends at the first MTC tick 128 ns after TU_STOP, cutting open windows and gates. -/
  | tuStopAct
  /-- RING_STEP (R349): A follower joins ring time by one counter step once no activity of R349 remains. -/
  | ringStep
  /-- SYNC_TIMEOUT (R350): No sync frame for 10 ms clears SYNC_VALID. -/
  | syncTimeout
  /-- XI_LOCK_LOST (R466): A member's XI lock lost for 1 ms reports code 0x0F keyed to the upstream segment. -/
  | xiLockLost
  /-- WARM_EXPIRE (R342): 600 s after PLL lock with OVEN_WARM unwired, WARMING clears. -/
  | warmExpire
  /-- REF_MISSING (R341): Four bad REF periods make REF missing and put the MTC PLL into holdover. -/
  | refMissing
  /-- REF_PRESENT (R429): Sixty-four good REF periods make REF present and the PLL relocks by slewing. -/
  | refPresent
  /-- HOLDOVER_EXPIRE (R431): REF missing for HOLD_MS fires the clock-failure source. -/
  | holdoverExpire
  /-- MTC_PLL_LOCK (R340): The MTC PLL gains lock and after an L3 or L4 reset the gnomon counter starts from 0. -/
  | mtcPllLock
  /-- LENS_REPORT_PROCESS (R402): A fault report is processed 500 ns after its stamp and joins or opens an incident. -/
  | lensReportProcess
  /-- LENS_INCIDENT_CLOSE (R402): An incident closes 2.5 µs after its first stamp, its record is written and vector 8
  signalled. -/
  | lensIncidentClose
  /-- CLAIM_QUEUE_GRANT (R441): A waiting running-block claim at the head of the queue is granted once it fits. -/
  | claimQueueGrant
  /-- PROFILE_RELOAD_DONE (R380): After a profile commit the regions are reloaded from flash and the reply is written. -/
  | profileReloadDone
  /-- SOFTWARE_SOURCE_ASSERT (R447): 100 µs after the completion of RESET REACH 2 or 3 or FW_LOAD ACTIVATE the software source
  asserts. -/
  | softwareSourceAssert
  /-- POWER_ON (R447): A rail or VDD_AON below its power-on threshold asserts the power-on source. -/
  | powerOn
  /-- NRST_IN_LOW (R59): NRST_IN read low on three consecutive AON cycles asserts the pin source. -/
  | nrstInLow
  /-- NRST_IN_HIGH (R447): NRST_IN read high on three consecutive AON cycles releases the pin source. -/
  | nrstInHigh
  /-- HOST_WATCHDOG_EXPIRE (R456): No valid kick within TIMEOUT_MS while enabled fires the watchdog source. -/
  | hostWatchdogExpire
  /-- FABRIC_TIMEOUT (R456): A register-fabric transaction unanswered for 1 ms fires the lock-up source. -/
  | fabricTimeout
  /-- START_TIMEOUT (R456): A start not completed 2 s after tR fires the lock-up source. -/
  | startTimeout
  /-- RESET_SOURCE_ASSERT (R450): An asserted source is latched, raises the reach, counts a failed start and holds blocks in
  reset. -/
  | resetSourceAssert
  /-- RESET_RELEASE_START (R450): With all sources released, the cause is recorded and release sequencing starts at the
  latched reach. -/
  | resetReleaseStart
  /-- BRINGUP_FIRMWARE_READY (R461): The firmware slot is verified and running, FW_READY is set, or host-boot wait begins. -/
  | bringupFirmwareReady
  deriving DecidableEq, Repr

end Sys2Proof
end

