-- ==== Sys2Proof/Decode.lean ====
section
/-! DEFINITION. Words of the command table. -/

namespace Sys2Proof

/-- The command that a word spells by the table's bits. The device decodes no instruction words: no row of the table gives bits
(DESIGN CHOICE, log entry 1), so no word spells a command. -/
def decodeTableWord (_nbits _w : Nat) : Option Instr := none

end Sys2Proof
end

