-- ==== Sys2Proof/Config.lean ====
section
/-! DEFINITION. The free values: what the spec leaves open and each device decides. They are opaque constants with no
body, so no proof can see what they are. Each is named in a log entry. -/

namespace Sys2Proof.Config

/-- The on-die random source, draw by draw (R101; DESIGN CHOICE, log entry 11). -/
opaque random : Nat → Nat

/-- The fingerprint held in the boot ROM for Lenmas images and firmware packages, as a number (R187, R461; UNVERIFIED, log entry 12). -/
opaque bootRomFingerprint : Nat

/-- What a byte of device memory reads as before anything has written it (DESIGN CHOICE, log entry 10). -/
opaque blankWord : Nat → Word

/-- Values the spec leaves unstated for one occurrence: occurrence number, then an index (DESIGN CHOICE, log entry 13). -/
opaque freeWord : Nat → Nat → Word

/-- Where each capability of the function lies in configuration space: Power Management, MSI-X, PCI Express, Advanced Error Reporting,
Device Serial Number (R73; DESIGN CHOICE, log entry 93). -/
opaque capability : Nat → Nat

/-- The bits of configuration space that neither the spec nor the PCI Express Base Specification fixes, by address (R73; DESIGN
CHOICE, log entry 93). -/
opaque configBits : Nat → Word

/-- The value the polyphase resampler of a source channel gives, before clipping, for a STEP other than 0 and a segment's samples at an
output sample (R289; DESIGN CHOICE, log entry 34). -/
opaque resampled : Nat → List Int → Nat → Int

/-- The phase of a front-end die's digitizer sampling edges, which recur every 16,000 timing units (R326; DESIGN CHOICE, log entry 37). -/
opaque samplingPhase : Nat → Nat

end Sys2Proof.Config
end

