-- ==== Sys2Proof/Machine/Regs.lean ====
section
/-! DEFINITION. The registers of BAR0: the address formula of every register type (R468 to R470), the place of
every field, its access code (R11), its reset value and the reach that restores it (R14). The tables are those of the
home chapters; a field whose Reset entry is a dash starts at 0 (DESIGN CHOICE, log entry 8). -/

namespace Sys2Proof.Machine

/-- A field of a register: its lowest bit and its width. -/
structure Fld where
  lsb : Nat
  width : Nat
  deriving DecidableEq, Repr

/-- The access codes of R11. -/
inductive Access where
  | rw | ro | w1c | w1s | wo | sb | rc
  deriving DecidableEq, Repr

/-- How a field's reset value is given: a constant, the instance number (VECTOR of HL_RING_CFG, PHYS of a
tile or a lane engine), the section number of a time-interval channel, whether a clock domain has a monitor, the level code of
PIN_LEVEL by DAC number, or the default limits of TH_LIMIT by sensor. -/
inductive ResetVal where
  | k (n : Nat) | index | indexMod8 | monitored | level | limit | throttle
  deriving DecidableEq, Repr

/-- One field row of a register table: place, access code, reset value and reach. -/
structure FieldRow where
  fld : Fld
  acc : Access
  rst : ResetVal
  reach : Nat
  deriving DecidableEq, Repr

/-- One register type: its name, its base address, its (stride, count) pairs and its fields. -/
structure RegRow where
  name : String
  base : Nat
  dims : List (Nat × Nat)
  fields : List FieldRow
  deriving DecidableEq, Repr

/-! ## Addresses -/

def A.ID_DEVICE : Nat := 0x00000000
def A.ID_STRAP : Nat := 0x00000200
def A.IL_PROFILE : Nat := 0x00000210
def A.IL_LAST : Nat := 0x00000214
def A.IL_LAST_UNIT : Nat := 0x00000218
def A.HL_CTRL : Nat := 0x00010000
def A.HL_STATUS : Nat := 0x00010004
def A.HL_WIN_DISCARD : Nat := 0x00010008
def A.HL_RING_SQ_LO (i : Nat) : Nat := 0x00010100 + 0x40 * i
def A.HL_RING_SQ_HI (i : Nat) : Nat := 0x00010104 + 0x40 * i
def A.HL_RING_CQ_LO (i : Nat) : Nat := 0x00010108 + 0x40 * i
def A.HL_RING_CQ_HI (i : Nat) : Nat := 0x0001010C + 0x40 * i
def A.HL_RING_CFG (i : Nat) : Nat := 0x00010110 + 0x40 * i
def A.HL_RING_STATUS (i : Nat) : Nat := 0x00010114 + 0x40 * i
def A.HL_RING_LAST (i : Nat) : Nat := 0x00010118 + 0x40 * i
def A.HL_RING_SEC (i : Nat) : Nat := 0x0001011C + 0x40 * i
def A.MSIX_ADDR_LO (i : Nat) : Nat := 0x00018000 + 0x10 * i
def A.MSIX_ADDR_HI (i : Nat) : Nat := 0x00018004 + 0x10 * i
def A.MSIX_DATA (i : Nat) : Nat := 0x00018008 + 0x10 * i
def A.MSIX_CTRL (i : Nat) : Nat := 0x0001800C + 0x10 * i
def A.MSIX_PBA (i : Nat) : Nat := 0x00019000 + 0x4 * i
def A.RST_STATUS : Nat := 0x00020000
def A.RST_REACH : Nat := 0x00020004
def A.RST_CAUSE (i : Nat) : Nat := 0x00020010 + 0x4 * i
def A.RST_ISO_CFG : Nat := 0x00020020
def A.RST_ISO_LAST : Nat := 0x00020024
def A.RST_ISO_UNIT : Nat := 0x00020028
def A.RST_HIST_HEAD : Nat := 0x00020030
def A.WD_CTRL : Nat := 0x00020040
def A.WD_KICK : Nat := 0x00020044
def A.SVC_STATUS : Nat := 0x00020050
def A.SVC_RETIRED (i : Nat) : Nat := 0x00020060 + 0x4 * i
def A.FW_SLOT : Nat := 0x00020070
def A.RST_HIST (i : Nat) (j : Nat) : Nat := 0x00020100 + 0x10 * i + 0x4 * j
def A.AG_BACKUP (i : Nat) : Nat := 0x00020400 + 0x4 * i
def A.AG_MEM (i : Nat) : Nat := 0x00020800 + 0x4 * i
def A.CLK_STATUS : Nat := 0x00030000
def A.CLK_HOLD : Nat := 0x00030004
def A.CLK_SPI : Nat := 0x00030008
def A.CLK_MON (i : Nat) : Nat := 0x00030100 + 0x4 * i
def A.GN_STATUS : Nat := 0x00030800
def A.GN_NOW_LO : Nat := 0x00030804
def A.GN_NOW_HI : Nat := 0x00030808
def A.GN_PHASE : Nat := 0x0003080C
def A.GN_STEP_LO : Nat := 0x00030810
def A.GN_STEP_HI : Nat := 0x00030814
def A.XR_STATUS : Nat := 0x00030820
def A.XR_OFFSET : Nat := 0x00030824
def A.XR_LOOP : Nat := 0x00030828
def A.XR_CTRL : Nat := 0x0003082C
def A.XR_SEG (i : Nat) : Nat := 0x00030900 + 0x4 * i
def A.XR_BYP (i : Nat) : Nat := 0x00030980 + 0x4 * i
def A.PW_BUDGET : Nat := 0x00040000
def A.PW_GRANTED : Nat := 0x00040004
def A.PW_BASE : Nat := 0x00040008
def A.PW_STATUS : Nat := 0x0004000C
def A.PW_WAIT_HEAD : Nat := 0x00040010
def A.PW_REFUSED : Nat := 0x00040014
def A.PW_BLOCK (i : Nat) : Nat := 0x00040100 + 0x4 * i
def A.TH_TEMP (i : Nat) : Nat := 0x00040800 + 0x4 * i
def A.TH_LIMIT (i : Nat) : Nat := 0x00040820 + 0x4 * i
def A.PR_EN (i : Nat) (j : Nat) : Nat := 0x00050000 + 0x20 * i + 0x4 * j
def A.PR_CCFG (i : Nat) : Nat := 0x00052000 + 0x4 * i
def A.PR_CSTAT (i : Nat) : Nat := 0x00052400 + 0x4 * i
def A.PR_LTGT_LO (i : Nat) : Nat := 0x00052800 + 0x8 * i
def A.PR_LTGT_HI (i : Nat) : Nat := 0x00052804 + 0x8 * i
def A.PR_PSTAT (i : Nat) : Nat := 0x00053000 + 0x4 * i
def A.PR_SWFIRE : Nat := 0x00053400
def A.PR_HOST_PEND : Nat := 0x00053410
def A.PR_HOST_EN : Nat := 0x00053414
def A.PR_HOST_STAMP_LO (i : Nat) : Nat := 0x00053500 + 0x8 * i
def A.PR_HOST_STAMP_HI (i : Nat) : Nat := 0x00053504 + 0x8 * i
def A.PR_TIO (i : Nat) : Nat := 0x00053600 + 0x4 * i
def A.PR_DIN_OVR_LO (i : Nat) : Nat := 0x00053700 + 0x10 * i
def A.PR_DIN_OVR_HI (i : Nat) : Nat := 0x00053704 + 0x10 * i
def A.PR_DIN_COAL (i : Nat) : Nat := 0x00053708 + 0x10 * i
def A.LENS_STATUS : Nat := 0x00060000
def A.LENS_CFG : Nat := 0x00060004
def A.LENS_ACKSEQ : Nat := 0x00060008
def A.LENS_NEXT : Nat := 0x0006000C
def A.LENS_LOST : Nat := 0x00060010
def A.LENS_REC (i : Nat) (j : Nat) : Nat := 0x00061000 + 0x40 * i + 0x4 * j
def A.PL_STATUS : Nat := 0x00080000
def A.PL_LEDGER : Nat := 0x00080004
def A.PL_HBM_ECC : Nat := 0x00080010
def A.PL_HBM_UE_ADDR : Nat := 0x00080014
def A.PL_LM_ECC : Nat := 0x00080018
def A.PL_WIN (i : Nat) : Nat := 0x00080100 + 0x8 * i
def A.PL_WIN_HANDLE (i : Nat) : Nat := 0x00080104 + 0x8 * i
def A.PL_TILE_PF (i : Nat) : Nat := 0x00080200 + 0x4 * i
def A.PL_STARVE (i : Nat) : Nat := 0x00080400 + 0x20 * i
def A.PL_STARVE_CYC_LO (i : Nat) : Nat := 0x00080404 + 0x20 * i
def A.PL_STARVE_CYC_HI (i : Nat) : Nat := 0x00080408 + 0x20 * i
def A.PL_STARVE_STAMP_LO (i : Nat) : Nat := 0x0008040C + 0x20 * i
def A.PL_STARVE_STAMP_HI (i : Nat) : Nat := 0x00080410 + 0x20 * i
def A.PL_STARVE_PAD (i : Nat) : Nat := 0x00080414 + 0x20 * i
def A.SEQ_TILE_STATUS (i : Nat) : Nat := 0x00100000 + 0x10000 * i
def A.TSET_PERIOD_LO (i : Nat) (j : Nat) : Nat := 0x00108000 + 0x10000 * i + 0x8 * j
def A.TSET_PERIOD_HI (i : Nat) (j : Nat) : Nat := 0x00108004 + 0x10000 * i + 0x8 * j
def A.LE_MASKSET (i : Nat) (j : Nat) : Nat := 0x00109000 + 0x10000 * i + 0x4 * j
def A.FF_STATUS (i : Nat) : Nat := 0x00109040 + 0x10000 * i
def A.FF_OVER (i : Nat) : Nat := 0x00109044 + 0x10000 * i
def A.FAIL_PINS (i : Nat) : Nat := 0x00109048 + 0x10000 * i
def A.SEQ_SITE_CFG (i : Nat) : Nat := 0x00300000 + 0x100 * i
def A.SEQ_SITE_STATE (i : Nat) : Nat := 0x00300004 + 0x100 * i
def A.SEQ_SITE_CTRL (i : Nat) : Nat := 0x00300008 + 0x100 * i
def A.SEQ_EVT_CFG (i : Nat) : Nat := 0x0030000C + 0x100 * i
def A.SEQ_EVT (i : Nat) : Nat := 0x00300010 + 0x100 * i
def A.SEQ_JUMP (i : Nat) : Nat := 0x00300014 + 0x100 * i
def A.SEQ_IRQ (i : Nat) : Nat := 0x00300018 + 0x100 * i
def A.SEQ_HANDLE (i : Nat) : Nat := 0x0030001C + 0x100 * i
def A.SEQ_PC (i : Nat) : Nat := 0x00300020 + 0x100 * i
def A.SEQ_DEPTH (i : Nat) : Nat := 0x00300024 + 0x100 * i
def A.SEQ_MATCH (i : Nat) : Nat := 0x00300028 + 0x100 * i
def A.SEQ_CYCLE_LO (i : Nat) : Nat := 0x00300030 + 0x100 * i
def A.SEQ_CYCLE_HI (i : Nat) : Nat := 0x00300034 + 0x100 * i
def A.SEQ_RESULT_LO (i : Nat) : Nat := 0x00300038 + 0x100 * i
def A.SEQ_RESULT_HI (i : Nat) : Nat := 0x0030003C + 0x100 * i
def A.SEQ_TESTS_LO (i : Nat) : Nat := 0x00300040 + 0x100 * i
def A.SEQ_TESTS_HI (i : Nat) : Nat := 0x00300044 + 0x100 * i
def A.SEQ_START_LO (i : Nat) : Nat := 0x00300048 + 0x100 * i
def A.SEQ_START_HI (i : Nat) : Nat := 0x0030004C + 0x100 * i
def A.SEQ_STOP_LO (i : Nat) : Nat := 0x00300050 + 0x100 * i
def A.SEQ_STOP_HI (i : Nat) : Nat := 0x00300054 + 0x100 * i
def A.UC_MCHK (i : Nat) : Nat := 0x00300060 + 0x100 * i
def A.UC_MCHK_STAMP_LO (i : Nat) : Nat := 0x00300064 + 0x100 * i
def A.UC_MCHK_STAMP_HI (i : Nat) : Nat := 0x00300068 + 0x100 * i
def A.UC_USER (i : Nat) (j : Nat) : Nat := 0x00300080 + 0x100 * i + 0x4 * j
def A.TSET_CTRL (i : Nat) : Nat := 0x00310000 + 0x4 * i
def A.TSET_DIE_ALIGN (i : Nat) : Nat := 0x00310100 + 0x4 * i
def A.LVL_STROBE (i : Nat) : Nat := 0x00320000 + 0x20 * i
def A.LVL_EVT_MASK (i : Nat) : Nat := 0x00320004 + 0x20 * i
def A.LVL_HV_CEIL (i : Nat) : Nat := 0x00320008 + 0x20 * i
def A.LVL_PARK (i : Nat) : Nat := 0x0032000C + 0x20 * i
def A.LVL_STROBE_STAT (i : Nat) : Nat := 0x00320010 + 0x20 * i
def A.LE_STATUS (i : Nat) : Nat := 0x00330000 + 0x4 * i
def A.FAIL_CFG (i : Nat) : Nat := 0x00330400 + 0x20 * i
def A.FAIL_STAT (i : Nat) : Nat := 0x00330404 + 0x20 * i
def A.FAIL_WRITTEN (i : Nat) : Nat := 0x00330408 + 0x20 * i
def A.FAIL_LOST (i : Nat) : Nat := 0x0033040C + 0x20 * i
def A.PIN_MODE (i : Nat) : Nat := 0x00400000 + 0x1000 * i
def A.PIN_STATUS (i : Nat) : Nat := 0x00400004 + 0x1000 * i
def A.PIN_DRV (i : Nat) : Nat := 0x00400008 + 0x1000 * i
def A.PIN_STATE_MAP (i : Nat) : Nat := 0x0040000C + 0x1000 * i
def A.PIN_PAIR (i : Nat) : Nat := 0x00400010 + 0x1000 * i
def A.PIN_GANG (i : Nat) : Nat := 0x00400014 + 0x1000 * i
def A.PIN_LEVEL (i : Nat) (j : Nat) : Nat := 0x00400040 + 0x1000 * i + 0x4 * j
def A.PIN_FORMAT (i : Nat) (j : Nat) : Nat := 0x00400100 + 0x1000 * i + 0x4 * j
def A.TSET_DESKEW_F (i : Nat) : Nat := 0x00400200 + 0x1000 * i
def A.TSET_DESKEW_H (i : Nat) : Nat := 0x00400204 + 0x1000 * i
def A.TSET_DESKEW_E (i : Nat) : Nat := 0x00400208 + 0x1000 * i
def A.TSET_COLLIDE (i : Nat) : Nat := 0x0040020C + 0x1000 * i
def A.TSET_COLLIDE_INFO (i : Nat) : Nat := 0x00400210 + 0x1000 * i
def A.TSET_COLLIDE_CYC_LO (i : Nat) : Nat := 0x00400214 + 0x1000 * i
def A.TSET_COLLIDE_CYC_HI (i : Nat) : Nat := 0x00400218 + 0x1000 * i
def A.CMP_CFG (i : Nat) : Nat := 0x00400240 + 0x1000 * i
def A.CMP_FAILCNT (i : Nat) : Nat := 0x00400244 + 0x1000 * i
def A.CMP_FIRST_LO (i : Nat) : Nat := 0x00400248 + 0x1000 * i
def A.CMP_FIRST_HI (i : Nat) : Nat := 0x0040024C + 0x1000 * i
def A.CMP_STAT (i : Nat) : Nat := 0x00400250 + 0x1000 * i
def A.PMU_CFG (i : Nat) : Nat := 0x00400280 + 0x1000 * i
def A.PMU_STATUS (i : Nat) : Nat := 0x00400284 + 0x1000 * i
def A.TSET_EDGE_LO (i : Nat) (j : Nat) (l : Nat) : Nat := 0x00500000 + 0x1000 * i + 0x40 * j + 0x8 * l
def A.TSET_EDGE_HI (i : Nat) (j : Nat) (l : Nat) : Nat := 0x00500004 + 0x1000 * i + 0x40 * j + 0x8 * l
def A.TU_IN_A (i : Nat) : Nat := 0x00600000 + 0x100 * i
def A.TU_IN_B (i : Nat) : Nat := 0x00600004 + 0x100 * i
def A.TU_CTRL (i : Nat) : Nat := 0x00600008 + 0x100 * i
def A.TU_WOPEN (i : Nat) : Nat := 0x0060000C + 0x100 * i
def A.TU_WCLOSE (i : Nat) : Nat := 0x00600010 + 0x100 * i
def A.TU_COUNT (i : Nat) : Nat := 0x00600014 + 0x100 * i
def A.TU_REPS (i : Nat) : Nat := 0x00600018 + 0x100 * i
def A.TU_STATUS (i : Nat) : Nat := 0x0060001C + 0x100 * i
def A.TU_EDGES_A (i : Nat) : Nat := 0x00600020 + 0x100 * i
def A.TU_EDGES_B (i : Nat) : Nat := 0x00600024 + 0x100 * i
def A.TU_LOST (i : Nat) : Nat := 0x00600028 + 0x100 * i
def A.TU_SKEW_A (i : Nat) : Nat := 0x0060002C + 0x100 * i
def A.TU_SKEW_B (i : Nat) : Nat := 0x00600030 + 0x100 * i
def A.TU_LOGCNT (i : Nat) : Nat := 0x00600034 + 0x100 * i
def A.TU_BINTEMP (i : Nat) : Nat := 0x00600038 + 0x100 * i
def A.ME_SLOT (i : Nat) : Nat := 0x00608000 + 0x20 * i
def A.ME_QUEUE (i : Nat) : Nat := 0x00608004 + 0x20 * i
def A.AQ_CFG (i : Nat) : Nat := 0x00700000 + 0x100 * i
def A.AQ_STATUS (i : Nat) : Nat := 0x00700004 + 0x100 * i
def A.AQ_LIVE (i : Nat) : Nat := 0x00700008 + 0x100 * i
def A.AQ_CLIP (i : Nat) : Nat := 0x0070000C + 0x100 * i
def A.AQ_COND_A (i : Nat) (j : Nat) : Nat := 0x00700010 + 0x100 * i + 0x8 * j
def A.AQ_COND_B (i : Nat) (j : Nat) : Nat := 0x00700014 + 0x100 * i + 0x8 * j
def A.AQ_MISSED (i : Nat) : Nat := 0x00700030 + 0x100 * i
def A.AQ_SKEW (i : Nat) : Nat := 0x00700034 + 0x100 * i
def A.AQ_PRE (i : Nat) : Nat := 0x00700038 + 0x100 * i
def A.AQ_POST (i : Nat) : Nat := 0x0070003C + 0x100 * i
def A.AQ_NREC (i : Nat) : Nat := 0x00700040 + 0x100 * i
def A.AW_CFG (i : Nat) : Nat := 0x00800000 + 0x100 * i
def A.AW_IDLE (i : Nat) : Nat := 0x00800004 + 0x100 * i
def A.AW_STATUS (i : Nat) : Nat := 0x00800008 + 0x100 * i
def A.AW_POS (i : Nat) : Nat := 0x0080000C + 0x100 * i
def A.AW_REP (i : Nat) : Nat := 0x00800010 + 0x100 * i
def A.AW_SAT (i : Nat) : Nat := 0x00800014 + 0x100 * i
def A.AW_MEM (i : Nat) : Nat := 0x00804000 + 0x10 * i
def A.WM_CFG (i : Nat) : Nat := 0x00900000 + 0x20 * i
def A.WM_TH (i : Nat) : Nat := 0x00900004 + 0x20 * i
def A.WM_SHAPE (i : Nat) : Nat := 0x00900008 + 0x20 * i
def A.WM_LIVE (i : Nat) : Nat := 0x0090000C + 0x20 * i
def A.WM_STATUS (i : Nat) : Nat := 0x00900010 + 0x20 * i
def A.WM_COUNT (i : Nat) : Nat := 0x00900014 + 0x20 * i
def A.WM_TAP (i : Nat) : Nat := 0x00900018 + 0x20 * i
def A.PG_CFG (i : Nat) : Nat := 0x00904000 + 0x100 * i
def A.PG_MASK (i : Nat) : Nat := 0x00904004 + 0x100 * i
def A.PG_PER_LO (i : Nat) : Nat := 0x00904008 + 0x100 * i
def A.PG_PER_HI (i : Nat) : Nat := 0x0090400C + 0x100 * i
def A.PG_WID_LO (i : Nat) : Nat := 0x00904010 + 0x100 * i
def A.PG_WID_HI (i : Nat) : Nat := 0x00904014 + 0x100 * i
def A.PG_DLY_LO (i : Nat) : Nat := 0x00904018 + 0x100 * i
def A.PG_DLY_HI (i : Nat) : Nat := 0x0090401C + 0x100 * i
def A.PG_COUNT (i : Nat) : Nat := 0x00904020 + 0x100 * i
def A.PG_SERVO (i : Nat) : Nat := 0x00904024 + 0x100 * i
def A.PG_STATUS (i : Nat) : Nat := 0x00904028 + 0x100 * i
def A.PG_PULSES (i : Nat) : Nat := 0x0090402C + 0x100 * i
def A.PG_TRIPS (i : Nat) : Nat := 0x00904030 + 0x100 * i
def A.PG_SKIP (i : Nat) : Nat := 0x00904034 + 0x100 * i
def A.PG_TRIPSRC (i : Nat) : Nat := 0x00904038 + 0x100 * i
def A.PG_FAULT_STAMP_LO (i : Nat) : Nat := 0x0090403C + 0x100 * i
def A.PG_FAULT_STAMP_HI (i : Nat) : Nat := 0x00904040 + 0x100 * i
def A.PG_LIST (i : Nat) (j : Nat) (l : Nat) : Nat := 0x00908000 + 0x400 * i + 0x10 * j + 0x4 * l
def A.CAL_STATUS : Nat := 0x00A00000
def A.CAL_BANK_STATE (i : Nat) : Nat := 0x00A00004 + 0x8 * i
def A.CAL_BANK_SEQ (i : Nat) : Nat := 0x00A00008 + 0x8 * i
def A.CAL_EXT (i : Nat) : Nat := 0x00A00020 + 0x4 * i
def A.CAL_CLIP (i : Nat) : Nat := 0x00A00030 + 0x4 * i
def A.CAL_UNIT_STATE (i : Nat) : Nat := 0x00A01000 + 0x4 * i
def A.UC_REGION (i : Nat) : Nat := 0x00B00000 + 0x10 * i
def A.UC_REGION_VER (i : Nat) : Nat := 0x00B00004 + 0x10 * i
def A.UC_REGION_KEY (i : Nat) : Nat := 0x00B00008 + 0x10 * i
def A.UC_SIGNER (i : Nat) : Nat := 0x00B00040 + 0x4 * i

/-! ## Fields -/

def F.ID_DEVICE.STEPPING : Fld := ⟨24, 8⟩
def F.ID_DEVICE.GRADE : Fld := ⟨16, 8⟩
def F.ID_DEVICE.PART : Fld := ⟨0, 16⟩
def F.ID_STRAP.OVEN_WIRED : Fld := ⟨13, 1⟩
def F.ID_STRAP.OVEN_LEVEL : Fld := ⟨12, 1⟩
def F.ID_STRAP.SMBA : Fld := ⟨10, 2⟩
def F.ID_STRAP.RING_HINT : Fld := ⟨5, 5⟩
def F.ID_STRAP.REF_SEL : Fld := ⟨4, 1⟩
def F.ID_STRAP.BOOT : Fld := ⟨0, 2⟩
def F.IL_PROFILE.RECORD_VALID : Fld := ⟨2, 1⟩
def F.IL_PROFILE.SWITCHING : Fld := ⟨1, 1⟩
def F.IL_PROFILE.MIRROR : Fld := ⟨0, 1⟩
def F.IL_LAST.OPCODE : Fld := ⟨16, 16⟩
def F.IL_LAST.STATUS : Fld := ⟨0, 16⟩
def F.IL_LAST_UNIT.UNIT : Fld := ⟨0, 32⟩
def F.HL_CTRL.WINDOW_RW : Fld := ⟨0, 1⟩
def F.HL_STATUS.LINK_SPEED : Fld := ⟨16, 4⟩
def F.HL_STATUS.LINK_WIDTH : Fld := ⟨8, 6⟩
def F.HL_STATUS.BOOT_WAIT : Fld := ⟨4, 1⟩
def F.HL_STATUS.BOOTSTRAP : Fld := ⟨3, 1⟩
def F.HL_STATUS.UMBRA : Fld := ⟨2, 1⟩
def F.HL_STATUS.FW_READY : Fld := ⟨1, 1⟩
def F.HL_STATUS.D3HOT : Fld := ⟨0, 1⟩
def F.HL_WIN_DISCARD.COUNT : Fld := ⟨0, 32⟩
def F.HL_RING_SQ_LO.ADDR : Fld := ⟨12, 20⟩
def F.HL_RING_SQ_HI.ADDR : Fld := ⟨0, 32⟩
def F.HL_RING_CQ_LO.ADDR : Fld := ⟨12, 20⟩
def F.HL_RING_CQ_HI.ADDR : Fld := ⟨0, 32⟩
def F.HL_RING_CFG.IRQ_TIME : Fld := ⟨22, 10⟩
def F.HL_RING_CFG.IRQ_COUNT : Fld := ⟨14, 8⟩
def F.HL_RING_CFG.VECTOR : Fld := ⟨8, 6⟩
def F.HL_RING_CFG.PRIO : Fld := ⟨5, 1⟩
def F.HL_RING_CFG.SIZE_LOG2 : Fld := ⟨1, 4⟩
def F.HL_RING_CFG.ENABLE : Fld := ⟨0, 1⟩
def F.HL_RING_STATUS.DONE_VALID : Fld := ⟨29, 1⟩
def F.HL_RING_STATUS.PHASE : Fld := ⟨28, 1⟩
def F.HL_RING_STATUS.CQ_TAIL : Fld := ⟨16, 12⟩
def F.HL_RING_STATUS.SQ_HEAD : Fld := ⟨4, 12⟩
def F.HL_RING_STATUS.STOPPED : Fld := ⟨3, 1⟩
def F.HL_RING_STATUS.ERR : Fld := ⟨0, 3⟩
def F.HL_RING_LAST.TAG : Fld := ⟨16, 16⟩
def F.HL_RING_LAST.STATUS : Fld := ⟨0, 16⟩
def F.HL_RING_SEC.CLOSED_FAIL : Fld := ⟨7, 1⟩
def F.HL_RING_SEC.FAIL_COUNT : Fld := ⟨4, 3⟩
def F.HL_RING_SEC.SLOT : Fld := ⟨1, 2⟩
def F.HL_RING_SEC.OPEN : Fld := ⟨0, 1⟩
def F.MSIX_ADDR_LO.ADDR : Fld := ⟨0, 32⟩
def F.MSIX_ADDR_HI.ADDR : Fld := ⟨0, 32⟩
def F.MSIX_DATA.DATA : Fld := ⟨0, 32⟩
def F.MSIX_CTRL.MASK : Fld := ⟨0, 1⟩
def F.MSIX_PBA.PEND : Fld := ⟨0, 32⟩
def F.RST_STATUS.BRINGUP : Fld := ⟨31, 1⟩
def F.RST_STATUS.UMBRA : Fld := ⟨30, 1⟩
def F.RST_STATUS.WAIT_CLK : Fld := ⟨29, 1⟩
def F.RST_STATUS.FAILS : Fld := ⟨24, 4⟩
def F.RST_STATUS.ASSERTED : Fld := ⟨16, 8⟩
def F.RST_STATUS.LATCHED : Fld := ⟨8, 8⟩
def F.RST_STATUS.REACH : Fld := ⟨0, 3⟩
def F.RST_REACH.ROW : Fld := ⟨24, 3⟩
def F.RST_REACH.TABLE : Fld := ⟨0, 24⟩
def F.RST_CAUSE.WORD : Fld := ⟨0, 32⟩
def F.RST_ISO_CFG.TIMEOUT : Fld := ⟨0, 16⟩
def F.RST_ISO_LAST.FORCED : Fld := ⟨31, 1⟩
def F.RST_ISO_LAST.KIND : Fld := ⟨16, 5⟩
def F.RST_ISO_LAST.COUNT : Fld := ⟨0, 16⟩
def F.RST_ISO_UNIT.UNIT : Fld := ⟨0, 32⟩
def F.RST_HIST_HEAD.COUNT : Fld := ⟨4, 5⟩
def F.RST_HIST_HEAD.NEWEST : Fld := ⟨0, 4⟩
def F.WD_CTRL.ENABLE : Fld := ⟨31, 1⟩
def F.WD_CTRL.TIMEOUT_MS : Fld := ⟨0, 16⟩
def F.WD_KICK.KEY : Fld := ⟨0, 8⟩
def F.SVC_STATUS.RECORD_VALID : Fld := ⟨31, 1⟩
def F.SVC_STATUS.TILE_SPARE : Fld := ⟨30, 1⟩
def F.SVC_STATUS.LE_SPARES : Fld := ⟨16, 5⟩
def F.SVC_STATUS.TU_SPARES : Fld := ⟨12, 4⟩
def F.SVC_STATUS.RETIRED : Fld := ⟨0, 9⟩
def F.SVC_RETIRED.PINS : Fld := ⟨0, 32⟩
def F.FW_SLOT.FALLBACK : Fld := ⟨2, 1⟩
def F.FW_SLOT.SLOT_USED : Fld := ⟨0, 2⟩
def F.RST_HIST.WORD : Fld := ⟨0, 32⟩
def F.AG_BACKUP.VALUE : Fld := ⟨0, 32⟩
def F.AG_MEM.VALUE : Fld := ⟨0, 32⟩
def F.CLK_STATUS.FE_LOCK : Fld := ⟨8, 4⟩
def F.CLK_STATUS.SYS_LOCK : Fld := ⟨5, 1⟩
def F.CLK_STATUS.MTC_LOCK : Fld := ⟨4, 1⟩
def F.CLK_STATUS.REF_PRESENT : Fld := ⟨1, 1⟩
def F.CLK_STATUS.REF_100 : Fld := ⟨0, 1⟩
def F.CLK_HOLD.HOLD_MS : Fld := ⟨0, 16⟩
def F.CLK_SPI.DIV : Fld := ⟨0, 4⟩
def F.CLK_MON.FAIL : Fld := ⟨31, 1⟩
def F.CLK_MON.ACTIVE : Fld := ⟨30, 1⟩
def F.CLK_MON.MONITORED : Fld := ⟨29, 1⟩
def F.CLK_MON.FAILCNT : Fld := ⟨0, 16⟩
def F.GN_STATUS.WARM_LEFT : Fld := ⟨13, 10⟩
def F.GN_STATUS.JOIN_WAIT : Fld := ⟨12, 1⟩
def F.GN_STATUS.DELAY_MISMATCH : Fld := ⟨11, 1⟩
def F.GN_STATUS.ORDER_ERR : Fld := ⟨10, 1⟩
def F.GN_STATUS.RING_DUP : Fld := ⟨9, 1⟩
def F.GN_STATUS.MASTER : Fld := ⟨8, 1⟩
def F.GN_STATUS.SYNC_VALID : Fld := ⟨7, 1⟩
def F.GN_STATUS.RING_TIME : Fld := ⟨6, 1⟩
def F.GN_STATUS.HOLDOVER : Fld := ⟨5, 1⟩
def F.GN_STATUS.LOCK : Fld := ⟨4, 1⟩
def F.GN_STATUS.WARMING : Fld := ⟨3, 1⟩
def F.GN_NOW_LO.COUNT : Fld := ⟨0, 32⟩
def F.GN_NOW_HI.COUNT : Fld := ⟨0, 32⟩
def F.GN_PHASE.PHASE : Fld := ⟨0, 32⟩
def F.GN_STEP_LO.STAMP : Fld := ⟨0, 32⟩
def F.GN_STEP_HI.STAMP : Fld := ⟨0, 32⟩
def F.XR_STATUS.STEPS : Fld := ⟨26, 6⟩
def F.XR_STATUS.MASTER_POS : Fld := ⟨21, 5⟩
def F.XR_STATUS.UP_POS : Fld := ⟨16, 5⟩
def F.XR_STATUS.OWN_POS : Fld := ⟨11, 5⟩
def F.XR_STATUS.MEMBERS : Fld := ⟨5, 6⟩
def F.XR_OFFSET.VALUE : Fld := ⟨0, 32⟩
def F.XR_LOOP.VALUE : Fld := ⟨0, 32⟩
def F.XR_CTRL.AUTO_JOIN : Fld := ⟨2, 1⟩
def F.XR_CTRL.STATE : Fld := ⟨0, 2⟩
def F.XR_SEG.DELAY : Fld := ⟨0, 24⟩
def F.XR_BYP.DELAY : Fld := ⟨0, 24⟩
def F.PW_BUDGET.MW : Fld := ⟨0, 20⟩
def F.PW_GRANTED.MW : Fld := ⟨0, 20⟩
def F.PW_BASE.MW : Fld := ⟨0, 20⟩
def F.PW_STATUS.WAITING : Fld := ⟨8, 5⟩
def F.PW_STATUS.DERATED : Fld := ⟨1, 1⟩
def F.PW_STATUS.BUDGET_WAIT : Fld := ⟨0, 1⟩
def F.PW_WAIT_HEAD.UNIT : Fld := ⟨0, 32⟩
def F.PW_REFUSED.COUNT : Fld := ⟨0, 32⟩
def F.PW_BLOCK.FLOOR : Fld := ⟨8, 3⟩
def F.PW_BLOCK.LIMIT : Fld := ⟨4, 3⟩
def F.PW_BLOCK.STATE : Fld := ⟨0, 3⟩
def F.TH_TEMP.THROTTLING : Fld := ⟨31, 1⟩
def F.TH_TEMP.CRIT : Fld := ⟨30, 1⟩
def F.TH_TEMP.TRIPPED : Fld := ⟨29, 1⟩
def F.TH_TEMP.TEMP : Fld := ⟨0, 16⟩
def F.TH_LIMIT.CRIT : Fld := ⟨16, 16⟩
def F.TH_LIMIT.THROTTLE : Fld := ⟨0, 16⟩
def F.PR_EN.EN : Fld := ⟨0, 32⟩
def F.PR_CCFG.HELD : Fld := ⟨8, 1⟩
def F.PR_CCFG.KMASK : Fld := ⟨0, 4⟩
def F.PR_CSTAT.OVERRUN : Fld := ⟨31, 1⟩
def F.PR_CSTAT.COALESCE : Fld := ⟨0, 16⟩
def F.PR_LTGT_LO.TARGET : Fld := ⟨0, 32⟩
def F.PR_LTGT_HI.TARGET : Fld := ⟨0, 25⟩
def F.PR_PSTAT.LOOP : Fld := ⟨31, 1⟩
def F.PR_PSTAT.LASTGEN : Fld := ⟨28, 3⟩
def F.PR_PSTAT.DROPPED : Fld := ⟨16, 12⟩
def F.PR_PSTAT.FIRED : Fld := ⟨0, 16⟩
def F.PR_SWFIRE.FIRE : Fld := ⟨0, 8⟩
def F.PR_HOST_PEND.PEND : Fld := ⟨0, 32⟩
def F.PR_HOST_EN.EN : Fld := ⟨0, 32⟩
def F.PR_HOST_STAMP_LO.STAMP : Fld := ⟨0, 32⟩
def F.PR_HOST_STAMP_HI.STAMP : Fld := ⟨0, 32⟩
def F.PR_TIO.EDGE : Fld := ⟨16, 2⟩
def F.PR_TIO.WIDTH : Fld := ⟨8, 8⟩
def F.PR_TIO.OUT : Fld := ⟨0, 1⟩
def F.PR_DIN_OVR_LO.VALUE : Fld := ⟨0, 32⟩
def F.PR_DIN_OVR_HI.VALUE : Fld := ⟨0, 25⟩
def F.PR_DIN_COAL.VALUE : Fld := ⟨0, 32⟩
def F.LENS_STATUS.OPEN : Fld := ⟨16, 8⟩
def F.LENS_STATUS.HELD : Fld := ⟨8, 8⟩
def F.LENS_STATUS.FULL : Fld := ⟨7, 1⟩
def F.LENS_STATUS.FAULT_N : Fld := ⟨6, 1⟩
def F.LENS_CFG.FN_MASK : Fld := ⟨1, 31⟩
def F.LENS_CFG.REMOTE_EN : Fld := ⟨0, 1⟩
def F.LENS_ACKSEQ.SEQ : Fld := ⟨0, 16⟩
def F.LENS_NEXT.SEQ : Fld := ⟨0, 16⟩
def F.LENS_LOST.COUNT : Fld := ⟨0, 32⟩
def F.LENS_REC.WORD : Fld := ⟨0, 32⟩
def F.PL_STATUS.SCRUB : Fld := ⟨3, 1⟩
def F.PL_STATUS.THROTTLE : Fld := ⟨2, 1⟩
def F.PL_STATUS.REFRESH_2X : Fld := ⟨1, 1⟩
def F.PL_STATUS.HBM_READY : Fld := ⟨0, 1⟩
def F.PL_LEDGER.HELD : Fld := ⟨0, 20⟩
def F.PL_HBM_ECC.UE : Fld := ⟨16, 16⟩
def F.PL_HBM_ECC.CE : Fld := ⟨0, 16⟩
def F.PL_HBM_UE_ADDR.ADDR : Fld := ⟨0, 32⟩
def F.PL_LM_ECC.UE : Fld := ⟨16, 16⟩
def F.PL_LM_ECC.CE : Fld := ⟨0, 16⟩
def F.PL_WIN.OFS16 : Fld := ⟨0, 8⟩
def F.PL_WIN_HANDLE.HANDLE : Fld := ⟨0, 32⟩
def F.PL_TILE_PF.LOW_COUNT : Fld := ⟨16, 16⟩
def F.PL_TILE_PF.FILL : Fld := ⟨0, 16⟩
def F.PL_STARVE.OVERSUB : Fld := ⟨2, 1⟩
def F.PL_STARVE.PADDED : Fld := ⟨1, 1⟩
def F.PL_STARVE.UNDERRUN : Fld := ⟨0, 1⟩
def F.PL_STARVE_CYC_LO.VALUE : Fld := ⟨0, 32⟩
def F.PL_STARVE_CYC_HI.VALUE : Fld := ⟨0, 32⟩
def F.PL_STARVE_STAMP_LO.VALUE : Fld := ⟨0, 32⟩
def F.PL_STARVE_STAMP_HI.VALUE : Fld := ⟨0, 32⟩
def F.PL_STARVE_PAD.VALUE : Fld := ⟨0, 32⟩
def F.SEQ_TILE_STATUS.PHYS : Fld := ⟨8, 5⟩
def F.SEQ_TILE_STATUS.IN_SITE : Fld := ⟨7, 1⟩
def F.SEQ_TILE_STATUS.LEAD : Fld := ⟨6, 1⟩
def F.SEQ_TILE_STATUS.SITE : Fld := ⟨0, 4⟩
def F.TSET_PERIOD_LO.PER_LO : Fld := ⟨0, 32⟩
def F.TSET_PERIOD_HI.PER_HI : Fld := ⟨0, 4⟩
def F.LE_MASKSET.PINS : Fld := ⟨0, 16⟩
def F.FF_STATUS.FULL : Fld := ⟨31, 1⟩
def F.FF_STATUS.COUNT : Fld := ⟨0, 17⟩
def F.FF_OVER.COUNT : Fld := ⟨0, 32⟩
def F.FAIL_PINS.PINS : Fld := ⟨0, 16⟩
def F.SEQ_SITE_CFG.FORMED : Fld := ⟨8, 1⟩
def F.SEQ_SITE_CFG.FIRST : Fld := ⟨4, 4⟩
def F.SEQ_SITE_CFG.WIDTH : Fld := ⟨0, 4⟩
def F.SEQ_SITE_STATE.CAUSE : Fld := ⟨20, 4⟩
def F.SEQ_SITE_STATE.VALID : Fld := ⟨15, 1⟩
def F.SEQ_SITE_STATE.ARMED : Fld := ⟨14, 1⟩
def F.SEQ_SITE_STATE.JUMP_PENDING : Fld := ⟨13, 1⟩
def F.SEQ_SITE_STATE.JUMP_DEFERRED : Fld := ⟨12, 1⟩
def F.SEQ_SITE_STATE.MATCH_TIMEOUT : Fld := ⟨11, 1⟩
def F.SEQ_SITE_STATE.WAIT_TIMEOUT : Fld := ⟨10, 1⟩
def F.SEQ_SITE_STATE.STOP_ON_FAIL : Fld := ⟨9, 1⟩
def F.SEQ_SITE_STATE.FAILED : Fld := ⟨8, 1⟩
def F.SEQ_SITE_STATE.STATE : Fld := ⟨0, 3⟩
def F.SEQ_SITE_CTRL.STEP : Fld := ⟨3, 1⟩
def F.SEQ_SITE_CTRL.HALT : Fld := ⟨2, 1⟩
def F.SEQ_SITE_CTRL.RESUME : Fld := ⟨1, 1⟩
def F.SEQ_SITE_CTRL.PAUSE : Fld := ⟨0, 1⟩
def F.SEQ_EVT_CFG.STATUS_SEL : Fld := ⟨8, 5⟩
def F.SEQ_EVT_CFG.ACT : Fld := ⟨0, 5⟩
def F.SEQ_EVT.EV_SET : Fld := ⟨1, 1⟩
def F.SEQ_EVT.EV_FLAG : Fld := ⟨0, 1⟩
def F.SEQ_JUMP.REQ : Fld := ⟨31, 1⟩
def F.SEQ_JUMP.SEG : Fld := ⟨0, 12⟩
def F.SEQ_IRQ.EN : Fld := ⟨16, 5⟩
def F.SEQ_IRQ.PEND : Fld := ⟨0, 5⟩
def F.SEQ_HANDLE.HANDLE : Fld := ⟨0, 32⟩
def F.SEQ_PC.SEG : Fld := ⟨20, 12⟩
def F.SEQ_PC.OFS : Fld := ⟨0, 20⟩
def F.SEQ_DEPTH.CALL_DEPTH : Fld := ⟨8, 5⟩
def F.SEQ_DEPTH.LOOP_DEPTH : Fld := ⟨0, 4⟩
def F.SEQ_MATCH.ITER : Fld := ⟨0, 32⟩
def F.SEQ_CYCLE_LO.VALUE : Fld := ⟨0, 32⟩
def F.SEQ_CYCLE_HI.VALUE : Fld := ⟨0, 32⟩
def F.SEQ_RESULT_LO.VALUE : Fld := ⟨0, 32⟩
def F.SEQ_RESULT_HI.VALUE : Fld := ⟨0, 32⟩
def F.SEQ_TESTS_LO.VALUE : Fld := ⟨0, 32⟩
def F.SEQ_TESTS_HI.VALUE : Fld := ⟨0, 32⟩
def F.SEQ_START_LO.VALUE : Fld := ⟨0, 32⟩
def F.SEQ_START_HI.VALUE : Fld := ⟨0, 32⟩
def F.SEQ_STOP_LO.VALUE : Fld := ⟨0, 32⟩
def F.SEQ_STOP_HI.VALUE : Fld := ⟨0, 32⟩
def F.UC_MCHK.CODE : Fld := ⟨26, 4⟩
def F.UC_MCHK.PHYS : Fld := ⟨21, 5⟩
def F.UC_MCHK.OPCODE : Fld := ⟨13, 8⟩
def F.UC_MCHK.UADDR : Fld := ⟨0, 13⟩
def F.UC_MCHK_STAMP_LO.STAMP : Fld := ⟨0, 32⟩
def F.UC_MCHK_STAMP_HI.STAMP : Fld := ⟨0, 32⟩
def F.UC_USER.VALUE : Fld := ⟨0, 32⟩
def F.TSET_CTRL.PENDING : Fld := ⟨1, 1⟩
def F.TSET_CTRL.APPLY : Fld := ⟨0, 1⟩
def F.TSET_DIE_ALIGN.ALIGN : Fld := ⟨0, 16⟩
def F.LVL_STROBE.GO : Fld := ⟨0, 16⟩
def F.LVL_EVT_MASK.MASK : Fld := ⟨0, 16⟩
def F.LVL_HV_CEIL.CEIL : Fld := ⟨0, 16⟩
def F.LVL_PARK.CODE : Fld := ⟨0, 16⟩
def F.LVL_STROBE_STAT.HELD : Fld := ⟨16, 16⟩
def F.LVL_STROBE_STAT.PEND : Fld := ⟨0, 16⟩
def F.LE_STATUS.PHYS : Fld := ⟨8, 8⟩
def F.LE_STATUS.FAULT : Fld := ⟨1, 1⟩
def F.LE_STATUS.SPARE : Fld := ⟨0, 1⟩
def F.FAIL_CFG.FL_MODE : Fld := ⟨4, 2⟩
def F.FAIL_CFG.FULL_POLICY : Fld := ⟨3, 1⟩
def F.FAIL_STAT.FULL : Fld := ⟨31, 1⟩
def F.FAIL_STAT.WRAPPED : Fld := ⟨30, 1⟩
def F.FAIL_STAT.GAP_PENDING : Fld := ⟨29, 1⟩
def F.FAIL_STAT.NO_LOG : Fld := ⟨28, 1⟩
def F.FAIL_STAT.NEXT : Fld := ⟨0, 28⟩
def F.FAIL_WRITTEN.COUNT : Fld := ⟨0, 32⟩
def F.FAIL_LOST.COUNT : Fld := ⟨0, 32⟩
def F.PIN_MODE.PG_SEL : Fld := ⟨4, 3⟩
def F.PIN_MODE.MODE : Fld := ⟨0, 3⟩
def F.PIN_STATUS.LOADED : Fld := ⟨16, 10⟩
def F.PIN_STATUS.OVERCURRENT : Fld := ⟨7, 1⟩
def F.PIN_STATUS.LIMITING : Fld := ⟨6, 1⟩
def F.PIN_STATUS.MODE_BUSY : Fld := ⟨5, 1⟩
def F.PIN_STATUS.DRV_CONN : Fld := ⟨4, 1⟩
def F.PIN_STATUS.DRV_EN : Fld := ⟨3, 1⟩
def F.PIN_STATUS.PARKED : Fld := ⟨2, 1⟩
def F.PIN_STATUS.GANG_MEMBER : Fld := ⟨1, 1⟩
def F.PIN_STATUS.GANG_LEADER : Fld := ⟨0, 1⟩
def F.PIN_DRV.DWELL : Fld := ⟨12, 3⟩
def F.PIN_DRV.SLEW : Fld := ⟨6, 6⟩
def F.PIN_DRV.LOAD_EN : Fld := ⟨5, 1⟩
def F.PIN_DRV.PARK : Fld := ⟨0, 2⟩
def F.PIN_STATE_MAP.MAP_F : Fld := ⟨24, 8⟩
def F.PIN_STATE_MAP.MAP_E : Fld := ⟨16, 8⟩
def F.PIN_STATE_MAP.MAP_D : Fld := ⟨8, 8⟩
def F.PIN_STATE_MAP.MAP_C : Fld := ⟨0, 8⟩
def F.PIN_PAIR.PAIR : Fld := ⟨0, 16⟩
def F.PIN_GANG.LEADER : Fld := ⟨8, 8⟩
def F.PIN_GANG.MASK : Fld := ⟨0, 8⟩
def F.PIN_LEVEL.GROUP : Fld := ⟨24, 4⟩
def F.PIN_LEVEL.CODE : Fld := ⟨0, 16⟩
def F.PIN_FORMAT.EMODE : Fld := ⟨3, 1⟩
def F.PIN_FORMAT.FMT : Fld := ⟨0, 3⟩
def F.TSET_DESKEW_F.DRV : Fld := ⟨16, 16⟩
def F.TSET_DESKEW_F.CMP : Fld := ⟨0, 16⟩
def F.TSET_DESKEW_H.DRV : Fld := ⟨16, 16⟩
def F.TSET_DESKEW_H.CMP : Fld := ⟨0, 16⟩
def F.TSET_DESKEW_E.ENA_F : Fld := ⟨16, 16⟩
def F.TSET_DESKEW_E.ENA_H : Fld := ⟨0, 16⟩
def F.TSET_COLLIDE.EDGE_RANGE : Fld := ⟨16, 16⟩
def F.TSET_COLLIDE.EDGE_COLLIDE : Fld := ⟨0, 16⟩
def F.TSET_COLLIDE_INFO.VALID : Fld := ⟨31, 1⟩
def F.TSET_COLLIDE_INFO.KIND : Fld := ⟨30, 1⟩
def F.TSET_COLLIDE_INFO.STREAM : Fld := ⟨28, 2⟩
def F.TSET_COLLIDE_INFO.EDGE : Fld := ⟨25, 3⟩
def F.TSET_COLLIDE_INFO.TSET : Fld := ⟨19, 6⟩
def F.TSET_COLLIDE_CYC_LO.CYCLE : Fld := ⟨0, 32⟩
def F.TSET_COLLIDE_CYC_HI.CYCLE : Fld := ⟨0, 32⟩
def F.CMP_CFG.CAPT_REF : Fld := ⟨2, 1⟩
def F.CMP_CFG.WIN : Fld := ⟨1, 1⟩
def F.CMP_CFG.MASK : Fld := ⟨0, 1⟩
def F.CMP_FAILCNT.COUNT : Fld := ⟨0, 32⟩
def F.CMP_FIRST_LO.CYCLE : Fld := ⟨0, 32⟩
def F.CMP_FIRST_HI.CYCLE : Fld := ⟨0, 32⟩
def F.CMP_STAT.FIRST_VALID : Fld := ⟨31, 1⟩
def F.CMP_STAT.MISSED : Fld := ⟨30, 1⟩
def F.CMP_STAT.FIRST_C1 : Fld := ⟨16, 1⟩
def F.CMP_STAT.WIN_CUT : Fld := ⟨0, 16⟩
def F.PMU_CFG.AW_SEL : Fld := ⟨12, 3⟩
def F.PMU_CFG.AWSRC : Fld := ⟨11, 1⟩
def F.PMU_CFG.SERVO : Fld := ⟨10, 1⟩
def F.PMU_CFG.SENSE : Fld := ⟨9, 1⟩
def F.PMU_CFG.MEAS : Fld := ⟨8, 1⟩
def F.PMU_CFG.FORCE : Fld := ⟨4, 2⟩
def F.PMU_CFG.RANGE : Fld := ⟨0, 3⟩
def F.PMU_STATUS.SERVO_SAT : Fld := ⟨3, 1⟩
def F.PMU_STATUS.CLAMPING : Fld := ⟨2, 1⟩
def F.PMU_STATUS.SENSE_OPEN : Fld := ⟨1, 1⟩
def F.PMU_STATUS.RANGE_BUSY : Fld := ⟨0, 1⟩
def F.TSET_EDGE_LO.OFS_LO : Fld := ⟨0, 32⟩
def F.TSET_EDGE_HI.EN : Fld := ⟨31, 1⟩
def F.TSET_EDGE_HI.OFS_HI : Fld := ⟨0, 6⟩
def F.TU_IN_A.WORD : Fld := ⟨0, 32⟩
def F.TU_IN_B.WORD : Fld := ⟨0, 32⟩
def F.TU_CTRL.WORD : Fld := ⟨0, 32⟩
def F.TU_WOPEN.WORD : Fld := ⟨0, 32⟩
def F.TU_WCLOSE.WORD : Fld := ⟨0, 32⟩
def F.TU_COUNT.WORD : Fld := ⟨0, 32⟩
def F.TU_REPS.WORD : Fld := ⟨0, 32⟩
def F.TU_STATUS.PHYS : Fld := ⟨20, 4⟩
def F.TU_STATUS.LOG_FULL : Fld := ⟨19, 1⟩
def F.TU_STATUS.SRC_LOST : Fld := ⟨18, 1⟩
def F.TU_STATUS.BIN_FAIL : Fld := ⟨17, 1⟩
def F.TU_STATUS.BIN_STALE : Fld := ⟨16, 1⟩
def F.TU_STATUS.BINCAL_BUSY : Fld := ⟨15, 1⟩
def F.TU_STATUS.STATE : Fld := ⟨0, 3⟩
def F.TU_EDGES_A.COUNT : Fld := ⟨0, 32⟩
def F.TU_EDGES_B.COUNT : Fld := ⟨0, 32⟩
def F.TU_LOST.COUNT : Fld := ⟨0, 32⟩
def F.TU_SKEW_A.SKEW : Fld := ⟨0, 24⟩
def F.TU_SKEW_B.SKEW : Fld := ⟨0, 24⟩
def F.TU_LOGCNT.COUNT : Fld := ⟨0, 32⟩
def F.TU_BINTEMP.TEMP : Fld := ⟨0, 16⟩
def F.ME_SLOT.HANDLE : Fld := ⟨0, 32⟩
def F.ME_QUEUE.RES_LOST : Fld := ⟨16, 16⟩
def F.ME_QUEUE.FILL : Fld := ⟨0, 9⟩
def F.AQ_CFG.SRC_TYPE : Fld := ⟨29, 3⟩
def F.AQ_CFG.SRC_IDX : Fld := ⟨23, 6⟩
def F.AQ_CFG.RANGE : Fld := ⟨21, 2⟩
def F.AQ_CFG.BWL : Fld := ⟨20, 1⟩
def F.AQ_CFG.DECIM : Fld := ⟨16, 4⟩
def F.AQ_STATUS.DONE_REC : Fld := ⟨11, 10⟩
def F.AQ_STATUS.CAUSE : Fld := ⟨8, 3⟩
def F.AQ_STATUS.SRC_LOST : Fld := ⟨4, 1⟩
def F.AQ_STATUS.STATE : Fld := ⟨0, 3⟩
def F.AQ_LIVE.SAMPLE : Fld := ⟨0, 16⟩
def F.AQ_CLIP.COUNT : Fld := ⟨0, 32⟩
def F.AQ_COND_A.COND : Fld := ⟨0, 32⟩
def F.AQ_COND_B.COND : Fld := ⟨0, 32⟩
def F.AQ_MISSED.COUNT : Fld := ⟨0, 32⟩
def F.AQ_SKEW.SKEW : Fld := ⟨0, 16⟩
def F.AQ_PRE.VALUE : Fld := ⟨0, 32⟩
def F.AQ_POST.VALUE : Fld := ⟨0, 32⟩
def F.AQ_NREC.VALUE : Fld := ⟨0, 32⟩
def F.AW_CFG.GROUP : Fld := ⟨8, 4⟩
def F.AW_CFG.DWELL : Fld := ⟨4, 3⟩
def F.AW_CFG.SENSE : Fld := ⟨3, 1⟩
def F.AW_CFG.ILIM : Fld := ⟨2, 1⟩
def F.AW_CFG.RANGE : Fld := ⟨1, 1⟩
def F.AW_CFG.ENABLE : Fld := ⟨0, 1⟩
def F.AW_IDLE.LIVE : Fld := ⟨16, 16⟩
def F.AW_IDLE.CODE : Fld := ⟨0, 16⟩
def F.AW_STATUS.STATE : Fld := ⟨16, 3⟩
def F.AW_STATUS.TRIG_PEND : Fld := ⟨8, 1⟩
def F.AW_STATUS.JUMP_PENDING : Fld := ⟨7, 1⟩
def F.AW_STATUS.JUMP_DEFERRED : Fld := ⟨6, 1⟩
def F.AW_STATUS.OVERCURRENT : Fld := ⟨5, 1⟩
def F.AW_STATUS.LIMITING : Fld := ⟨4, 1⟩
def F.AW_STATUS.SENSE_OPEN : Fld := ⟨3, 1⟩
def F.AW_STATUS.RANGE_BUSY : Fld := ⟨2, 1⟩
def F.AW_STATUS.LOADED : Fld := ⟨1, 1⟩
def F.AW_STATUS.DRV_CONN : Fld := ⟨0, 1⟩
def F.AW_POS.STEP : Fld := ⟨16, 12⟩
def F.AW_POS.SEG : Fld := ⟨0, 10⟩
def F.AW_REP.DONE : Fld := ⟨0, 32⟩
def F.AW_SAT.COUNT : Fld := ⟨0, 16⟩
def F.AW_MEM.FREE : Fld := ⟨0, 22⟩
def F.WM_CFG.WORD : Fld := ⟨0, 26⟩
def F.WM_TH.TH_HI : Fld := ⟨16, 12⟩
def F.WM_TH.TH_LO : Fld := ⟨0, 12⟩
def F.WM_SHAPE.ECL_LEN : Fld := ⟨16, 16⟩
def F.WM_SHAPE.HYS : Fld := ⟨10, 6⟩
def F.WM_SHAPE.SLOPE : Fld := ⟨0, 10⟩
def F.WM_LIVE.TH_HI : Fld := ⟨16, 12⟩
def F.WM_LIVE.TH_LO : Fld := ⟨0, 12⟩
def F.WM_STATUS.LOADED : Fld := ⟨6, 1⟩
def F.WM_STATUS.SERVO_SAT : Fld := ⟨5, 1⟩
def F.WM_STATUS.SRC_LOST : Fld := ⟨4, 1⟩
def F.WM_STATUS.ECLIPSED : Fld := ⟨3, 1⟩
def F.WM_STATUS.UNRESOLVED : Fld := ⟨2, 1⟩
def F.WM_STATUS.GATED : Fld := ⟨1, 1⟩
def F.WM_STATUS.OUT : Fld := ⟨0, 1⟩
def F.WM_COUNT.COUNT : Fld := ⟨0, 32⟩
def F.WM_TAP.VALID : Fld := ⟨31, 1⟩
def F.WM_TAP.MEAN : Fld := ⟨0, 12⟩
def F.PG_CFG.WORD : Fld := ⟨16, 11⟩
def F.PG_MASK.FAULT_MASK : Fld := ⟨16, 16⟩
def F.PG_MASK.TRIP_MASK : Fld := ⟨0, 16⟩
def F.PG_PER_LO.VALUE : Fld := ⟨0, 32⟩
def F.PG_PER_HI.VALUE : Fld := ⟨0, 16⟩
def F.PG_WID_LO.VALUE : Fld := ⟨0, 32⟩
def F.PG_WID_HI.VALUE : Fld := ⟨0, 16⟩
def F.PG_DLY_LO.VALUE : Fld := ⟨0, 32⟩
def F.PG_DLY_HI.VALUE : Fld := ⟨0, 16⟩
def F.PG_COUNT.WORD : Fld := ⟨0, 32⟩
def F.PG_SERVO.WORD : Fld := ⟨0, 32⟩
def F.PG_STATUS.FAULT_KIND : Fld := ⟨8, 4⟩
def F.PG_STATUS.CAUSE : Fld := ⟨4, 4⟩
def F.PG_STATUS.TRUNC : Fld := ⟨3, 1⟩
def F.PG_STATUS.STATE : Fld := ⟨0, 3⟩
def F.PG_PULSES.COUNT : Fld := ⟨0, 32⟩
def F.PG_TRIPS.COUNT : Fld := ⟨0, 32⟩
def F.PG_SKIP.COUNT : Fld := ⟨0, 32⟩
def F.PG_TRIPSRC.FIRST : Fld := ⟨16, 4⟩
def F.PG_TRIPSRC.MAP : Fld := ⟨0, 16⟩
def F.PG_FAULT_STAMP_LO.STAMP : Fld := ⟨0, 32⟩
def F.PG_FAULT_STAMP_HI.STAMP : Fld := ⟨0, 32⟩
def F.PG_LIST.ENTRY : Fld := ⟨0, 32⟩
def F.CAL_STATUS.STORE_BUSY : Fld := ⟨7, 1⟩
def F.CAL_STATUS.DIRTY : Fld := ⟨6, 1⟩
def F.CAL_STATUS.BANK_FALLBACK : Fld := ⟨5, 1⟩
def F.CAL_STATUS.BANK_USED : Fld := ⟨0, 2⟩
def F.CAL_BANK_STATE.STATE : Fld := ⟨0, 3⟩
def F.CAL_BANK_SEQ.SEQ : Fld := ⟨0, 32⟩
def F.CAL_EXT.TYPE : Fld := ⟨6, 3⟩
def F.CAL_EXT.INDEX : Fld := ⟨0, 6⟩
def F.CAL_CLIP.COUNT : Fld := ⟨0, 32⟩
def F.CAL_UNIT_STATE.STATE : Fld := ⟨30, 2⟩
def F.CAL_UNIT_STATE.CAL_BUSY : Fld := ⟨29, 1⟩
def F.CAL_UNIT_STATE.FAIL : Fld := ⟨28, 1⟩
def F.CAL_UNIT_STATE.MARKED : Fld := ⟨27, 1⟩
def F.CAL_UNIT_STATE.TEMP : Fld := ⟨0, 16⟩
def F.UC_REGION.WORDS : Fld := ⟨16, 13⟩
def F.UC_REGION.ENTRIES : Fld := ⟨8, 8⟩
def F.UC_REGION.FORM : Fld := ⟨4, 2⟩
def F.UC_REGION.PERSISTED : Fld := ⟨3, 1⟩
def F.UC_REGION.LOAD_ERR : Fld := ⟨2, 1⟩
def F.UC_REGION.DORMANT : Fld := ⟨1, 1⟩
def F.UC_REGION.VALID : Fld := ⟨0, 1⟩
def F.UC_REGION_VER.VERSION : Fld := ⟨0, 32⟩
def F.UC_REGION_KEY.KEYID : Fld := ⟨0, 32⟩
def F.UC_SIGNER.VALID : Fld := ⟨31, 1⟩
def F.UC_SIGNER.SLOT : Fld := ⟨24, 2⟩
def F.UC_SIGNER.FPR : Fld := ⟨0, 24⟩

/-! ## Tables -/

/-- Register types of the Host group, part 1. -/
def regsHost0 : List RegRow := [
  ⟨"ID_DEVICE", 0x00000000, [],
    [⟨F.ID_DEVICE.STEPPING, .ro, .k 0x10, 4⟩,
     ⟨F.ID_DEVICE.GRADE, .ro, .k 0, 4⟩,
     ⟨F.ID_DEVICE.PART, .ro, .k 0x2560, 4⟩]⟩,
  ⟨"ID_STRAP", 0x00000200, [],
    [⟨F.ID_STRAP.OVEN_WIRED, .ro, .k 0x0, 4⟩,
     ⟨F.ID_STRAP.OVEN_LEVEL, .ro, .k 0x0, 4⟩,
     ⟨F.ID_STRAP.SMBA, .ro, .k 0x0, 4⟩,
     ⟨F.ID_STRAP.RING_HINT, .ro, .k 0x0, 4⟩,
     ⟨F.ID_STRAP.REF_SEL, .ro, .k 0x0, 4⟩,
     ⟨F.ID_STRAP.BOOT, .ro, .k 0x0, 4⟩]⟩,
  ⟨"IL_PROFILE", 0x00000210, [],
    [⟨F.IL_PROFILE.RECORD_VALID, .ro, .k 0, 2⟩,
     ⟨F.IL_PROFILE.SWITCHING, .ro, .k 0x0, 2⟩,
     ⟨F.IL_PROFILE.MIRROR, .ro, .k 0, 2⟩]⟩,
  ⟨"IL_LAST", 0x00000214, [],
    [⟨F.IL_LAST.OPCODE, .ro, .k 0x0, 2⟩,
     ⟨F.IL_LAST.STATUS, .ro, .k 0x0, 2⟩]⟩,
  ⟨"IL_LAST_UNIT", 0x00000218, [],
    [⟨F.IL_LAST_UNIT.UNIT, .ro, .k 0x0, 2⟩]⟩,
  ⟨"HL_CTRL", 0x00010000, [],
    [⟨F.HL_CTRL.WINDOW_RW, .rw, .k 0x0, 0⟩]⟩,
  ⟨"HL_STATUS", 0x00010004, [],
    [⟨F.HL_STATUS.LINK_SPEED, .ro, .k 0, 5⟩,
     ⟨F.HL_STATUS.LINK_WIDTH, .ro, .k 0, 5⟩,
     ⟨F.HL_STATUS.BOOT_WAIT, .ro, .k 0, 5⟩,
     ⟨F.HL_STATUS.BOOTSTRAP, .ro, .k 1, 5⟩,
     ⟨F.HL_STATUS.UMBRA, .ro, .k 0, 5⟩,
     ⟨F.HL_STATUS.FW_READY, .ro, .k 0, 5⟩,
     ⟨F.HL_STATUS.D3HOT, .ro, .k 0, 5⟩]⟩,
  ⟨"HL_WIN_DISCARD", 0x00010008, [],
    [⟨F.HL_WIN_DISCARD.COUNT, .rc, .k 0x0, 0⟩]⟩,
  ⟨"HL_RING_SQ_LO", 0x00010100, [(0x40, 8)],
    [⟨F.HL_RING_SQ_LO.ADDR, .rw, .k 0x0, 0⟩]⟩,
  ⟨"HL_RING_SQ_HI", 0x00010104, [(0x40, 8)],
    [⟨F.HL_RING_SQ_HI.ADDR, .rw, .k 0x0, 0⟩]⟩,
  ⟨"HL_RING_CQ_LO", 0x00010108, [(0x40, 8)],
    [⟨F.HL_RING_CQ_LO.ADDR, .rw, .k 0x0, 0⟩]⟩,
  ⟨"HL_RING_CQ_HI", 0x0001010C, [(0x40, 8)],
    [⟨F.HL_RING_CQ_HI.ADDR, .rw, .k 0x0, 0⟩]⟩,
  ⟨"HL_RING_CFG", 0x00010110, [(0x40, 8)],
    [⟨F.HL_RING_CFG.IRQ_TIME, .rw, .k 0x0, 0⟩,
     ⟨F.HL_RING_CFG.IRQ_COUNT, .rw, .k 0x1, 0⟩,
     ⟨F.HL_RING_CFG.VECTOR, .rw, .index, 0⟩,
     ⟨F.HL_RING_CFG.PRIO, .rw, .k 0x0, 0⟩,
     ⟨F.HL_RING_CFG.SIZE_LOG2, .rw, .k 0x4, 0⟩,
     ⟨F.HL_RING_CFG.ENABLE, .rw, .k 0x0, 0⟩]⟩,
  ⟨"HL_RING_STATUS", 0x00010114, [(0x40, 8)],
    [⟨F.HL_RING_STATUS.DONE_VALID, .ro, .k 0x0, 2⟩,
     ⟨F.HL_RING_STATUS.PHASE, .ro, .k 0x1, 0⟩,
     ⟨F.HL_RING_STATUS.CQ_TAIL, .ro, .k 0x0, 0⟩,
     ⟨F.HL_RING_STATUS.SQ_HEAD, .ro, .k 0x0, 0⟩,
     ⟨F.HL_RING_STATUS.STOPPED, .ro, .k 0x1, 0⟩,
     ⟨F.HL_RING_STATUS.ERR, .ro, .k 0x0, 0⟩]⟩]

/-- Register types of the Host group, part 2. -/
def regsHost1 : List RegRow := [
  ⟨"HL_RING_LAST", 0x00010118, [(0x40, 8)],
    [⟨F.HL_RING_LAST.TAG, .ro, .k 0x0, 2⟩,
     ⟨F.HL_RING_LAST.STATUS, .ro, .k 0x0, 2⟩]⟩,
  ⟨"HL_RING_SEC", 0x0001011C, [(0x40, 8)],
    [⟨F.HL_RING_SEC.CLOSED_FAIL, .w1c, .k 0x0, 0⟩,
     ⟨F.HL_RING_SEC.FAIL_COUNT, .ro, .k 0x0, 0⟩,
     ⟨F.HL_RING_SEC.SLOT, .ro, .k 0x0, 0⟩,
     ⟨F.HL_RING_SEC.OPEN, .ro, .k 0x0, 0⟩]⟩,
  ⟨"MSIX_ADDR_LO", 0x00018000, [(0x10, 64)],
    [⟨F.MSIX_ADDR_LO.ADDR, .rw, .k 0x0, 0⟩]⟩,
  ⟨"MSIX_ADDR_HI", 0x00018004, [(0x10, 64)],
    [⟨F.MSIX_ADDR_HI.ADDR, .rw, .k 0x0, 0⟩]⟩,
  ⟨"MSIX_DATA", 0x00018008, [(0x10, 64)],
    [⟨F.MSIX_DATA.DATA, .rw, .k 0x0, 0⟩]⟩,
  ⟨"MSIX_CTRL", 0x0001800C, [(0x10, 64)],
    [⟨F.MSIX_CTRL.MASK, .rw, .k 0x1, 0⟩]⟩,
  ⟨"MSIX_PBA", 0x00019000, [(0x4, 2)],
    [⟨F.MSIX_PBA.PEND, .ro, .k 0x0, 0⟩]⟩]

/-- Register types of the Reset group, part 1. -/
def regsReset0 : List RegRow := [
  ⟨"RST_STATUS", 0x00020000, [],
    [⟨F.RST_STATUS.BRINGUP, .ro, .k 0, 4⟩,
     ⟨F.RST_STATUS.UMBRA, .ro, .k 0, 4⟩,
     ⟨F.RST_STATUS.WAIT_CLK, .ro, .k 0, 4⟩,
     ⟨F.RST_STATUS.FAILS, .ro, .k 0x0, 4⟩,
     ⟨F.RST_STATUS.ASSERTED, .ro, .k 0, 4⟩,
     ⟨F.RST_STATUS.LATCHED, .ro, .k 0, 4⟩,
     ⟨F.RST_STATUS.REACH, .ro, .k 0, 4⟩]⟩,
  ⟨"RST_REACH", 0x00020004, [],
    [⟨F.RST_REACH.ROW, .ro, .k 0x0, 4⟩,
     ⟨F.RST_REACH.TABLE, .ro, .k 0x6926DC, 4⟩]⟩,
  ⟨"RST_CAUSE", 0x00020010, [(0x4, 4)],
    [⟨F.RST_CAUSE.WORD, .ro, .k 0x0, 4⟩]⟩,
  ⟨"RST_ISO_CFG", 0x00020020, [],
    [⟨F.RST_ISO_CFG.TIMEOUT, .rw, .k 0xA, 3⟩]⟩,
  ⟨"RST_ISO_LAST", 0x00020024, [],
    [⟨F.RST_ISO_LAST.FORCED, .ro, .k 0x0, 3⟩,
     ⟨F.RST_ISO_LAST.KIND, .ro, .k 0x0, 3⟩,
     ⟨F.RST_ISO_LAST.COUNT, .ro, .k 0x0, 3⟩]⟩,
  ⟨"RST_ISO_UNIT", 0x00020028, [],
    [⟨F.RST_ISO_UNIT.UNIT, .ro, .k 0x0, 3⟩]⟩,
  ⟨"RST_HIST_HEAD", 0x00020030, [],
    [⟨F.RST_HIST_HEAD.COUNT, .ro, .k 0x0, 4⟩,
     ⟨F.RST_HIST_HEAD.NEWEST, .ro, .k 0x0, 4⟩]⟩,
  ⟨"WD_CTRL", 0x00020040, [],
    [⟨F.WD_CTRL.ENABLE, .rw, .k 0x0, 2⟩,
     ⟨F.WD_CTRL.TIMEOUT_MS, .rw, .k 0x3E8, 2⟩]⟩,
  ⟨"WD_KICK", 0x00020044, [],
    [⟨F.WD_KICK.KEY, .wo, .k 0x0, 2⟩]⟩,
  ⟨"SVC_STATUS", 0x00020050, [],
    [⟨F.SVC_STATUS.RECORD_VALID, .ro, .k 0x0, 3⟩,
     ⟨F.SVC_STATUS.TILE_SPARE, .ro, .k 0x0, 3⟩,
     ⟨F.SVC_STATUS.LE_SPARES, .ro, .k 0x0, 3⟩,
     ⟨F.SVC_STATUS.TU_SPARES, .ro, .k 0x0, 3⟩,
     ⟨F.SVC_STATUS.RETIRED, .ro, .k 0x0, 3⟩]⟩,
  ⟨"SVC_RETIRED", 0x00020060, [(0x4, 8)],
    [⟨F.SVC_RETIRED.PINS, .ro, .k 0x0, 3⟩]⟩,
  ⟨"FW_SLOT", 0x00020070, [],
    [⟨F.FW_SLOT.FALLBACK, .w1c, .k 0x0, 3⟩,
     ⟨F.FW_SLOT.SLOT_USED, .ro, .k 0x0, 3⟩]⟩,
  ⟨"RST_HIST", 0x00020100, [(0x10, 16), (0x4, 4)],
    [⟨F.RST_HIST.WORD, .ro, .k 0x0, 4⟩]⟩,
  ⟨"AG_BACKUP", 0x00020400, [(0x4, 16)],
    [⟨F.AG_BACKUP.VALUE, .rw, .k 0x0, 4⟩]⟩]

/-- Register types of the Reset group, part 2. -/
def regsReset1 : List RegRow := [
  ⟨"AG_MEM", 0x00020800, [(0x4, 512)],
    [⟨F.AG_MEM.VALUE, .rw, .k 0x0, 4⟩]⟩]

/-- Register types of the Clock group, part 1. -/
def regsClock0 : List RegRow := [
  ⟨"CLK_STATUS", 0x00030000, [],
    [⟨F.CLK_STATUS.FE_LOCK, .ro, .k 0, 4⟩,
     ⟨F.CLK_STATUS.SYS_LOCK, .ro, .k 0, 4⟩,
     ⟨F.CLK_STATUS.MTC_LOCK, .ro, .k 0, 4⟩,
     ⟨F.CLK_STATUS.REF_PRESENT, .ro, .k 0, 4⟩,
     ⟨F.CLK_STATUS.REF_100, .ro, .k 0x0, 4⟩]⟩,
  ⟨"CLK_HOLD", 0x00030004, [],
    [⟨F.CLK_HOLD.HOLD_MS, .rw, .k 0x64, 3⟩]⟩,
  ⟨"CLK_SPI", 0x00030008, [],
    [⟨F.CLK_SPI.DIV, .rw, .k 0x8, 3⟩]⟩,
  ⟨"CLK_MON", 0x00030100, [(0x4, 26)],
    [⟨F.CLK_MON.FAIL, .w1c, .k 0x0, 3⟩,
     ⟨F.CLK_MON.ACTIVE, .ro, .k 0, 3⟩,
     ⟨F.CLK_MON.MONITORED, .ro, .monitored, 3⟩,
     ⟨F.CLK_MON.FAILCNT, .rc, .k 0x0, 3⟩]⟩,
  ⟨"GN_STATUS", 0x00030800, [],
    [⟨F.GN_STATUS.WARM_LEFT, .ro, .k 0, 3⟩,
     ⟨F.GN_STATUS.JOIN_WAIT, .ro, .k 0, 3⟩,
     ⟨F.GN_STATUS.DELAY_MISMATCH, .w1c, .k 0x0, 3⟩,
     ⟨F.GN_STATUS.ORDER_ERR, .ro, .k 0x0, 3⟩,
     ⟨F.GN_STATUS.RING_DUP, .ro, .k 0x0, 3⟩,
     ⟨F.GN_STATUS.MASTER, .ro, .k 1, 3⟩,
     ⟨F.GN_STATUS.SYNC_VALID, .ro, .k 0, 3⟩,
     ⟨F.GN_STATUS.RING_TIME, .ro, .k 0x0, 3⟩,
     ⟨F.GN_STATUS.HOLDOVER, .ro, .k 0, 3⟩,
     ⟨F.GN_STATUS.LOCK, .ro, .k 0, 3⟩,
     ⟨F.GN_STATUS.WARMING, .ro, .k 1, 3⟩]⟩,
  ⟨"GN_NOW_LO", 0x00030804, [],
    [⟨F.GN_NOW_LO.COUNT, .ro, .k 0, 3⟩]⟩,
  ⟨"GN_NOW_HI", 0x00030808, [],
    [⟨F.GN_NOW_HI.COUNT, .ro, .k 0, 3⟩]⟩,
  ⟨"GN_PHASE", 0x0003080C, [],
    [⟨F.GN_PHASE.PHASE, .ro, .k 0x0, 3⟩]⟩,
  ⟨"GN_STEP_LO", 0x00030810, [],
    [⟨F.GN_STEP_LO.STAMP, .ro, .k 0x0, 3⟩]⟩,
  ⟨"GN_STEP_HI", 0x00030814, [],
    [⟨F.GN_STEP_HI.STAMP, .ro, .k 0x0, 3⟩]⟩,
  ⟨"XR_STATUS", 0x00030820, [],
    [⟨F.XR_STATUS.STEPS, .ro, .k 0x0, 3⟩,
     ⟨F.XR_STATUS.MASTER_POS, .ro, .k 0, 4⟩,
     ⟨F.XR_STATUS.UP_POS, .ro, .k 0, 4⟩,
     ⟨F.XR_STATUS.OWN_POS, .ro, .k 0x0, 4⟩,
     ⟨F.XR_STATUS.MEMBERS, .ro, .k 1, 3⟩]⟩,
  ⟨"XR_OFFSET", 0x00030824, [],
    [⟨F.XR_OFFSET.VALUE, .ro, .k 0x0, 3⟩]⟩,
  ⟨"XR_LOOP", 0x00030828, [],
    [⟨F.XR_LOOP.VALUE, .ro, .k 0x0, 3⟩]⟩,
  ⟨"XR_CTRL", 0x0003082C, [],
    [⟨F.XR_CTRL.AUTO_JOIN, .rw, .k 0x1, 3⟩,
     ⟨F.XR_CTRL.STATE, .ro, .k 0x0, 3⟩]⟩]

/-- Register types of the Clock group, part 2. -/
def regsClock1 : List RegRow := [
  ⟨"XR_SEG", 0x00030900, [(0x4, 32)],
    [⟨F.XR_SEG.DELAY, .rw, .k 0, 3⟩]⟩,
  ⟨"XR_BYP", 0x00030980, [(0x4, 32)],
    [⟨F.XR_BYP.DELAY, .rw, .k 0, 3⟩]⟩]

/-- Register types of the Power group, part 1. -/
def regsPower0 : List RegRow := [
  ⟨"PW_BUDGET", 0x00040000, [],
    [⟨F.PW_BUDGET.MW, .ro, .k 0x17700, 2⟩]⟩,
  ⟨"PW_GRANTED", 0x00040004, [],
    [⟨F.PW_GRANTED.MW, .ro, .k 0xE290, 2⟩]⟩,
  ⟨"PW_BASE", 0x00040008, [],
    [⟨F.PW_BASE.MW, .ro, .k 0xE290, 4⟩]⟩,
  ⟨"PW_STATUS", 0x0004000C, [],
    [⟨F.PW_STATUS.WAITING, .ro, .k 0x0, 2⟩,
     ⟨F.PW_STATUS.DERATED, .ro, .k 0, 3⟩,
     ⟨F.PW_STATUS.BUDGET_WAIT, .ro, .k 0x0, 2⟩]⟩,
  ⟨"PW_WAIT_HEAD", 0x00040010, [],
    [⟨F.PW_WAIT_HEAD.UNIT, .ro, .k 0x0, 2⟩]⟩,
  ⟨"PW_REFUSED", 0x00040014, [],
    [⟨F.PW_REFUSED.COUNT, .rc, .k 0x0, 2⟩]⟩,
  ⟨"PW_BLOCK", 0x00040100, [(0x4, 254)],
    [⟨F.PW_BLOCK.FLOOR, .rw, .k 0x4, 2⟩,
     ⟨F.PW_BLOCK.LIMIT, .ro, .k 4, 2⟩,
     ⟨F.PW_BLOCK.STATE, .ro, .k 0, 2⟩]⟩,
  ⟨"TH_TEMP", 0x00040800, [(0x4, 6)],
    [⟨F.TH_TEMP.THROTTLING, .ro, .k 0, 3⟩,
     ⟨F.TH_TEMP.CRIT, .ro, .k 0, 3⟩,
     ⟨F.TH_TEMP.TRIPPED, .w1c, .k 0x0, 3⟩,
     ⟨F.TH_TEMP.TEMP, .ro, .k 0, 3⟩]⟩,
  ⟨"TH_LIMIT", 0x00040820, [(0x4, 6)],
    [⟨F.TH_LIMIT.CRIT, .rw, .limit, 3⟩,
     ⟨F.TH_LIMIT.THROTTLE, .rw, .throttle, 3⟩]⟩]

/-- Register types of the Prism group, part 1. -/
def regsPrism0 : List RegRow := [
  ⟨"PR_EN", 0x00050000, [(0x20, 192), (0x4, 8)],
    [⟨F.PR_EN.EN, .rw, .k 0x0, 2⟩]⟩,
  ⟨"PR_CCFG", 0x00052000, [(0x4, 192)],
    [⟨F.PR_CCFG.HELD, .ro, .k 0x0, 2⟩,
     ⟨F.PR_CCFG.KMASK, .rw, .k 0xF, 2⟩]⟩,
  ⟨"PR_CSTAT", 0x00052400, [(0x4, 192)],
    [⟨F.PR_CSTAT.OVERRUN, .w1c, .k 0x0, 2⟩,
     ⟨F.PR_CSTAT.COALESCE, .rc, .k 0x0, 2⟩]⟩,
  ⟨"PR_LTGT_LO", 0x00052800, [(0x8, 124)],
    [⟨F.PR_LTGT_LO.TARGET, .rw, .k 0x0, 2⟩]⟩,
  ⟨"PR_LTGT_HI", 0x00052804, [(0x8, 124)],
    [⟨F.PR_LTGT_HI.TARGET, .rw, .k 0x0, 2⟩]⟩,
  ⟨"PR_PSTAT", 0x00053000, [(0x4, 256)],
    [⟨F.PR_PSTAT.LOOP, .w1c, .k 0x0, 2⟩,
     ⟨F.PR_PSTAT.LASTGEN, .ro, .k 0x0, 2⟩,
     ⟨F.PR_PSTAT.DROPPED, .rc, .k 0x0, 2⟩,
     ⟨F.PR_PSTAT.FIRED, .rc, .k 0x0, 2⟩]⟩,
  ⟨"PR_SWFIRE", 0x00053400, [],
    [⟨F.PR_SWFIRE.FIRE, .w1s, .k 0x0, 2⟩]⟩,
  ⟨"PR_HOST_PEND", 0x00053410, [],
    [⟨F.PR_HOST_PEND.PEND, .w1c, .k 0x0, 2⟩]⟩,
  ⟨"PR_HOST_EN", 0x00053414, [],
    [⟨F.PR_HOST_EN.EN, .rw, .k 0x0, 2⟩]⟩,
  ⟨"PR_HOST_STAMP_LO", 0x00053500, [(0x8, 32)],
    [⟨F.PR_HOST_STAMP_LO.STAMP, .ro, .k 0x0, 2⟩]⟩,
  ⟨"PR_HOST_STAMP_HI", 0x00053504, [(0x8, 32)],
    [⟨F.PR_HOST_STAMP_HI.STAMP, .ro, .k 0x0, 2⟩]⟩,
  ⟨"PR_TIO", 0x00053600, [(0x4, 16)],
    [⟨F.PR_TIO.EDGE, .rw, .k 0x0, 2⟩,
     ⟨F.PR_TIO.WIDTH, .rw, .k 0x0, 2⟩,
     ⟨F.PR_TIO.OUT, .rw, .k 0x0, 2⟩]⟩,
  ⟨"PR_DIN_OVR_LO", 0x00053700, [(0x10, 4)],
    [⟨F.PR_DIN_OVR_LO.VALUE, .w1c, .k 0x0, 2⟩]⟩,
  ⟨"PR_DIN_OVR_HI", 0x00053704, [(0x10, 4)],
    [⟨F.PR_DIN_OVR_HI.VALUE, .w1c, .k 0x0, 2⟩]⟩]

/-- Register types of the Prism group, part 2. -/
def regsPrism1 : List RegRow := [
  ⟨"PR_DIN_COAL", 0x00053708, [(0x10, 4)],
    [⟨F.PR_DIN_COAL.VALUE, .rc, .k 0x0, 2⟩]⟩,
  ⟨"LENS_STATUS", 0x00060000, [],
    [⟨F.LENS_STATUS.OPEN, .ro, .k 0, 3⟩,
     ⟨F.LENS_STATUS.HELD, .ro, .k 0x0, 3⟩,
     ⟨F.LENS_STATUS.FULL, .ro, .k 0x0, 3⟩,
     ⟨F.LENS_STATUS.FAULT_N, .ro, .k 0, 3⟩]⟩,
  ⟨"LENS_CFG", 0x00060004, [],
    [⟨F.LENS_CFG.FN_MASK, .rw, .k 0x7FFFFFFF, 3⟩,
     ⟨F.LENS_CFG.REMOTE_EN, .rw, .k 0x0, 3⟩]⟩,
  ⟨"LENS_ACKSEQ", 0x00060008, [],
    [⟨F.LENS_ACKSEQ.SEQ, .rw, .k 0x0, 3⟩]⟩,
  ⟨"LENS_NEXT", 0x0006000C, [],
    [⟨F.LENS_NEXT.SEQ, .ro, .k 0x0, 3⟩]⟩,
  ⟨"LENS_LOST", 0x00060010, [],
    [⟨F.LENS_LOST.COUNT, .rc, .k 0x0, 3⟩]⟩,
  ⟨"LENS_REC", 0x00061000, [(0x40, 64), (0x4, 16)],
    [⟨F.LENS_REC.WORD, .ro, .k 0x0, 3⟩]⟩]

/-- Register types of the Place group, part 1. -/
def regsPlace0 : List RegRow := [
  ⟨"PL_STATUS", 0x00080000, [],
    [⟨F.PL_STATUS.SCRUB, .ro, .k 0, 3⟩,
     ⟨F.PL_STATUS.THROTTLE, .ro, .k 0, 3⟩,
     ⟨F.PL_STATUS.REFRESH_2X, .ro, .k 0, 3⟩,
     ⟨F.PL_STATUS.HBM_READY, .ro, .k 0, 3⟩]⟩,
  ⟨"PL_LEDGER", 0x00080004, [],
    [⟨F.PL_LEDGER.HELD, .ro, .k 0x0, 2⟩]⟩,
  ⟨"PL_HBM_ECC", 0x00080010, [],
    [⟨F.PL_HBM_ECC.UE, .rc, .k 0x0, 2⟩,
     ⟨F.PL_HBM_ECC.CE, .rc, .k 0x0, 2⟩]⟩,
  ⟨"PL_HBM_UE_ADDR", 0x00080014, [],
    [⟨F.PL_HBM_UE_ADDR.ADDR, .ro, .k 0x0, 2⟩]⟩,
  ⟨"PL_LM_ECC", 0x00080018, [],
    [⟨F.PL_LM_ECC.UE, .rc, .k 0x0, 2⟩,
     ⟨F.PL_LM_ECC.CE, .rc, .k 0x0, 2⟩]⟩,
  ⟨"PL_WIN", 0x00080100, [(0x8, 16)],
    [⟨F.PL_WIN.OFS16, .rw, .k 0x0, 2⟩]⟩,
  ⟨"PL_WIN_HANDLE", 0x00080104, [(0x8, 16)],
    [⟨F.PL_WIN_HANDLE.HANDLE, .rw, .k 0x0, 2⟩]⟩,
  ⟨"PL_TILE_PF", 0x00080200, [(0x4, 17)],
    [⟨F.PL_TILE_PF.LOW_COUNT, .rc, .k 0x0, 1⟩,
     ⟨F.PL_TILE_PF.FILL, .ro, .k 0, 1⟩]⟩,
  ⟨"PL_STARVE", 0x00080400, [(0x20, 16)],
    [⟨F.PL_STARVE.OVERSUB, .ro, .k 0x0, 1⟩,
     ⟨F.PL_STARVE.PADDED, .ro, .k 0x0, 1⟩,
     ⟨F.PL_STARVE.UNDERRUN, .ro, .k 0x0, 1⟩]⟩,
  ⟨"PL_STARVE_CYC_LO", 0x00080404, [(0x20, 16)],
    [⟨F.PL_STARVE_CYC_LO.VALUE, .ro, .k 0x0, 1⟩]⟩,
  ⟨"PL_STARVE_CYC_HI", 0x00080408, [(0x20, 16)],
    [⟨F.PL_STARVE_CYC_HI.VALUE, .ro, .k 0x0, 1⟩]⟩,
  ⟨"PL_STARVE_STAMP_LO", 0x0008040C, [(0x20, 16)],
    [⟨F.PL_STARVE_STAMP_LO.VALUE, .ro, .k 0x0, 1⟩]⟩,
  ⟨"PL_STARVE_STAMP_HI", 0x00080410, [(0x20, 16)],
    [⟨F.PL_STARVE_STAMP_HI.VALUE, .ro, .k 0x0, 1⟩]⟩,
  ⟨"PL_STARVE_PAD", 0x00080414, [(0x20, 16)],
    [⟨F.PL_STARVE_PAD.VALUE, .ro, .k 0x0, 1⟩]⟩]

/-- Register types of the Tile group, part 1. -/
def regsTile0 : List RegRow := [
  ⟨"SEQ_TILE_STATUS", 0x00100000, [(0x10000, 17)],
    [⟨F.SEQ_TILE_STATUS.PHYS, .ro, .index, 3⟩,
     ⟨F.SEQ_TILE_STATUS.IN_SITE, .ro, .k 0x0, 2⟩,
     ⟨F.SEQ_TILE_STATUS.LEAD, .ro, .k 0x0, 2⟩,
     ⟨F.SEQ_TILE_STATUS.SITE, .ro, .k 0x0, 2⟩]⟩,
  ⟨"TSET_PERIOD_LO", 0x00108000, [(0x10000, 16), (0x8, 64)],
    [⟨F.TSET_PERIOD_LO.PER_LO, .sb, .k 0x9C40, 2⟩]⟩,
  ⟨"TSET_PERIOD_HI", 0x00108004, [(0x10000, 16), (0x8, 64)],
    [⟨F.TSET_PERIOD_HI.PER_HI, .sb, .k 0x0, 2⟩]⟩,
  ⟨"LE_MASKSET", 0x00109000, [(0x10000, 16), (0x4, 16)],
    [⟨F.LE_MASKSET.PINS, .sb, .k 0x0, 2⟩]⟩,
  ⟨"FF_STATUS", 0x00109040, [(0x10000, 16)],
    [⟨F.FF_STATUS.FULL, .ro, .k 0x0, 1⟩,
     ⟨F.FF_STATUS.COUNT, .ro, .k 0x0, 1⟩]⟩,
  ⟨"FF_OVER", 0x00109044, [(0x10000, 16)],
    [⟨F.FF_OVER.COUNT, .rc, .k 0x0, 1⟩]⟩,
  ⟨"FAIL_PINS", 0x00109048, [(0x10000, 16)],
    [⟨F.FAIL_PINS.PINS, .ro, .k 0x0, 1⟩]⟩]

/-- Register types of the Site group, part 1. -/
def regsSite0 : List RegRow := [
  ⟨"SEQ_SITE_CFG", 0x00300000, [(0x100, 16)],
    [⟨F.SEQ_SITE_CFG.FORMED, .ro, .k 0x0, 2⟩,
     ⟨F.SEQ_SITE_CFG.FIRST, .ro, .k 0x0, 2⟩,
     ⟨F.SEQ_SITE_CFG.WIDTH, .ro, .k 0x0, 2⟩]⟩,
  ⟨"SEQ_SITE_STATE", 0x00300004, [(0x100, 16)],
    [⟨F.SEQ_SITE_STATE.CAUSE, .ro, .k 0x0, 1⟩,
     ⟨F.SEQ_SITE_STATE.VALID, .ro, .k 0x0, 1⟩,
     ⟨F.SEQ_SITE_STATE.ARMED, .ro, .k 0x0, 1⟩,
     ⟨F.SEQ_SITE_STATE.JUMP_PENDING, .ro, .k 0x0, 1⟩,
     ⟨F.SEQ_SITE_STATE.JUMP_DEFERRED, .w1c, .k 0x0, 1⟩,
     ⟨F.SEQ_SITE_STATE.MATCH_TIMEOUT, .w1c, .k 0x0, 1⟩,
     ⟨F.SEQ_SITE_STATE.WAIT_TIMEOUT, .w1c, .k 0x0, 1⟩,
     ⟨F.SEQ_SITE_STATE.STOP_ON_FAIL, .ro, .k 0x0, 1⟩,
     ⟨F.SEQ_SITE_STATE.FAILED, .ro, .k 0x0, 1⟩,
     ⟨F.SEQ_SITE_STATE.STATE, .ro, .k 0x0, 1⟩]⟩,
  ⟨"SEQ_SITE_CTRL", 0x00300008, [(0x100, 16)],
    [⟨F.SEQ_SITE_CTRL.STEP, .w1s, .k 0x0, 1⟩,
     ⟨F.SEQ_SITE_CTRL.HALT, .w1s, .k 0x0, 1⟩,
     ⟨F.SEQ_SITE_CTRL.RESUME, .w1s, .k 0x0, 1⟩,
     ⟨F.SEQ_SITE_CTRL.PAUSE, .w1s, .k 0x0, 1⟩]⟩,
  ⟨"SEQ_EVT_CFG", 0x0030000C, [(0x100, 16)],
    [⟨F.SEQ_EVT_CFG.STATUS_SEL, .rw, .k 0x3, 1⟩,
     ⟨F.SEQ_EVT_CFG.ACT, .rw, .k 0x1, 1⟩]⟩,
  ⟨"SEQ_EVT", 0x00300010, [(0x100, 16)],
    [⟨F.SEQ_EVT.EV_SET, .w1s, .k 0x0, 1⟩,
     ⟨F.SEQ_EVT.EV_FLAG, .w1c, .k 0x0, 1⟩]⟩,
  ⟨"SEQ_JUMP", 0x00300014, [(0x100, 16)],
    [⟨F.SEQ_JUMP.REQ, .w1s, .k 0x0, 1⟩,
     ⟨F.SEQ_JUMP.SEG, .rw, .k 0x0, 1⟩]⟩,
  ⟨"SEQ_IRQ", 0x00300018, [(0x100, 16)],
    [⟨F.SEQ_IRQ.EN, .rw, .k 0x0, 1⟩,
     ⟨F.SEQ_IRQ.PEND, .w1c, .k 0x0, 1⟩]⟩,
  ⟨"SEQ_HANDLE", 0x0030001C, [(0x100, 16)],
    [⟨F.SEQ_HANDLE.HANDLE, .ro, .k 0x0, 1⟩]⟩,
  ⟨"SEQ_PC", 0x00300020, [(0x100, 16)],
    [⟨F.SEQ_PC.SEG, .ro, .k 0, 1⟩,
     ⟨F.SEQ_PC.OFS, .ro, .k 0, 1⟩]⟩,
  ⟨"SEQ_DEPTH", 0x00300024, [(0x100, 16)],
    [⟨F.SEQ_DEPTH.CALL_DEPTH, .ro, .k 0, 1⟩,
     ⟨F.SEQ_DEPTH.LOOP_DEPTH, .ro, .k 0, 1⟩]⟩,
  ⟨"SEQ_MATCH", 0x00300028, [(0x100, 16)],
    [⟨F.SEQ_MATCH.ITER, .ro, .k 0x0, 1⟩]⟩,
  ⟨"SEQ_CYCLE_LO", 0x00300030, [(0x100, 16)],
    [⟨F.SEQ_CYCLE_LO.VALUE, .ro, .k 0x0, 1⟩]⟩,
  ⟨"SEQ_CYCLE_HI", 0x00300034, [(0x100, 16)],
    [⟨F.SEQ_CYCLE_HI.VALUE, .ro, .k 0x0, 1⟩]⟩,
  ⟨"SEQ_RESULT_LO", 0x00300038, [(0x100, 16)],
    [⟨F.SEQ_RESULT_LO.VALUE, .ro, .k 0x0, 1⟩]⟩]

/-- Register types of the Site group, part 2. -/
def regsSite1 : List RegRow := [
  ⟨"SEQ_RESULT_HI", 0x0030003C, [(0x100, 16)],
    [⟨F.SEQ_RESULT_HI.VALUE, .ro, .k 0x0, 1⟩]⟩,
  ⟨"SEQ_TESTS_LO", 0x00300040, [(0x100, 16)],
    [⟨F.SEQ_TESTS_LO.VALUE, .ro, .k 0x0, 1⟩]⟩,
  ⟨"SEQ_TESTS_HI", 0x00300044, [(0x100, 16)],
    [⟨F.SEQ_TESTS_HI.VALUE, .ro, .k 0x0, 1⟩]⟩,
  ⟨"SEQ_START_LO", 0x00300048, [(0x100, 16)],
    [⟨F.SEQ_START_LO.VALUE, .ro, .k 0x0, 1⟩]⟩,
  ⟨"SEQ_START_HI", 0x0030004C, [(0x100, 16)],
    [⟨F.SEQ_START_HI.VALUE, .ro, .k 0x0, 1⟩]⟩,
  ⟨"SEQ_STOP_LO", 0x00300050, [(0x100, 16)],
    [⟨F.SEQ_STOP_LO.VALUE, .ro, .k 0x0, 1⟩]⟩,
  ⟨"SEQ_STOP_HI", 0x00300054, [(0x100, 16)],
    [⟨F.SEQ_STOP_HI.VALUE, .ro, .k 0x0, 1⟩]⟩,
  ⟨"UC_MCHK", 0x00300060, [(0x100, 16)],
    [⟨F.UC_MCHK.CODE, .ro, .k 0x0, 1⟩,
     ⟨F.UC_MCHK.PHYS, .ro, .k 0x0, 1⟩,
     ⟨F.UC_MCHK.OPCODE, .ro, .k 0x0, 1⟩,
     ⟨F.UC_MCHK.UADDR, .ro, .k 0x0, 1⟩]⟩,
  ⟨"UC_MCHK_STAMP_LO", 0x00300064, [(0x100, 16)],
    [⟨F.UC_MCHK_STAMP_LO.STAMP, .ro, .k 0x0, 1⟩]⟩,
  ⟨"UC_MCHK_STAMP_HI", 0x00300068, [(0x100, 16)],
    [⟨F.UC_MCHK_STAMP_HI.STAMP, .ro, .k 0x0, 1⟩]⟩,
  ⟨"UC_USER", 0x00300080, [(0x100, 16), (0x4, 8)],
    [⟨F.UC_USER.VALUE, .ro, .k 0x0, 1⟩]⟩,
  ⟨"TSET_CTRL", 0x00310000, [(0x4, 16)],
    [⟨F.TSET_CTRL.PENDING, .ro, .k 0x0, 2⟩,
     ⟨F.TSET_CTRL.APPLY, .w1s, .k 0x0, 2⟩]⟩,
  ⟨"TSET_DIE_ALIGN", 0x00310100, [(0x4, 4)],
    [⟨F.TSET_DIE_ALIGN.ALIGN, .ro, .k 0, 3⟩]⟩,
  ⟨"LVL_STROBE", 0x00320000, [(0x20, 4)],
    [⟨F.LVL_STROBE.GO, .w1s, .k 0x0, 2⟩]⟩]

/-- Register types of the Site group, part 3. -/
def regsSite2 : List RegRow := [
  ⟨"LVL_EVT_MASK", 0x00320004, [(0x20, 4)],
    [⟨F.LVL_EVT_MASK.MASK, .rw, .k 0x0, 2⟩]⟩,
  ⟨"LVL_HV_CEIL", 0x00320008, [(0x20, 4)],
    [⟨F.LVL_HV_CEIL.CEIL, .ro, .k 0x9C40, 2⟩]⟩,
  ⟨"LVL_PARK", 0x0032000C, [(0x20, 4)],
    [⟨F.LVL_PARK.CODE, .rw, .k 0x2EE0, 2⟩]⟩,
  ⟨"LVL_STROBE_STAT", 0x00320010, [(0x20, 4)],
    [⟨F.LVL_STROBE_STAT.HELD, .rc, .k 0x0, 2⟩,
     ⟨F.LVL_STROBE_STAT.PEND, .ro, .k 0x0, 2⟩]⟩,
  ⟨"LE_STATUS", 0x00330000, [(0x4, 128)],
    [⟨F.LE_STATUS.PHYS, .ro, .index, 3⟩,
     ⟨F.LE_STATUS.FAULT, .w1c, .k 0x0, 2⟩,
     ⟨F.LE_STATUS.SPARE, .ro, .k 0, 3⟩]⟩,
  ⟨"FAIL_CFG", 0x00330400, [(0x20, 16)],
    [⟨F.FAIL_CFG.FL_MODE, .rw, .k 0x0, 2⟩,
     ⟨F.FAIL_CFG.FULL_POLICY, .rw, .k 0x0, 2⟩]⟩,
  ⟨"FAIL_STAT", 0x00330404, [(0x20, 16)],
    [⟨F.FAIL_STAT.FULL, .ro, .k 0x0, 1⟩,
     ⟨F.FAIL_STAT.WRAPPED, .ro, .k 0x0, 1⟩,
     ⟨F.FAIL_STAT.GAP_PENDING, .ro, .k 0x0, 1⟩,
     ⟨F.FAIL_STAT.NO_LOG, .ro, .k 1, 2⟩,
     ⟨F.FAIL_STAT.NEXT, .ro, .k 0x0, 1⟩]⟩,
  ⟨"FAIL_WRITTEN", 0x00330408, [(0x20, 16)],
    [⟨F.FAIL_WRITTEN.COUNT, .ro, .k 0x0, 1⟩]⟩,
  ⟨"FAIL_LOST", 0x0033040C, [(0x20, 16)],
    [⟨F.FAIL_LOST.COUNT, .ro, .k 0x0, 1⟩]⟩]

/-- Register types of the Pin group, part 1. -/
def regsPin0 : List RegRow := [
  ⟨"PIN_MODE", 0x00400000, [(0x1000, 256)],
    [⟨F.PIN_MODE.PG_SEL, .ro, .k 0x0, 2⟩,
     ⟨F.PIN_MODE.MODE, .ro, .k 0x0, 2⟩]⟩,
  ⟨"PIN_STATUS", 0x00400004, [(0x1000, 256)],
    [⟨F.PIN_STATUS.LOADED, .ro, .k 0x0, 2⟩,
     ⟨F.PIN_STATUS.OVERCURRENT, .w1c, .k 0x0, 2⟩,
     ⟨F.PIN_STATUS.LIMITING, .ro, .k 0, 2⟩,
     ⟨F.PIN_STATUS.MODE_BUSY, .ro, .k 0x0, 2⟩,
     ⟨F.PIN_STATUS.DRV_CONN, .ro, .k 0x0, 2⟩,
     ⟨F.PIN_STATUS.DRV_EN, .ro, .k 0, 2⟩,
     ⟨F.PIN_STATUS.PARKED, .ro, .k 0, 2⟩,
     ⟨F.PIN_STATUS.GANG_MEMBER, .ro, .k 0x0, 2⟩,
     ⟨F.PIN_STATUS.GANG_LEADER, .ro, .k 0x0, 2⟩]⟩,
  ⟨"PIN_DRV", 0x00400008, [(0x1000, 256)],
    [⟨F.PIN_DRV.DWELL, .rw, .k 0x2, 2⟩,
     ⟨F.PIN_DRV.SLEW, .sb, .k 0xA, 2⟩,
     ⟨F.PIN_DRV.LOAD_EN, .sb, .k 0x0, 2⟩,
     ⟨F.PIN_DRV.PARK, .rw, .k 0x0, 2⟩]⟩,
  ⟨"PIN_STATE_MAP", 0x0040000C, [(0x1000, 256)],
    [⟨F.PIN_STATE_MAP.MAP_F, .sb, .k 0x0, 2⟩,
     ⟨F.PIN_STATE_MAP.MAP_E, .sb, .k 0x0, 2⟩,
     ⟨F.PIN_STATE_MAP.MAP_D, .sb, .k 0x0, 2⟩,
     ⟨F.PIN_STATE_MAP.MAP_C, .sb, .k 0x0, 2⟩]⟩,
  ⟨"PIN_PAIR", 0x00400010, [(0x1000, 256)],
    [⟨F.PIN_PAIR.PAIR, .ro, .k 0x3210, 2⟩]⟩,
  ⟨"PIN_GANG", 0x00400014, [(0x1000, 256)],
    [⟨F.PIN_GANG.LEADER, .ro, .k 0x0, 2⟩,
     ⟨F.PIN_GANG.MASK, .ro, .k 0x0, 2⟩]⟩,
  ⟨"PIN_LEVEL", 0x00400040, [(0x1000, 256), (0x4, 10)],
    [⟨F.PIN_LEVEL.GROUP, .rw, .k 0x0, 2⟩,
     ⟨F.PIN_LEVEL.CODE, .sb, .level, 2⟩]⟩,
  ⟨"PIN_FORMAT", 0x00400100, [(0x1000, 256), (0x4, 64)],
    [⟨F.PIN_FORMAT.EMODE, .sb, .k 0x0, 2⟩,
     ⟨F.PIN_FORMAT.FMT, .sb, .k 0x0, 2⟩]⟩,
  ⟨"TSET_DESKEW_F", 0x00400200, [(0x1000, 256)],
    [⟨F.TSET_DESKEW_F.DRV, .ro, .k 0, 3⟩,
     ⟨F.TSET_DESKEW_F.CMP, .ro, .k 0, 3⟩]⟩,
  ⟨"TSET_DESKEW_H", 0x00400204, [(0x1000, 256)],
    [⟨F.TSET_DESKEW_H.DRV, .ro, .k 0, 3⟩,
     ⟨F.TSET_DESKEW_H.CMP, .ro, .k 0, 3⟩]⟩,
  ⟨"TSET_DESKEW_E", 0x00400208, [(0x1000, 256)],
    [⟨F.TSET_DESKEW_E.ENA_F, .ro, .k 0, 3⟩,
     ⟨F.TSET_DESKEW_E.ENA_H, .ro, .k 0, 3⟩]⟩,
  ⟨"TSET_COLLIDE", 0x0040020C, [(0x1000, 256)],
    [⟨F.TSET_COLLIDE.EDGE_RANGE, .rc, .k 0x0, 1⟩,
     ⟨F.TSET_COLLIDE.EDGE_COLLIDE, .rc, .k 0x0, 1⟩]⟩,
  ⟨"TSET_COLLIDE_INFO", 0x00400210, [(0x1000, 256)],
    [⟨F.TSET_COLLIDE_INFO.VALID, .ro, .k 0x0, 1⟩,
     ⟨F.TSET_COLLIDE_INFO.KIND, .ro, .k 0x0, 1⟩,
     ⟨F.TSET_COLLIDE_INFO.STREAM, .ro, .k 0x0, 1⟩,
     ⟨F.TSET_COLLIDE_INFO.EDGE, .ro, .k 0x0, 1⟩,
     ⟨F.TSET_COLLIDE_INFO.TSET, .ro, .k 0x0, 1⟩]⟩,
  ⟨"TSET_COLLIDE_CYC_LO", 0x00400214, [(0x1000, 256)],
    [⟨F.TSET_COLLIDE_CYC_LO.CYCLE, .ro, .k 0x0, 1⟩]⟩]

/-- Register types of the Pin group, part 2. -/
def regsPin1 : List RegRow := [
  ⟨"TSET_COLLIDE_CYC_HI", 0x00400218, [(0x1000, 256)],
    [⟨F.TSET_COLLIDE_CYC_HI.CYCLE, .ro, .k 0x0, 1⟩]⟩,
  ⟨"CMP_CFG", 0x00400240, [(0x1000, 256)],
    [⟨F.CMP_CFG.CAPT_REF, .rw, .k 0x0, 2⟩,
     ⟨F.CMP_CFG.WIN, .rw, .k 0x0, 2⟩,
     ⟨F.CMP_CFG.MASK, .rw, .k 0x0, 2⟩]⟩,
  ⟨"CMP_FAILCNT", 0x00400244, [(0x1000, 256)],
    [⟨F.CMP_FAILCNT.COUNT, .ro, .k 0x0, 1⟩]⟩,
  ⟨"CMP_FIRST_LO", 0x00400248, [(0x1000, 256)],
    [⟨F.CMP_FIRST_LO.CYCLE, .ro, .k 0x0, 1⟩]⟩,
  ⟨"CMP_FIRST_HI", 0x0040024C, [(0x1000, 256)],
    [⟨F.CMP_FIRST_HI.CYCLE, .ro, .k 0x0, 1⟩]⟩,
  ⟨"CMP_STAT", 0x00400250, [(0x1000, 256)],
    [⟨F.CMP_STAT.FIRST_VALID, .ro, .k 0x0, 1⟩,
     ⟨F.CMP_STAT.MISSED, .ro, .k 0x0, 1⟩,
     ⟨F.CMP_STAT.FIRST_C1, .ro, .k 0x0, 1⟩,
     ⟨F.CMP_STAT.WIN_CUT, .rc, .k 0x0, 1⟩]⟩,
  ⟨"PMU_CFG", 0x00400280, [(0x1000, 256)],
    [⟨F.PMU_CFG.AW_SEL, .ro, .k 0x0, 2⟩,
     ⟨F.PMU_CFG.AWSRC, .ro, .k 0x0, 2⟩,
     ⟨F.PMU_CFG.SERVO, .ro, .k 0x0, 2⟩,
     ⟨F.PMU_CFG.SENSE, .ro, .k 0x0, 2⟩,
     ⟨F.PMU_CFG.MEAS, .ro, .k 0x0, 2⟩,
     ⟨F.PMU_CFG.FORCE, .ro, .k 0x0, 2⟩,
     ⟨F.PMU_CFG.RANGE, .ro, .k 0x0, 2⟩]⟩,
  ⟨"PMU_STATUS", 0x00400284, [(0x1000, 256)],
    [⟨F.PMU_STATUS.SERVO_SAT, .ro, .k 0, 2⟩,
     ⟨F.PMU_STATUS.CLAMPING, .ro, .k 0, 2⟩,
     ⟨F.PMU_STATUS.SENSE_OPEN, .ro, .k 0, 2⟩,
     ⟨F.PMU_STATUS.RANGE_BUSY, .ro, .k 0x0, 2⟩]⟩,
  ⟨"TSET_EDGE_LO", 0x00500000, [(0x1000, 256), (0x40, 64), (0x8, 8)],
    [⟨F.TSET_EDGE_LO.OFS_LO, .sb, .k 0x0, 2⟩]⟩,
  ⟨"TSET_EDGE_HI", 0x00500004, [(0x1000, 256), (0x40, 64), (0x8, 8)],
    [⟨F.TSET_EDGE_HI.EN, .sb, .k 0x0, 2⟩,
     ⟨F.TSET_EDGE_HI.OFS_HI, .sb, .k 0x0, 2⟩]⟩]

/-- Register types of the Instr group, part 1. -/
def regsInstr0 : List RegRow := [
  ⟨"TU_IN_A", 0x00600000, [(0x100, 32)],
    [⟨F.TU_IN_A.WORD, .ro, .k 0x0, 2⟩]⟩,
  ⟨"TU_IN_B", 0x00600004, [(0x100, 32)],
    [⟨F.TU_IN_B.WORD, .ro, .k 0x0, 2⟩]⟩,
  ⟨"TU_CTRL", 0x00600008, [(0x100, 32)],
    [⟨F.TU_CTRL.WORD, .ro, .k 0x0, 2⟩]⟩,
  ⟨"TU_WOPEN", 0x0060000C, [(0x100, 32)],
    [⟨F.TU_WOPEN.WORD, .ro, .k 0x0, 2⟩]⟩,
  ⟨"TU_WCLOSE", 0x00600010, [(0x100, 32)],
    [⟨F.TU_WCLOSE.WORD, .ro, .k 0x0, 2⟩]⟩,
  ⟨"TU_COUNT", 0x00600014, [(0x100, 32)],
    [⟨F.TU_COUNT.WORD, .ro, .k 0x0, 2⟩]⟩,
  ⟨"TU_REPS", 0x00600018, [(0x100, 32)],
    [⟨F.TU_REPS.WORD, .ro, .k 0x0, 2⟩]⟩,
  ⟨"TU_STATUS", 0x0060001C, [(0x100, 32)],
    [⟨F.TU_STATUS.PHYS, .ro, .indexMod8, 3⟩,
     ⟨F.TU_STATUS.LOG_FULL, .ro, .k 0x0, 2⟩,
     ⟨F.TU_STATUS.SRC_LOST, .w1c, .k 0x0, 2⟩,
     ⟨F.TU_STATUS.BIN_FAIL, .ro, .k 0x0, 2⟩,
     ⟨F.TU_STATUS.BIN_STALE, .ro, .k 0, 2⟩,
     ⟨F.TU_STATUS.BINCAL_BUSY, .ro, .k 0, 2⟩,
     ⟨F.TU_STATUS.STATE, .ro, .k 0x0, 2⟩]⟩,
  ⟨"TU_EDGES_A", 0x00600020, [(0x100, 32)],
    [⟨F.TU_EDGES_A.COUNT, .ro, .k 0x0, 2⟩]⟩,
  ⟨"TU_EDGES_B", 0x00600024, [(0x100, 32)],
    [⟨F.TU_EDGES_B.COUNT, .ro, .k 0x0, 2⟩]⟩,
  ⟨"TU_LOST", 0x00600028, [(0x100, 32)],
    [⟨F.TU_LOST.COUNT, .rc, .k 0x0, 2⟩]⟩,
  ⟨"TU_SKEW_A", 0x0060002C, [(0x100, 32)],
    [⟨F.TU_SKEW_A.SKEW, .ro, .k 0, 3⟩]⟩,
  ⟨"TU_SKEW_B", 0x00600030, [(0x100, 32)],
    [⟨F.TU_SKEW_B.SKEW, .ro, .k 0, 3⟩]⟩,
  ⟨"TU_LOGCNT", 0x00600034, [(0x100, 32)],
    [⟨F.TU_LOGCNT.COUNT, .ro, .k 0x0, 2⟩]⟩]

/-- Register types of the Instr group, part 2. -/
def regsInstr1 : List RegRow := [
  ⟨"TU_BINTEMP", 0x00600038, [(0x100, 32)],
    [⟨F.TU_BINTEMP.TEMP, .ro, .k 0, 3⟩]⟩,
  ⟨"ME_SLOT", 0x00608000, [(0x20, 64)],
    [⟨F.ME_SLOT.HANDLE, .ro, .k 0x0, 2⟩]⟩,
  ⟨"ME_QUEUE", 0x00608004, [(0x20, 64)],
    [⟨F.ME_QUEUE.RES_LOST, .rc, .k 0x0, 2⟩,
     ⟨F.ME_QUEUE.FILL, .ro, .k 0x0, 2⟩]⟩,
  ⟨"AQ_CFG", 0x00700000, [(0x100, 32)],
    [⟨F.AQ_CFG.SRC_TYPE, .ro, .k 0x0, 2⟩,
     ⟨F.AQ_CFG.SRC_IDX, .ro, .k 0x0, 2⟩,
     ⟨F.AQ_CFG.RANGE, .ro, .k 0x0, 2⟩,
     ⟨F.AQ_CFG.BWL, .ro, .k 0x0, 2⟩,
     ⟨F.AQ_CFG.DECIM, .ro, .k 0x0, 2⟩]⟩,
  ⟨"AQ_STATUS", 0x00700004, [(0x100, 32)],
    [⟨F.AQ_STATUS.DONE_REC, .ro, .k 0x0, 2⟩,
     ⟨F.AQ_STATUS.CAUSE, .ro, .k 0x0, 2⟩,
     ⟨F.AQ_STATUS.SRC_LOST, .w1c, .k 0x0, 2⟩,
     ⟨F.AQ_STATUS.STATE, .ro, .k 0x0, 2⟩]⟩,
  ⟨"AQ_LIVE", 0x00700008, [(0x100, 32)],
    [⟨F.AQ_LIVE.SAMPLE, .ro, .k 0, 2⟩]⟩,
  ⟨"AQ_CLIP", 0x0070000C, [(0x100, 32)],
    [⟨F.AQ_CLIP.COUNT, .rc, .k 0x0, 2⟩]⟩,
  ⟨"AQ_COND_A", 0x00700010, [(0x100, 32), (0x8, 4)],
    [⟨F.AQ_COND_A.COND, .ro, .k 0x0, 2⟩]⟩,
  ⟨"AQ_COND_B", 0x00700014, [(0x100, 32), (0x8, 4)],
    [⟨F.AQ_COND_B.COND, .ro, .k 0x0, 2⟩]⟩,
  ⟨"AQ_MISSED", 0x00700030, [(0x100, 32)],
    [⟨F.AQ_MISSED.COUNT, .rc, .k 0x0, 2⟩]⟩,
  ⟨"AQ_SKEW", 0x00700034, [(0x100, 32)],
    [⟨F.AQ_SKEW.SKEW, .ro, .k 0, 3⟩]⟩,
  ⟨"AQ_PRE", 0x00700038, [(0x100, 32)],
    [⟨F.AQ_PRE.VALUE, .ro, .k 0x0, 2⟩]⟩,
  ⟨"AQ_POST", 0x0070003C, [(0x100, 32)],
    [⟨F.AQ_POST.VALUE, .ro, .k 0x0, 2⟩]⟩,
  ⟨"AQ_NREC", 0x00700040, [(0x100, 32)],
    [⟨F.AQ_NREC.VALUE, .ro, .k 0x0, 2⟩]⟩]

/-- Register types of the Instr group, part 3. -/
def regsInstr2 : List RegRow := [
  ⟨"AW_CFG", 0x00800000, [(0x100, 32)],
    [⟨F.AW_CFG.GROUP, .rw, .k 0x0, 2⟩,
     ⟨F.AW_CFG.DWELL, .rw, .k 0x2, 2⟩,
     ⟨F.AW_CFG.SENSE, .rw, .k 0x0, 2⟩,
     ⟨F.AW_CFG.ILIM, .ro, .k 0x0, 2⟩,
     ⟨F.AW_CFG.RANGE, .ro, .k 0x0, 2⟩,
     ⟨F.AW_CFG.ENABLE, .ro, .k 0x0, 2⟩]⟩,
  ⟨"AW_IDLE", 0x00800004, [(0x100, 32)],
    [⟨F.AW_IDLE.LIVE, .ro, .k 0x0, 2⟩,
     ⟨F.AW_IDLE.CODE, .sb, .k 0x0, 2⟩]⟩,
  ⟨"AW_STATUS", 0x00800008, [(0x100, 32)],
    [⟨F.AW_STATUS.STATE, .ro, .k 0x0, 2⟩,
     ⟨F.AW_STATUS.TRIG_PEND, .ro, .k 0x0, 2⟩,
     ⟨F.AW_STATUS.JUMP_PENDING, .ro, .k 0x0, 2⟩,
     ⟨F.AW_STATUS.JUMP_DEFERRED, .w1c, .k 0x0, 2⟩,
     ⟨F.AW_STATUS.OVERCURRENT, .w1c, .k 0x0, 2⟩,
     ⟨F.AW_STATUS.LIMITING, .ro, .k 0, 2⟩,
     ⟨F.AW_STATUS.SENSE_OPEN, .ro, .k 0, 2⟩,
     ⟨F.AW_STATUS.RANGE_BUSY, .ro, .k 0x0, 2⟩,
     ⟨F.AW_STATUS.LOADED, .ro, .k 0x0, 2⟩,
     ⟨F.AW_STATUS.DRV_CONN, .ro, .k 0x0, 2⟩]⟩,
  ⟨"AW_POS", 0x0080000C, [(0x100, 32)],
    [⟨F.AW_POS.STEP, .ro, .k 0, 2⟩,
     ⟨F.AW_POS.SEG, .ro, .k 0, 2⟩]⟩,
  ⟨"AW_REP", 0x00800010, [(0x100, 32)],
    [⟨F.AW_REP.DONE, .ro, .k 0, 2⟩]⟩,
  ⟨"AW_SAT", 0x00800014, [(0x100, 32)],
    [⟨F.AW_SAT.COUNT, .rc, .k 0x0, 2⟩]⟩,
  ⟨"AW_MEM", 0x00804000, [(0x10, 4)],
    [⟨F.AW_MEM.FREE, .ro, .k 0x200000, 2⟩]⟩,
  ⟨"WM_CFG", 0x00900000, [(0x20, 64)],
    [⟨F.WM_CFG.WORD, .ro, .k 0x0, 2⟩]⟩,
  ⟨"WM_TH", 0x00900004, [(0x20, 64)],
    [⟨F.WM_TH.TH_HI, .sb, .k 0xD20, 2⟩,
     ⟨F.WM_TH.TH_LO, .sb, .k 0x0, 2⟩]⟩,
  ⟨"WM_SHAPE", 0x00900008, [(0x20, 64)],
    [⟨F.WM_SHAPE.ECL_LEN, .sb, .k 0x0, 2⟩,
     ⟨F.WM_SHAPE.HYS, .sb, .k 0x0, 2⟩,
     ⟨F.WM_SHAPE.SLOPE, .sb, .k 0x0, 2⟩]⟩,
  ⟨"WM_LIVE", 0x0090000C, [(0x20, 64)],
    [⟨F.WM_LIVE.TH_HI, .ro, .k 0xD20, 2⟩,
     ⟨F.WM_LIVE.TH_LO, .ro, .k 0, 2⟩]⟩,
  ⟨"WM_STATUS", 0x00900010, [(0x20, 64)],
    [⟨F.WM_STATUS.LOADED, .ro, .k 0x0, 2⟩,
     ⟨F.WM_STATUS.SERVO_SAT, .ro, .k 0, 2⟩,
     ⟨F.WM_STATUS.SRC_LOST, .w1c, .k 0x0, 2⟩,
     ⟨F.WM_STATUS.ECLIPSED, .ro, .k 0, 2⟩,
     ⟨F.WM_STATUS.UNRESOLVED, .ro, .k 0x1, 2⟩,
     ⟨F.WM_STATUS.GATED, .ro, .k 0, 2⟩,
     ⟨F.WM_STATUS.OUT, .ro, .k 0, 2⟩]⟩,
  ⟨"WM_COUNT", 0x00900014, [(0x20, 64)],
    [⟨F.WM_COUNT.COUNT, .rc, .k 0x0, 2⟩]⟩,
  ⟨"WM_TAP", 0x00900018, [(0x20, 64)],
    [⟨F.WM_TAP.VALID, .ro, .k 0x0, 2⟩,
     ⟨F.WM_TAP.MEAN, .ro, .k 0, 2⟩]⟩]

/-- Register types of the Instr group, part 4. -/
def regsInstr3 : List RegRow := [
  ⟨"PG_CFG", 0x00904000, [(0x100, 32)],
    [⟨F.PG_CFG.WORD, .ro, .k 0x0, 2⟩]⟩,
  ⟨"PG_MASK", 0x00904004, [(0x100, 32)],
    [⟨F.PG_MASK.FAULT_MASK, .ro, .k 0x0, 2⟩,
     ⟨F.PG_MASK.TRIP_MASK, .ro, .k 0x0, 2⟩]⟩,
  ⟨"PG_PER_LO", 0x00904008, [(0x100, 32)],
    [⟨F.PG_PER_LO.VALUE, .sb, .k 0x0, 2⟩]⟩,
  ⟨"PG_PER_HI", 0x0090400C, [(0x100, 32)],
    [⟨F.PG_PER_HI.VALUE, .sb, .k 0x0, 2⟩]⟩,
  ⟨"PG_WID_LO", 0x00904010, [(0x100, 32)],
    [⟨F.PG_WID_LO.VALUE, .sb, .k 0x0, 2⟩]⟩,
  ⟨"PG_WID_HI", 0x00904014, [(0x100, 32)],
    [⟨F.PG_WID_HI.VALUE, .sb, .k 0x0, 2⟩]⟩,
  ⟨"PG_DLY_LO", 0x00904018, [(0x100, 32)],
    [⟨F.PG_DLY_LO.VALUE, .sb, .k 0x0, 2⟩]⟩,
  ⟨"PG_DLY_HI", 0x0090401C, [(0x100, 32)],
    [⟨F.PG_DLY_HI.VALUE, .sb, .k 0x0, 2⟩]⟩,
  ⟨"PG_COUNT", 0x00904020, [(0x100, 32)],
    [⟨F.PG_COUNT.WORD, .ro, .k 0x0, 2⟩]⟩,
  ⟨"PG_SERVO", 0x00904024, [(0x100, 32)],
    [⟨F.PG_SERVO.WORD, .ro, .k 0x0, 2⟩]⟩,
  ⟨"PG_STATUS", 0x00904028, [(0x100, 32)],
    [⟨F.PG_STATUS.FAULT_KIND, .ro, .k 0x0, 2⟩,
     ⟨F.PG_STATUS.CAUSE, .ro, .k 0x0, 2⟩,
     ⟨F.PG_STATUS.TRUNC, .w1c, .k 0x0, 2⟩,
     ⟨F.PG_STATUS.STATE, .ro, .k 0x0, 2⟩]⟩,
  ⟨"PG_PULSES", 0x0090402C, [(0x100, 32)],
    [⟨F.PG_PULSES.COUNT, .ro, .k 0x0, 2⟩]⟩,
  ⟨"PG_TRIPS", 0x00904030, [(0x100, 32)],
    [⟨F.PG_TRIPS.COUNT, .rc, .k 0x0, 2⟩]⟩,
  ⟨"PG_SKIP", 0x00904034, [(0x100, 32)],
    [⟨F.PG_SKIP.COUNT, .rc, .k 0x0, 2⟩]⟩]

/-- Register types of the Instr group, part 5. -/
def regsInstr4 : List RegRow := [
  ⟨"PG_TRIPSRC", 0x00904038, [(0x100, 32)],
    [⟨F.PG_TRIPSRC.FIRST, .ro, .k 0x0, 2⟩,
     ⟨F.PG_TRIPSRC.MAP, .ro, .k 0x0, 2⟩]⟩,
  ⟨"PG_FAULT_STAMP_LO", 0x0090403C, [(0x100, 32)],
    [⟨F.PG_FAULT_STAMP_LO.STAMP, .ro, .k 0x0, 2⟩]⟩,
  ⟨"PG_FAULT_STAMP_HI", 0x00904040, [(0x100, 32)],
    [⟨F.PG_FAULT_STAMP_HI.STAMP, .ro, .k 0x0, 2⟩]⟩,
  ⟨"PG_LIST", 0x00908000, [(0x400, 32), (0x10, 64), (0x4, 4)],
    [⟨F.PG_LIST.ENTRY, .ro, .k 0x0, 2⟩]⟩]

/-- Register types of the Cal group, part 1. -/
def regsCal0 : List RegRow := [
  ⟨"CAL_STATUS", 0x00A00000, [],
    [⟨F.CAL_STATUS.STORE_BUSY, .ro, .k 0x0, 3⟩,
     ⟨F.CAL_STATUS.DIRTY, .ro, .k 0x0, 3⟩,
     ⟨F.CAL_STATUS.BANK_FALLBACK, .w1c, .k 0x0, 3⟩,
     ⟨F.CAL_STATUS.BANK_USED, .ro, .k 0x0, 3⟩]⟩,
  ⟨"CAL_BANK_STATE", 0x00A00004, [(0x8, 2)],
    [⟨F.CAL_BANK_STATE.STATE, .ro, .k 0, 3⟩]⟩,
  ⟨"CAL_BANK_SEQ", 0x00A00008, [(0x8, 2)],
    [⟨F.CAL_BANK_SEQ.SEQ, .ro, .k 0, 3⟩]⟩,
  ⟨"CAL_EXT", 0x00A00020, [(0x4, 4)],
    [⟨F.CAL_EXT.TYPE, .ro, .k 0x0, 2⟩,
     ⟨F.CAL_EXT.INDEX, .ro, .k 0x0, 2⟩]⟩,
  ⟨"CAL_CLIP", 0x00A00030, [(0x4, 4)],
    [⟨F.CAL_CLIP.COUNT, .rc, .k 0x0, 3⟩]⟩,
  ⟨"CAL_UNIT_STATE", 0x00A01000, [(0x4, 420)],
    [⟨F.CAL_UNIT_STATE.STATE, .ro, .k 0, 3⟩,
     ⟨F.CAL_UNIT_STATE.CAL_BUSY, .ro, .k 0x0, 3⟩,
     ⟨F.CAL_UNIT_STATE.FAIL, .ro, .k 0x0, 3⟩,
     ⟨F.CAL_UNIT_STATE.MARKED, .ro, .k 0x0, 3⟩,
     ⟨F.CAL_UNIT_STATE.TEMP, .ro, .k 0x0, 3⟩]⟩,
  ⟨"UC_REGION", 0x00B00000, [(0x10, 3)],
    [⟨F.UC_REGION.WORDS, .ro, .k 0, 2⟩,
     ⟨F.UC_REGION.ENTRIES, .ro, .k 0, 2⟩,
     ⟨F.UC_REGION.FORM, .ro, .k 0, 2⟩,
     ⟨F.UC_REGION.PERSISTED, .ro, .k 0, 2⟩,
     ⟨F.UC_REGION.LOAD_ERR, .ro, .k 0, 2⟩,
     ⟨F.UC_REGION.DORMANT, .ro, .k 0, 2⟩,
     ⟨F.UC_REGION.VALID, .ro, .k 0, 2⟩]⟩,
  ⟨"UC_REGION_VER", 0x00B00004, [(0x10, 3)],
    [⟨F.UC_REGION_VER.VERSION, .ro, .k 0, 2⟩]⟩,
  ⟨"UC_REGION_KEY", 0x00B00008, [(0x10, 3)],
    [⟨F.UC_REGION_KEY.KEYID, .ro, .k 0, 2⟩]⟩,
  ⟨"UC_SIGNER", 0x00B00040, [(0x4, 4)],
    [⟨F.UC_SIGNER.VALID, .ro, .k 0, 2⟩,
     ⟨F.UC_SIGNER.SLOT, .ro, .k 0, 2⟩,
     ⟨F.UC_SIGNER.FPR, .ro, .k 0, 2⟩]⟩]

/-- The register types of the region of BAR0 that an address lies in (R468). -/
def regsAt (a : Nat) : List RegRow :=
  if a < 0x20000 then regsHost0 ++ regsHost1
  else if a < 0x30000 then regsReset0 ++ regsReset1
  else if a < 0x40000 then regsClock0 ++ regsClock1
  else if a < 0x50000 then regsPower0
  else if a < 0x80000 then regsPrism0 ++ regsPrism1
  else if a < 0x100000 then regsPlace0
  else if a < 0x300000 then regsTile0
  else if a < 0x400000 then regsSite0 ++ regsSite1 ++ regsSite2
  else if a < 0x600000 then regsPin0 ++ regsPin1
  else if a < 0xA00000 then regsInstr0 ++ regsInstr1 ++ regsInstr2 ++ regsInstr3 ++ regsInstr4
  else regsCal0

end Sys2Proof.Machine
end

