-- ==== Sys2Proof/Machine/Bits.lean ====
section
/-! DEFINITION. Bit fields: reading a field of a word as a number, writing one, two's complement, words from numbers
and bytes from words (least significant byte first, as R10 and R102 give). -/

namespace Sys2Proof.Machine

/-- Bits [hi:lo] of a word as a number. -/
def bits (w : Word) (hi lo : Nat) : Nat := w.toNat / 2 ^ lo % 2 ^ (hi + 1 - lo)

/-- Bit `i` of a word. -/
def bit (w : Word) (i : Nat) : Bool := w.getLsbD i

/-- Bit `i` of a number. -/
def nbit (n i : Nat) : Bool := n.testBit i

/-- A number as a word, modulo 2^32. -/
def word (n : Nat) : Word := BitVec.ofNat 32 n

/-- The value of a field of a word. -/
def fget (w : Word) (f : Fld) : Nat := (w.extractLsb' f.lsb f.width).toNat

/-- A word with all ones in the field and zeros elsewhere. -/
def fmask (f : Fld) : Word := (BitVec.allOnes f.width).setWidth 32 <<< f.lsb

/-- `w` with the field set to `v` (modulo the field's width). -/
def fset (w : Word) (f : Fld) (v : Nat) : Word :=
  (w &&& ~~~ (fmask f)) ||| ((BitVec.ofNat f.width v).setWidth 32 <<< f.lsb)

/-- A number of `n` bits read as two's complement. -/
def sext (n v : Nat) : Int := if v % 2 ^ n < 2 ^ (n - 1) then (v % 2 ^ n : Nat) else (v % 2 ^ n : Nat) - (2 ^ n : Nat)

/-- An integer as `n` bits of two's complement. -/
def toTwos (n : Nat) (v : Int) : Nat := (v % (2 ^ n : Nat)).toNat

/-- The four bytes of a word, least significant first. -/
def wordBytes (w : Word) : List Byte :=
  [w.extractLsb' 0 8, w.extractLsb' 8 8, w.extractLsb' 16 8, w.extractLsb' 24 8]

/-- The little-endian word of four bytes. -/
def bytesWord (a b c d : Byte) : Word := d ++ c ++ b ++ a

/-- Word `i` of a list of words; a word past the end reads as 0. -/
def wd (l : List Word) (i : Nat) : Word := l.getD i 0

/-- The bits set in the low `n` bits of `v`, in rising order. -/
def bitList (n v : Nat) : List Nat := (List.range n).filter (fun i => nbit v i)

/-- The number with exactly the given bits set. -/
def bitsOf (l : List Nat) : Nat := l.foldl (fun a i => a ||| 2 ^ i) 0

/-- 1 for true, 0 for false. -/
def b2n (b : Bool) : Nat := if b then 1 else 0

end Sys2Proof.Machine
end

