-- ==== Sys2Proof/Machine/Map.lean ====
section
/-! DEFINITION. Sparse data by number in one canonical form: keys strictly rising, and no entry equal to what an
unlisted key reads as. The registers, the units and the buffers of State are held this way. -/

namespace Sys2Proof.Machine

/-- A sparse table: (key, value) pairs in rising key order. -/
abbrev KMap (α : Type) := List (Nat × α)

/-- The value at a key; an unlisted key reads as `d` of the key. -/
def kget {α : Type} (d : Nat → α) : KMap α → Nat → α
  | [], k => d k
  | p :: m, k => if k = p.1 then p.2 else kget d m k

/-- A table with the key listed at a value. -/
def kins {α : Type} : KMap α → Nat → α → KMap α
  | [], k, v => [(k, v)]
  | p :: m, k, v =>
    if k < p.1 then (k, v) :: p :: m else if k = p.1 then (k, v) :: m else p :: kins m k v

/-- A table with the key unlisted. -/
def kdel {α : Type} (m : KMap α) (k : Nat) : KMap α := m.filter (fun p => p.1 ≠ k)

/-- A table with the key at a value: a value equal to the unlisted reading removes the entry. -/
def kset {α : Type} [DecidableEq α] (d : Nat → α) (m : KMap α) (k : Nat) (v : α) : KMap α :=
  if v = d k then kdel m k else kins m k v

/-- The canonical form: keys strictly rising, no entry equal to its unlisted reading. -/
abbrev KWf {α : Type} (d : Nat → α) (m : KMap α) : Prop :=
  m.Pairwise (fun p q => p.1 < q.1) ∧ ∀ p ∈ m, p.2 ≠ d p.1

/-- The keys at which two canonical tables differ, in rising order (the first number bounds the walk). -/
def kdiff {α : Type} [DecidableEq α] : Nat → KMap α → KMap α → List Nat
  | 0, _, _ => []
  | _ + 1, [], b => b.map (·.1)
  | _ + 1, a, [] => a.map (·.1)
  | n + 1, p :: a, r :: b =>
    if p.1 < r.1 then p.1 :: kdiff n a (r :: b)
    else if r.1 < p.1 then r.1 :: kdiff n (p :: a) b
    else if p.2 = r.2 then kdiff n a b
    else p.1 :: kdiff n a b

/-- The keys at which two canonical tables differ. -/
def kchanged {α : Type} [DecidableEq α] (a b : KMap α) : List Nat := kdiff (a.length + b.length + 1) a b

/-- What the first table held where the second differs from it. -/
def kold {α : Type} [DecidableEq α] (d : Nat → α) (a b : KMap α) : KMap α := (kchanged a b).map (fun k => (k, kget d a k))

/-- A table with old values put back at the keys that `keep` does not name. -/
def kputBack {α : Type} [DecidableEq α] (d : Nat → α) (old : KMap α) (keep : Nat → Bool) (m : KMap α) : KMap α :=
  old.foldl (fun m p => if keep p.1 then m else kset d m p.1 p.2) m

/-- The table with every value replaced by a function of its key and value, back in canonical form. -/
def kmap {α : Type} [DecidableEq α] (d : Nat → α) (f : Nat → α → α) (m : KMap α) : KMap α :=
  m.filterMap (fun p => if f p.1 p.2 = d p.1 then none else some (p.1, f p.1 p.2))

end Sys2Proof.Machine
end

