-- ==== Sys2Proof/Machine/TypesEvents.lean ====
section
/-! DEFINITION. The state of the prism and the lens that is not a register (R385 to R407). -/

namespace Sys2Proof.Machine

/-- A stamp: coarse count, 16-bit fraction and whether the fraction is meant (R344, R385). -/
structure Stamp where
  coarse : Nat
  frac : Nat := 0
  hasFrac : Bool := false
  deriving DecidableEq, Repr

/-- An event (R385). `ready` is the earliest start of its delivering FAB cycle (R391). -/
structure Event where
  prod : Nat
  kind : Nat
  gen : Nat
  stamp : Stamp
  ready : Nat
  deriving DecidableEq, Repr

/-- An event that has reached a unit input: when it becomes present there, its generation and its stamp. -/
structure Arrival where
  due : Nat
  gen : Nat
  stamp : Stamp
  deriving DecidableEq, Repr

/-- The prism: registered events not yet delivered, in registering order; software producers with the tick at which they will register
(R399); which multiple of its period each TICK producer fires next; when each TIO output pulse rises and ends; when each RING_OUT is free
again. -/
structure Prism where
  flight : List Event := []
  later : List (Nat × Nat) := []
  nextTick : KMap Nat := []
  tioPulse : KMap (Nat × Nat) := []
  ringOutFree : KMap Nat := []
  deriving DecidableEq, Repr

/-- A fault report on its way to the lens (R400 to R402). `domain` is the clock domain of a code 0x12 report, `warm` whether WARMING held
when the stamp was taken (R403). -/
structure Report where
  unit : Nat
  code : Nat
  key : Nat
  stamp : Nat
  domain : Nat := 0
  warm : Bool := false
  deriving DecidableEq, Repr

/-- An incident that is gathering (R402, R403). `seq` is none for an incident that is not recorded (R405). -/
structure Incident where
  seq : Option Nat
  key : Nat
  first : Nat
  firstStamp : Nat
  code : Nat
  count : Nat
  lastStamp : Nat
  map : Nat
  codes : Nat
  warming : Bool
  remote : Bool := false
  origin : Nat := 0
  deriving DecidableEq, Repr

/-- The lens beside its registers: reports not yet processed, incidents still gathering, the SEQs whose records are held
and unacknowledged, oldest first, and whether a loss has been signalled since a slot was last freed (R405). -/
structure Lens where
  reports : List Report := []
  openInc : List Incident := []
  heldSeqs : List Nat := []
  lossSignalled : Bool := false
  deriving DecidableEq, Repr

end Sys2Proof.Machine
end

