-- ==== Sys2Proof/Machine/TypesLink.lean ====
section
/-! DEFINITION. The state of the host link that is not a register: ring doorbells, fetched and running commands,
sessions, key slots and the link itself (R73 to R113); and what the block sends out. -/

namespace Sys2Proof.Machine

/-- What the block sends out: writes of host memory, MSI-X messages, completions of BAR reads and of configuration reads, SMBus blocks, ring
frames and what the test access port selects. State keeps them in order (DESIGN CHOICE, log entry 4). -/
inductive Output where
  | hostWrite (addr : Nat) (words : List Word)
  | msix (vector : Nat)
  | readData (addr : Nat) (value : Word)
  | configData (addr : Nat) (value : Word)
  | smbusBlock (words : List Word)
  | ringFrame (words : List Nat)
  | tapData (value : Nat)
  deriving DecidableEq, Repr

/-- A submission entry and its packet, fetched and not yet started (R80, R85). `order` numbers fetches over all rings
(R90). `packet` is none when its host-memory read failed (R91). -/
structure Fetched where
  order : Nat
  entry : List Word
  packet : Option (List Word)
  deriving DecidableEq, Repr

/-- A finished command's reply, before it is written (R97 to R99). -/
structure Reply where
  status : Nat
  detail : Nat
  stamp : Nat
  results : List Word
  deriving DecidableEq, Repr

/-- What follows the writing of a reply: the sessions of a revoked slot close (KEY_REVOKE), or the software source is
armed at a reach (RESET, FW_LOAD ACTIVATE). -/
inductive After where
  | none | closeSlot (slot : Nat) | software (reach : Nat)
  deriving DecidableEq, Repr

/-- A command executing on a command core (R87 to R90). `held` are the units it holds, `want` those it waits for and `waitSince` the time
from which it has waited (R45), `ack` what the units have said of a two-phase request that is committed and waits for acknowledgements,
`ackUnits` its units and `before` the claims they held before its prepare (R43, R440), `late` the host's writes to shadow-banked fields of
units it holds prepared, each with the field's new and its earlier value (R46), `stage`, `due` and `data` its progress where it takes
several steps, `orphan` whether a host-link reset met it (R113). -/
structure Cmd where
  order : Nat
  entry : List Word
  packet : List Word
  core : Nat
  held : List Nat := []
  want : List Nat := []
  ack : Option CommitEnv := none
  ackUnits : List Nat := []
  before : List (Nat × Nat) := []
  late : List (Nat × Fld × Nat × Nat) := []
  waitSince : Option Nat := none
  stage : Nat := 0
  due : Nat := 0
  data : List Int := []
  reply : Option Reply := none
  after : After := .none
  orphan : Bool := false
  deriving DecidableEq, Repr

/-- A session of a ring (R101 to R105): its nonce, key slot and last accepted counter. -/
structure Session where
  nonce : Nat
  slot : Nat
  counter : Nat
  deriving DecidableEq, Repr

/-- A ring pair beside its registers: the doorbell values, the fetched commands oldest first, the running command, the
session, the completions not yet signalled with the time of the oldest, and whether their message is due and MSI-X was not enabled
(R93). -/
structure Ring where
  tail : Nat := 0
  cqHead : Nat := 0
  fetched : List Fetched := []
  run : Option Cmd := none
  session : Option Session := none
  unsignalled : Nat := 0
  oldest : Nat := 0
  owed : Bool := false
  deriving DecidableEq, Repr

/-- The state of a key slot (R105, R106). -/
inductive KeyState where
  | blank | provisioned | revoked
  deriving DecidableEq, Repr

/-- A key slot: its state and its 32 key bytes. -/
structure KeySlot where
  state : KeyState := .blank
  key : List Byte := []
  deriving DecidableEq, Repr

/-- The PCI Express link: PERST_N, link state, Bus Master Enable, MSI-X Enable and Function Mask, the command cores under isolated reset,
the fetch counter and the round-robin pointers of R88. D3hot, FW_READY, UMBRA and BOOT_WAIT are in HL_STATUS. -/
structure Link where
  perst : Bool := true
  up : Bool := false
  trainable : Bool := false
  busMaster : Bool := false
  msix : Bool := false
  msixMask : Bool := false
  coresDown : List Nat := []
  nextOrder : Nat := 0
  rrHigh : Nat := 7
  rrLow : Nat := 7
  deriving DecidableEq, Repr

end Sys2Proof.Machine
end

