-- ==== Sys2Proof/Machine/TypesPattern.lean ====
section
/-! DEFINITION. The state of the placement engine, of pattern objects, of the sites' sequencers and of the microcode
that is not a register (R114 to R195). Times of cycles are in timing units of 250 fs, 1,250 to the MTC tick. -/

namespace Sys2Proof.Machine

/-- A segment of a loaded pattern object (R116, R118): its flags, its control words, its vector lines, whether it is
streamed, the place of its vector lines (byte offset of a local segment's share within the tile's local memory, or byte
offset within the container of a streamed one) and whether local memory holds it damaged (R136). -/
structure Seg where
  doubleData : Bool
  padTol : Bool
  forceLocal : Bool
  ctrl : List Word
  cycles : Nat
  lines : List Word
  streamed : Bool := false
  offset : Nat := 0
  damaged : Bool := false
  deriving DecidableEq, Repr

/-- A pattern object (R116 to R122): the site it was loaded for, the first tile the site had, whether it is still bound,
its header fields, its segments, its container, its control rate (R121), and the space it takes: 1 KiB units of local
memory for vector lines and for control words, 64 KiB blocks of HBM. -/
structure PatObj where
  site : Nat
  first : Nat
  width : Nat
  bound : Bool := true
  pad : Bool
  minPeriod : Nat
  keepalive : Nat
  segs : List Seg
  container : List Word
  rate : Nat := 1
  vecAt : Nat := 0
  vecUnits : Nat := 0
  ctlAt : Nat := 0
  ctlUnits : Nat := 0
  hbmAt : Nat := 0
  hbmBlocks : Nat := 0
  deriving DecidableEq, Repr

/-- A capture buffer or a fail log (R131): its KIND, its site (fail log), its size, its rate, its place in HBM in 64 KiB
blocks, the handle of the measurement bound to it (0: none), and the words written to it. -/
structure Buffer where
  kind : Nat
  site : Nat
  kib : Nat
  rate : Nat
  hbmAt : Nat
  boundTo : Nat := 0
  data : KMap Word := []
  deriving DecidableEq, Repr

/-- A placed measurement (R133): its KIND and sources, the units taken, the prism enable bits set, the die lines held, the
measurement-engine slot and the capture buffer. -/
structure Meas where
  kind : Nat
  edges : Nat
  srcA : Nat
  srcB : Nat
  units : List Nat
  links : List (Nat × Nat)
  lines : List Nat
  slot : Option Nat
  buffer : Nat
  deriving DecidableEq, Repr

/-- A slot of a handle table: its generation and what it holds (R114, R115). -/
structure Slot (α : Type) where
  gen : BitVec 12 := 0
  val : Option α := none
  deriving DecidableEq, Repr

/-- A host read that waits for the HBM3 controller (R134): BAR, address, words corrected in it, whether it is in error. -/
structure WinRead where
  bar : Nat
  addr : Nat
  ce : Nat
  ue : Bool
  deriving DecidableEq, Repr

/-- The placement engine: the four handle tables, the stream reservation of each site that holds one (R129), the refill served
last at each level of the HBM3 controller and the host reads that wait for it (R134). -/
structure Place where
  objs : KMap (Slot PatObj) := []
  bufs : KMap (Slot Buffer) := []
  logs : KMap (Slot Buffer) := []
  meas : KMap (Slot Meas) := []
  reserve : KMap Nat := []
  served : KMap Nat := []
  reads : List WinRead := []
  deriving DecidableEq, Repr

/-- A tile's prefetch buffer and, in a lead tile, control queue (R124): bytes held, bytes of the stream fetched so far and
whether a burst is on its way; and the records of its first-fail store (R261). -/
structure Tile where
  fill : Nat := 0
  fetched : Nat := 0
  burst : Bool := false
  ctrlFill : Nat := 0
  ctrlFetched : Nat := 0
  ctrlBurst : Bool := false
  store : List (List Word) := []
  latch : Option (Nat × Word) := none
  deriving DecidableEq, Repr

/-- A cycle issued into a site's cycle queue (R175): its number, when it starts at the pins and how long it lasts, in
timing units, the segment and line it drives, its timing set, the match iteration it belongs to (none: ordinary
compares), its mask set, whether it carries a beacon, whether STATUS fires at its end for a match, whether the timing banks
apply at it and whether it is a pad cycle. -/
structure QCycle where
  num : Nat := 0
  start : Nat := 0
  per : Nat := 0
  seg : Nat
  line : Nat
  tset : Nat
  iter : Option Nat := none
  mask : Nat := 0
  beacon : Bool := false
  status : Bool := false
  apply : Bool := false
  pad : Bool := false
  deriving DecidableEq, Repr

/-- A compare of a driven cycle (R249 to R253): pin, outcome bit, the edge that strobes or closes it (4: C0, 5: C1), the
expectation, whether it is a window compare, the programmed time that orders it (ts) and that of its C0. -/
structure Cmp where
  pin : Nat
  obit : Nat
  edge : Nat
  exp : Nat
  window : Bool
  ts : Nat
  open_ : Nat := 0
  deriving DecidableEq, Repr

/-- What a tile's cycle has given so far (R259, R260): the failing bits with the earliest of their edges, the captured
bits with the earliest capture edge (none: no capture edge held), and what marks them; `firsts` are the failing bits of
pins whose first fail of the run lies in this cycle, `missed1` and `fault1` what marks them (R263). -/
structure TileRes where
  tile : Nat
  mask : Nat
  fails : Nat := 0
  failTs : Option Nat := none
  missedF : Bool := false
  fault : Bool := false
  firsts : Nat := 0
  missed1 : Bool := false
  fault1 : Bool := false
  firstTs : Option Nat := none
  caps : Nat := 0
  capTs : Option Nat := none
  missedC : Bool := false
  deriving DecidableEq, Repr

/-- A driven cycle whose records have not all been made: the compares still out, the unmasked ones that have passed, each with the
time that orders it, what its tiles have given, and the lane engines that have met a parity failure in it (R268). -/
structure Taken where
  cyc : QCycle
  cmps : List Cmp
  tiles : List TileRes
  faulty : List Nat := []
  passed : List (Cmp × Nat) := []
  deriving DecidableEq, Repr

/-- The open match block of a site (R153, R157): MODE, COUNT, TARGET, the position of its MATCH, the number of its first
iteration and of its present one, the position of its MATCH_END. -/
structure MatchBlock where
  mode : Nat
  count : Nat
  target : Word
  seg : Nat
  ofs : Nat
  firstIter : Nat
  iter : Nat
  last : Nat × Nat := (0, 0)
  deriving DecidableEq, Repr

/-- What the lane engines have combined of an iteration (R258): its number, its latest compare edge so far, whether an
unmasked compare failed. -/
structure IterRes where
  num : Nat
  lastEdge : Nat := 0
  failed : Bool := false
  deriving DecidableEq, Repr

/-- Where control goes after an instruction's span (R173 FLOW). -/
inductive Dest where
  | next | target | call | ret | loopBack | loopExit | matchBack | matchExit | matchTimeout
  deriving DecidableEq, Repr

/-- A running micro-routine (R173 to R184): the instruction it carries out (opcode, control word, extension words, position,
first vector line, how it was entered), its dispatch time, the start of its present microcycle, the microword's address, the
micro-stack, staged writes, the micro-counter, the cycles it has issued, microcycles since dispatch or the last yield,
whether the present microword has executed once, whether a repeat is open, the event flag as at dispatch,
what it has decided for the end of the span, whether a halt ends it at its next YIELD or END (R181), whether a pause
has stopped its repetitions (R164), and the host jump present at its dispatch (0: none; R168). Of an open repeat: its line,
the TSOP, IMM and MSK of the microword that opened it, and the iteration it marked its cycles with. -/
structure Routine where
  opcode : Nat
  ctl : Word
  ext : List Word
  seg : Nat
  ofs : Nat
  line : Nat
  fromLoopEnd : Bool
  dispatch : Nat
  time : Nat
  upc : Nat
  ustack : List Nat := []
  staged : List (Nat × Word) := []
  micro : Nat := 0
  issued : Nat := 0
  lineIdx : Nat := 0
  firstRepeat : Nat := 0
  sinceYield : Nat := 0
  executed : Bool := false
  repeating : Bool := false
  repeatLine : Nat := 0
  repeatTsop : Nat := 0
  repeatImm : Nat := 0
  repeatIter : Option Nat := none
  flag : Bool := false
  dest : Dest := .next
  runc : Nat := 0
  applied : Bool := false
  halting : Bool := false
  pausing : Bool := false
  repeatMask : Nat := 0
  jump : Nat := 0
  deriving DecidableEq, Repr

/-- A stop a site is coming to (R166): CAUSE, when the cycle after the stop cycle would have started, whether VALID is
kept, and the generation of the event that caused it. -/
structure Stop where
  cause : Nat
  at_ : Nat
  valid : Bool
  gen : Nat := 0
  deriving DecidableEq, Repr

/-- The fail log of a site beside its registers (R263 to R266): records not yet written, the RLE run of each tile (the FAIL and the
CAPTURE record of its cycles, those there are), credit
in units of 1/3,200 byte, when the credit was last brought up to date, the GAP that is pending (first cycle lost, its stamp,
records lost), and the header that is due. -/
structure LogState where
  queue : List (List Word) := []
  runs : KMap (List (List Word)) := []
  credit : Nat := 0
  creditAt : Nat := 0
  gap : Option (Nat × Nat × Nat) := none
  header : Option Bool := none
  deriving DecidableEq, Repr

/-- A site's sequencer beside its registers (R139 to R170). Positions are (segment, control-word offset); times are in timing units but
for `startDue`, `resumeDue` and `pauseAt` (ticks). `pauseAt` is when the latest pause was registered, and `resumeThen` a resume that met
it in its FAB cycle, with a number of instructions to step (R167). `pos` is the next instruction to dispatch; `loops` holds (counter,
position) of open loops; `queue`, `align` and `taken` are the cycles issued, read and driven; `banks` the shadow banks captured for
TSET_APPLY instructions whose first cycle has not been taken; `marks` (first cycle, its start) of the test closes dispatched; `fails`
(cycle, compare edge) of failing compares since the close before the latest one settled; `closes` (first cycle, TEST) of tests not yet
closed; `first` the first fail (ts, pin, bit); `used` and `usedCtl` the bytes of the stream consumed; `ueAt` and `ueCtl` the stream byte
in error; `jumpId` numbers host jumps and `hist` holds (cycles, jump present) of the latest dispatches; `boundary` tells that a jump
boundary has been reached. -/
structure Site where
  pos : Nat × Nat := (0, 0)
  fromLoopEnd : Bool := false
  routine : Option Routine := none
  routineEnd : Nat := 0
  loops : List (Nat × Nat × Nat) := []
  counters : KMap Nat := []
  calls : List (Nat × Nat) := []
  block : Option MatchBlock := none
  iters : List IterRes := []
  nextIter : Nat := 0
  queue : List QCycle := []
  align : List QCycle := []
  taken : List Taken := []
  banks : List (List (Nat × Word)) := []
  nextStart : Nat := 0
  nextNum : Nat := 0
  lastRun : Nat := 0
  fails : List (Nat × Nat) := []
  closes : List (Nat × Nat) := []
  marks : List (Nat × Nat) := []
  first : Option (Nat × Nat × Nat) := none
  padding : Bool := false
  used : Nat := 0
  usedCtl : Nat := 0
  ueAt : Option Nat := none
  ueCtl : Option Nat := none
  pausePend : Bool := false
  pauseAt : Nat := 0
  resumeThen : Option (Option Nat) := none
  steps : Option Nat := none
  stop : Option Stop := none
  parkDue : Option Nat := none
  priming : Bool := false
  startDue : Option Nat := none
  resumeDue : Option Nat := none
  jumpId : Nat := 0
  hist : List (Nat × Nat) := []
  boundary : Bool := false
  jumped : Bool := false
  runGen : Nat := 0
  stopGen : Nat := 0
  log : LogState := {}
  deriving DecidableEq, Repr

/-- A region of the control store (R171): its words from its image, the dispatch records it set, its form, version, the
first fingerprint bytes, and whether the last bring-up failed to load it. -/
structure Region where
  form : Nat := 0
  base : Nat := 0
  version : Nat := 0
  keyId : Nat := 0
  words : List (List Word) := []
  records : List (Nat × Word) := []
  loadErr : Bool := false
  badWords : List Nat := []
  badEntries : List Nat := []
  deriving DecidableEq, Repr

/-- An entry of the signer table (R188): fingerprint, key slot and binding tag. -/
structure Signer where
  fingerprint : Nat
  slot : Nat
  tag : List Byte
  deriving DecidableEq, Repr

/-- The microcode: the three regions, held alike in every physical tile (R171). -/
structure Micro where
  regions : KMap Region := []
  deriving DecidableEq, Repr

end Sys2Proof.Machine
end

