-- ==== Sys2Proof/Machine/TypesPins.lean ====
section
/-! DEFINITION. The state of a pin channel that is not a register (R197 to R253): what its formatter and driver have been
set to, the edges its timing generator holds, its window compare, and changes of its mode, levels and PMU that are under
way. -/

namespace Sys2Proof.Machine

/-- What an edge or a cycle start does (R223 to R225, R234): drive a level (0 VIL, 1 VIH, 2 VTT), set the driver enable,
sample the comparator, set the enable without an edge (EMODE FOLLOW), choose the active load. -/
inductive EdgeAct where
  | drive (level : Nat)
  | enable (on : Bool)
  | compare (opens : Bool)
  | follow (on : Bool)
  | load (choice : Nat)
  deriving DecidableEq, Repr

/-- An edge that has been computed and not yet generated: programmed time, start, number and timing set of its cycle, its
edge number, and what it does. -/
structure PinEdge where
  time : Nat
  cyc : Nat
  num : Nat
  tset : Nat
  edge : Nat
  act : EdgeAct
  deriving DecidableEq, Repr

/-- A pin channel: its formatter's level, enable and load choice, the last generated edge of each stream (R207), the edges held, the open
window (start of its cycle; R251), windows cut with the time of the cut, compare edges that are missing, as (cycle start, edge) (R252);
the latest commit of a mode change under way, and the earliest whose disconnection is still to come (R219); the same of a PMU break, and
whether FORCE changed between 0 and 1 (R280, R273); when the isolation switch closes, and whether only a strobe of the VIH group closes it
again (R233, R242, R454); since when the output has limited its current (R233, R281); the servo correction in µV and the tick of its last
step (R276); whether a strobe has updated PMUF, CLH or CLL since the last sample of a measurement (R283). Times of this paragraph are
ticks, `closeAt` in timing units. -/
structure Pin where
  level : Nat := 0
  en : Bool := false
  load : Nat := 0
  lastD : Option Nat := none
  lastC : Option Nat := none
  lastE : Option Nat := none
  edges : List PinEdge := []
  window : Option Nat := none
  cuts : List (Nat × Nat) := []
  missed : List (Nat × Nat) := []
  modeAt : Option Nat := none
  partAt : Option Nat := none
  rangeAt : Option Nat := none
  breakAt : Option Nat := none
  zeroed : Bool := false
  closeAt : Option Nat := none
  byVih : Bool := false
  limitAt : Option Nat := none
  servo : Int := 0
  servoAt : Nat := 0
  strobed : Bool := false
  deriving DecidableEq, Repr

/-- What one DAC or one set of shadow-banked fields loads at a strobe (R240, R285, R301, R313): a level DAC's code; the SLEW
and LOAD_EN of a pin; a source channel's idle code; a monitor's thresholds and shape; a pulse engine's timing words. `on` tells that
the channel was enabled, and able to close its switch, as the strobe was registered; `epoch` is the number of the last enable or
change of a monitor that was enabled then (R285, R286, R300). -/
inductive Load where
  | level (pin dac code : Nat)
  | drive (pin slew loadEn : Nat)
  | idle (ch code : Nat) (on : Bool)
  | monitor (wm : Nat) (th shape : Word) (epoch : Option Nat)
  | engine (pg : Nat) (words : List Word)
  deriving DecidableEq, Repr

/-- A strobe on its way to the dies: when it updates the DACs, in timing units, and what they load. -/
structure Strobe where
  due : Nat
  loads : List Load
  deriving DecidableEq, Repr

/-- Strobes: those under way; the groups of each die with a strobe held that an event caused (R241); loads held for units
under calibration (R419); strobes of commands that wait for breaks to end, as units in a break and (die, group) (R295). -/
structure Levels where
  strobes : List Strobe := []
  byEvent : KMap Nat := []
  calHeld : List Load := []
  late : List (List Nat × List (Nat × Nat)) := []
  deriving DecidableEq, Repr

end Sys2Proof.Machine
end

