-- ==== Sys2Proof/Machine/TypesPower.lean ====
section
/-! DEFINITION. The state of clocks, power management, the arbiter and the thermal monitors that is not a register
(R428 to R446). -/

namespace Sys2Proof.Machine

/-- A running-block claim (R441): its unit, or class 0x13 for a scrub step, and its amount in mW. -/
structure Waiting where
  unit : Nat
  amount : Nat
  deriving DecidableEq, Repr

/-- A change of power state under way (R438): its target and when it is complete. `deeper` tells an entry from an exit. -/
structure Transition where
  target : Nat
  due : Nat
  deeper : Bool
  deriving DecidableEq, Repr

/-- Power management: granted claims by unit identifier in mW (R439; sites under class 0x0E, the automatic bin calibration of a
die under class 0x0D, the scrub step under class 0x13), waiting claims oldest first, when the next automatic bin check of a
die and the next scrub step are due (ticks), transitions by block, when each block's state was last selected, until when the
units of a die that returned to P0 are warming, scrub progress, and for each sensor the time since which its readings have all
been 5 °C below the throttle and critical limits (R443), when the sensors were last read, the dies in thermal shutdown, 4
standing for the HBM3 controller, and the sensors of the dies whose shutdown comparators tripped (R473). -/
structure Power where
  claims : KMap Nat := []
  queue : List Waiting := []
  binCheck : KMap Nat := []
  scrubAt : Nat := 1080000000000
  moving : KMap Transition := []
  islandWarm : KMap Nat := []
  scrubStep : Nat := 0
  scrubActive : Bool := false
  tempAt : Nat := 0
  coolThrottle : KMap Nat := []
  coolCritical : KMap Nat := []
  shutDown : List Nat := []
  shutBy : List Nat := []
  deriving DecidableEq, Repr

/-- Clocks: consecutive failed windows by domain (R430), when REF went missing (none: present, or the clock-failure source has
fired for it), the first sample of OVEN_WARM and whether its pull-down is on (R65, R66), until when WARMING holds with OVEN_WARM
unwired (R342), the smallest DIV the flash allows (R433), and the front-end dies whose link is down (R34). -/
structure Clocks where
  badWindows : KMap Nat := []
  missingSince : Option Nat := none
  ovenFirst : Option Bool := none
  warmUntil : Option Nat := none
  sfdpMin : Nat := 2
  ovenDown : Bool := false
  linksDown : List Nat := []
  deriving DecidableEq, Repr

end Sys2Proof.Machine
end

