-- ==== Sys2Proof/Machine/TypesReset.lean ====
section
/-! DEFINITION. The state of the reset controller, the fuses, the flash and the service record that is not a register
(R447 to R467). -/

namespace Sys2Proof.Machine

/-- How far release sequencing has come (R450, R451): not in reset; held; held with OVEN_WARM decided, before the straps are
sampled; held with the straps sampled; sequencing; host-boot wait; stopped by TEST_EN. -/
inductive Phase where
  | running | held | straps | sampled | release | hostBoot | testHeld
  deriving DecidableEq, Repr

/-- An isolated or site reset in progress (R453, R455): the command's ring, the unit or site, when the idle request was made,
its stamp, and when the reset took place (none: the block is still asked to become idle). -/
structure IsoReset where
  ring : Nat
  unit : Nat
  since : Nat
  stamp : Nat
  resetAt : Option Nat := none
  deriving DecidableEq, Repr

/-- The reset controller: asserted sources with the tick at which each is released (none: not released yet); those asserted
and not yet taken by the algorithm of R450; sources latched since bring-up last completed, each with its reach; the reach
latched or of the last reset; the stamp of the earliest assertion; the SUB of
each source; the reach of the software source; the phase; when release sequencing started (tR); whether this start has been
counted as failed; blocks still waiting for a clock, as (block, since when); isolated resets under way; the software source
armed by a completion (due, reach, ring); the tick of the last host-watchdog restart; TEST_EN as sampled; whether the
firmware is running; the outputs READY and SYS_RST_OUT (R69); and the register accesses that wait in the fabric for a block in reset, in
their order, each with the unit (R453). -/
structure ResetCtl where
  asserted : List (Nat × Option Nat) := []
  news : List Nat := []
  latched : List (Nat × Nat) := []
  reach : Nat := 0
  stamp : Nat := 0
  subs : KMap Nat := []
  softReach : Nat := 2
  phase : Phase := .running
  since : Nat := 0
  counted : Bool := false
  waiting : KMap Nat := []
  iso : List IsoReset := []
  software : Option (Nat × Nat × Nat) := none
  kickAt : Nat := 0
  testEn : Bool := false
  fwUp : Bool := false
  ready : Bool := false
  sysRst : Bool := true
  fabric : List (Nat × Instr) := []
  deriving DecidableEq, Repr

/-- Fuses and other per-device facts: grade, serial numbers, the reach-table rows programmed after row 0 in order (none: a row
whose programming failed; R448). -/
structure Fuses where
  grade : Nat := 0x0A
  serials : List Nat := [1, 2, 3, 4, 5]
  reachRows : List (Option Nat) := []
  deriving DecidableEq, Repr

/-- A firmware package in a flash slot (R461): SEQ, VERSION, its Lenmas images by form, whether it verifies, and the Subsystem Vendor
and Subsystem IDs of its header (R73). -/
structure FwSlot where
  seq : Nat
  version : Nat
  native : List Word
  mirror : List Word
  valid : Bool
  subVendor : Nat := 0
  subsystem : Nat := 0
  deriving DecidableEq, Repr

/-- A copy of the service record (R462): sequence number, remaps as (unit identifier, physical unit), retired pins. -/
structure SvcRecord where
  seq : Nat
  remaps : List (Nat × Nat)
  retired : List Nat
  valid : Bool
  deriving DecidableEq, Repr

/-- A copy of the profile record (R378): sequence number, mirror or native. -/
structure ProfRecord where
  seq : Nat
  mirror : Bool
  valid : Bool
  deriving DecidableEq, Repr

/-- The SPI flash (R1): firmware slots A and B, stored microcode images by (region, form), the signer table, the words of the
two calibration banks (R423; a word past the list reads erased), the two profile record copies and the two service record
copies. -/
structure Flash where
  fw : KMap (Option FwSlot) := []
  images : KMap (List Word) := []
  signers : KMap (Option Signer) := []
  banks : KMap (List Word) := []
  profile : KMap (Option ProfRecord) := []
  service : KMap (Option SvcRecord) := []
  deriving DecidableEq, Repr

/-- The service record in force (R462 to R464): remaps as (unit identifier, physical unit), the last of a unit in force, and
retired pins; the version of the running firmware and whether a host loaded it (R458, R461). -/
structure Service where
  remaps : List (Nat × Nat) := []
  retired : List Nat := []
  fwVersion : Nat := 0
  hostFw : Bool := false
  deriving DecidableEq, Repr

/-- What the boundary cells do to the scanned balls (R467). -/
inductive TapDrive where
  | system | cells | highZ
  deriving DecidableEq, Repr

/-- The data register between TDI and TDO (R467). -/
inductive TapReg where
  | bypass | boundary | ident
  deriving DecidableEq, Repr

/-- The test access port (R467): the instruction register, the data register selected, what drives the scanned balls, whether
an AC test runs on the AC-coupled pairs, the preloaded cells and what was last sampled. -/
structure Tap where
  ir : Nat := 0x02
  dr : TapReg := .ident
  drive : TapDrive := .system
  acTest : Bool := false
  cells : List Bool := []
  sampled : List Bool := []
  deriving DecidableEq, Repr

end Sys2Proof.Machine
end

