-- ==== Sys2Proof/Machine/TypesTime.lean ====
section
/-! DEFINITION. The state of the gnomon and of the Xearn ring that is not a register (R340 to R353, R465, R466). -/

namespace Sys2Proof.Machine

/-- The gnomon: the tick of the model's clock at which the count is 0, whether it counts, the count GN_NOW_LO last
latched. -/
structure Gnomon where
  origin : Int := 0
  running : Bool := false
  latch : Nat := 0
  deriving DecidableEq, Repr

/-- The Xearn ring: the positions of the members and of those on ring time as the last frames told, in how many consecutive
frames each has been absent, when the last sync frame arrived, the offset of a step that waits (fine units), the last offset
after correction, whether the XI lock is lost, and when the master last sent a frame (ticks). -/
structure Xearn where
  members : List Nat := []
  onTime : List Nat := []
  absent : KMap Nat := []
  lastSync : Option Nat := none
  stepWait : Option Int := none
  lastOffset : Int := 0
  lockLost : Bool := false
  sent : Nat := 0
  deriving DecidableEq, Repr

end Sys2Proof.Machine
end

