-- ==== Sys2Proof/Machine/TypesUnits.lean ====
section
/-! DEFINITION. The state of source channels, window monitors, pulse engines and the calibration engines that is not a
register (R284 to R320, R410 to R420). Times are in timing units of 250 fs unless a field says ticks. -/

namespace Sys2Proof.Machine

/-- A waveform segment (R288): STEP and its samples. -/
structure AwSeg where
  step : Nat
  samples : List Int
  deriving DecidableEq, Repr

/-- A source channel (R284 to R294): its segments and sequence steps; when its switch closes; the commit of a break under
way (ticks), whether the break's switch has opened; the commit of a disabling (ticks); since when it limits (ticks); a start
under way (due, step); the stops under way; when the present repetition began and when it ends; a pending jump (present from,
step) and whether it has been seen to be late (R293); events at AW_TRIG not yet present; the generation of the event TRIG_PEND
stands for (R393); and the step played before the present one, whose last sample the output holds while waiting (R285). -/
structure Aw where
  segs : KMap (Option AwSeg) := []
  steps : KMap (Word × Word) := []
  closeAt : Option Nat := none
  rangeAt : Option Nat := none
  breakAt : Option Nat := none
  offAt : Option Nat := none
  limitAt : Option Nat := none
  start : Option (Nat × Nat) := none
  stopAt : List Nat := []
  began : Nat := 0
  boundary : Nat := 0
  jump : Option (Nat × Nat) := none
  late : Bool := false
  trigs : List Arrival := []
  gen : Nat := 0
  last : Option Nat := none
  deriving DecidableEq, Repr

/-- A window monitor (R296 to R306): its input in µV (DESIGN CHOICE, log entry 30), its comparisons, the tick at which its settle time
passes (none: passed), whether a strobe has loaded its thresholds since the last enable or change, whether it is resolving,
since when its ramp grows by the present SLOPE and what it was then, when its eclipse closes (ticks), when the tap converter last gave a
mean (ticks), whether an isolated reset holds its output inactive; since when its gated output is active; whether it lost its input to
the retiring of a pin and has been given no other (R306); the number of its last enable or change (R300). -/
structure Wm where
  input : Int := 0
  above : Bool := false
  below : Bool := false
  settleAt : Option Nat := none
  loaded : Bool := false
  resolving : Bool := true
  ramp : Option (Nat × Nat) := none
  eclipse : Option Nat := none
  tapAt : Nat := 0
  held : Bool := false
  gatedAt : Nat := 0
  lost : Bool := false
  epoch : Nat := 0
  deriving DecidableEq, Repr

/-- A pulse engine (R307 to R320): a go under way (its time, its generation), the time of the next leading edge and its
number, when the pulse in progress ends (none: no pulse), the entries its list holds, the stops under way, each with its tick and whether
it also disables, events at PG_KILL under way, the generation of its events, the servo's accumulator and the tick of its last step,
the write latch of a timing LO word (R313), the tick of the last fault (R316), and when its masks were last set. -/
structure Pg where
  go : Option (Nat × Nat) := none
  next : Option Nat := none
  index : Nat := 0
  trail : Option Nat := none
  entries : Nat := 0
  stops : List (Nat × Bool) := []
  kills : List Arrival := []
  gen : Nat := 0
  acc : Int := 0
  servoAt : Nat := 0
  latch : Option (Nat × Word) := none
  faultAt : Option Nat := none
  maskAt : Nat := 0
  deriving DecidableEq, Repr

/-- A trigger a digitizer channel has taken (R330, R334): conditions met, whether AQ_FORCE took part, its stamp, the number of
the trigger sample within its record, whether a stamp was taken while WARMING held (R343). -/
structure AqTrig where
  met : Nat
  forced : Bool
  stamp : Stamp
  at_ : Nat
  warm : Bool
  deriving DecidableEq, Repr

/-- A digitizer channel (R322 to R338): slot size in bytes and ring size of the arm, the present record, the time of the last
raw sample of the next stored sample, samples of the record so far and from the trigger on, the last two stored samples, the
numbers of its out-of-range samples, from which sample on WARMING held or not; the conditions primed for RISE or for their
window (bits 3:0) and for FALL (bits 7:4), and for which EITHER only one priming counts (same bits: none of it); the
conditions met at the last sample and whether a force acted there, not yet taken; a leader's trigger (edge time, stamp,
generation; R333); events not yet present and the one that is; a force and a stop under way; the trigger of the record. -/
structure Aq where
  slot : Nat := 0
  cap : Nat := 0
  record : Nat := 0
  next : Nat := 0
  count : Nat := 0
  post : Nat := 0
  prev : Int := 0
  cur : Int := 0
  clips : List Nat := []
  warm : List (Nat × Bool) := []
  primed : Nat := 0
  barred : Nat := 0
  met : Nat := 0
  forced : Bool := false
  link : Option (Nat × Stamp × Nat) := none
  events : List Arrival := []
  present : Option Arrival := none
  force : Option Nat := none
  stop : Option Nat := none
  trig : Option AqTrig := none
  deriving DecidableEq, Repr

/-- A stop of an interval measurement that is not yet paired (R362): its stamp in fine units and whether a window held it. -/
structure TuStop where
  at_ : Nat
  held : Bool
  deriving DecidableEq, Repr

/-- What marks the stamps of a block or gate (R367). -/
structure TuMarks where
  warm : Bool := false
  coarse : Bool := false
  stale : Bool := false
  lost : Bool := false
  offRing : Bool := false
  neg : Bool := false
  coincident : Bool := false
  deriving DecidableEq, Repr

/-- The block of intervals in progress (R364): first start and interval, sums, extremes, counts. -/
structure TuBlock where
  first : Nat := 0
  x0 : Int := 0
  n : Nat := 0
  s1 : Int := 0
  s2 : Int := 0
  lo : Int := 0
  hi : Int := 0
  unpaired : Nat := 0
  rejected : Nat := 0
  extra : Nat := 0
  marks : TuMarks := {}
  deriving DecidableEq, Repr

/-- An open gate (R365, R366): its opening (count), the generation of its result, its stamps (fine units, index), selected
edges, edges skipped and stamps lost. -/
structure TuGate where
  opened : Nat
  gen : Nat := 0
  first : Option Nat := none
  n : Nat := 0
  si : Nat := 0
  st : Int := 0
  sii : Nat := 0
  sit : Int := 0
  stt : Int := 0
  edges : Nat := 0
  skipped : Nat := 0
  lost : Nat := 0
  marks : TuMarks := {}
  deriving DecidableEq, Repr

/-- An input of a time-interval channel (R356): selected edges since measuring started, the last stamped edge (fine units),
whether a stamp has been lost since, events at its prism consumer not yet taken. -/
structure TuInput where
  edges : Nat := 0
  last : Option Nat := none
  gap : Bool := false
  events : List Arrival := []
  deriving DecidableEq, Repr

/-- A time-interval channel (R354 to R370): the hits of each bin at the last calibration that succeeded (none: free centres), when a
calibration under way started (ticks), when thresholds are valid (ticks), the measuring start and the stop under way (ticks),
whether the source was lost, a gate about to open (tick, generation), when its queue has drained (timing units), its inputs, open
starts (stamp, marks, generation) and unpaired stops, the block or gate in progress, blocks or gates completed. -/
structure Tu where
  bins : List Nat := []
  calAt : Option Nat := none
  validAt : Nat := 0
  start : Option Nat := none
  startGen : Nat := 0
  stopAt : Option Nat := none
  openAt : Option (Nat × Nat) := none
  drained : Nat := 0
  inA : TuInput := {}
  inB : TuInput := {}
  starts : List (Nat × TuMarks) := []
  stops : List (TuStop × TuMarks) := []
  block : TuBlock := {}
  gate : Option TuGate := none
  done : Nat := 0
  deriving DecidableEq, Repr

/-- An entry of the working set: its value and the temperature it was set at (R410, R414, R416). -/
structure CalVal where
  value : Word
  temp : Nat
  deriving DecidableEq, Repr

/-- A calibration sequence of a die (R415 to R419): the ring of its command, KIND, ANCHOR, the groups of unit indices still
to do (the present one first), when the present group started (ticks), whether its switches have been opened and which units
were connected then, and the units done and failed. -/
structure CalJob where
  ring : Nat
  kind : Nat
  anchor : Bool
  groups : List (List Nat)
  since : Nat
  opened : Bool := false
  conn : List Nat := []
  done : Nat := 0
  failed : List Nat := []
  deriving DecidableEq, Repr

/-- Calibration: the working set by unit, item and entry (R410, R411), the entries marked stale (R427), those
whose die's temperature has stood more than 5 °C from their TEMP since they were set (R414), sequences by die, and
for each die the calibration-bus connection under way: when it settles (ticks), TYPE and INDEX (R420). -/
structure Cal where
  entries : KMap (Option CalVal) := []
  jobs : KMap (Option CalJob) := []
  settle : KMap (Option (Nat × Nat × Nat)) := []
  marked : List Nat := []
  drifted : List Nat := []
  deriving DecidableEq, Repr

end Sys2Proof.Machine
end

