-- ==== Sys2Proof/Machine/State.lean ====
section
/-! DEFINITION. The state of the device as plain data, the reasons a step can stop, and the state after reset. -/

namespace Sys2Proof.Machine

/-- Reasons to stop at a fault. No command of this device faults: whatever the spec calls wrong is answered with a status code,
a discarded write, a report or a reset, all of them next states. No meaning raises this constructor (safe). -/
inductive Fault where
  /-- Raised by no meaning; it makes the type inhabited. -/
  | never
  deriving DecidableEq, Repr

/-- Reasons to refuse a command. -/
inductive Refusal where
  /-- Raised by the dispatch for a command without a meaning (safe: the machine stops by name). No arm is left that raises it. -/
  | notModelled (mnemonic : String)
  deriving DecidableEq, Repr

/-- What a commit changed and how it was before: registers with their live and shadow words and the bits that changed, power claims, and
what it changed of the units and engines (R43). -/
structure Saved where
  words : List (Nat × Word × Word × Word) := []
  claims : KMap Nat := []
  tiles : KMap Tile := []
  sites : KMap Site := []
  pins : KMap Pin := []
  aw : KMap Aw := []
  wm : KMap Wm := []
  pg : KMap Pg := []
  aq : KMap Aq := []
  tu : KMap Tu := []
  levels : Option Levels := none
  cal : Option Cal := none
  micro : Option Micro := none
  place : Option Place := none
  svc : Option Service := none
  deriving DecidableEq, Repr

/-- The whole device. Registers that the host can read live in `regs` and `shadow`, by BAR0 address; a register that is not listed
holds its reset value (`resetWord`). Everything else that the spec gives the device has a field of its own. -/
structure State where
  /-- The model's clock in MTC ticks of 312.5 ps (R340): a FAB cycle is 8 ticks. -/
  now : Nat := 0
  /-- The model's own: the number of the next free value (DESIGN CHOICE, log entry 13). -/
  fresh : Nat := 0
  /-- Commands that wait, first in, first out. -/
  pending : List Instr := []
  /-- What the device has sent out, oldest first: host-memory writes, messages, read data, ring frames. -/
  out : List Output := []
  /-- Live copies of the registers (R10 to R13). -/
  regs : KMap Word := []
  /-- Shadow copies of registers with shadow-banked fields (R13). -/
  shadow : KMap Word := []
  /-- Live copies as they stood at the start of this FAB cycle (R12). -/
  regs0 : KMap Word := []
  /-- Shadow copies as they stood at the start of this FAB cycle (R13). -/
  shadow0 : KMap Word := []
  /-- Bits of registers that commands have changed in this FAB cycle (R112). -/
  fab : KMap Word := []
  /-- Earlier words of registers whose value at a past moment a compare asks for: address, the tick until which the word stood, the word;
  oldest first (R246, R254, R259). -/
  past : List (Nat × Nat × Word) := []
  /-- What the commits that wait for acknowledgements changed, by ring (R43). -/
  saves : KMap Saved := []
  /-- The PCI Express link and the command cores. -/
  link : Link := {}
  /-- The eight ring pairs. -/
  rings : KMap Ring := []
  /-- The four key slots. -/
  keys : KMap KeySlot := []
  /-- The prism. -/
  prism : Prism := {}
  /-- The lens. -/
  lens : Lens := {}
  /-- The power-budget arbiter, power states and thermal monitors. -/
  power : Power := {}
  /-- Clock monitors and references. -/
  clocks : Clocks := {}
  /-- The placement engine: pattern objects, buffers, fail logs, measurements, reservations. -/
  place : Place := {}
  /-- The tiles. -/
  tiles : KMap Tile := []
  /-- The sixteen sites. -/
  sites : KMap Site := []
  /-- The 256 pin channels. -/
  pins : KMap Pin := []
  /-- Level strobes under way and held. -/
  levels : Levels := {}
  /-- The source channels. -/
  aw : KMap Aw := []
  /-- The window monitors. -/
  wm : KMap Wm := []
  /-- The pulse engines. -/
  pg : KMap Pg := []
  /-- The digitizer channels. -/
  aq : KMap Aq := []
  /-- The time-interval channels. -/
  tu : KMap Tu := []
  /-- The result queues of the measurement engines. -/
  results : KMap (List (List Word)) := []
  /-- Calibration. -/
  cal : Cal := {}
  /-- The microcode stores of the tiles. -/
  micro : Micro := {}
  /-- The reset controller. -/
  rst : ResetCtl := {}
  /-- Fuses and serial numbers. -/
  fuses : Fuses := {}
  /-- The SPI flash. -/
  flash : Flash := {}
  /-- The service settings in force. -/
  svc : Service := {}
  /-- The test access port. -/
  tap : Tap := {}
  /-- The gnomon counter. -/
  gn : Gnomon := {}
  /-- The Xearn ring. -/
  xr : Xearn := {}
  deriving DecidableEq, Repr

/-- The device in its power-on reset (R447, R449): the power-on source has been latched with reach L4 and is released once all rails
have been valid for 1 ms (3,200,000 ticks). Every register holds its reset value; RST_STATUS shows source 0 asserted and latched
with reach 4, and LENS_STATUS shows FAULT_N asserted, as R407 gives while a reset holds the device. -/
def State.reset : State where
  regs := [(0x00020000, 0x00010104), (0x00060000, 0x00000040)]
  rst := { asserted := [(0, some 3200000)], latched := [(0, 4)], reach := 4, phase := .held }

end Sys2Proof.Machine
end

