-- ==== Sys2Proof/Machine/Ops.lean ====
section
/-! DEFINITION. The named operations every command is written with: registers live and shadow, units, time and stamps,
free values, outputs, MSI-X signals, events, fault reports, power claims, and the end of a host command. -/

namespace Sys2Proof.Machine

/-! ## Registers -/

/-- The instance numbers of an offset from a register type's base, or none where no formula gives it (R469). -/
def decompose : List (Nat × Nat) → Nat → Option (List Nat)
  | [], off => if off = 0 then some [] else none
  | d :: ds, off => if off / d.1 < d.2 then (decompose ds (off % d.1)).map (off / d.1 :: ·) else none

/-- The row of a register table an address belongs to, with its instance numbers. -/
def RegRow.match? (r : RegRow) (a : Nat) : Option (RegRow × List Nat) :=
  if r.base ≤ a then (decompose r.dims (a - r.base)).map (fun i => (r, i)) else none

/-- The register at an address of BAR0 (R468, R469). -/
def findReg (a : Nat) : Option (RegRow × List Nat) := (regsAt a).findSome? (·.match? a)

/-- The reset value of a field in an instance. TH_LIMIT's defaults are by sensor; PIN_LEVEL's by DAC (R237, R273); domains 24 to 26
have no monitor (R428). -/
def ResetVal.value (v : ResetVal) (i : List Nat) : Nat :=
  match v with
  | .k n => n
  | .index => i.headD 0
  | .indexMod8 => i.headD 0 % 8
  | .monitored => if i.headD 0 < 23 then 1 else 0
  | .level => if i.getD 1 0 < 7 then 0x2EE0 else if i.getD 1 0 = 9 then 0x3A98 else 0
  | .limit => if i.headD 0 = 0 then 0x0398 else if i.headD 0 < 5 then 0x03E8 else 0x0348
  | .throttle => if i.headD 0 = 0 then 0x0320 else if i.headD 0 < 5 then 0x0370 else 0x02F8

/-- What a register holds that nothing has changed since reset (R14); an address without a register reads 0 (R10). -/
def resetWord (a : Nat) : Word :=
  match findReg a with
  | some (r, i) => r.fields.foldl (fun w f => fset w f.fld (f.rst.value i)) 0
  | none => 0

/-- The live copy of a register. -/
def State.reg (s : State) (a : Nat) : Word := kget resetWord s.regs a

/-- The shadow copy of a register with shadow-banked fields (R11, R13). -/
def State.shd (s : State) (a : Nat) : Word := kget resetWord s.shadow a

/-- The shadow copy as it stood at the start of this FAB cycle (R13). -/
def State.shd0 (s : State) (a : Nat) : Word := kget resetWord s.shadow0 a

/-- The live copy as it stood at the start of this FAB cycle (R12). -/
def State.reg0 (s : State) (a : Nat) : Word := kget resetWord s.regs0 a

/-- Writes of a command whose own commit is an apply point: they reach the shadow copy and count as standing at the start of
the FAB cycle (R13). -/
def early (f : State → State) (s : State) : State :=
  { f s with shadow0 := (f { s with shadow := s.shadow0 }).shadow }

/-- Set the live copy of a register. -/
def setReg (a : Nat) (w : Word) (s : State) : State := { s with regs := kset resetWord s.regs a w }

/-- Set the shadow copy of a register. -/
def setShd (a : Nat) (w : Word) (s : State) : State := { s with shadow := kset resetWord s.shadow a w }

/-- A field of the live copy. -/
def State.rd (s : State) (a : Nat) (f : Fld) : Nat := fget (s.reg a) f

/-- A field of the shadow copy. -/
def State.rdS (s : State) (a : Nat) (f : Fld) : Nat := fget (s.shd a) f

/-- A one-bit field of the live copy. -/
def State.flag (s : State) (a : Nat) (f : Fld) : Bool := s.rd a f ≠ 0

/-- Set a field of the live copy. -/
def wr (a : Nat) (f : Fld) (v : Nat) (s : State) : State := setReg a (fset (s.reg a) f v) s

/-- Set a field of the shadow copy. -/
def wrS (a : Nat) (f : Fld) (v : Nat) (s : State) : State := setShd a (fset (s.shd a) f v) s

/-- Set a field of the live and of the shadow copy. -/
def wrBoth (a : Nat) (f : Fld) (v : Nat) (s : State) : State := wr a f v (wrS a f v s)

/-- Copy the shadow copy of a register into its live copy (R13). -/
def applyReg (a : Nat) (s : State) : State := setReg a (s.shd a) s

/-- Add to a counting field, which stops at its largest value. -/
def bumpBy (a : Nat) (f : Fld) (n : Nat) (s : State) : State := wr a f (min (2 ^ f.width - 1) (s.rd a f + n)) s

/-- Count one in a counting field. -/
def bump (a : Nat) (f : Fld) (s : State) : State := bumpBy a f 1 s

/-- The device sets bits of a W1C field. A clearing write of the same FAB cycle leaves them set, whichever comes first, so they do
not count as standing at its start (R12). -/
def raiseBits (a : Nat) (f : Fld) (m : Nat) (s : State) : State :=
  wr a f (s.rd a f ||| m)
    { s with regs0 := kset resetWord s.regs0 a (fset (s.reg0 a) f (fget (s.reg0 a) f - (fget (s.reg0 a) f &&& m))) }

/-- The device sets a one-bit W1C field. -/
def raise (a : Nat) (f : Fld) (s : State) : State := raiseBits a f 1 s

/-- A W1C field that a write of `v` clears: the bits that stood at the start of this FAB cycle (R12). -/
def clearBits (a : Nat) (f : Fld) (v : Nat) (s : State) : State :=
  wr a f (s.rd a f - (s.rd a f &&& v &&& fget (s.reg0 a) f)) s

/-- The value that a read of an RC field returns: the one before the updates of this FAB cycle (R12). -/
def State.rcValue (s : State) (a : Nat) (f : Fld) : Nat := fget (s.reg0 a) f

/-- A read clears an RC field to a value and keeps the updates of this FAB cycle (R11, R12). -/
def rcClear (a : Nat) (f : Fld) (v : Nat) (s : State) : State :=
  let t := wr a f (v + (s.rd a f - s.rcValue a f)) s
  { t with regs0 := kset resetWord t.regs0 a (fset (t.reg0 a) f v) }

/-- Set a 64-bit register pair. -/
def wrPair (lo hi : Nat) (v : Nat) (s : State) : State := setReg hi (word (v / 2 ^ 32)) (setReg lo (word v) s)

/-- A 64-bit register pair. -/
def State.pair (s : State) (lo hi : Nat) : Nat := (s.reg lo).toNat + 2 ^ 32 * (s.reg hi).toNat

/-- Fold a state change over a list. -/
def forAll {α : Type} (l : List α) (f : α → State → State) (s : State) : State := l.foldl (fun s a => f a s) s

/-- A state change made only under a condition. -/
def when (c : Bool) (f : State → State) (s : State) : State := if c then f s else s

/-! ## Resets of registers (R14) -/

/-- A register after a reset of reach `n`: every field whose reach is at most `n` takes its reset value. -/
def resetRow (n a : Nat) (w : Word) : Word :=
  match findReg a with
  | some (r, i) => r.fields.foldl (fun w f => if f.reach ≤ n then fset w f.fld (f.rst.value i) else w) w
  | none => w

/-- A reset of reach `n` over the registers that `covers` names, live and shadow. -/
def resetRegs (n : Nat) (covers : Nat → Bool) (s : State) : State :=
  { s with regs := kmap resetWord (fun a w => if covers a then resetRow n a w else w) s.regs,
           shadow := kmap resetWord (fun a w => if covers a then resetRow n a w else w) s.shadow }

/-! ## Units (R39, R40) -/

/-- A unit identifier with OUTCOME 0. -/
def uid (cls i : Nat) : Nat := cls * 2 ^ 24 + i

/-- The class of a unit identifier. -/
def uclass (u : Nat) : Nat := u / 2 ^ 24

/-- The index of a unit identifier. -/
def uindex (u : Nat) : Nat := u % 2 ^ 16

def uPin (n : Nat) : Nat := uid 0x01 n
def uTile (n : Nat) : Nat := uid 0x02 n
def uLane (n : Nat) : Nat := uid 0x03 n
def uLoop (n : Nat) : Nat := uid 0x04 n
def uMeas (n : Nat) : Nat := uid 0x05 n
def uCore (n : Nat) : Nat := uid 0x06 n
def uCal (n : Nat) : Nat := uid 0x07 n
def uAw (n : Nat) : Nat := uid 0x08 n
def uAq (n : Nat) : Nat := uid 0x09 n
def uTu (n : Nat) : Nat := uid 0x0A n
def uWm (n : Nat) : Nat := uid 0x0B n
def uPg (n : Nat) : Nat := uid 0x0C n
def uDie (n : Nat) : Nat := uid 0x0D n
def uSite (n : Nat) : Nat := uid 0x0E n
def uTio (n : Nat) : Nat := uid 0x0F n
def uGroup (n : Nat) : Nat := uid 0x10 n
def uPrism : Nat := uid 0x11 0
def uLens : Nat := uid 0x12 0
def uPlace : Nat := uid 0x13 0
def uXearn (n : Nat) : Nat := uid 0x14 n
def uGnomon : Nat := uid 0x15 0
def uArbiter : Nat := uid 0x16 0

/-! ## Time, stamps and free values -/

/-- MTC ticks in a microsecond (R340, 3.2 GHz). -/
def us (n : Nat) : Nat := 3200 * n

/-- MTC ticks in a millisecond. -/
def ms (n : Nat) : Nat := 3200000 * n

/-- The first MTC tick at or after 128 ns (409.6 ticks): strobes, starts and stops at the front-end dies (R240, R432). -/
def t128 : Nat := 410

/-- The gnomon count: 64 bits, 0 until the counter starts (R340). -/
def State.count (s : State) : Nat := if s.gn.running then ((s.now - s.gn.origin) % 2 ^ 64).toNat else 0

/-- The gnomon count of a tick of the model's clock. -/
def State.countAt (s : State) (t : Nat) : Nat := if s.gn.running then ((t - s.gn.origin) % 2 ^ 64).toNat else 0

/-- The ring phase correction that every stamp includes, in fine units (R344, R350). -/
def State.phase (s : State) : Int := sext 32 (s.reg A.GN_PHASE).toNat

/-- The coarse stamp of a tick of the model's clock (R344). -/
def State.coarseOf (s : State) (t : Nat) : Nat := ((65536 * (s.countAt t : Int) + s.phase) / 65536).toNat

/-- The coarse stamp of this moment. -/
def State.coarseNow (s : State) : Nat := s.coarseOf s.now
def State.stampNow (s : State) : Stamp := { coarse := s.coarseNow }

/-- Whether WARMING holds (R342, R343). -/
def State.warming (s : State) : Bool := s.flag A.GN_STATUS F.GN_STATUS.WARMING

/-- The number of the next free value. -/
def nextFresh (s : State) : State := { s with fresh := s.fresh + 1 }

/-! ## Outputs and MSI-X (R92, R93) -/

/-- Send something out. -/
def emit (o : Output) (s : State) : State := { s with out := s.out ++ [o] }

/-- Whether the block can issue DMA: link up, D0, Bus Master Enable (R58, R75, R76). -/
def State.dma (s : State) : Bool :=
  !s.link.perst && s.link.up && s.link.busMaster && !s.flag A.HL_STATUS F.HL_STATUS.D3HOT

/-- A read of host memory waits: the link is up and Bus Master Enable or the power state lets no DMA be issued (R75, R76). -/
def State.dmaWaits (s : State) : Bool := s.link.up && !s.link.perst && !s.dma

/-- Signal an MSI-X vector: a message, or the pending bit where the vector is masked or no message can be sent. -/
def signal (v : Nat) (s : State) : State :=
  if s.link.msix && s.dma && !s.link.msixMask && !s.flag (A.MSIX_CTRL v) F.MSIX_CTRL.MASK then emit (.msix v) s
  else if s.link.msix then setReg (A.MSIX_PBA (v / 32)) (s.reg (A.MSIX_PBA (v / 32)) ||| word (2 ^ (v % 32))) s
  else s

/-- Send the messages of pending vectors that can be sent now. -/
def flushMsix (s : State) : State :=
  forAll (List.range 58) (fun v s =>
    if bit (s.reg (A.MSIX_PBA (v / 32))) (v % 32) && s.link.msix && s.dma && !s.link.msixMask
        && !s.flag (A.MSIX_CTRL v) F.MSIX_CTRL.MASK
    then emit (.msix v) (setReg (A.MSIX_PBA (v / 32)) (s.reg (A.MSIX_PBA (v / 32)) &&& ~~~ (word (2 ^ (v % 32)))) s)
    else s) s

/-- Count a discarded BAR0 or doorbell write (HL_WIN_DISCARD). -/
def discard (s : State) : State := bump A.HL_WIN_DISCARD F.HL_WIN_DISCARD.COUNT s

/-- An address holds a register of a block that an isolated reset takes (R454, R468). -/
def addressed (u a : Nat) : Bool :=
  let i := uindex u
  let within (base size : Nat) : Bool := base ≤ a && a < base + size
  match uclass u with
  | 0x01 => within (0x400000 + 0x1000 * i) 0x1000 || within (0x500000 + 0x1000 * i) 0x1000
  | 0x02 => within (0x100000 + 0x10000 * i) 0x10000 || a = A.TSET_CTRL i || within (0xB10000 + 0x40000 * i) 0x40000
      || within (0xF80000 + 0x400 * i) 0x400
  | 0x03 => a = A.LE_STATUS i
  | 0x05 => within (A.ME_SLOT (8 * i)) 0x100
  | 0x08 => within (A.AW_CFG i) 0x100
  | 0x09 => within (A.AQ_CFG i) 0x100
  | 0x0A => within (A.TU_IN_A i) 0x100
  | 0x0B => within (A.WM_CFG i) 0x20
  | 0x0C => within (A.PG_CFG i) 0x100 || within (A.PG_LIST i 0 0) 0x400
  | 0x0F => a = A.PR_TIO i
  | 0x11 => within 0x50000 0x10000
  | 0x12 => within 0x60000 0x10000
  | 0x13 => within 0x80000 0x80000
  | 0x14 => within A.XR_STATUS 0x10 || within (A.XR_SEG 0) 0x100
  | _ => false

/-- The block of a site's tiles that a site reset takes with their lane engines: each as an L0 block (R455). -/
def State.resetUnits (s : State) : List Nat :=
  (s.rst.iso.filter (fun x => x.resetAt.isSome)).flatMap (fun x =>
    if uclass x.unit = 0x0E then
      (List.range (s.rd (A.SEQ_SITE_CFG (uindex x.unit)) F.SEQ_SITE_CFG.WIDTH + 1)).flatMap (fun j =>
        let k := s.rd (A.SEQ_SITE_CFG (uindex x.unit)) F.SEQ_SITE_CFG.FIRST + j
        uTile k :: (List.range 8).map (fun l => uLane (8 * k + l)))
    else [x.unit])

/-- The block in reset for which an access of a register waits in the fabric: the block that has the register, or one for which an
earlier access still waits (R453). -/
def State.fabricWait (s : State) (a : Nat) : Option Nat :=
  (s.resetUnits ++ s.rst.fabric.map (·.1)).find? (fun u => addressed u a)

/-- An access waits in the fabric. -/
def holdAccess (u : Nat) (c : Instr) (s : State) : State := { s with rst := { s.rst with fabric := s.rst.fabric ++ [(u, c)] } }

/-- A BAR0 write, which is the command `c`: BAR0 is reachable while the link is up (R74), while the register window is read-only the write
is discarded outside the host-link block (R109), and it waits in the fabric for a block in reset (R453). -/
def barWrite (c : Instr) (a : Nat) (f : State → State) (s : State) : State :=
  if !s.link.up then s
  else if s.flag A.HL_CTRL F.HL_CTRL.WINDOW_RW || (0x10000 ≤ a && a < 0x20000) then
    match s.fabricWait a with
    | some u => holdAccess u c s
    | none => f s
  else discard s

/-! ## Events (R385 to R396) -/

/-- How long after its registering time an event's delivering FAB cycle starts at the earliest, in ticks (R391). -/
def deliverAfter (p : Nat) : Nat :=
  if p < 32 then 16 else if p < 48 then 24 else if p < 240 then 64 else if p < 248 then 8
  else if p < 252 then 480 else 16

/-- A producer fires an event registered at `r` (R385, R386); one of generation 8 is dropped (R394). -/
def fireAt (p kind gen : Nat) (st : Stamp) (r : Nat) (s : State) : State :=
  if 8 ≤ gen then
    bump (A.PR_PSTAT p) F.PR_PSTAT.DROPPED (raise (A.PR_PSTAT p) F.PR_PSTAT.LOOP s)
  else
    let s := bump (A.PR_PSTAT p) F.PR_PSTAT.FIRED (wr (A.PR_PSTAT p) F.PR_PSTAT.LASTGEN gen s)
    { s with prism := { s.prism with flight := s.prism.flight ++ [⟨p, kind, gen, st, r + deliverAfter p⟩] } }

/-- A producer fires an event registered now. -/
def fire (p kind gen : Nat) (st : Stamp) (s : State) : State := fireAt p kind gen st s.now s

/-- The period of TICK_US, TICK_MS and TICK_S in counts (R386). -/
def tickPeriod (k : Nat) : Nat := if k = 0 then 3200 else if k = 1 then 3200000 else 3200000000

/-- The multiples that TICK_US, TICK_MS and TICK_S fire next: the first at or after the present count. -/
def State.ticksFrom (s : State) : KMap Nat :=
  (List.range 3).foldl (fun m k => kset (fun _ => 0) m k ((s.count + tickPeriod k - 1) / tickPeriod k)) []

/-! ## Fault reports (R400, R401) -/

/-- Root-cause keys. -/
def keyUnit : Nat := 0
def keyDie (d : Nat) : Nat := 0x1000 + d
def keyRail (r : Nat) : Nat := 0x2000 + r
def keyRing (p : Nat) : Nat := 0x3000 + p
def keyCore : Nat := 0x4000

/-- A unit sends a fault report stamped `st`. -/
def reportAt (unit code key st : Nat) (s : State) : State :=
  { s with lens := { s.lens with
      reports := s.lens.reports ++ [⟨unit, code, key, st, 0, s.flag A.GN_STATUS F.GN_STATUS.WARMING⟩] } }

/-- A unit sends a fault report now. -/
def report (unit code key : Nat) (s : State) : State := reportAt unit code key s.coarseNow s

/-! ## The power-budget arbiter (R438 to R442) -/

/-- The amount a unit holds of the granted total. -/
def State.claimOf (s : State) (u : Nat) : Nat := kget (fun _ => 0) s.power.claims u

/-- The budget that claims are tested against: the budget as it stood at the start of this FAB cycle (R440, R442). -/
def State.effBudget (s : State) : Nat :=
  let b := fget (s.reg0 A.PW_BUDGET) F.PW_BUDGET.MW
  if s.flag A.PW_STATUS F.PW_STATUS.DERATED then min b 96000 else b

/-- Set the amount a unit holds; the granted total follows. -/
def setClaim (u amount : Nat) (s : State) : State :=
  let old := s.claimOf u
  let total := s.rd A.PW_GRANTED F.PW_GRANTED.MW + amount - old
  wr A.PW_GRANTED F.PW_GRANTED.MW total
    { s with power := { s.power with claims := kset (fun _ => 0) s.power.claims u amount } }

/-- Release what a unit holds. -/
def release (u : Nat) (s : State) : State := setClaim u 0 s

/-- The shortfall of claims that set each unit to an amount: 0 where they are granted (R440). Claims that fall are
counted before claims that rise; a request whose claims do not rise in all asks for nothing. -/
def State.shortfall (s : State) (cs : List (Nat × Nat)) : Nat :=
  let add := (cs.map (fun c => c.2)).sum
  let sub := (cs.map (fun c => s.claimOf c.1)).sum
  if add ≤ sub then 0 else s.rd A.PW_GRANTED F.PW_GRANTED.MW + add - sub - s.effBudget

/-- DETAIL of 0x0230: a shortfall in units of 10 mW, rounded up, saturated (R440). -/
def shortDetail (n : Nat) : Nat := min 0xFFFF ((n + 9) / 10)

/-! ## Power states of blocks (R434 to R438) -/

/-- The exit latency of a power state in ticks (R434). -/
def exitLatency (p : Nat) : Nat :=
  match p with | 0 => 0 | 1 => 128 | 2 => us 2 | 3 => us 150 | _ => ms 20

/-- The block of a logical tile (R435). -/
def State.tileBlock (s : State) (k : Nat) : Nat := s.rd (A.SEQ_TILE_STATUS k) F.SEQ_TILE_STATUS.PHYS

/-- The die island of a front-end die (R435). -/
def island (d : Nat) : Nat := 250 + d

/-- The power-managed blocks that a command addressed to a unit needs: its own and, on a front-end die, the die island,
which R437 keeps no deeper (R435). -/
def State.blocksOf (s : State) (u : Nat) : List Nat :=
  let i := uindex u
  match uclass u with
  | 0x01 => [26 + i / 8, island (i / 64)]
  | 0x02 => [s.tileBlock i]
  | 0x03 => [s.tileBlock (min (i / 8) 16)]
  | 0x04 => [island (i / 4)]
  | 0x05 => [18 + i]
  | 0x07 | 0x0D => [island i]
  | 0x08 => [58 + i, island (i / 8)]
  | 0x09 => [90 + i, island (i / 8)]
  | 0x0A => [122 + i, island (i / 8)]
  | 0x0B => [154 + i, island (i / 16)]
  | 0x0C => [218 + i, island (i / 8)]
  | 0x0E => if s.flag (A.SEQ_SITE_CFG i) F.SEQ_SITE_CFG.FORMED then
      (List.range (s.rd (A.SEQ_SITE_CFG i) F.SEQ_SITE_CFG.WIDTH + 1)).map
        (fun k => s.tileBlock (s.rd (A.SEQ_SITE_CFG i) F.SEQ_SITE_CFG.FIRST + k))
      else []
  | 0x10 => [island (i / 16)]
  | _ => []

/-- The block of a unit is in an isolated reset: reset and not yet released (R453). -/
def State.inReset (s : State) (u : Nat) : Bool := s.rst.iso.any (fun x => x.unit = u && x.resetAt.isSome)

/-- The present power state of a block. -/
def State.powerState (s : State) (b : Nat) : Nat := s.rd (A.PW_BLOCK b) F.PW_BLOCK.STATE

/-- The change of power state a block is in. -/
def State.transition (s : State) (b : Nat) : Option Transition := (s.power.moving.find? (·.1 = b)).map (·.2)

/-- A block does not operate as in P0. -/
def State.asleep (s : State) (b : Nat) : Bool := s.powerState b ≠ 0 || (s.transition b).isSome

/-- A block starts its exit to P0, unless a change is under way (R437, R438). -/
def wakeBlock (b : Nat) (s : State) : State :=
  if s.powerState b ≠ 0 && (s.transition b).isNone then
    { s with power := { s.power with
        moving := kins s.power.moving b ⟨0, s.now + exitLatency (s.powerState b), false⟩ } }
  else s

/-- A thermal shutdown has stopped the HBM3 controller from serving requests (R473). -/
def State.hbmStopped (s : State) : Bool := s.power.shutDown.contains 4

/-! ## Rings and commands (R80 to R108) -/

/-- A ring pair. -/
def State.ring (s : State) (q : Nat) : Ring := kget (fun _ => {}) s.rings q

/-- Change a ring pair. -/
def modRing (q : Nat) (f : Ring → Ring) (s : State) : State :=
  { s with rings := kset (fun _ => {}) s.rings q (f (s.ring q)) }

/-- A key slot. -/
def State.keySlot (s : State) (k : Nat) : KeySlot := kget (fun _ => {}) s.keys k

/-- Change a key slot. -/
def setKey (k : Nat) (v : KeySlot) (s : State) : State := { s with keys := kset (fun _ => {}) s.keys k v }

/-- The command running on a ring, before its reply is made. -/
def State.running (s : State) (q : Nat) : Option Cmd :=
  match (s.ring q).run with
  | some c => if c.reply.isNone then some c else none
  | none => none

/-- Change the running command of a ring. -/
def modCmd (q : Nat) (f : Cmd → Cmd) (s : State) : State := modRing q (fun r => { r with run := r.run.map f }) s

/-- A packet word of a command. -/
def Cmd.w (c : Cmd) (i : Nat) : Word := wd c.packet i

/-- Fields of the packet header (R96). -/
def Cmd.opcode (c : Cmd) : Nat := bits (c.w 0) 15 0
def Cmd.critical (c : Cmd) : Bool := bit (c.w 0) 16
def Cmd.notify (c : Cmd) : Bool := bit (c.w 0) 17
def Cmd.length (c : Cmd) : Nat := bits (c.w 1) 31 16
def Cmd.tag (c : Cmd) : Nat := bits (c.w 1) 15 0

/-- The number of payload words: LENGTH without the header and the keyed check (R96). -/
def Cmd.payload (c : Cmd) : Nat := c.length - 4 - (if c.critical then 4 else 0)

/-- Packet words `i` to `i + n - 1`. -/
def Cmd.words (c : Cmd) (i n : Nat) : List Word := (List.range n).map (fun k => c.w (i + k))

/-- Every session on a revoked slot closes, and its key is gone (R102, R105). -/
def closeSlot (k : Nat) (s : State) : State :=
  setKey k { s.keySlot k with key := [] } <| forAll (List.range 8) (fun q s =>
    match (s.ring q).session with
    | some e => if e.slot = k then
        wr (A.HL_RING_SEC q) F.HL_RING_SEC.OPEN 0 (modRing q (fun r => { r with session := none }) s) else s
    | none => s) s

/-- The session of a ring closes. FAIL_COUNT and SLOT keep what they read (DESIGN CHOICE, log entry 78). -/
def closeSession (q : Nat) (s : State) : State :=
  wr (A.HL_RING_SEC q) F.HL_RING_SEC.OPEN 0 (modRing q (fun r => { r with session := none }) s)

/-- HL_RING_LAST takes the tag and status of a command (R113). -/
def setLast (q tag status : Nat) (s : State) : State :=
  wr (A.HL_RING_STATUS q) F.HL_RING_STATUS.DONE_VALID 1
    (wr (A.HL_RING_LAST q) F.HL_RING_LAST.STATUS status (wr (A.HL_RING_LAST q) F.HL_RING_LAST.TAG tag s))

/-- What follows a command's completion: sessions close, or the software source is armed 100 µs later. Where a host-link reset keeps the
completion entry from being written, the 100 µs run from the reset or, if later, from the command's end (DESIGN CHOICE, log entry 94). -/
def doAfter (q : Nat) (a : After) (s : State) : State :=
  match a with
  | .none => s
  | .closeSlot k => closeSlot k s
  | .software r => { s with rst := { s.rst with software := some (s.now + us 100, r, q) } }

/-- A request ends without a commit: the host's writes to shadow-banked fields of its prepared units are discarded (R46). -/
def dropLate (q : Nat) (s : State) : State :=
  match s.running q with
  | some c =>
    if c.late.isEmpty then s
    else modCmd q (fun c => { c with late := [] }) (forAll c.late.reverse (fun l => wrS l.1 l.2.1 l.2.2.2) s)
  | none => s

/-- A command ends: its reply is made, a state-class refusal is recorded (R374), its units are free. A command that a
host-link reset met leaves its outcome in HL_RING_LAST only (R113). -/
def finishU (q status detail : Nat) (results : List Word) (unit : Nat) (s : State) : State :=
  match s.running q with
  | none => s
  | some c =>
    let s := if status = 0x0230 then bump A.PW_REFUSED F.PW_REFUSED.COUNT s else s
    let s := if status / 256 = 3 then
        setReg A.IL_LAST_UNIT (word unit)
          (wr A.IL_LAST F.IL_LAST.STATUS status (wr A.IL_LAST F.IL_LAST.OPCODE c.opcode s))
      else s
    let s := dropLate q s
    if c.orphan then doAfter q c.after (modRing q (fun r => { r with run := none }) (setLast q c.tag status s))
    else modCmd q (fun c => { c with reply := some ⟨status, detail, s.coarseNow, results⟩, held := [], waitSince := none }) s

/-- A command ends, no unit in conflict. -/
def finish (q status detail : Nat) (results : List Word) (s : State) : State := finishU q status detail results 0 s

/-- A command ends with 0x0000. -/
def ok (q : Nat) (results : List Word) (s : State) : State := finish q 0 0 results s

/-- A unit-map word (R44). -/
def mapWord (outcome u : Nat) : Word := word (u + outcome * 2 ^ 20)

/-- A two-phase command ends with its unit map; DETAIL is the number of words unless the code defines it (R44). -/
def finishMap (q status : Nat) (detail : Option Nat) (map : List (Nat × Nat)) (s : State) : State :=
  finish q status (detail.getD map.length) (map.map (fun m => mapWord m.1 m.2)) s

/-- A refusal found before any unit is prepared: every word of the map has OUTCOME 0 (R44). -/
def refuseMap (q status : Nat) (detail : Option Nat) (units : List Nat) (s : State) : State :=
  finishMap q status detail (units.map (fun u => (0, u))) s

/-- The units other commands hold (R89). -/
def State.heldByOthers (s : State) (q : Nat) : List Nat :=
  ((List.range 8).filter (· ≠ q)).flatMap (fun r => ((s.ring r).run.map (·.held)).getD [])

/-- The first unit of a list that another command holds. -/
def State.conflict (s : State) (q : Nat) (units : List Nat) : Option Nat :=
  units.find? (fun u => (s.heldByOthers q).contains u)

/-- The units of a list below the lowest that another command holds: those acquired, in ascending order, before the wait
(R45, R89). -/
def State.acquired (s : State) (q : Nat) (units : List Nat) : List Nat :=
  let held := s.heldByOthers q
  let low := (units.filter held.contains).foldl min (2 ^ 32)
  units.filter (· < low)

/-- The bits of registers that a command has changed count as its writes of this FAB cycle (R112): those of the live copy at twice the
address, those of the shadow copy one above. -/
def markWrites (s t : State) : State :=
  let add (a b : KMap Word) (copy : Nat) (m : KMap Word) : KMap Word :=
    (kchanged a b).foldl (fun m k =>
      kset (fun _ => 0) m (2 * k + copy) (kget (fun _ => 0) m (2 * k + copy) ||| (kget resetWord a k ^^^ kget resetWord b k))) m
  { t with fab := add s.shadow t.shadow 1 (add s.regs t.regs 0 s.fab) }

/-- A command has written a field of the live (`copy` 0) or the shadow copy (1) in this FAB cycle (R112). -/
def State.commandWrote (s : State) (copy a : Nat) (f : Fld) : Bool := fget (kget (fun _ => 0) s.fab (2 * a + copy)) f ≠ 0

/-- A host command on its ring: it acts only while the ring runs that opcode and has not begun a
further stage of it. It waits where another command holds one of its units (R45, R89), and it is deferred where a block it
addresses is in P1 to P4, which wakes that block (R381), its units held meanwhile. Otherwise it runs. -/
def hostCmd (q op : Nat) (units : Cmd → State → List Nat) (body : Cmd → State → State) (s : State) : State :=
  match s.running q with
  | none => s
  | some c =>
    if c.opcode = op && c.ack.isNone && c.stage = 0 then
      match s.conflict q (units c s) with
      | some _ => modCmd q (fun c => { c with
          held := s.acquired q (units c s), want := units c s, waitSince := some (c.waitSince.getD s.now) }) s
      | none =>
        let deep := ((units c s).flatMap s.blocksOf).filter s.asleep
        let s := modCmd q (fun c => { c with held := units c s, want := [], waitSince := none }) s
        if deep.isEmpty then markWrites s (body c s) else forAll deep wakeBlock s
    else s

/-- A host command that addresses no unit. -/
def simpleCmd (q op : Nat) (body : Cmd → State → State) (s : State) : State := hostCmd q op (fun _ _ => []) body s

/-- The first check that fails, with its status and DETAIL. -/
def firstFail (l : List (Bool × Nat × Nat)) : Option (Nat × Nat) := (l.find? (·.1)).map (·.2)

/-- Checks in order: the first failure ends the command with its status and DETAIL, no effect. -/
def checked (q : Nat) (l : List (Bool × Nat × Nat)) (body : State → State) (s : State) : State :=
  match firstFail l with
  | some (st, d) => finish q st d [] s
  | none => body s

/-- Checks in order, each with the unit in conflict (R374). -/
def checkedU (q : Nat) (l : List (Bool × Nat × Nat × Nat)) (body : State → State) (s : State) : State :=
  match l.find? (·.1) with
  | some (_, st, d, u) => finishU q st d [] u s
  | none => body s

/-- A check with the unit in conflict. -/
def chkU (fails : Bool) (st d u : Nat) : Bool × Nat × Nat × Nat := (fails, st, d, u)

/-- A check: the condition it fails under, its status and its DETAIL. -/
def chk (fails : Bool) (st d : Nat) : Bool × Nat × Nat := (fails, st, d)

/-- The length a command requires (0x0104, DETAIL word 1). -/
def lenIs (c : Cmd) (n : Nat) : Bool × Nat × Nat := chk (c.payload ≠ n) 0x0104 1

/-- A reserved field of a packet word that is not 0 (0x0101, DETAIL the word). -/
def resv (c : Cmd) (i hi lo : Nat) : Bool × Nat × Nat := (bits (c.w i) hi lo ≠ 0, 0x0101, i)

/-- The outcome of a step that goes on. -/
abbrev Out := Host.Outcome State Fault Refusal

end Sys2Proof.Machine
end

