-- ==== Sys2Proof/Machine/Lens.lean ====
section
/-! DEFINITION. The lens: reports become incidents, incidents become records, and FAULT_N follows (R400 to R407). -/

namespace Sys2Proof.Machine

/-- The bit a reporter sets in the affected-unit map of an incident with this key (R404). -/
def State.mapBit (s : State) (key unit code domain : Nat) : Option Nat :=
  let cls := uclass unit
  let i := uindex unit
  let die : Bool := key / 4096 = 1 || (key / 4096 = 2 && 16 ≤ key % 4096)
  if key / 4096 = 0 then some 0
  else if key / 4096 = 3 then some (s.rd A.XR_STATUS F.XR_STATUS.OWN_POS)
  else if die then
    match cls with
    | 0x01 => some (i % 64)
    | 0x08 => some (64 + i % 8)
    | 0x09 => some (72 + i % 8)
    | 0x0A => some (80 + i % 8)
    | 0x0C => some (88 + i % 8)
    | 0x0B => some (96 + i % 16)
    | 0x04 => some (112 + i % 4)
    | 0x07 => some 116
    | 0x0D => if code = 0x04 || (code = 0x12 && domain < 14) then some 117 else if code = 0x12 then some 118 else none
    | _ => none
  else
    match cls with
    | 0x02 => some (s.rd (A.SEQ_TILE_STATUS i) F.SEQ_TILE_STATUS.PHYS)
    | 0x05 => some (17 + i)
    | 0x06 => some (25 + i)
    | 0x13 => some 29
    | 0x11 => some 30
    | 0x12 => some 31
    | 0x15 => some 32
    | 0x16 => some 33
    | 0x14 => some (34 + i)
    | 0x03 => some (41 + i / 8)
    | _ => none

/-- The 16 words of an incident's record (R403). -/
def Incident.record (i : Incident) (isOpen : Bool) : List Word :=
  [word (0x7 * 2 ^ 28 + b2n isOpen * 2 ^ 27 + b2n i.remote * 2 ^ 26 + b2n i.warming * 2 ^ 25
      + b2n (0xFFFF ≤ i.count) * 2 ^ 24),
   word (i.key * 2 ^ 16 + min i.count 0xFFFF), word i.first,
   word i.firstStamp, word (i.firstStamp / 2 ^ 32), word (i.code * 2 ^ 16),
   word i.lastStamp, word (i.lastStamp / 2 ^ 32),
   word i.map, word (i.map / 2 ^ 32), word (i.map / 2 ^ 64), word (i.map / 2 ^ 96),
   word (i.seq.getD 0 * 2 ^ 16 + i.origin), word i.codes, 0, 0]

/-- Write a record into its slot, SEQ mod 64 (R403). -/
def writeRecord (seq : Nat) (ws : List Word) (s : State) : State :=
  forAll (List.range 16) (fun w s => setReg (A.LENS_REC (seq % 64) w) (wd ws w) s) s

/-- The words of the record in a slot. -/
def State.lensRecord (s : State) (seq : Nat) : List Word := (List.range 16).map (fun w => s.reg (A.LENS_REC (seq % 64) w))

/-- An incident's codes assert FAULT_N under FN_MASK: code n is bit n + 1 of LENS_CFG (R407). -/
def State.asserts (s : State) (codes : Nat) : Bool := codes * 2 &&& (s.reg A.LENS_CFG).toNat &&& 0xFFFFFFFC ≠ 0

/-- FAULT_N and the counts of LENS_STATUS follow the incidents (R405, R407). -/
def refreshLens (s : State) : State :=
  let held := s.lens.heldSeqs
  let fault := s.rst.phase ≠ .running || s.flag A.HL_STATUS F.HL_STATUS.UMBRA
    || s.lens.openInc.any (fun i => s.asserts i.codes)
    || held.any (fun q => s.asserts (s.reg (A.LENS_REC (q % 64) 13)).toNat)
    || s.rd A.LENS_LOST F.LENS_LOST.COUNT ≠ 0
  s |> wr A.LENS_STATUS F.LENS_STATUS.OPEN s.lens.openInc.length
    |> wr A.LENS_STATUS F.LENS_STATUS.HELD held.length
    |> wr A.LENS_STATUS F.LENS_STATUS.FULL (b2n (64 ≤ held.length))
    |> wr A.LENS_STATUS F.LENS_STATUS.FAULT_N (b2n fault)

/-- Change the lens. -/
def modLens (f : Lens → Lens) (s : State) : State := { s with lens := f s.lens }

/-- An incident takes its SEQ and slot, or is lost where all 64 slots are held (R403, R405). -/
def admitIncident (i : Incident) (s : State) : Incident × State :=
  if 64 ≤ s.lens.heldSeqs.length then
    let s := bump A.LENS_LOST F.LENS_LOST.COUNT s
    if s.lens.lossSignalled then ({ i with seq := none }, s)
    else ({ i with seq := none }, signal 8 (modLens (fun l => { l with lossSignalled := true }) s))
  else
    let n := s.rd A.LENS_NEXT F.LENS_NEXT.SEQ
    ({ i with seq := some n },
      wr A.LENS_NEXT F.LENS_NEXT.SEQ ((n + 1) % 65536) (modLens (fun l => { l with heldSeqs := l.heldSeqs ++ [n] }) s))

/-- An open incident a report joins: the same key (and, for UNIT, the same reporter), first stamp within 2 µs (R400,
R402). -/
def Incident.joins (i : Incident) (r : Report) : Bool :=
  i.key = r.key && (r.key ≠ keyUnit || i.first = r.unit) && i.firstStamp ≤ r.stamp && r.stamp ≤ i.firstStamp + 6400

/-- An incident with one more report. -/
def State.joinReport (s : State) (i : Incident) (r : Report) : Incident :=
  { i with
    count := min 0xFFFF (i.count + 1), lastStamp := max i.lastStamp r.stamp, codes := i.codes ||| 2 ^ r.code,
    map := i.map ||| ((s.mapBit r.key r.unit r.code r.domain).map (2 ^ ·)).getD 0, warming := i.warming || r.warm }

/-- The report the lens processes next: the earliest by stamp, then by unit identifier (R402). -/
def nextReport (rs : List Report) : Option Report :=
  rs.foldl (fun b r => match b with
    | none => some r
    | some x => if r.stamp < x.stamp || (r.stamp = x.stamp && r.unit < x.unit) then some r else some x) none

/-- A fault report is processed 500 ns after its stamp: it joins an open incident or opens one (R402). -/
def execLensReportProcess (s : State) : Out :=
  .next (
    match nextReport s.lens.reports with
    | none => s
    | some r =>
      if s.coarseNow < r.stamp + 1600 || s.inReset uLens then s
      else
        let s := modLens (fun l => { l with reports := l.reports.erase r }) s
        match s.lens.openInc.find? (·.joins r) with
        | some i =>
          let j := s.joinReport i r
          let s := modLens (fun l => { l with openInc := l.openInc.map (fun x => if x = i then j else x) }) s
          refreshLens (match j.seq with
            | some q => writeRecord q (j.record true) s
            | none => s)
        | none =>
          let i : Incident := {
            seq := none, key := r.key, first := r.unit, firstStamp := r.stamp, code := r.code,
            count := 0, lastStamp := r.stamp, map := 0, codes := 0, warming := false,
            origin := s.rd A.XR_STATUS F.XR_STATUS.OWN_POS }
          let p := admitIncident (s.joinReport i r) s
          let s := modLens (fun l => { l with openInc := l.openInc ++ [p.1] }) p.2
          let s := match p.1.seq with
            | some q => writeRecord q (p.1.record true) s
            | none => s
          refreshLens (fire 252 0 0 { coarse := r.stamp } s))

/-- An incident closes 2.5 µs after its first stamp, once the reports that join it are in: its record is final and vector 8 is signalled;
with REMOTE_EN a member sends it around the ring (R402, R406). -/
def execLensIncidentClose (s : State) : Out :=
  .next (
    match s.lens.openInc.find? (fun i => !s.inReset uLens && i.firstStamp + 8000 < s.coarseNow
        && !s.lens.reports.any i.joins) with
    | none => s
    | some i =>
      let s := modLens (fun l => { l with openInc := l.openInc.erase i }) s
      let s := match i.seq with
        | some q => signal 8 (writeRecord q (i.record false) s)
        | none => s
      refreshLens (when (s.flag A.LENS_CFG F.LENS_CFG.REMOTE_EN && s.rd A.XR_CTRL F.XR_CTRL.STATE = 3)
        (emit (.ringFrame ((i.record false).map (·.toNat)))) s))

/-- The record words of a local and a received incident combined (R406). -/
def mergeRecord (a b : List Word) : List Word :=
  let fa := (wd a 3).toNat + 2 ^ 32 * (wd a 4).toNat
  let fb := (wd b 3).toNat + 2 ^ 32 * (wd b 4).toNat
  let la := (wd a 6).toNat + 2 ^ 32 * (wd a 7).toNat
  let lb := (wd b 6).toNat + 2 ^ 32 * (wd b 7).toNat
  let e := if fb < fa then b else a
  let n := min 0xFFFF (bits (wd a 1) 15 0 + bits (wd b 1) 15 0)
  let l := max la lb
  [(wd a 0 ||| (wd b 0 &&& word (2 ^ 25))) ||| word (2 ^ 26 + b2n (n = 0xFFFF) * 2 ^ 24),
   word (bits (wd a 1) 31 16 * 2 ^ 16 + n), wd e 2, wd e 3, wd e 4, wd e 5, word l, word (l / 2 ^ 32),
   wd a 8 ||| wd b 8, wd a 9 ||| wd b 9, wd a 10 ||| wd b 10, wd a 11 ||| wd b 11,
   wd a 12, wd a 13 ||| wd b 13, 0, 0]

/-- An incident with the words of a record that has been merged into it. -/
def Incident.ofRecord (i : Incident) (w : List Word) : Incident :=
  { i with
    count := bits (wd w 1) 15 0, first := (wd w 2).toNat, firstStamp := (wd w 3).toNat + 2 ^ 32 * (wd w 4).toNat,
    code := bits (wd w 5) 31 16, lastStamp := (wd w 6).toNat + 2 ^ 32 * (wd w 7).toNat,
    map := (wd w 8).toNat + 2 ^ 32 * (wd w 9).toNat + 2 ^ 64 * (wd w 10).toNat + 2 ^ 96 * (wd w 11).toNat,
    codes := (wd w 13).toNat, warming := bit (wd w 0) 25, remote := true }

/-- An incident arrives around the ring: it is sent on, and a member with REMOTE_EN merges it into a local one with the same RING key,
also one that found no slot, or records it (R405, R406). A member's own incident that has come round is removed; a device that is not a
member only sends it on (R465). -/
def execLensRemoteIncident (rec : List Word) (s : State) : Out :=
  .next (
    let state := s.rd A.XR_CTRL F.XR_CTRL.STATE
    let own := s.rd A.XR_STATUS F.XR_STATUS.OWN_POS
    if state = 0 || (state = 3 && bits (wd rec 12) 15 0 = own) then s
    else
    let s := emit (.ringFrame (rec.map (·.toNat))) s
    if !s.flag A.LENS_CFG F.LENS_CFG.REMOTE_EN || state ≠ 3 then s
    else
      let key := bits (wd rec 1) 31 16
      let f := (wd rec 3).toNat + 2 ^ 32 * (wd rec 4).toNat
      let near (q : Nat) : Bool :=
        let w := s.lensRecord q
        let g := (wd w 3).toNat + 2 ^ 32 * (wd w 4).toNat
        key / 4096 = 3 && bits (wd w 1) 31 16 = key && bits (wd w 12) 15 0 = own && f ≤ g + 6400 && g ≤ f + 6400
      match s.lens.heldSeqs.find? near with
      | some q =>
        let w := mergeRecord (s.lensRecord q) rec
        let s := modLens (fun l => { l with openInc := l.openInc.map (fun i => if i.seq = some q then i.ofRecord w else i) }) s
        refreshLens (writeRecord q w s)
      | none =>
        let lost := s.lens.openInc.find? (fun i => i.seq.isNone && key / 4096 = 3 && i.key = key && f ≤ i.firstStamp + 6400
          && i.firstStamp ≤ f + 6400)
        match lost with
        | some i =>
          let j := i.ofRecord (mergeRecord (i.record true) rec)
          refreshLens (modLens (fun l => { l with openInc := l.openInc.map (fun x => if x = i then j else x) }) s)
        | none =>
        let i : Incident := {
          seq := none, key := key, first := 0, firstStamp := f, code := 0, count := 0, lastStamp := f,
          map := 0, codes := 0, warming := false, origin := bits (wd rec 12) 15 0 }
        let p := admitIncident (i.ofRecord rec) s
        refreshLens (match p.1.seq with
          | some q => signal 8 (writeRecord q (p.1.record false) p.2)
          | none => p.2))

/-- The open incidents' SEQs. -/
def State.openSeqs (s : State) : List Nat := s.lens.openInc.filterMap (·.seq)

/-- Acknowledge every closed incident up to a held SEQ (R405). -/
def acknowledge (seq : Nat) (s : State) : State :=
  let opens := s.openSeqs
  let upTo := s.lens.heldSeqs.takeWhile (· ≠ seq) ++ [seq]
  let gone := upTo.filter (fun q => !opens.contains q)
  let s := modLens (fun l => { l with
    heldSeqs := l.heldSeqs.filter (fun q => !gone.contains q),
    lossSignalled := if gone.isEmpty then l.lossSignalled else false }) s
  refreshLens (match gone.getLast? with
    | some q => wr A.LENS_ACKSEQ F.LENS_ACKSEQ.SEQ q s
    | none => s)

/-- LENS_READ (R403). -/
def execLensRead (q : Nat) (s : State) : Out :=
  .next (hostCmd q 0x0B01 (fun _ _ => [uLens]) (fun c s =>
    let n := bits (c.w 4) 31 16
    let first := bits (c.w 4) 15 0
    checked q [lenIs c 1, (n = 0 || 64 < n || !s.lens.heldSeqs.contains first, 0x01C8, 4)] (fun s =>
      let l := (s.lens.heldSeqs.dropWhile (· ≠ first)).take n
      let res := word (s.rd A.LENS_NEXT F.LENS_NEXT.SEQ * 2 ^ 16 + l.length) :: l.flatMap s.lensRecord
      if l.length = n then ok q res s else finish q 0x0001 l.length res s) s) s)

/-- LENS_ACK (R405). -/
def execLensAck (q : Nat) (s : State) : Out :=
  .next (hostCmd q 0x0B02 (fun _ _ => [uLens]) (fun c s =>
    let seq := bits (c.w 4) 15 0
    checked q [lenIs c 1, resv c 4 31 16, (!s.lens.heldSeqs.contains seq, 0x01C8, 4)] (fun s =>
      if s.openSeqs.contains seq then finish q 0x0001 1 [] (acknowledge seq s)
      else ok q [] (acknowledge seq s)) s) s)

/-- Write of LENS_ACKSEQ (R405). -/
def execLensAckseqWrite (w : Word) (s : State) : Out :=
  .next (barWrite (.lensAckseqWrite w) A.LENS_ACKSEQ (fun s =>
    if s.lens.heldSeqs.contains (bits w 15 0) then acknowledge (bits w 15 0) s
    else s) s)

end Sys2Proof.Machine
end

