-- ==== Sys2Proof/Machine/Prism.lean ====
section
/-! DEFINITION. The prism: producers the host and the outside fire, the enable matrix commands, TIO pins, ring events,
and merging of events (R385 to R399, R409). Delivery itself is in Deliver.lean. -/

namespace Sys2Proof.Machine

/-- Whether producer `p` is joined to consumer `c` (R389). -/
def State.joined (s : State) (p c : Nat) : Bool := bit (s.reg (A.PR_EN c (p / 32))) (p % 32)

/-- Set or clear an enable bit. -/
def setJoin (p c : Nat) (en : Bool) (s : State) : State :=
  let w := s.reg (A.PR_EN c (p / 32))
  let m := word (2 ^ (p % 32))
  setReg (A.PR_EN c (p / 32)) (if en then w ||| m else w &&& ~~~ m) s

/-- Consumer `c` takes an event, by the enable bit and the KMASK as they stood at the start of this FAB cycle (R389). -/
def State.takes (s : State) (c : Nat) (e : Event) : Bool :=
  bit (s.reg0 (A.PR_EN c (e.prod / 32))) (e.prod % 32) && nbit (fget (s.reg0 (A.PR_CCFG c)) F.PR_CCFG.KMASK) e.kind

/-- The earlier of two events: by stamp, ties to the lower producer (R395). -/
def Event.before (a b : Event) : Bool :=
  if a.stamp.coarse ≠ b.stamp.coarse then a.stamp.coarse < b.stamp.coarse
  else if a.stamp.frac ≠ b.stamp.frac then a.stamp.frac < b.stamp.frac
  else a.prod ≤ b.prod

/-- Events merged into one: the earliest's stamp and kind, the highest generation (R395). -/
def merge : List Event → Option Event
  | [] => none
  | e :: es => some (es.foldl (fun a b =>
      { (if a.before b then a else b) with gen := max a.gen b.gen }) e)

/-- The target mask of die line `x` = c − 68 (R388). -/
def State.target (s : State) (x : Nat) : Nat := s.pair (A.PR_LTGT_LO x) (A.PR_LTGT_HI x)

/-- The target mask that an event delivered in this FAB cycle meets: as it stood at the cycle's start (R389). -/
def State.target0 (s : State) (x : Nat) : Nat := (s.reg0 (A.PR_LTGT_LO x)).toNat + 2 ^ 32 * (s.reg0 (A.PR_LTGT_HI x)).toNat

/-- A placed measurement holds the enable bit (p, c) (R390). -/
def State.bitHeld (s : State) (p c : Nat) : Bool :=
  s.place.meas.any (fun m => (m.2.val.map (fun v => v.links.contains (p, c))).getD false)

/-- PRISM_SET (R409, R390). -/
def execPrismSet (q : Nat) (s : State) : Out :=
  .next (hostCmd q 0x0A01 (fun _ _ => [uPrism]) (fun c s =>
    let n := bits (c.w 4) 15 0
    let recs := (List.range n).map (fun i => (5 + i, c.w (5 + i)))
    checked q ([chk (c.payload ≠ 1 + n) 0x0104 1, resv c 4 31 16,
        (n = 0 || 4096 < n, 0x01C0, 4)]
      ++ recs.flatMap (fun r => [
        (bits r.2 30 24 ≠ 0 || bits r.2 15 8 ≠ 0, 0x0101, r.1),
        (191 < bits r.2 7 0, 0x01C0, r.1),
        (s.bitHeld (bits r.2 23 16) (bits r.2 7 0) && (s.joined (bits r.2 23 16) (bits r.2 7 0) != bit r.2 31), 0x03A0, r.1)]))
      (fun s => ok q [] (forAll recs (fun r s => setJoin (bits r.2 23 16) (bits r.2 7 0) (bit r.2 31) s) s)) s) s)

/-- PRISM_CONS_SET (R409, R390). -/
def execPrismConsSet (q : Nat) (s : State) : Out :=
  .next (hostCmd q 0x0A02 (fun _ _ => [uPrism]) (fun c s =>
    let n := bits (c.w 4) 7 0
    let recs := (List.range n).map (fun i => (5 + 3 * i, c.w (5 + 3 * i), c.w (6 + 3 * i), c.w (7 + 3 * i)))
    let con (r : Nat × Word × Word × Word) : Nat := bits r.2.1 7 0
    let line (r : Nat × Word × Word × Word) : Bool := 68 ≤ con r
    checked q ([chk (c.payload ≠ 1 + 3 * n) 0x0104 1, resv c 4 31 8,
        (n = 0 || 192 < n, 0x01C0, 4)]
      ++ recs.flatMap (fun r => [
        (bits r.2.1 31 16 ≠ 0 || bits r.2.1 11 8 ≠ 0, 0x0101, r.1),
        (bits r.2.2.2 31 25 ≠ 0, 0x0101, r.1 + 2),
        (191 < con r, 0x01C0, r.1),
        (!line r && (r.2.2.1 ≠ 0 || r.2.2.2 ≠ 0), 0x01C0, if r.2.2.1 ≠ 0 then r.1 + 1 else r.1 + 2),
        (s.flag (A.PR_CCFG (con r)) F.PR_CCFG.HELD &&
          (s.rd (A.PR_CCFG (con r)) F.PR_CCFG.KMASK ≠ bits r.2.1 15 12 ||
            (line r && s.target (con r - 68) ≠ r.2.2.1.toNat + 2 ^ 32 * r.2.2.2.toNat)), 0x03A0, r.1)]))
      (fun s => ok q [] (forAll recs (fun r s =>
        let s := wr (A.PR_CCFG (con r)) F.PR_CCFG.KMASK (bits r.2.1 15 12) s
        if line r then setReg (A.PR_LTGT_HI (con r - 68)) r.2.2.2 (setReg (A.PR_LTGT_LO (con r - 68)) r.2.2.1 s) else s) s)) s) s)

/-- The next FAB cycle boundary at or after a tick. -/
def fabCeil (t : Nat) : Nat := (t + 7) / 8 * 8

/-- The software producers whose FAB cycle has come register their events (R399). -/
def registerDue (s : State) : State :=
  let due := s.prism.later.filter (fun x => x.1 ≤ s.now)
  forAll due (fun x s => fireAt x.2 0 0 { coarse := s.coarseOf x.1 } x.1 s)
    { s with prism := { s.prism with later := s.prism.later.filter (fun x => s.now < x.1) } }

/-- PRISM_FIRE (R399): the events register in the first FAB cycle at or after AT, or in the next one. -/
def execPrismFire (q : Nat) (s : State) : Out :=
  .next (hostCmd q 0x0A03 (fun _ _ => [uPrism]) (fun c s =>
    let mask := bits (c.w 4) 7 0
    let at_ := (c.w 5).toNat + 2 ^ 32 * (c.w 6).toNat
    let r := if at_ = 0 || at_ < s.coarseNow then s.now + 8 else fabCeil (s.now + (at_ - s.coarseNow))
    checked q [lenIs c 3, resv c 4 31 8, (mask = 0, 0x01C1, 4)] (fun s =>
      ok q [] (registerDue { s with prism := { s.prism with
        later := s.prism.later ++ (bitList 8 mask).map (fun n => (r, 240 + n)) } })) s) s)

/-- Write of PR_SWFIRE: each bit written 1 registers an event of its software producer in this FAB cycle (R399). -/
def execPrSwfireWrite (w : Word) (s : State) : Out :=
  .next (barWrite (.prSwfireWrite w) A.PR_SWFIRE (forAll (bitList 8 (bits w 7 0)) (fun n s => fire (240 + n) 0 0 s.stampNow s)) s)

/-- A TIO pin takes its settings: a pulse in progress ends when OUT is cleared (R398). -/
def setTio (n edge width out : Nat) (s : State) : State :=
  let s := wr (A.PR_TIO n) F.PR_TIO.EDGE edge (wr (A.PR_TIO n) F.PR_TIO.WIDTH width (wr (A.PR_TIO n) F.PR_TIO.OUT out s))
  if out = 0 then { s with prism := { s.prism with tioPulse := kdel s.prism.tioPulse n } } else s

/-- The level that a TIO pin drives: none as an input, high from the rise of its pulse to its end as an output (R391, R398). -/
def State.tioLevel (s : State) (n : Nat) : Option Bool :=
  if s.flag (A.PR_TIO n) F.PR_TIO.OUT then some (s.prism.tioPulse.any (fun p => p.1 = n && p.2.1 ≤ s.now && s.now < p.2.2)) else none

/-- PRISM_TIO_SET (R398). -/
def execPrismTioSet (q : Nat) (s : State) : Out :=
  .next (hostCmd q 0x0A04 (fun c _ => ((List.range (bits (c.w 4) 31 0)).map (fun i => uTio (bits (c.w (5 + i)) 31 28))).take 16)
    (fun c s =>
      let n := (c.w 4).toNat
      let recs := (List.range (min n 16)).map (fun i => (5 + i, c.w (5 + i)))
      checked q ([lenIs c (1 + n), chk (n = 0 || 16 < n) 0x01C2 4]
        ++ recs.flatMap (fun r => [
          (bits r.2 27 18 ≠ 0 || bits r.2 7 1 ≠ 0, 0x0101, r.1),
          (bit r.2 0 && bits r.2 15 8 = 0, 0x01C2, r.1)]))
        (fun s => ok q [] (forAll recs (fun r s =>
          setTio (bits r.2 31 28) (bits r.2 17 16) (bits r.2 15 8) (bits r.2 0 0) s) s)) s) s)

/-- An edge at a TIO input: the pin fires where EDGE selects it (R386, R398). -/
def execTioInputEdge (n : Nat) (rising : Bool) (s : State) : Out :=
  .next (
    let e := s.rd (A.PR_TIO n) F.PR_TIO.EDGE
    if s.flag (A.PR_TIO n) F.PR_TIO.OUT || 15 < n then s
    else if e = 3 || (e = 1 && rising) || (e = 2 && !rising) then fire (32 + n) 0 0 s.stampNow s
    else s)

/-- A TIO output pulse ends; the consumer is free again (R387, R398). -/
def execTioPulseEnd (n : Nat) (s : State) : Out :=
  .next (
    match s.prism.tioPulse.find? (·.1 = n) with
    | some p => if p.2.2 ≤ s.now then { s with prism := { s.prism with tioPulse := kdel s.prism.tioPulse n } } else s
    | none => s)

/-- TICK_US, TICK_MS or TICK_S fires at the next count that is a multiple of its period, once the count has reached it (R386). -/
def execTickFire (k : Nat) (s : State) : Out :=
  .next (
    let m := kget (fun _ => 0) s.prism.nextTick k
    let c := m * tickPeriod k
    if 2 < k || !s.gn.running || s.count < c then s
    else fireAt (253 + k) 0 0 { coarse := c } (s.now - (s.count - c))
      { s with prism := { s.prism with nextTick := kset (fun _ => 0) s.prism.nextTick k (m + 1) } })

/-- A ring event frame of the member at `origin` arrives with the sender's stamp and generation: it is sent on unchanged, and a
member fires RING`n` with the next generation (R393, R397). The sender's own frame is removed; a device that is not a member
only sends it on (R465). -/
def execRingEventReceive (origin n gen coarse frac : Nat) (hasFrac : Bool) (s : State) : Out :=
  .next (
    let state := s.rd A.XR_CTRL F.XR_CTRL.STATE
    if state = 0 || 3 < n || (state = 3 && origin = s.rd A.XR_STATUS F.XR_STATUS.OWN_POS) then s
    else
      let s := emit (.ringFrame [origin, n, gen, coarse, frac, b2n hasFrac]) s
      let st : Stamp := ⟨coarse, frac, hasFrac⟩
      if state ≠ 3 then s
      else if 8 ≤ gen + 1 then fireAt (248 + n) 0 (gen + 1) st s.now s
      else
        let s := bump (A.PR_PSTAT (248 + n)) F.PR_PSTAT.FIRED (wr (A.PR_PSTAT (248 + n)) F.PR_PSTAT.LASTGEN (gen + 1) s)
        { s with prism := { s.prism with flight := s.prism.flight ++ [⟨248 + n, 0, gen + 1, st, s.now⟩] } })

end Sys2Proof.Machine
end

