-- ==== Sys2Proof/Machine/Operands.lean ====
section
/-! DEFINITION. What commands name and how it is read: sites, tiles and pins, handles, governing periods, two-phase
commits (R42 to R46), and the timing shadow bank. -/

namespace Sys2Proof.Machine

/-! ## Tiles, sites and pins (R15, R139, R161) -/

/-- The site a logical tile belongs to. -/
def State.siteOfTile (s : State) (k : Nat) : Option Nat :=
  if s.flag (A.SEQ_TILE_STATUS k) F.SEQ_TILE_STATUS.IN_SITE then some (s.rd (A.SEQ_TILE_STATUS k) F.SEQ_TILE_STATUS.SITE)
  else none

/-- The site a pin belongs to. -/
def State.siteOfPin (s : State) (n : Nat) : Option Nat := s.siteOfTile (n / 16)

def State.formed (s : State) (i : Nat) : Bool := s.flag (A.SEQ_SITE_CFG i) F.SEQ_SITE_CFG.FORMED
def State.lead (s : State) (i : Nat) : Nat := s.rd (A.SEQ_SITE_CFG i) F.SEQ_SITE_CFG.FIRST
def State.width (s : State) (i : Nat) : Nat := s.rd (A.SEQ_SITE_CFG i) F.SEQ_SITE_CFG.WIDTH + 1

/-- The tiles of a site. -/
def State.tilesOf (s : State) (i : Nat) : List Nat := (List.range (s.width i)).map (s.lead i + ·)

/-- The pins of a tile. -/
def pinsOfTile (k : Nat) : List Nat := (List.range 16).map (16 * k + ·)

/-- The pins of a site. -/
def State.pinsOf (s : State) (i : Nat) : List Nat := (s.tilesOf i).flatMap pinsOfTile

def State.siteState (s : State) (i : Nat) : Nat := s.rd (A.SEQ_SITE_STATE i) F.SEQ_SITE_STATE.STATE
def State.armed (s : State) (i : Nat) : Bool := s.flag (A.SEQ_SITE_STATE i) F.SEQ_SITE_STATE.ARMED

/-- Run, streaming or match-wait (R162). -/
def State.runs (s : State) (i : Nat) : Bool := 1 ≤ s.siteState i && s.siteState i ≤ 3

/-- Running or paused. -/
def State.active (s : State) (i : Nat) : Bool := 1 ≤ s.siteState i && s.siteState i ≤ 4

/-- Armed, running or paused: the site holds a stream reservation (R129). -/
def State.reserved (s : State) (i : Nat) : Bool := s.active i || s.armed i

/-- The tile's site runs or is paused. -/
def State.tileActive (s : State) (k : Nat) : Bool := ((s.siteOfTile k).map s.active).getD false

/-- The pin's site runs, is paused or is armed. -/
def State.pinBusy (s : State) (n : Nat) : Bool := ((s.siteOfPin n).map s.reserved).getD false

/-- A site's sequencer. -/
def State.site (s : State) (i : Nat) : Site := kget (fun _ => {}) s.sites i
def modSite (i : Nat) (f : Site → Site) (s : State) : State :=
  { s with sites := kset (fun _ => {}) s.sites i (f (s.site i)) }

/-- A tile's buffers. -/
def State.tile (s : State) (k : Nat) : Tile := kget (fun _ => {}) s.tiles k
def modTile (k : Nat) (f : Tile → Tile) (s : State) : State :=
  { s with tiles := kset (fun _ => {}) s.tiles k (f (s.tile k)) }

/-- The pin mode (R217). -/
def State.mode (s : State) (n : Nat) : Nat := s.rd (A.PIN_MODE n) F.PIN_MODE.MODE

/-- The mirror profile is in force (R377). -/
def State.mirror (s : State) : Bool := s.flag A.IL_PROFILE F.IL_PROFILE.MIRROR

/-- The device is of grade B (R4). -/
def State.gradeB (s : State) : Bool := s.fuses.grade = 0x0B

/-- A pin is retired (R464). -/
def State.retired (s : State) (n : Nat) : Bool := s.svc.retired.contains n

/-! ## Handles (R114, R115) -/

/-- A handle's parts. -/
def hKind (h : Nat) : Nat := h / 2 ^ 28
def hGen (h : Nat) : Nat := h / 2 ^ 16 % 4096
def hIndex (h : Nat) : Nat := h % 2 ^ 16

/-- A handle from its parts. -/
def mkHandle (kind : Nat) (gen : BitVec 12) (index : Nat) : Nat := kind * 2 ^ 28 + gen.toNat * 2 ^ 16 + index

/-- What a table slot holds for a handle of the table's kind. -/
def slotFor {α : Type} (t : KMap (Slot α)) (h : Nat) : Option α :=
  match kget (fun _ => {}) t (hIndex h) with
  | ⟨g, v⟩ => if g.toNat = hGen h then v else none

def State.obj? (s : State) (h : Nat) : Option PatObj := if hKind h = 1 then slotFor s.place.objs h else none
def State.buf? (s : State) (h : Nat) : Option Buffer :=
  if hKind h = 2 then slotFor s.place.bufs h else if hKind h = 3 then slotFor s.place.logs h else none
def State.meas? (s : State) (h : Nat) : Option Meas := if hKind h = 4 then slotFor s.place.meas h else none

/-- Whether a handle is live. -/
def State.live (s : State) (h : Nat) : Bool := (s.obj? h).isSome || (s.buf? h).isSome || (s.meas? h).isSome

/-- The status of a handle that should be of one of the kinds: 0 where it is (R115). -/
def State.handleStatus (s : State) (h : Nat) (kinds : List Nat) : Nat :=
  if !s.live h then 0x0112 else if kinds.contains (hKind h) then 0 else 0x0113

def modPlace (f : Place → Place) (s : State) : State := { s with place := f s.place }

/-- Put a value into a table slot, keeping its generation. -/
def putSlot {α : Type} [DecidableEq α] (t : KMap (Slot α)) (i : Nat) (v : α) : KMap (Slot α) :=
  kset (fun _ => {}) t i { kget (fun _ => {}) t i with val := some v }

/-- Free a table slot: its generation rises by 1 modulo 4,096 (R114). -/
def freeSlot {α : Type} [DecidableEq α] (t : KMap (Slot α)) (i : Nat) : KMap (Slot α) :=
  kset (fun _ => {}) t i { gen := (kget (fun _ => {}) t i).gen + 1, val := none }

/-- The lowest free slot of a table of `n` slots. -/
def freeIndex {α : Type} (t : KMap (Slot α)) (n : Nat) : Option Nat :=
  (List.range n).find? (fun i => (kget (fun _ => {}) t i).val.isNone)

/-- Change a live pattern object. -/
def modObj (h : Nat) (f : PatObj → PatObj) (s : State) : State :=
  match s.obj? h with
  | some o => modPlace (fun p => { p with objs := putSlot p.objs (hIndex h) (f o) }) s
  | none => s

/-- Change a live buffer. -/
def modBuf (h : Nat) (f : Buffer → Buffer) (s : State) : State :=
  match s.buf? h with
  | some b =>
    if hKind h = 2 then modPlace (fun p => { p with bufs := putSlot p.bufs (hIndex h) (f b) }) s
    else modPlace (fun p => { p with logs := putSlot p.logs (hIndex h) (f b) }) s
  | none => s

/-- A word of a buffer; one that nothing has written is a free value (DESIGN CHOICE, log entry 10). -/
def Buffer.word (b : Buffer) (i : Nat) : Word := kget Config.blankWord b.data i

/-- Write words into a buffer from word `i` on. -/
def Buffer.write (b : Buffer) (i : Nat) (ws : List Word) : Buffer :=
  { b with data := (ws.zipIdx i).foldl (fun d p => kins d p.2 p.1) b.data }

/-- The live handles of pattern objects with what they hold. -/
def State.objects (s : State) : List (Nat × PatObj) :=
  s.place.objs.filterMap (fun p => p.2.val.map (fun o => (mkHandle 1 p.2.gen p.1, o)))

/-- The fail log of a site (R131). -/
def State.failLog (s : State) (i : Nat) : Option Nat :=
  (s.place.logs.filterMap (fun p => match p.2.val with
    | some b => if b.site = i then some (mkHandle 3 p.2.gen p.1) else none
    | none => none)).head?

/-! ## Two-phase requests (R42 to R44) -/

/-- What the units of a two-phase request report: units that fail to prepare with their hardware-fault status, units that
fail at commit, and units whose output has moved and cannot be put back. -/
abbrev Acks := CommitEnv

/-- The status with which a unit fails to prepare: of class 0x02xx or 0x06xx (R42). -/
def prepFault (e : Acks) (u : Nat) : Option Nat :=
  (e.prepare.find? (fun p => p.1 = u && (p.2 / 256 = 2 || p.2 / 256 = 6))).map (·.2)

/-- The first unit of a list that fails to prepare, with its status. -/
def firstFault (e : Acks) (units : List Nat) : Option (Nat × Nat) :=
  units.findSome? (fun u => (prepFault e u).map (fun st => (u, st)))

/-- An address holds a register of a unit: of a pin, a tile with its pins, a site, an instrument (R468). -/
def owns (u a : Nat) : Bool :=
  let i := uindex u
  let within (base size : Nat) : Bool := base ≤ a && a < base + size
  match uclass u with
  | 0x01 => within (0x400000 + 0x1000 * i) 0x1000 || within (0x500000 + 0x1000 * i) 0x1000
  | 0x02 => within (0x100000 + 0x10000 * i) 0x10000 || within (0x400000 + 0x10000 * i) 0x10000
      || within (0x500000 + 0x10000 * i) 0x10000 || a = A.TSET_CTRL i
  | 0x08 => within (A.AW_CFG i) 0x100
  | 0x09 => within (A.AQ_CFG i) 0x100
  | 0x0A => within (A.TU_IN_A i) 0x100
  | 0x0B => within (A.WM_CFG i) 0x20
  | 0x0C => within (A.PG_CFG i) 0x100 || within (A.PG_LIST i 0 0) 0x400
  | 0x0D => a = A.LVL_HV_CEIL i
  | 0x0E => within (A.SEQ_SITE_CFG i) 0x100 || within (A.PL_STARVE i) 0x20 || within (A.FAIL_CFG i) 0x20
  | _ => false

/-- A unit of a list owns the pin `n`, itself or with its tile. -/
def ownsPin (us : List Nat) (n : Nat) : Bool := us.contains (uPin n) || us.contains (uTile (n / 16))

/-- What a commit from `s` to `t` changed, as it was. -/
def savedOf (s t : State) : Saved where
  words := (((kchanged s.regs t.regs) ++ kchanged s.shadow t.shadow).eraseDups.filter (· ≠ A.PW_GRANTED)).map (fun a =>
    (a, s.reg a, s.shd a, (s.reg a ^^^ t.reg a) ||| (s.shd a ^^^ t.shd a)))
  claims := kold (fun _ => 0) s.power.claims t.power.claims
  tiles := kold (fun _ => {}) s.tiles t.tiles
  sites := kold (fun _ => {}) s.sites t.sites
  pins := kold (fun _ => {}) s.pins t.pins
  aw := kold (fun _ => {}) s.aw t.aw
  wm := kold (fun _ => {}) s.wm t.wm
  pg := kold (fun _ => {}) s.pg t.pg
  aq := kold (fun _ => {}) s.aq t.aq
  tu := kold (fun _ => {}) s.tu t.tu
  levels := if s.levels = t.levels then none else some s.levels
  cal := if s.cal = t.cal then none else some s.cal
  micro := if s.micro = t.micro then none else some s.micro
  place := if s.place = t.place then none else some s.place
  svc := if s.svc = t.svc then none else some s.svc

/-- The bits of a word under a mask replaced by those of another. -/
def under (mask old w : Word) : Word := (w &&& ~~~ mask) ||| (old &&& mask)

/-- What a commit changed is put back, but for the units that keep it (R43). -/
def putBack (v : Saved) (stuck : List Nat) (s : State) : State :=
  let s := forAll v.words (fun r s => if stuck.any (fun u => owns u r.1) then s else
    setReg r.1 (under r.2.2.2 r.2.1 (s.reg r.1)) (setShd r.1 (under r.2.2.2 r.2.2.1 (s.shd r.1)) s)) s
  let s := forAll v.claims (fun c => if stuck.contains c.1 then id else setClaim c.1 c.2) s
  let all := stuck.isEmpty
  { s with
    tiles := kputBack (fun _ => {}) v.tiles (fun k => stuck.contains (uTile k)) s.tiles
    sites := kputBack (fun _ => {}) v.sites (fun i => stuck.contains (uSite i)) s.sites
    pins := kputBack (fun _ => {}) v.pins (ownsPin stuck) s.pins
    aw := kputBack (fun _ => {}) v.aw (fun k => stuck.contains (uAw k)) s.aw
    wm := kputBack (fun _ => {}) v.wm (fun k => stuck.contains (uWm k)) s.wm
    pg := kputBack (fun _ => {}) v.pg (fun k => stuck.contains (uPg k)) s.pg
    aq := kputBack (fun _ => {}) v.aq (fun k => stuck.contains (uAq k)) s.aq
    tu := kputBack (fun _ => {}) v.tu (fun k => stuck.contains (uTu k)) s.tu
    levels := if all then v.levels.getD s.levels else s.levels
    cal := if all then v.cal.getD s.cal else s.cal
    micro := if all then v.micro.getD s.micro else s.micro
    place := if all then v.place.getD s.place else s.place
    svc := if all then v.svc.getD s.svc else s.svc }

/-- The opcodes of commands that are two-phase over any number of units (R138, R141, R193, R379, R418), and of those that are so over
more than one die or tile (R41). -/
def alwaysTwoPhase : List Nat := [0x0101, 0x0401, 0x0402, 0x0410, 0x0420, 0x0421, 0x0440, 0x0601]
def oftenTwoPhase : List Nat :=
  [0x0201, 0x0202, 0x0203, 0x0205, 0x0206, 0x0208, 0x0210, 0x0211, 0x0301, 0x0302, 0x0304, 0x0411, 0x0412, 0x0414, 0x0430, 0x0431,
   0x0501, 0x0504, 0x0505, 0x0511, 0x0512, 0x0513, 0x0520, 0x0532, 0x0533, 0x0534, 0x0541, 0x0542, 0x0544, 0x0602, 0x0820]

/-- How many of the low 16 bits of a word are set. -/
def ones16 (w : Word) : Nat := (bitList 16 (bits w 15 0)).length

/-- The tile or die that a unit lies on. -/
def unitPlace (u : Nat) : Nat × Nat :=
  let i := uindex u
  match uclass u with
  | 0x01 => (0, i / 16)
  | 0x02 => (0, i)
  | 0x03 => (0, i / 8)
  | 0x04 => (1, i / 4)
  | 0x07 | 0x0D => (1, i)
  | 0x08 | 0x09 | 0x0A | 0x0C => (1, i / 8)
  | 0x0B | 0x10 => (1, i / 16)
  | _ => (2, u)

/-- The units lie on more than one tile or die. -/
def apart (units : List Nat) : Bool := units.any (fun u => unitPlace u ≠ unitPlace (units.headD 0))

/-- The units over which a command is two-phase, of those it holds, rising: PATTERN_LOAD's tiles (R138), the calibration engines of
CAL_RUN's dies (R418), else all of them; none where it is not two-phase. RUN_PAUSE, RUN_RESUME and RUN_HALT are so where they name
several sites (R162). -/
def State.phaseUnits (s : State) (c : Cmd) (units : List Nat) : List Nat :=
  if c.opcode = 0x0101 then (s.tilesOf (bits (c.w 4) 3 0)).map uTile
  else if c.opcode = 0x0601 then (List.range 4).filterMap (fun d => if units.contains (uCal d) then some (uCal d) else none)
  else if alwaysTwoPhase.contains c.opcode then units
  else if [0x0411, 0x0412, 0x0414].contains c.opcode then (if 1 < ones16 (c.w 4) then units else [])
  else if oftenTwoPhase.contains c.opcode && apart units then units else []

/-- The host's writes to the shadow-banked fields of prepared units stand in the shadow after the commit; where the commit has applied a
tile's timing bank, it has applied them too (R46). -/
def replayLate (l : List (Nat × Fld × Nat × Nat)) (s : State) : State :=
  forAll l (fun r s =>
    let s := wrS r.1 r.2.1 r.2.2.1 s
    let live : Bool := (List.range 16).any (fun k => owns (uTile k) r.1 && r.1 ≠ A.TSET_CTRL k
      && !s.flag (A.TSET_CTRL k) F.TSET_CTRL.PENDING)
    when live (wr r.1 r.2.1 r.2.2.1) s) s

/-- The outcome words of a commit that failed at some units (R44): failed at commit, kept, restored. -/
def commitMap (failed stuck units : List Nat) : List (Nat × Nat) :=
  units.map (fun u => (if failed.contains u then 3 else if stuck.contains u then 1 else 4, u))

/-- A two-phase request over its units in ascending order. Nothing changes where a unit fails to prepare (R42). All units
commit in this FAB cycle, with what the host has written to their shadow banks meanwhile (R46). Where a
unit does not acknowledge its commit, COMMIT_ACK_TIMEOUT restores the others 2 µs later (R43).
Where one fails at commit, every unit is restored at once (0x0501) but those that cannot be (0x0502) (R43). `commit p` applies the
request to the units that satisfy `p`. -/
def twoPhase (q : Nat) (units : List Nat) (e : Acks) (commit : (Nat → Bool) → State → State)
    (done : State → State) (s : State) : State :=
  match firstFault e units with
  | some f =>
    finishMap q f.2 none (units.map (fun u => (if (prepFault e u).isSome then 2 else 0, u))) s
  | none =>
    let l := ((s.running q).map (·.late)).getD []
    let s := dropLate q s
    let failed := units.filter e.commit.contains
    if units.any e.silent.contains then
      let t := replayLate l (commit (fun _ => true) s)
      { modCmd q (fun c => { c with ack := some e, ackUnits := units, due := s.now + us 2 }) t with
        saves := kins t.saves q (savedOf s t) }
    else if failed.isEmpty then done (replayLate l (commit (fun _ => true) s))
    else
      let stuck := units.filter (fun u => e.stuck.contains u && !failed.contains u)
      finishMap q (if stuck.isEmpty then 0x0501 else 0x0502) none (commitMap failed stuck units)
        (if stuck.isEmpty then s else commit stuck.contains s)

/-! ## The profile record (R378) -/

/-- The valid copy of the profile record with the higher sequence number. -/
def State.profRecord (s : State) : Option ProfRecord :=
  let copy (i : Nat) : Option ProfRecord := (kget (fun _ => none) s.flash.profile i).filter (·.valid)
  match copy 0, copy 1 with
  | some a, some b => if a.seq < b.seq then some b else some a
  | some a, none => some a
  | none, b => b

/-- The copy that a write of the profile record takes: one that is not valid, else the one with the older sequence. -/
def State.oldProf (s : State) : Nat :=
  let seqOf (i : Nat) : Nat := (((kget (fun _ => none) s.flash.profile i).filter (·.valid)).map (·.seq + 1)).getD 0
  if seqOf 0 ≤ seqOf 1 then 0 else 1

/-- The profile record is written unless it already holds the profile. -/
def writeProf (mirror : Bool) (s : State) : State :=
  if (s.profRecord.map (·.mirror)) = some mirror then s
  else
    let r : ProfRecord := { seq := ((s.profRecord.map (·.seq)).getD 0) + 1, mirror := mirror, valid := true }
    wr A.IL_PROFILE F.IL_PROFILE.RECORD_VALID 1
      { s with flash := { s.flash with profile := kset (fun _ => none) s.flash.profile s.oldProf (some r) } }

/-- A profile switch that has ended without its commit leaves the record at the profile in force (R379). -/
def endSwitch (q : Nat) (s : State) : State :=
  if (s.running q).isSome || !s.flag A.IL_PROFILE F.IL_PROFILE.SWITCHING then s
  else wr A.IL_PROFILE F.IL_PROFILE.SWITCHING 0 (if s.profRecord.isSome then writeProf s.mirror s else s)

/-- A commit that waits for acknowledgements ends: units that failed or kept silent have failed at commit, the others are restored or,
where their output has moved, kept; claims taken in the prepare phase go back with the units restored (R43, R440). With `fault` the
request ends with that status in place of 0x0501 or 0x0502. The profile record follows the profile in force (R379). -/
def endCommit (q : Nat) (fault : Option Nat) (s : State) : State :=
  match s.running q with
  | none => s
  | some c =>
    match c.ack with
    | none => s
    | some e =>
      let failed := c.ackUnits.filter (fun u => e.commit.contains u || e.silent.contains u)
      let stuck := c.ackUnits.filter (fun u => e.stuck.contains u && !failed.contains u)
      let s := putBack (kget (fun _ => {}) s.saves q) stuck { s with saves := kdel s.saves q }
      let s := forAll c.before (fun b => if stuck.contains b.1 then id else setClaim b.1 b.2) s
      let s := finishMap q (fault.getD (if stuck.isEmpty then 0x0501 else 0x0502)) none (commitMap failed stuck c.ackUnits)
        (modCmd q (fun c => { c with ack := none }) s)
      if c.opcode = 0x0440 then endSwitch q s else s

/-- A command core that faults ends its command with 0x0601: R42 to R44 decide for a two-phase one, which has committed no unit or
waits for the acknowledgements of its commit; of any other, the effects applied stand (R99). -/
def coreFault (q : Nat) (s : State) : State :=
  match s.running q with
  | none => s
  | some c =>
    if c.ack.isSome then endCommit q (some 0x0601) s
    else
      let units := if c.stage = 0 then s.phaseUnits c (if c.want.isEmpty then c.held else c.want) else []
      let s := finish q 0x0601 units.length (units.map (mapWord 0)) s
      if c.opcode = 0x0440 then endSwitch q s else s

/-! ## Governing periods and the timing shadow bank (R201 to R209) -/

/-- The tile whose period table governs a tile's pins (R202). -/
def State.govTile (s : State) (k : Nat) : Nat := ((s.siteOfTile k).map s.lead).getD k

/-- A period of a tile's table, live or shadow, in timing units. -/
def State.period (s : State) (k t : Nat) : Nat :=
  s.rd (A.TSET_PERIOD_LO k t) F.TSET_PERIOD_LO.PER_LO + 2 ^ 32 * s.rd (A.TSET_PERIOD_HI k t) F.TSET_PERIOD_HI.PER_HI
def State.periodS (s : State) (k t : Nat) : Nat :=
  s.rdS (A.TSET_PERIOD_LO k t) F.TSET_PERIOD_LO.PER_LO + 2 ^ 32 * s.rdS (A.TSET_PERIOD_HI k t) F.TSET_PERIOD_HI.PER_HI

/-- Set a period of a shadow table. -/
def setPeriodS (k t v : Nat) (s : State) : State :=
  setShd (A.TSET_PERIOD_LO k t) (word v) (wrS (A.TSET_PERIOD_HI k t) F.TSET_PERIOD_HI.PER_HI (v / 2 ^ 32) s)

/-- An edge offset of a pin, live or shadow, and its enable. -/
def State.offset (s : State) (n t e : Nat) : Nat :=
  (s.reg (A.TSET_EDGE_LO n t e)).toNat + 2 ^ 32 * s.rd (A.TSET_EDGE_HI n t e) F.TSET_EDGE_HI.OFS_HI
def State.offsetS (s : State) (n t e : Nat) : Nat :=
  (s.shd (A.TSET_EDGE_LO n t e)).toNat + 2 ^ 32 * s.rdS (A.TSET_EDGE_HI n t e) F.TSET_EDGE_HI.OFS_HI
def State.edgeEn (s : State) (n t e : Nat) : Bool := s.flag (A.TSET_EDGE_HI n t e) F.TSET_EDGE_HI.EN
def State.edgeEnS (s : State) (n t e : Nat) : Bool := s.rdS (A.TSET_EDGE_HI n t e) F.TSET_EDGE_HI.EN ≠ 0

/-- The live governing period of a pin's timing set (R202). -/
def State.govPeriod (s : State) (n t : Nat) : Nat := s.period (s.govTile (n / 16)) t

/-- An address lies in a tile's timing shadow bank: its periods and mask sets, and its pins' edges, formats and state maps
(R209, R231, R255). -/
def inBank (k a : Nat) : Bool :=
  (A.TSET_PERIOD_LO k 0 ≤ a && a < A.TSET_PERIOD_LO k 0 + 0x200) || (A.LE_MASKSET k 0 ≤ a && a < A.LE_MASKSET k 0 + 0x40)
  || (0x500000 + 0x10000 * k ≤ a && a < 0x510000 + 0x10000 * k)
  || (0x400000 + 0x10000 * k ≤ a && a < 0x410000 + 0x10000 * k &&
      ((0x100 ≤ a % 0x1000 && a % 0x1000 < 0x200) || a % 0x1000 = 0x00C))

/-- Copy the shadow copy of the registers that `covers` names, as it stood at the start of this FAB cycle, into the live
copy (R13). -/
def copyBank (covers : Nat → Bool) (s : State) : State :=
  let kept := s.regs.filter (fun p => !covers p.1)
  { s with regs := (s.shadow0.filter (fun p => covers p.1)).foldl (fun m p => kins m p.1 p.2) kept }

/-- PENDING of a tile whose bank has been applied: a write of this FAB cycle stays in the shadow (R13). -/
def leavePending (k : Nat) (s : State) : State :=
  wr (A.TSET_CTRL k) F.TSET_CTRL.PENDING
    (b2n (s.shadow.filter (fun p => inBank k p.1) ≠ s.shadow0.filter (fun p => inBank k p.1))) s

/-- A tile's timing shadow bank applies as a whole (R209). -/
def applyTile (k : Nat) (s : State) : State := leavePending k (copyBank (inBank k) s)

/-- A write has reached a tile's timing shadow bank. -/
def markBank (k : Nat) (s : State) : State := wr (A.TSET_CTRL k) F.TSET_CTRL.PENDING 1 s

end Sys2Proof.Machine
end

