-- ==== Sys2Proof/Machine/Pattern.lean ====
section
/-! DEFINITION. Pattern objects: the container (R116), control words and what opcodes declare (R144 to R150, R178), the
load-time checks (R145 to R154, R117), placement as local or streamed (R119, R120), the control rate (R121), the stream's
need (R129) and the code sets (R229). -/

namespace Sys2Proof.Machine

/-! ## Microcode regions and dispatch entries (R171, R178, R190, R194) -/

def State.region (s : State) (r : Nat) : Region := kget (fun _ => {}) s.micro.regions r
def State.regionValid (s : State) (r : Nat) : Bool := s.flag (A.UC_REGION r) F.UC_REGION.VALID

/-- The region a control-store address lies in (R171). -/
def regionOf (a : Nat) : Nat := if a < 4096 then 0 else if a < 7168 then 1 else 2

/-- The dispatch record a valid region holds for an opcode. -/
def State.record (s : State) (r op : Nat) : Option Word :=
  if s.regionValid r then ((s.region r).records.find? (·.1 = op)).map (·.2) else none

/-- The dispatch entry in force for an opcode: patch records replace Lenmas ones (R194). -/
def State.entry (s : State) (op : Nat) : Option Word :=
  if op < 0xC0 then (match s.record 2 op with
    | some e => some e
    | none => s.record 0 op)
  else s.record 1 op

/-- A dispatch entry is usable: VALID, and its routine in a valid region (R150, R171). -/
def State.usable (s : State) (e : Word) : Bool := bit e 31 && s.regionValid (regionOf (bits e 28 16))

/-! ## What opcodes declare (R148, R178) -/

/-- The structure of an instruction (R148, R178 CLASS). -/
inductive Shape where
  | plain | loop | loopEnd | jump | call | ret | branch | matchOpen | matchEnd | wait | prime | result | pause | halt | fin
  deriving DecidableEq, Repr

/-- What an opcode declares: extension words, width of its N field, one line or N lines, span exactly or at least N, whether
its last extension word is a TARGET, its structure, its COST. -/
structure Decl where
  ext : Nat := 0
  nbits : Nat := 18
  oneLine : Bool := false
  spanMin : Bool := false
  target : Bool := false
  shape : Shape := .plain
  cost : Nat := 1
  deriving DecidableEq, Repr

/-- The Lenmas opcodes (R148). -/
def lenmas (op : Nat) : Option Decl :=
  match op with
  | 0x00 => some {}
  | 0x01 => some { oneLine := true }
  | 0x02 => some { ext := 1 }
  | 0x03 => some {}
  | 0x04 => some {}
  | 0x08 => some { ext := 1, nbits := 15, shape := .loop }
  | 0x09 => some { nbits := 15, shape := .loopEnd }
  | 0x10 => some { ext := 1, target := true, shape := .jump }
  | 0x11 => some { ext := 1, target := true, shape := .call }
  | 0x12 => some { shape := .ret }
  | 0x13 => some { ext := 1, target := true, shape := .branch }
  | 0x14 => some { ext := 1, target := true, shape := .branch }
  | 0x15 => some { ext := 1, target := true, shape := .branch }
  | 0x18 => some { ext := 2, nbits := 16, target := true, shape := .matchOpen }
  | 0x19 => some { shape := .matchEnd }
  | 0x1A => some { ext := 1, oneLine := true, spanMin := true, shape := .wait }
  | 0x20 => some { oneLine := true, spanMin := true, shape := .prime }
  | 0x30 => some { nbits := 12, shape := .result }
  | 0x3D => some { shape := .pause }
  | 0x3E => some { shape := .halt }
  | 0x3F => some { shape := .fin }
  | _ => none

/-- The width of the operand field that NFIELD names (R178). -/
def nfieldBits (n : Nat) : Nat := if n = 0 then 18 else if n = 1 then 15 else if n = 2 then 16 else 12

/-- The structure that a dispatch entry gives its opcode by CLASS; class 7 follows the opcode (R148). A customer opcode whose TARGET
is 1 is a branch whatever its class (R178). -/
def classShape (op : Nat) (e : Word) : Shape :=
  if 0xC0 ≤ op && bit e 9 then .branch
  else match bits e 8 6 with
    | 1 => .branch
    | 2 => .wait
    | 3 => .loop
    | 4 => .loopEnd
    | 5 => .call
    | 6 => .ret
    | 7 => ((lenmas op).map (·.shape)).getD .plain
    | _ => .plain

/-- What the dispatch entry of an opcode declares (R178). -/
def entryDecl (op : Nat) (e : Word) : Decl where
  ext := bits e 15 14
  nbits := nfieldBits (bits e 13 12)
  oneLine := bit e 11
  spanMin := bit e 10
  target := bit e 9
  shape := classShape op e
  cost := bits e 5 0

/-- What an opcode declares in this device: what its dispatch entry in force says, of a Lenmas, patch or customer image; none for
an opcode that R148 leaves undefined, or that has no usable entry (R150, R178, R194). -/
def State.decl (s : State) (op : Nat) : Option Decl :=
  if op < 0xC0 && (lenmas op).isNone then none
  else match s.entry op with
    | some e => if s.usable e then some (entryDecl op e) else none
    | none => none

/-- An instruction of an object: where it stands, its words, the first line it owns. -/
structure PInstr where
  seg : Nat
  ofs : Nat
  word : Word
  ext : List Word := []
  line : Nat
  decl : Option Decl
  deriving DecidableEq, Repr

def PInstr.op (i : PInstr) : Nat := bits i.word 31 24
def PInstr.tset (i : PInstr) : Nat := bits i.word 23 18
def PInstr.operand (i : PInstr) : Nat := bits i.word 17 0
def PInstr.d (i : PInstr) : Decl := i.decl.getD {}
def PInstr.n (i : PInstr) : Nat := i.operand % 2 ^ i.d.nbits
def PInstr.lines (i : PInstr) : Nat := if i.d.oneLine then 1 else i.n
def PInstr.counter (i : PInstr) : Nat := i.operand / 2 ^ 15
def PInstr.shape (i : PInstr) : Shape := i.d.shape

/-- The TARGET word of an instruction (R149). -/
def PInstr.target? (i : PInstr) : Option Word := if i.d.target then i.ext.getLast? else none
def tgtSeg (t : Word) : Nat := bits t 31 20
def tgtOfs (t : Word) : Nat := bits t 19 0

/-- The timing set of cycle `k` of an instruction's span (R146). -/
def PInstr.tsetOf (i : PInstr) (k : Nat) : Nat :=
  if i.op = 0x02 && k < 4 then bits (wd i.ext 0) (6 * k + 5) (6 * k) else i.tset

/-- The instructions of a segment's control words. An opcode that declares nothing ends the list. -/
def parseCtrl (decl : Nat → Option Decl) (seg : Nat) : Nat → List Word → Nat → Nat → List PInstr
  | 0, _, _, _ => []
  | _, [], _, _ => []
  | fuel + 1, w :: rest, ofs, line =>
    match decl (bits w 31 24) with
    | none => [{ seg := seg, ofs := ofs, word := w, line := line, decl := none }]
    | some d =>
      let i : PInstr := { seg := seg, ofs := ofs, word := w, ext := rest.take d.ext, line := line, decl := some d }
      i :: parseCtrl decl seg fuel (rest.drop d.ext) (ofs + 1 + d.ext) (line + i.lines)

/-- The instructions of segment `k`. -/
def segInstrs (decl : Nat → Option Decl) (k : Nat) (g : Seg) : List PInstr := parseCtrl decl k g.ctrl.length g.ctrl 0 0

/-- Every instruction of an object, in segment-table order, then control-word order. -/
def PatObj.instrs (o : PatObj) (decl : Nat → Option Decl) : List PInstr :=
  o.segs.zipIdx.flatMap (fun p => segInstrs decl p.2 p.1)

def PatObj.seg (o : PatObj) (k : Nat) : Option Seg := o.segs[k]?

/-- The instruction at a position of an object. -/
def PatObj.instrAt (o : PatObj) (decl : Nat → Option Decl) (p : Nat × Nat) : Option PInstr :=
  match o.seg p.1 with
  | some g => (segInstrs decl p.1 g).find? (fun i => i.ofs = p.2)
  | none => none

/-- The timing sets an object's control words name (R130). -/
def PatObj.tsets (o : PatObj) (decl : Nat → Option Decl) : List Nat :=
  ((o.instrs decl).flatMap (fun i =>
    i.tset :: (if i.op = 0x02 then (List.range 4).map i.tsetOf else []))).eraseDups

/-! ## Vector lines (R143) and code sets (R229) -/

/-- Words of a vector line. -/
def lineWords (width : Nat) (dd : Bool) : Nat := if dd then 4 * width else 2 * width

/-- The state code that a line gives pin `i` of the site; `second` is the second data event. -/
def Seg.code (g : Seg) (width line i : Nat) (second : Bool) : Nat :=
  let t := if g.doubleData then 4 * (i / 16) else 2 * (i / 16)
  let w := wd g.lines (line * lineWords width g.doubleData + t + (if second then 2 else 0) + i % 16 / 8)
  bits w (4 * (i % 8) + 3) (4 * (i % 8))

/-- The code set of pin `i` of the site in an object: code K counts in single-data lines (R229). -/
def PatObj.codes (o : PatObj) (i : Nat) : List Nat :=
  (o.segs.flatMap (fun g => (List.range g.cycles).flatMap (fun l =>
    [g.code o.width l i false, if g.doubleData then g.code o.width l i true else 8]))).eraseDups

/-- The pair table of a pin (R227). -/
def pairOf (w : Nat) : List Nat := (List.range 4).map (fun k => w / 16 ^ k % 16)

/-- A pair table covers an object for pin `i` of its site (R229). -/
def PatObj.covered (o : PatObj) (i pair : Nat) : Bool := (o.codes i).all (pairOf pair).contains

/-! ## The header and the segment table (R116, R117 step 1) -/

/-- A container's reserved fields, FORMAT, SEGMENTS, offsets and counts: the index of the first wrong word (0x0110). MIN_PERIOD
below its least value counts among them, with word 2 (DESIGN CHOICE, log entry 79). -/
def containerFault (c : List Word) : Option Nat :=
  let n := bits (wd c 0) 11 0
  let size := c.length
  let hdr := [(bits (wd c 0) 31 24 ≠ 1 || bits (wd c 0) 23 12 ≠ 0 || n = 0 || size < 1, 0),
    (bits (wd c 1) 31 5 ≠ 0 || size < 2, 1), ((wd c 2).toNat < 1250 || size < 3, 2),
    (bits (wd c 3) 31 12 ≠ 0 || size < 4, 3)]
  let table := (List.range n).flatMap (fun k =>
    let b := 4 + 6 * k
    let w := bits (wd c 1) 3 0 + 1
    let dd := bit (wd c b) 2
    [(bits (wd c b) 31 3 ≠ 0 || size ≤ b, b),
     (size < (wd c (b + 1)).toNat || size ≤ b + 1, b + 1),
     (size < (wd c (b + 1)).toNat + (wd c (b + 2)).toNat || size ≤ b + 2, b + 2),
     (size < (wd c (b + 3)).toNat || size ≤ b + 3, b + 3),
     ((wd c (b + 4)).toNat = 0 || size < (wd c (b + 3)).toNat + (wd c (b + 4)).toNat * lineWords w dd || size ≤ b + 4, b + 4),
     (wd c (b + 5) ≠ 0 || size ≤ b + 5, b + 5)])
  ((hdr ++ table).find? (·.1)).map (·.2)

/-- The segments of a container. -/
def containerSegs (c : List Word) : List Seg :=
  (List.range (bits (wd c 0) 11 0)).map (fun k =>
    let b := 4 + 6 * k
    let w := bits (wd c 1) 3 0 + 1
    let dd := bit (wd c b) 2
    { doubleData := dd, padTol := bit (wd c b) 1, forceLocal := bit (wd c b) 0,
      ctrl := (c.drop (wd c (b + 1)).toNat).take (wd c (b + 2)).toNat,
      cycles := (wd c (b + 4)).toNat,
      lines := (c.drop (wd c (b + 3)).toNat).take ((wd c (b + 4)).toNat * lineWords w dd) })

/-- The object a container describes, for a site whose first tile is `first`. -/
def containerObj (c : List Word) (site first : Nat) : PatObj where
  site := site
  first := first
  width := bits (wd c 1) 3 0 + 1
  pad := bit (wd c 1) 4
  minPeriod := (wd c 2).toNat
  keepalive := bits (wd c 3) 11 0
  segs := containerSegs c
  container := c

/-! ## Content checks 1 to 4 (R145, R147, R150, R179) -/

/-- 0x0120: an opcode that declares nothing, or a reserved field of an extension word (R149, R150). -/
def badOpcode (i : PInstr) : Bool := i.decl.isNone || (i.op = 0x02 && bits (wd i.ext 0) 31 24 ≠ 0)

/-- 0x0125: span 0, COUNT 0, MODE 2 or 3, ADVT below 4 (R150). -/
def badField (i : PInstr) : Bool :=
  i.n = 0 || ((i.shape = .loop || i.shape = .matchOpen) && !i.ext.isEmpty && wd i.ext 0 = 0)
  || (i.op = 0x18 && 2 ≤ i.operand / 2 ^ 16) || (i.op = 0x02 && i.n < 4)

/-- 0x0121 in one segment: the first instruction whose lines reach past CYCLES or whose extension words reach past the
segment; the last instruction where the lines are too few (R145, R154). -/
def badLines (k : Nat) (g : Seg) (l : List PInstr) : Option (Nat × Nat) :=
  match l.find? (fun i => g.cycles < i.line + i.lines || i.ext.length < i.d.ext) with
  | some i => some (k, i.ofs)
  | none => if (l.map (·.lines)).sum = g.cycles then none else some (k, (l.getLast?.map (·.ofs)).getD 0)

/-- The spacing minimum of an instruction (R147, R179). -/
def spacing (minPeriod cost : Nat) : Nat := (5000 * cost + minPeriod - 1) / minPeriod

/-! ## Targets and structure (R151 to R154) -/

/-- The structure of an object's instructions, by number in table order: resolved targets, loops and match blocks as
(first, last). -/
structure Graph where
  code : List PInstr
  tgt : List (Option Nat)
  loops : List (Nat × Nat)
  blocks : List (Nat × Nat)
  deriving DecidableEq, Repr

/-- The number of the instruction at or after `g` that satisfies a test. -/
def nextFrom (l : List PInstr) (g : Nat) (p : PInstr → Bool) : Option Nat :=
  ((List.range l.length).drop g).find? (fun h => (l[h]?.map p).getD false)

/-- The graph of a list of instructions. -/
def mkGraph (l : List PInstr) : Graph where
  code := l
  tgt := l.map (fun i => match i.target? with
    | some t => l.findIdx? (fun j => j.seg = tgtSeg t && j.ofs = tgtOfs t)
    | none => none)
  loops := l.zipIdx.filterMap (fun p =>
    if p.1.shape = .loop then
      (nextFrom l (p.2 + 1) (fun j => j.shape = .loopEnd && j.counter = p.1.counter)).map (p.2, ·)
    else none)
  blocks := l.zipIdx.filterMap (fun p =>
    if p.1.shape = .matchOpen then (nextFrom l (p.2 + 1) (fun j => j.shape = .matchEnd)).map (p.2, ·) else none)

def Graph.target (gr : Graph) (g : Nat) : Option Nat := (gr.tgt[g]?).join
def Graph.shape (gr : Graph) (g : Nat) : Shape := (gr.code[g]?.map (·.shape)).getD .plain

/-- The nearest opening instruction that a closing one closes. -/
def opener (l : List (Nat × Nat)) (g : Nat) : Option Nat := ((l.filter (·.2 = g)).getLast?).map (·.1)

/-- Where control can go from instruction `g` within one level of calls; the number of instructions stands for the end of
the last segment. -/
def Graph.flow (gr : Graph) (g : Nat) : List Nat :=
  match gr.shape g with
  | .fin | .halt | .ret => []
  | .jump => (gr.target g).toList
  | .branch => (gr.target g).toList ++ [g + 1]
  | .loopEnd => (opener gr.loops g).toList ++ [g + 1]
  | .matchEnd =>
    match opener gr.blocks g with
    | some o => o :: (gr.target o).toList ++ [g + 1]
    | none => [g + 1]
  | _ => [g + 1]

/-- What is reached from a list by a step function, with fuel. -/
def closure {α : Type} [BEq α] (step : α → List α) : Nat → List α → List α → List α
  | 0, seen, _ => seen
  | _, seen, [] => seen
  | fuel + 1, seen, g :: todo =>
    if seen.contains g then closure step fuel seen todo else closure step fuel (g :: seen) (step g ++ todo)

/-- The instructions below `n` that are reached from a list by a step function, with fuel. -/
def reach (step : Nat → List Nat) (n fuel : Nat) (l : List Nat) : List Nat :=
  closure (fun g => (step g).filter (· < n)) fuel [] (l.filter (· < n))

/-- Fuel for a walk over states of which each is taken up at most once with at most three successors. -/
def walkFuel : Nat := 2 ^ 1024

/-- The instructions of the subroutine at a call target (R152). -/
def Graph.sub (gr : Graph) (t : Nat) : List Nat := reach gr.flow gr.code.length walkFuel [t]

/-- The call targets. -/
def Graph.callTargets (gr : Graph) : List Nat :=
  ((List.range gr.code.length).filterMap (fun g => if gr.shape g = .call then gr.target g else none)).eraseDups

/-- The subroutines, each with its instructions. -/
def Graph.subs (gr : Graph) : List (Nat × List Nat) := gr.callTargets.map (fun t => (t, gr.sub t))

/-- A loop body or match block (first, last) is led into from outside by a target (R154). -/
def ledInto (r : Nat × Nat) (b t : Nat) : Bool := r.1 < t && t ≤ r.2 && !(r.1 ≤ b && b ≤ r.2)

/-- 0x0124: the TARGET of instruction `b` is none, or leads where it may not: into a subroutine leads every TARGET from outside it but that
of a CALL that names it (R154). -/
def Graph.badTarget (gr : Graph) (subs : List (Nat × List Nat)) (b : Nat) : Bool :=
  match gr.code[b]? with
  | none => false
  | some i =>
    match i.target? with
    | none => false
    | some _ =>
      match gr.target b with
      | none => true
      | some t =>
        gr.loops.any (ledInto · b t)
        || gr.blocks.any (fun r => if r.1 = b then r.1 ≤ t && t ≤ r.2 else ledInto r b t)
        || subs.any (fun u => u.2.contains t && !u.2.contains b && !(i.shape = .call && u.1 = t))

/-- A place of a walk over the control paths: the instruction, the pending returns (where to, of which subroutine), the open
loops (counter, first instruction), and whether the LOOP is entered from its LOOP_END. -/
structure Walk where
  at_ : Nat
  calls : List (Nat × Nat) := []
  loops : List (Nat × Nat) := []
  back : Bool := false
  deriving DecidableEq, Repr

/-- Where a walk goes next, or that its instruction breaks a structure rule (R154). -/
def Graph.walkStep (gr : Graph) (w : Walk) : Option (List Walk) :=
  let n := gr.code.length
  let plainTo (l : List Nat) : Option (List Walk) :=
    if l.any (n ≤ ·) then none else some (l.map (fun h => { w with at_ := h, back := false }))
  match gr.code[w.at_]? with
  | none => none
  | some i =>
    match i.shape with
    | .loop =>
      if w.back then plainTo [w.at_ + 1]
      else if w.loops.any (·.1 = i.counter) || 8 ≤ w.loops.length then none
      else if n ≤ w.at_ + 1 then none
      else some [{ w with at_ := w.at_ + 1, loops := (i.counter, w.at_) :: w.loops, back := false }]
    | .loopEnd =>
      match w.loops with
      | (c, o) :: rest =>
        if c = i.counter && w.at_ + 1 < n then
          some [{ w with at_ := o, back := true }, { w with at_ := w.at_ + 1, loops := rest, back := false }]
        else none
      | [] => none
    | .call =>
      match gr.target w.at_ with
      | none => some []
      | some t =>
        if 16 ≤ w.calls.length || w.calls.any (·.2 = t) then none
        else some [{ w with at_ := t, calls := (w.at_ + 1, t) :: w.calls, back := false }]
    | .ret =>
      match w.calls with
      | (r, _) :: rest => if n ≤ r then none else some [{ w with at_ := r, calls := rest, back := false }]
      | [] => none
    | .matchEnd => if (opener gr.blocks w.at_).isNone then none else plainTo (gr.flow w.at_)
    | _ => plainTo (gr.flow w.at_)

/-- The instructions that break a structure rule on some control path. -/
def Graph.walk (gr : Graph) : Nat → List Walk → List Walk → List Nat → List Nat
  | 0, _, _, bad => bad
  | _, _, [], bad => bad
  | fuel + 1, seen, w :: todo, bad =>
    if seen.contains w then gr.walk fuel seen todo bad
    else match gr.walkStep w with
      | some l => gr.walk fuel (w :: seen) (l ++ todo) bad
      | none => gr.walk fuel (w :: seen) todo (w.at_ :: bad)

/-- Opcodes a match block may not contain (R154). -/
def notInMatch (sh : Shape) : Bool :=
  match sh with
  | .loop | .loopEnd | .call | .ret | .wait | .prime | .pause | .halt | .fin | .result | .matchOpen => true
  | _ => false

/-- The segment a run starts in: the first of the table that is not the keep-alive segment, which is never executed (R116; DESIGN CHOICE, log
entry 79). -/
def PatObj.startSeg (o : PatObj) : Nat := if o.keepalive = 0 then 1 else 0

/-- The instruction a run starts with; the number of instructions where there is none. -/
def Graph.start (gr : Graph) (seg : Nat) : Nat := (gr.code.findIdx? (fun i => seg ≤ i.seg)).getD gr.code.length

/-- The instructions that break the structure rules (R154); `first` is the segment a run starts in. A path that starts at the end
breaks them at the last instruction. -/
def Graph.badStructure (gr : Graph) (first : Nat) : List Nat :=
  let n := gr.code.length
  (List.range n).filter (fun g =>
    (gr.shape g = .loop && !gr.loops.any (·.1 = g)) || (gr.shape g = .matchOpen && !gr.blocks.any (·.1 = g))
    || gr.blocks.any (fun r => r.1 < g && g < r.2 && notInMatch (gr.shape g)))
  ++ (gr.walk walkFuel [] [{ at_ := gr.start first }] []).map (min (n - 1))

/-- The least number of a list. -/
def least : List Nat → Option Nat
  | [] => none
  | g :: l => some (l.foldl min g)

/-- The first refusal of the content checks of R117 step 3: status, DETAIL, result words. `ddr` tells whether a pin of the
site, by its number within the site, is DDR in a timing set; `pair` is its pair table. -/
def contentFault (o : PatObj) (decl : Nat → Option Decl) (lenmasOk gradeB : Bool) (ddr : Nat → Nat → Bool)
    (pair : Nat → Nat) : Option (Nat × Nat × List Word) :=
  let l := o.instrs decl
  let gr := mkGraph l
  let at_ (st seg ofs : Nat) : Option (Nat × Nat × List Word) := some (st, seg, [word seg, word ofs])
  let atI (st : Nat) (i : PInstr) : Option (Nat × Nat × List Word) := at_ st i.seg i.ofs
  let atG (st g : Nat) : Option (Nat × Nat × List Word) := (l[g]?).bind (atI st)
  if !lenmasOk then some (0x0120, 0xFFFF, [0xFFFFFFFF, 0xFFFFFFFF])
  else match l.find? badOpcode with
  | some i => atI 0x0120 i
  | none =>
  match l.find? badField with
  | some i => atI 0x0125 i
  | none =>
  match (o.segs.zipIdx.filterMap (fun p => badLines p.2 p.1 (segInstrs decl p.2 p.1))).head? with
  | some p => at_ 0x0121 p.1 p.2
  | none =>
  match l.find? (fun i => i.seg ≠ o.keepalive && i.n < spacing o.minPeriod i.d.cost) with
  | some i => atI 0x0122 i
  | none =>
  match (List.range l.length).find? (gr.badTarget gr.subs) with
  | some g => atG 0x0124 g
  | none =>
  match least (gr.badStructure o.startSeg) with
  | some g => atG 0x0123 g
  | none =>
  match (if gradeB && o.minPeriod < 2500 then o.segs.findIdx? (·.doubleData) else none) with
  | some k => some (0x0142, k, [])
  | none =>
    (l.flatMap (fun i => (List.range i.lines).flatMap (fun k => (List.range (16 * o.width)).map (fun p => (i, k, p))))).findSome?
      (fun t =>
        let i := t.1
        match o.seg i.seg with
        | none => none
        | some g =>
          let c1 := g.code o.width (i.line + t.2.1) t.2.2 false
          let c2 := if g.doubleData then g.code o.width (i.line + t.2.1) t.2.2 true else 8
          let pt := pairOf (pair t.2.2)
          if ddr t.2.2 (i.tsetOf t.2.1) && !(pt.contains c1 && pt.contains c2) then
            some (0x0154, i.seg, [word i.seg, word (i.line + t.2.1), word (16 * o.first + t.2.2)])
          else none)

/-! ## Local and streamed segments (R119, R120) -/

/-- The segments that R119 makes local. -/
def localSegs (o : PatObj) (gr : Graph) : List Nat :=
  let segOf (g : Nat) : List Nat := (gr.code[g]?.map (·.seg)).toList
  let span (r : Nat × Nat) : List Nat := (List.range (r.2 + 1 - r.1)).flatMap (fun k => segOf (r.1 + k))
  let byCode := gr.loops.flatMap span ++ gr.blocks.flatMap span
    ++ gr.blocks.flatMap (fun r => ((gr.target r.1).map segOf).getD [])
    ++ gr.subs.flatMap (fun u => u.2.flatMap segOf)
    ++ (List.range gr.code.length).flatMap (fun g =>
        if gr.shape g = .jump || gr.shape g = .branch then ((gr.target g).map segOf).getD [] else [])
  (List.range o.segs.length).filter (fun k =>
    byCode.contains k || k = o.keepalive ||
      ((o.seg k).map (fun g => g.forceLocal || 4 * o.minPeriod < 625 * (if g.doubleData then 16 else 8))).getD false)

/-- A place of a control path: the instruction and the pending returns (where to, of which subroutine). -/
structure PathPlace where
  at_ : Nat
  calls : List (Nat × Nat) := []
  deriving DecidableEq, Repr

/-- Where a control path goes from a place, into subroutines and back (R152). -/
def Graph.nextPlaces (gr : Graph) (p : PathPlace) : List PathPlace :=
  match gr.shape p.at_ with
  | .call => match gr.target p.at_ with
    | some t => if 16 ≤ p.calls.length || p.calls.any (·.2 = t) then [] else [⟨t, (p.at_ + 1, t) :: p.calls⟩]
    | none => []
  | .ret => match p.calls with
    | (r, _) :: rest => [⟨r, rest⟩]
    | [] => []
  | _ => (gr.flow p.at_).map (fun h => ⟨h, p.calls⟩)

/-- A place of a walk over the stream, with the number of instructions of the stream already taken. -/
structure StreamWalk extends PathPlace where
  done : Nat := 0
  deriving DecidableEq, Repr

/-- The segment of an instruction. -/
def Graph.segOf (gr : Graph) (g : Nat) : Option Nat := (gr.code[g]?).map (·.seg)

/-- A return enters a segment that its call does not stand in: the CALL ends the segment before (R120). -/
def Graph.strayReturn (gr : Graph) (p : PathPlace) : Option Nat :=
  match gr.shape p.at_, p.calls with
  | .ret, (r, _) :: _ => if gr.segOf r = gr.segOf (r - 1) then none else some r
  | _, _ => none

/-- The segments entered out of the stream's order, or otherwise than by falling through or by a return from a call made in them, on
some control path (R120). `order` is the stream's instructions. -/
def Graph.streamWalk (gr : Graph) (order : List Nat) : Nat → List StreamWalk → List StreamWalk → List Nat → List Nat
  | 0, _, _, bad => bad
  | _, _, [], bad => bad
  | fuel + 1, seen, w :: todo, bad =>
    if seen.contains w || gr.code.length ≤ w.at_ then gr.streamWalk order fuel seen todo bad
    else
      let inStream := order.contains w.at_
      if inStream && order[w.done]? ≠ some w.at_ then
        gr.streamWalk order fuel (w :: seen) todo ((gr.segOf w.at_).toList ++ bad)
      else
        let d := if inStream then w.done + 1 else w.done
        let stray := (gr.strayReturn w.toPathPlace).filter order.contains
        gr.streamWalk order fuel (w :: seen) ((gr.nextPlaces w.toPathPlace).map (fun p => { p with done := d }) ++ todo)
          ((stray.bind gr.segOf).toList ++ bad)

/-- 0x0111: the first segment that breaks the control-flow rule (R120). A path that ends by END or HALT before the stream has run out
skips no part of it (DESIGN CHOICE, log entry 79). -/
def streamFault (gr : Graph) (first : Nat) (loc : List Nat) : Option Nat :=
  let order := (List.range gr.code.length).filter (fun g => ((gr.code[g]?).map (fun i => !loc.contains i.seg)).getD false)
  if order.isEmpty || gr.code.isEmpty then none else least (gr.streamWalk order walkFuel [] [{ at_ := gr.start first }] [])

/-- 0x0115: the keep-alive rule (R116, R128), with its result words: no control path enters the segment, by falling through or by a
TARGET. -/
def keepaliveFault (o : PatObj) (decl : Nat → Option Decl) (gr : Graph) : Option (List Word) :=
  if o.keepalive = 0xFFF then (if o.pad then some [] else none)
  else match o.seg o.keepalive with
  | none => some []
  | some g =>
    match segInstrs decl o.keepalive g with
    | [i] =>
      if g.cycles ≠ 1 || g.ctrl.length ≠ 1 || i.op ≠ 0 || i.n ≠ 1 then some []
      else
        let k := gr.code.findIdx? (·.seg = o.keepalive)
        let enters (p : PathPlace) : Bool := some p.at_ = k
        let seen := closure (fun p => (gr.nextPlaces p).filter (fun x => !enters x)) walkFuel []
          [{ at_ := gr.start o.startSeg }]
        match least ((seen.filter (fun p => (gr.nextPlaces p).any enters)).map (·.at_)) with
        | some h => (gr.code[h]?).map (fun j => [word j.seg, word j.ofs])
        | none => none
    | _ => some []

/-! ## Control rate and need (R121, R129) -/

/-- Whether every run of instructions keeps 4 × words − c × cycles at or below 6,144. -/
def rateOk (items : List (Nat × Nat)) (c : Nat) : Bool :=
  (items.foldl (fun (a : Int × Bool) p =>
    let v : Int := max 0 a.1 + (4 * p.1 : Nat) - (c * p.2 : Nat)
    (v, a.2 && v ≤ 6144)) (0, true)).2

/-- The control rate of an object (R121): at most 4 words an instruction and at least one cycle make 16 enough. -/
def controlRate (o : PatObj) (decl : Nat → Option Decl) : Nat :=
  let items := (o.segs.zipIdx.filter (·.1.streamed)).flatMap (fun p =>
    (segInstrs decl p.2 p.1).map (fun i => (1 + i.ext.length, i.n)))
  (((List.range 16).map (· + 1)).find? (rateOk items)).getD 16

/-- The stream reservation an object needs, in MB/s (R129). -/
def PatObj.need (o : PatObj) : Nat :=
  if o.segs.any (·.streamed) then
    let b := if o.segs.any (fun g => g.streamed && g.doubleData) then 16 else 8
    (4000000 * (o.width * b + o.rate) + o.minPeriod - 1) / o.minPeriod
  else 0

/-- Bytes of a streamed line that each tile takes. -/
def Seg.lineBytes (g : Seg) : Nat := if g.doubleData then 16 else 8

/-- Bytes of the whole stream for one tile. -/
def PatObj.streamBytes (o : PatObj) : Nat :=
  ((o.segs.filter (·.streamed)).map (fun g => g.cycles * g.lineBytes)).sum

/-- Bytes of the stream's control words. -/
def PatObj.streamCtrl (o : PatObj) : Nat := ((o.segs.filter (·.streamed)).map (fun g => 4 * g.ctrl.length)).sum

end Sys2Proof.Machine
end

