-- ==== Sys2Proof/Machine/Timing.lean ====
section
/-! DEFINITION. The timing-set commands and register writes (R197 to R216). What a timing generator does with a cycle is in
Cycles.lean. -/

namespace Sys2Proof.Machine

/-- The units of a command that is two-phase only over more than one of them: one unit commits with the command. -/
def acksOver (e : Acks) (units : List Nat) : Acks := if units.length ≤ 1 then {} else e

/-- The pins whose governing period table is that of tile `k` (R202). -/
def State.governed (s : State) (k : Nat) : List Nat :=
  ((List.range 16).filter (fun j => s.govTile j = k)).flatMap pinsOfTile

/-- The streams generated in a pin mode (R204, R217): 0 drive, 1 compare, 2 enable. -/
def streamsOf (mode : Nat) : List Nat := if mode ≤ 1 then [0, 1, 2] else if mode = 5 then [1] else []

/-- The edges of a stream (R201). -/
def edgesOf (stream : Nat) : List Nat := if stream = 0 then [0, 1, 2, 3] else if stream = 1 then [4, 5] else [6, 7]

/-- The stream of an edge. -/
def streamOf (e : Nat) : Nat := if e < 4 then 0 else if e < 6 then 1 else 2

/-- The minimum spacing in a pin mode, in timing units (R206). -/
def minSpacing (mode : Nat) : Nat := if mode = 0 then 560 else 10000

/-- Two enabled edges of one stream of a pin lie closer than R206 allows in a shadow timing set (R208). -/
def State.tight (s : State) (n t : Nat) : Bool :=
  (streamsOf (s.mode n)).any (fun st =>
    (edgesOf st).any (fun e => (edgesOf st).any (fun f =>
      e < f && s.edgeEnS n t e && s.edgeEnS n t f &&
        max (s.offsetS n t e) (s.offsetS n t f) - min (s.offsetS n t e) (s.offsetS n t f) < minSpacing (s.mode n))))

/-- An enabled shadow offset of a pin lies at or beyond four governing periods (R203). -/
def State.beyond (s : State) (n t e : Nat) : Bool :=
  s.edgeEnS n t e && 4 * s.periodS (s.govTile (n / 16)) t ≤ s.offsetS n t e

/-- A pin's shadow or live format in a timing set (R223). -/
def State.fmt (s : State) (n t : Nat) : Nat := s.rd (A.PIN_FORMAT n t) F.PIN_FORMAT.FMT
def State.fmtS (s : State) (n t : Nat) : Nat := s.rdS (A.PIN_FORMAT n t) F.PIN_FORMAT.FMT

/-- A pin is DDR in any live or shadow entry (R229). -/
def State.anyDdr (s : State) (n : Nat) : Bool := (List.range 64).any (fun t => s.fmt n t = 5 || s.fmtS n t = 5)

/-- The object of a site's current or last run. -/
def State.runObj (s : State) (i : Nat) : Option PatObj := s.obj? (s.reg (A.SEQ_HANDLE i)).toNat

/-- A site holds a stream reservation and its object names the timing set, whose period would fall below MIN_PERIOD (R130). -/
def State.tooShort (s : State) (k t p : Nat) : Bool :=
  (List.range 16).any (fun i => s.formed i && s.lead i = k && s.reserved i &&
    ((s.runObj i).map (fun o => (o.tsets s.decl).contains t && p < o.minPeriod)).getD false)

/-- The mirror grid of R211: the nearest multiple of 4, halfway upward. -/
def roundMirror (v : Nat) : Nat := (v + 2) / 4 * 4

/-- Relation checks of a period entry of the shadow banks (R216): the status of the first that fails. -/
def periodFault (k t : Nat) (s : State) : Option Nat :=
  if (s.governed k).any (fun n => (List.range 8).any (fun e => s.beyond n t e)) then some 0x0141
  else if s.gradeB && s.periodS k t < 2500 && (s.governed k).any (fun n => s.fmtS n t = 5) then some 0x0142
  else if s.tooShort k t (s.periodS k t) then some 0x0215
  else none

/-- The note of a timing command: 0x0001 with its DETAIL bits, or 0x0000 (R216). -/
def noteEnd (q d : Nat) (s : State) : State := if d = 0 then ok q [] s else finish q 0x0001 d [] s

/-- Writes of a two-phase timing command that `write` makes in one tile's shadow bank: they land, the bank is marked and
applied where it may be (R210, R216). Only where the commit applies the bank do they count as standing at the start of the FAB
cycle (R13). -/
def commitTiles (defer : Bool) (tiles : List Nat) (write : Nat → State → State) (p : Nat → Bool) (s : State) : State :=
  forAll (tiles.filter (fun k => p (uTile k))) (fun k s =>
    if defer || s.tileActive k then markBank k (write k s) else applyTile k (markBank k (early (write k) s))) s

/-- A tile whose bank, applied as `t` has it in its shadow, would give a reserved site's timing set too short a period (R130). -/
def State.applyShort (t : State) (defer : Bool) (tiles : List Nat) : Bool :=
  !defer && tiles.any (fun k => !t.tileActive k && (List.range 64).any (fun x => t.tooShort k x (t.periodS k x)))

/-- A two-phase timing command: refused with 0x0215 where its commit would apply too short a period (R130), with the unit map over
more than one tile (R44). -/
def timingCommit (q : Nat) (env : Acks) (defer : Bool) (tiles : List Nat) (write : Nat → State → State)
    (done : State → State) (s : State) : State :=
  if (forAll tiles write s).applyShort defer tiles then
    (if tiles.length ≤ 1 then finish q 0x0215 0 [] s else refuseMap q 0x0215 none (tiles.map uTile) s)
  else twoPhase q (tiles.map uTile) (acksOver env (tiles.map uTile)) (commitTiles defer tiles write) done s

/-- TSET_PERIOD (R216). A refusal of R130 over several tiles carries the unit map (R44, R210). -/
def execTsetPeriod (q : Nat) (env : CommitEnv) (s : State) : Out :=
  .next (hostCmd q 0x0301 (fun c _ => (bitList 16 (bits (c.w 4) 15 0)).map uTile) (fun c s =>
    let defer := bit (c.w 4) 31
    let n := bits (c.w 4) 22 16
    let tiles := bitList 16 (bits (c.w 4) 15 0)
    let rnd (v : Nat) : Nat := if s.mirror then roundMirror v else v
    let recs := (List.range n).map (fun i =>
      (5 + 2 * i, bits (c.w (5 + 2 * i)) 31 26, bits (c.w (5 + 2 * i)) 3 0 * 2 ^ 32 + (c.w (6 + 2 * i)).toNat))
    let write (k : Nat) (s : State) : State := forAll recs (fun r s => setPeriodS k r.2.1 (rnd r.2.2) s) s
    let t := forAll tiles write s
    let last (r : Nat × Nat × Nat) : Bool := recs.all (fun x => x.2.1 ≠ r.2.1 || x.1 ≤ r.1)
    let relation := recs.findSome? (fun r =>
      if last r then (tiles.findSome? (fun k => periodFault k r.2.1 t)).map (·, r.1) else none)
    checked q ([chk (c.payload ≠ 1 + 2 * n) 0x0104 1, resv c 4 30 23,
        (tiles.isEmpty || n = 0 || 64 < n, 0x0144, 4)]
      ++ recs.flatMap (fun r => [chk (bits (c.w r.1) 25 4 ≠ 0) 0x0101 r.1,
          chk (rnd r.2.2 < 1250 || 40000000000 < rnd r.2.2) 0x0140 r.1])
      ++ (match relation with
        | some (st, d) => [chk (st ≠ 0x0215 || tiles.length ≤ 1) st d]
        | none => []))
      (fun s =>
        if relation.isSome then refuseMap q 0x0215 none (tiles.map uTile) s
        else
          let note := b2n (recs.any (fun r => rnd r.2.2 ≠ r.2.2))
            + 2 * b2n (tiles.any (fun k => recs.any (fun r => (s.governed k).any (fun p => t.tight p r.2.1))))
            + 4 * b2n (!defer && tiles.any s.tileActive)
          timingCommit q env defer tiles write (noteEnd q note) s) s) s)

/-- An edge record of TSET_EDGES: its first word's index, pin, timing set, edge, enable, offset. -/
structure EdgeRec where
  at_ : Nat
  pin : Nat
  tset : Nat
  edge : Nat
  en : Nat
  ofs : Nat
  deriving DecidableEq, Repr

/-- Write an edge entry of a shadow table. -/
def setEdgeS (n t e en ofs : Nat) (s : State) : State :=
  setShd (A.TSET_EDGE_LO n t e) (word ofs)
    (wrS (A.TSET_EDGE_HI n t e) F.TSET_EDGE_HI.EN en (wrS (A.TSET_EDGE_HI n t e) F.TSET_EDGE_HI.OFS_HI (ofs / 2 ^ 32) s))

/-- The record `i` of a TSET_EDGES packet. -/
def edgeRec (c : Cmd) (i : Nat) : EdgeRec where
  at_ := 5 + 3 * i
  pin := bits (c.w (5 + 3 * i)) 23 16
  tset := bits (c.w (5 + 3 * i)) 15 10
  edge := bits (c.w (5 + 3 * i)) 9 7
  en := bits (c.w (5 + 3 * i)) 0 0
  ofs := bits (c.w (7 + 3 * i)) 5 0 * 2 ^ 32 + (c.w (6 + 3 * i)).toNat

/-- The tiles of a list of pins, rising. -/
def tilesOfPins (pins : List Nat) : List Nat := (List.range 16).filter (fun k => pins.any (fun n => n / 16 = k))

/-- TSET_EDGES (R216). Rounding in the mirror profile stops at the largest multiple of 4 that the field holds, which lies beyond four periods
of any set (R203, R211; DESIGN CHOICE, log entry 84, for an edge with EN 0). -/
def execTsetEdges (q : Nat) (env : CommitEnv) (s : State) : Out :=
  .next (hostCmd q 0x0302
    (fun c _ => (tilesOfPins ((List.range (bits (c.w 4) 15 0)).map (fun i => (edgeRec c i).pin))).map uTile) (fun c s =>
    let defer := bit (c.w 4) 31
    let n := bits (c.w 4) 15 0
    let rnd (v : Nat) : Nat := if s.mirror then min (roundMirror v) (2 ^ 38 - 4) else v
    let recs := (List.range n).map (edgeRec c)
    let tiles := tilesOfPins (recs.map (·.pin))
    let write (k : Nat) (s : State) : State :=
      forAll (recs.filter (fun r => r.pin / 16 = k)) (fun r s => setEdgeS r.pin r.tset r.edge r.en (rnd r.ofs) s) s
    let t := forAll tiles write s
    let last (r : EdgeRec) : Bool :=
      recs.all (fun x => !(x.pin = r.pin && x.tset = r.tset && x.edge = r.edge) || x.at_ ≤ r.at_)
    let wrong := recs.find? (fun r => last r && t.beyond r.pin r.tset r.edge)
    checked q ([chk (c.payload ≠ 1 + 3 * n) 0x0104 1, resv c 4 30 16, (n = 0 || 21843 < n, 0x0144, 4)]
      ++ recs.flatMap (fun r => [chk (bits (c.w r.at_) 31 24 ≠ 0 || bits (c.w r.at_) 6 1 ≠ 0) 0x0101 r.at_,
          chk (bits (c.w (r.at_ + 2)) 31 6 ≠ 0) 0x0101 (r.at_ + 2)])
      ++ (match wrong with
        | some r => [(true, 0x0141, r.at_)]
        | none => []))
      (fun s =>
        let note := b2n (recs.any (fun r => rnd r.ofs ≠ r.ofs)) + 2 * b2n (recs.any (fun r => t.tight r.pin r.tset))
          + 4 * b2n (!defer && tiles.any s.tileActive)
        timingCommit q env defer tiles write (noteEnd q note) s) s) s)

/-- The 18 result words of TSET_READ. -/
def tsetWords (s : State) (shadow : Bool) (n t : Nat) : List Word :=
  let k := s.govTile (n / 16)
  let p := if shadow then s.periodS k t else s.period k t
  [word p, word (p / 2 ^ 32)] ++ (List.range 8).flatMap (fun e =>
    let o := if shadow then s.offsetS n t e else s.offset n t e
    let en := if shadow then s.edgeEnS n t e else s.edgeEn n t e
    [word o, word (b2n en * 2 ^ 31 + o / 2 ^ 32)])

/-- TSET_READ (R13, R202). -/
def execTsetRead (q : Nat) (s : State) : Out :=
  .next (hostCmd q 0x0303 (fun c _ => [uTile (bits (c.w 4) 13 6 / 16)]) (fun c s =>
    checked q [lenIs c 1, resv c 4 30 14]
      (fun s => ok q (tsetWords s (bit (c.w 4) 31) (bits (c.w 4) 13 6) (bits (c.w 4) 5 0)) s) s) s)

/-- TSET_APPLY (R209, R210, R130). -/
def execTsetApply (q : Nat) (env : CommitEnv) (s : State) : Out :=
  .next (hostCmd q 0x0304 (fun c _ => (bitList 16 (bits (c.w 4) 15 0)).map uTile) (fun c s =>
    let tiles := bitList 16 (bits (c.w 4) 15 0)
    let busy := tiles.find? s.tileActive
    checked q [lenIs c 1, resv c 4 31 16, (tiles.isEmpty, 0x0144, 4)]
      (checkedU q [chkU busy.isSome 0x0320 (busy.getD 0) (uTile (busy.getD 0))] (fun s =>
        if s.applyShort false tiles then
          (if tiles.length ≤ 1 then finish q 0x0215 0 [] s else refuseMap q 0x0215 none (tiles.map uTile) s)
        else twoPhase q (tiles.map uTile) (acksOver env (tiles.map uTile))
          (fun p => forAll (tiles.filter (fun k => p (uTile k))) applyTile) (ok q []) s)) s) s)

/-- Write of APPLY in TSET_CTRL (R209, R210, R130). -/
def execTsetCtrlApply (k : Nat) (s : State) : Out :=
  .next (barWrite (.tsetCtrlApply k) (A.TSET_CTRL k) (fun s => if s.tileActive k || s.applyShort false [k] then discard s else applyTile k s) s)

/-! ## BAR0 writes of table entries (R210) -/

/-- A timing entry: a tile's period of a set, or a pin's edge. -/
inductive Entry where
  | period (k t : Nat)
  | edge (n t e : Nat)
  deriving DecidableEq, Repr

/-- The entry an address belongs to, and whether the address is its HI word. -/
def entryOf (a : Nat) : Option (Entry × Bool) :=
  if 0x108000 ≤ a && a < 0x208000 && (a - 0x108000) % 0x10000 < 0x200 && a % 4 = 0 then
    some (.period ((a - 0x108000) / 0x10000) ((a - 0x108000) % 0x10000 / 8), a % 8 = 4)
  else if 0x500000 ≤ a && a < 0x600000 && a % 4 = 0 then
    some (.edge ((a - 0x500000) / 0x1000) (a % 0x1000 / 0x40) (a % 0x40 / 8), a % 8 = 4)
  else none

/-- The tile whose write latch and shadow bank an entry uses. -/
def Entry.tile : Entry → Nat
  | .period k _ => k
  | .edge n _ _ => n / 16

/-- BAR0 write of an entry's LO word: the tile's write latch holds it (R210). -/
def execTsetEntryLoWrite (a : Nat) (w : Word) (s : State) : Out :=
  .next (
    match entryOf a with
    | some (e, false) => barWrite (.tsetEntryLoWrite a w) a (modTile e.tile (fun t => { t with latch := some (a, w) })) s
    | _ => s)

/-- The present LO word of an entry. -/
def Entry.lo (e : Entry) (s : State) : Word :=
  match e with
  | .period k t => s.shd (A.TSET_PERIOD_LO k t)
  | .edge n t d => s.shd (A.TSET_EDGE_LO n t d)

/-- An entry written with a pair of words, and whether the pair is valid: R201, R203, R212, R130 and the mirror grid (R111,
R211). -/
def Entry.put (e : Entry) (lo hi : Word) (s : State) : State × Bool :=
  match e with
  | .period k t =>
    let v := lo.toNat + 2 ^ 32 * bits hi 3 0
    let u := setPeriodS k t v s
    (u, 1250 ≤ v && v ≤ 40000000000 && !(s.mirror && v % 4 ≠ 0) && (periodFault k t u).isNone)
  | .edge n t d =>
    let v := lo.toNat + 2 ^ 32 * bits hi 5 0
    let u := setEdgeS n t d (bits hi 31 31) v s
    (u, !(s.mirror && v % 4 ≠ 0) && !u.beyond n t d)

/-- BAR0 write of an entry's HI word: it updates the entry with the latched LO of the same entry, or its present LO, and
empties the latch (R210). -/
def execTsetEntryHiWrite (a : Nat) (w : Word) (s : State) : Out :=
  .next (
    match entryOf a with
    | some (e, true) =>
      barWrite (.tsetEntryHiWrite a w) a (fun s =>
        let lo := match (s.tile e.tile).latch with
          | some (b, v) => if b + 4 = a then v else e.lo s
          | none => e.lo s
        let s := modTile e.tile (fun t => { t with latch := none }) s
        let p := e.put lo w s
        if p.2 then markBank e.tile p.1 else discard s) s
    | _ => s)

end Sys2Proof.Machine
end

