-- ==== Sys2Proof/Machine/Place.lean ====
section
/-! DEFINITION. The placement engine: pattern objects, buffers, the bandwidth ledger, windows (R114 to R138). Placed
measurements are in Measure.lean. -/

namespace Sys2Proof.Machine

/-! ## Space (R118, R131) -/

/-- A free place of `n` units under `limit`, as low as possible. -/
def lowFit (used : List (Nat × Nat)) (limit n : Nat) : Option Nat :=
  least ((0 :: used.map (fun r => r.1 + r.2)).filter (fun p =>
    p + n ≤ limit && used.all (fun r => r.2 = 0 || n = 0 || p + n ≤ r.1 || r.1 + r.2 ≤ p)))

/-- A free place of `n` units under `limit`, as high as possible. -/
def highFit (used : List (Nat × Nat)) (limit n : Nat) : Option Nat :=
  ((limit :: used.map (·.1)).filterMap (fun e =>
    if n ≤ e && used.all (fun r => r.2 = 0 || n = 0 || e ≤ r.1 || r.1 + r.2 ≤ e - n) then some (e - n) else none)).max?

/-- HBM in 64 KiB blocks: 16 GiB. -/
def hbmBlocks : Nat := 262144

/-- The blocks of HBM in use. -/
def State.hbmUsed (s : State) : List (Nat × Nat) :=
  (s.place.objs.filterMap (fun p => p.2.val.map (fun o => (o.hbmAt, o.hbmBlocks))))
  ++ ((s.place.bufs ++ s.place.logs).filterMap (fun p => p.2.val.map (fun b => (b.hbmAt, b.kib / 64))))

/-- Local memory of a tile in 1 KiB units: 4 MiB. -/
def localUnits : Nat := 4096

/-- The units of a tile's local memory in use. -/
def State.localUsed (s : State) (k : Nat) : List (Nat × Nat) :=
  s.objects.flatMap (fun p =>
    if p.2.first ≤ k && k < p.2.first + p.2.width then
      [(p.2.vecAt, p.2.vecUnits), (p.2.ctlAt, p.2.ctlUnits)] else [])

/-- Places for `v` units of vector lines and `c` of control words, the same in every one of the tiles (R118). -/
def State.localFit (s : State) (tiles : List Nat) (v c : Nat) : Option (Nat × Nat) :=
  let used := tiles.flatMap s.localUsed
  match highFit used localUnits c with
  | none => none
  | some h => (lowFit ((h, c) :: used) localUnits v).map (·, h)

/-! ## The bandwidth ledger (R129) -/

/-- The RATE all buffers hold. -/
def State.bufferRate (s : State) : Nat :=
  ((s.place.bufs ++ s.place.logs).filterMap (fun p => p.2.val.map (·.rate))).sum

/-- The stream reservations of the sites other than `i`. -/
def State.streamRate (s : State) (i : Option Nat) : Nat :=
  ((s.place.reserve.filter (fun p => some p.1 ≠ i)).map (·.2)).sum

/-- The ledger's total follows what is held. -/
def refreshLedger (s : State) : State :=
  wr A.PL_LEDGER F.PL_LEDGER.HELD (s.bufferRate + s.streamRate none) s

/-- DETAIL of 0x0210: the excess in units of 100 MB/s. -/
def excessDetail (total : Nat) : Nat := min 0xFFFF ((total - 600000 + 99) / 100)

/-- Admission of a run (R129): the reservation granted and whether under OVERSUB, or the DETAIL of the refusal. -/
def State.admission (s : State) (i : Nat) (o : PatObj) : Except Nat (Nat × Bool) :=
  let held := s.bufferRate + s.streamRate (some i)
  if held + o.need ≤ 600000 then .ok (o.need, false)
  else if o.pad && o.segs.all (fun g => !g.streamed || g.padTol) then .ok (600000 - held, true)
  else .error (excessDetail (held + o.need))

/-! ## The HBM3 controller (R134) -/

/-- The priority level of a tile's refill that is on its way. A site under OVERSUB is served after every fully reserved stream, urgent
or not (R124, R130; DEDUCED, log entry 85). -/
def State.refillLevel (s : State) (k : Nat) (ctrl : Bool) : Option Nat :=
  let t := s.tile k
  let shared : Bool := match s.siteOfTile k with
    | some i => s.flag (A.PL_STARVE i) F.PL_STARVE.OVERSUB
    | none => false
  if !(if ctrl then t.ctrlBurst else t.burst) then none
  else if shared then some 4
  else if (if ctrl then t.ctrlFill < 2048 else t.fill < 16384) then some 1
  else some 3

/-- The refills on their way: the level and the number of each, twice the tile and 1 for a control queue. -/
def State.refills (s : State) : List (Nat × Nat) :=
  (List.range 32).filterMap (fun x => (s.refillLevel (x / 2) (x % 2 = 1)).map (·, x))

/-- The sites with a fail record that waits to be written. -/
def State.logsWaiting (s : State) : List Nat :=
  (List.range 16).filter (fun i => !(s.site i).log.queue.isEmpty && (s.failLog i).isSome)

/-- A request of a level waits for the controller: one of a level before it is there, or the controller serves none (R134, R473). -/
def State.hbmWaits (s : State) (level : Nat) : Bool :=
  s.hbmStopped || s.refills.any (·.1 < level) || (2 < level && !s.logsWaiting.isEmpty)
    || (5 < level && !s.place.reads.isEmpty)

/-- The next of the requests of a level, in turn after the one served last (R134). -/
def State.hbmNext (s : State) (level : Nat) (l : List Nat) : Option Nat :=
  let last := kget (fun _ => 0) s.place.served level
  (l.find? (last < ·)).or l.head?

/-- A request of a level has been served. -/
def served (level x : Nat) : State → State :=
  modPlace (fun p => { p with served := kset (fun _ => 0) p.served level x })

/-! ## PATTERN_LOAD (R117, R138) -/

/-- The pair table of a pin. -/
def State.pair_ (s : State) (n : Nat) : Nat := s.rd (A.PIN_PAIR n) F.PIN_PAIR.PAIR

/-- Segments marked streamed, and local ones given their places in local memory (R118, R119). -/
def placeSegs (loc : List Nat) (segs : List (Seg × Nat)) (at_ : Nat) : List Seg :=
  (segs.foldl (fun (a : List Seg × Nat) p =>
    if loc.contains p.2 then
      (a.1 ++ [{ p.1 with streamed := false, offset := a.2 }], a.2 + p.1.cycles * p.1.lineBytes)
    else (a.1 ++ [{ p.1 with streamed := true }], a.2)) ([], at_)).1

/-- The object with segments classified, its control rate and its space; the vector-line offset of a streamed segment is
its VEC_OFS in bytes. -/
def classified (o : PatObj) (decl : Nat → Option Decl) (gr : Graph) : PatObj :=
  let loc := localSegs o gr
  let segs := placeSegs loc o.segs.zipIdx 0
  let segs := segs.zipIdx.map (fun p =>
    if p.1.streamed then { p.1 with offset := 4 * (wd o.container (4 + 6 * p.2 + 3)).toNat } else p.1)
  let o := { o with segs := segs }
  let vec := ((segs.filter (!·.streamed)).map (fun g => g.cycles * g.lineBytes)).sum
  let ctl := ((segs.filter (!·.streamed)).map (fun g => 4 * g.ctrl.length)).sum
  { o with
    rate := controlRate o decl
    vecUnits := (vec + 1023) / 1024
    ctlUnits := (ctl + 1023) / 1024
    hbmBlocks := (4 * o.container.length + 65535) / 65536 }

/-- PATTERN_LOAD's checks over a container (R117): a refusal (status, DETAIL, result words), or the object. -/
def State.loadCheck (s : State) (site : Nat) (c : List Word) : Except (Nat × Nat × List Word) PatObj :=
  match containerFault c with
  | some w => .error (0x0110, min 0xFFFF w, [])
  | none =>
    if !s.formed site then .error (0x0311, 0, [])
    else if bits (wd c 1) 3 0 + 1 ≠ s.width site then .error (0x0114, 1, [])
    else if s.reserved site then .error (0x0310, 0, [])
    else
      let o := containerObj c site (s.lead site)
      match contentFault o s.decl (s.regionValid 0) s.gradeB
          (fun i t => s.fmt (16 * o.first + i) t = 5) (fun i => s.pair_ (16 * o.first + i)) with
      | some f => .error f
      | none =>
        let gr := mkGraph (o.instrs s.decl)
        let o := classified o s.decl gr
        match streamFault gr o.startSeg (localSegs o gr) with
        | some k => .error (0x0111, k, [])
        | none =>
          match keepaliveFault o s.decl gr with
          | some r => .error (0x0115, 3, r)
          | none => .ok o

/-- The space an object takes, or the resource that is short: status and DETAIL (R117 step 6). -/
def State.loadSpace (s : State) (tiles : List Nat) (o : PatObj) : Except (Nat × Option Nat) (Nat × PatObj) :=
  match freeIndex s.place.objs 1024 with
  | none => .error (0x0213, none)
  | some i =>
    match lowFit s.hbmUsed hbmBlocks o.hbmBlocks with
    | none => .error (0x0212, none)
    | some h =>
      match s.localFit tiles o.vecUnits o.ctlUnits with
      | none => .error (0x0211, some ((tiles.find? (fun k => (s.localFit [k] o.vecUnits o.ctlUnits).isNone)).getD
          (tiles.headD 0)))
      | some p => .ok (i, { o with
          hbmAt := h, vecAt := p.1, ctlAt := p.2,
          segs := o.segs.map (fun g => if g.streamed then g else { g with offset := g.offset + 1024 * p.1 }) })

/-- Words that the HBM3 controller has corrected are counted (R135). -/
def hbmCorrected (n : Nat) (s : State) : State := if n = 0 then s else bumpBy A.PL_HBM_ECC F.PL_HBM_ECC.CE n s

/-- An uncorrectable HBM error is counted, placed and reported (R135). -/
def hbmError (addr : Nat) (s : State) : State :=
  s |> bump A.PL_HBM_ECC F.PL_HBM_ECC.UE |> setReg A.PL_HBM_UE_ADDR (word addr) |> report uPlace 0x06 keyUnit

/-- PATTERN_LOAD. `data` is the container as the DMA read gives it, none where the read fails (R91); `ce` the words of HBM corrected
in the copy and `ue` the 64-byte unit in which it meets an uncorrectable error (R135). It waits while no DMA can be issued (R76) and
while the HBM3 controller has requests of higher levels (R134). -/
def execPatternLoad (q ce : Nat) (data : Option (List Word)) (ue : Option Nat) (env : CommitEnv) (s : State) : Out :=
  .next (hostCmd q 0x0101
    (fun c s => uPlace :: (s.tilesOf (bits (c.w 4) 3 0)).map uTile) (fun c s =>
    let site := bits (c.w 4) 3 0
    let tiles := s.tilesOf site
    let units := tiles.map uTile
    checked q [lenIs c 4, resv c 4 31 4, resv c 5 1 0] (fun s =>
      if s.dmaWaits || s.hbmWaits 5 then s
      else if data.isNone || ((data.map List.length).getD 0) < (c.w 7).toNat then refuseMap q 0x0602 none units s
      else match s.loadCheck site ((data.getD []).take (c.w 7).toNat) with
      | .error (st, d, r) => finishU q st d r (if st / 256 = 3 then uSite site else 0) s
      | .ok o =>
        match s.loadSpace tiles o with
        | .error (st, d) => refuseMap q st d units s
        | .ok (i, o) =>
          match ue with
          | some addr => refuseMap q 0x0610 none units (hbmError addr (hbmCorrected ce s))
          | none =>
            let h := mkHandle 1 (kget (fun _ => {}) s.place.objs i).gen i
            twoPhase q units env
              (fun p => if units.all p then modPlace (fun l => { l with objs := putSlot l.objs i o }) else id)
              (ok q [word h, word (o.width * (o.vecUnits + o.ctlUnits)), word (64 * o.hbmBlocks),
                word ((o.segs.filter (!·.streamed)).length * 2 ^ 16 + (o.segs.filter (·.streamed)).length), word o.need])
              (hbmCorrected ce s)) s) s)

/-! ## Freeing and reporting (R115, R132, R138) -/

/-- Windows bound to a handle become unbound (R137). -/
def unbind (h : Nat) (s : State) : State :=
  forAll (List.range 16) (fun w s =>
    if (s.reg (A.PL_WIN_HANDLE w)).toNat = h then setReg (A.PL_WIN_HANDLE w) 0 s else s) s

/-- The site that holds a reservation and runs the object. -/
def State.runnerOf (s : State) (h : Nat) : Option Nat :=
  (List.range 16).find? (fun i => s.reserved i && (s.reg (A.SEQ_HANDLE i)).toNat = h)

/-- PATTERN_FREE (R115, R138). -/
def execPatternFree (q : Nat) (s : State) : Out :=
  .next (hostCmd q 0x0102 (fun _ _ => [uPlace]) (fun c s =>
    let h := (c.w 4).toNat
    checked q [lenIs c 1, (s.handleStatus h [1] ≠ 0, s.handleStatus h [1], 4)]
      (checkedU q [chkU (s.runnerOf h).isSome 0x0310 0 (uSite ((s.runnerOf h).getD 0))]
        (fun s => ok q [] (unbind h (modPlace (fun p => { p with objs := freeSlot p.objs (hIndex h) }) s)))) s) s)

/-- FAIL_STAT shows whether a site has a fail log (R266). -/
def refreshNoLog (i : Nat) (s : State) : State :=
  wr (A.FAIL_STAT i) F.FAIL_STAT.NO_LOG (b2n (s.failLog i).isNone) s

/-- BUFFER_FREE (R132). -/
def execBufferFree (q : Nat) (s : State) : Out :=
  .next (hostCmd q 0x0111 (fun _ _ => [uPlace]) (fun c s =>
    let h := (c.w 4).toNat
    let held := match s.buf? h with
      | some b => b.boundTo ≠ 0 || (b.kind = 3 && s.reserved b.site)
      | none => false
    checked q [lenIs c 1, (s.handleStatus h [2, 3] ≠ 0, s.handleStatus h [2, 3], 4)] (checkedU q [chkU held 0x0310 0
        (match s.buf? h with
          | some b => if b.kind = 3 then uSite b.site else 0
          | none => 0)] (fun s =>
      let site := ((s.buf? h).map (·.site)).getD 0
      let s := if hKind h = 2 then modPlace (fun p => { p with bufs := freeSlot p.bufs (hIndex h) }) s
        else refreshNoLog site (modPlace (fun p => { p with logs := freeSlot p.logs (hIndex h) }) s)
      ok q [] (refreshLedger (unbind h s)))) s) s)

/-- The results of PLACE_REPORT. -/
def State.placeWords (s : State) (h : Nat) : List Word :=
  match s.obj? h, s.buf? h, s.meas? h with
  | some o, _, _ =>
    [word h, word (o.segs.length * 2 ^ 16 + o.site)] ++ o.segs.zipIdx.flatMap (fun p =>
      [word (b2n p.1.streamed * 2 ^ 30 + p.2),
       word (if p.1.streamed then (65536 * o.hbmAt + p.1.offset) / 64 else p.1.offset)])
  | _, some b, _ => [word (1024 * b.hbmAt), word b.kib, word b.rate, word (if b.kind = 2 then b.boundTo else b.site)]
  | _, _, some m =>
    [word m.units.length] ++ m.units.map word ++ [word m.links.length]
      ++ m.links.map (fun l => word (l.1 * 2 ^ 16 + l.2))
  | _, _, _ => []

/-- PLACE_REPORT (R118); its reads wait for the HBM3 controller (R134). -/
def execPlaceReport (q : Nat) (s : State) : Out :=
  .next (hostCmd q 0x0103 (fun _ _ => [uPlace]) (fun c s =>
    checked q [lenIs c 1, (!s.live (c.w 4).toNat, 0x0112, 4)]
      (fun s => if s.hbmWaits 5 then s else ok q (s.placeWords (c.w 4).toNat) s) s) s)

/-- BUFFER_ALLOC (R131, R129). -/
def execBufferAlloc (q : Nat) (s : State) : Out :=
  .next (hostCmd q 0x0110 (fun _ _ => [uPlace]) (fun c s =>
    let kind := bits (c.w 4) 3 0
    let site := bits (c.w 4) 7 4
    let kib := ((c.w 5).toNat + 63) / 64 * 64
    let rate := (c.w 6).toNat
    let total := s.bufferRate + s.streamRate none + rate
    let slot := if kind = 2 then freeIndex s.place.bufs 1024 else freeIndex s.place.logs 16
    let hbm := lowFit s.hbmUsed hbmBlocks (kib / 64)
    checked q [lenIs c 3, resv c 4 31 8, ((kind ≠ 2 && kind ≠ 3) || (kind = 2 && site ≠ 0), 0x0110, 4),
        (c.w 5 = 0, 0x0110, 5), (rate = 0, 0x0110, 6), (kind = 3 && (s.failLog site).isSome, 0x0310, 0),
        (600000 < total, 0x0210, excessDetail total), (slot.isNone, 0x0213, 0), (hbm.isNone, 0x0212, 0)] (fun s =>
      let i := slot.getD 0
      let b : Buffer := { kind := kind, site := site, kib := kib, rate := rate, hbmAt := hbm.getD 0 }
      let g := if kind = 2 then (kget (fun _ => {}) s.place.bufs i).gen else (kget (fun _ => {}) s.place.logs i).gen
      let s := if kind = 2 then modPlace (fun p => { p with bufs := putSlot p.bufs i b }) s
        else refreshNoLog site (modPlace (fun p => { p with logs := putSlot p.logs i b }) s)
      ok q [word (mkHandle kind g i)] (refreshLedger s)) s) s)

/-- LEDGER_READ (R129). -/
def execLedgerRead (q : Nat) (s : State) : Out :=
  .next (hostCmd q 0x0140 (fun _ _ => []) (fun c s =>
    checked q [lenIs c 0] (fun s =>
      ok q [word s.bufferRate, word (s.streamRate none), word (600000 - (s.bufferRate + s.streamRate none))] s) s) s)

/-! ## Windows (R137) -/

/-- The size of a handle's data in bytes. -/
def State.dataBytes (s : State) (h : Nat) : Nat :=
  match s.obj? h, s.buf? h with
  | some o, _ => 4 * o.container.length
  | _, some b => 1024 * b.kib
  | _, _ => 0

/-- A word of a handle's data, by word number. -/
def State.dataWord (s : State) (h i : Nat) : Word :=
  match s.obj? h, s.buf? h with
  | some o, _ => wd o.container i
  | _, some b => if 256 * b.kib ≤ i then 0 else b.word i
  | _, _ => 0

/-- The 64-byte unit of HBM that holds a word of a handle's data (R118, R131). -/
def State.dataUnit (s : State) (h i : Nat) : Option Nat :=
  if s.dataBytes h ≤ 4 * i then none
  else match s.obj? h, s.buf? h with
    | some o, _ => some ((65536 * o.hbmAt + 4 * i) / 64)
    | _, some b => some ((65536 * b.hbmAt + 4 * i) / 64)
    | _, _ => none

/-- Bind a window. -/
def bindWindow (w ofs h : Nat) (s : State) : State :=
  setReg (A.PL_WIN_HANDLE w) (word h) (wr (A.PL_WIN w) F.PL_WIN.OFS16 ofs s)

/-- WINDOW_BIND (R137). -/
def execWindowBind (q : Nat) (s : State) : Out :=
  .next (hostCmd q 0x0130 (fun _ _ => [uPlace]) (fun c s =>
    let h := (c.w 5).toNat
    let ofs := bits (c.w 4) 7 0
    checked q [lenIs c 2, resv c 4 31 12, (h ≠ 0 && s.handleStatus h [1, 2, 3] ≠ 0, s.handleStatus h [1, 2, 3], 5),
        (h ≠ 0 && s.dataBytes h ≤ ofs * 2 ^ 24, 0x0110, 4)]
      (fun s => ok q [] (bindWindow (bits (c.w 4) 11 8) ofs h s)) s) s)

/-- Write of a window's handle register: as WINDOW_BIND at the window's OFS16 (R137); an invalid handle is discarded. -/
def execPlWinWrite (w : Nat) (v : Word) (s : State) : Out :=
  .next (barWrite (.plWinWrite w v) (A.PL_WIN_HANDLE w) (fun s =>
    let h := v.toNat
    if h ≠ 0 && (s.handleStatus h [1, 2, 3] ≠ 0 || s.dataBytes h ≤ s.rd (A.PL_WIN w) F.PL_WIN.OFS16 * 2 ^ 24) then discard s
    else setReg (A.PL_WIN_HANDLE w) v s) s)

/-- The handle and the number of the word of its data that an address of the local-memory windows shows: W0 to W2 in BAR0,
W0 to W15 in BAR2 (R77, R137). -/
def State.windowPlace (s : State) (bar a : Nat) : Option (Nat × Nat) :=
  let at_ (k ofs : Nat) : Nat × Nat :=
    ((s.reg (A.PL_WIN_HANDLE k)).toNat, (s.rd (A.PL_WIN k) F.PL_WIN.OFS16 * 2 ^ 24 + ofs) / 4)
  if bar = 2 then (if a < 2 ^ 28 then some (at_ (a / 2 ^ 24) (a % 2 ^ 24)) else none)
  else if 0x1000000 ≤ a && a < 0x4000000 then some (at_ (a / 2 ^ 24 - 1) (a % 2 ^ 24)) else none

/-- A read of a local-memory window is served: with `ue` it meets an uncorrectable error in HBM, which gives 0xFFFF_FFFF and is
counted, placed and reported, with `ce` corrected words (R135, R137). An address of no window reads 0 (R10). -/
def serveRead (r : WinRead) (s : State) : State :=
  match s.windowPlace r.bar r.addr with
  | none => emit (.readData r.addr 0) s
  | some p =>
    match s.dataUnit p.1 p.2 with
    | none => emit (.readData r.addr 0) s
    | some unit =>
      let s := hbmCorrected r.ce s
      if r.ue then emit (.readData r.addr (word 0xFFFFFFFF)) (hbmError unit s)
      else emit (.readData r.addr (s.dataWord p.1 p.2)) s

/-- Host reads that waited for the HBM3 controller are served once nothing of a level before theirs waits (R134). -/
def serveReads (s : State) : State :=
  if s.place.reads.isEmpty || s.hbmWaits 5 then s
  else forAll s.place.reads serveRead (modPlace (fun p => { p with reads := [] }) s)

/-- A host read of a local-memory window: it waits for the HBM3 controller where it needs its data and requests of a level before
wait (R134). -/
def windowRead (r : WinRead) (s : State) : State :=
  if ((s.windowPlace r.bar r.addr).bind (fun p => s.dataUnit p.1 p.2)).isSome && s.hbmWaits 5 then
    modPlace (fun p => { p with reads := p.reads ++ [r] }) s
  else serveRead r s

/-- A write to a local-memory window (R137). -/
def execWindowWrite (s : State) : Out := .next (if s.link.up then discard s else s)

end Sys2Proof.Machine
end

