-- ==== Sys2Proof/Machine/Sites.lean ====
section
/-! DEFINITION. Sites and run control: forming, starting, pausing, resuming, stepping, halting, host jumps and site status
(R139 to R142, R161 to R170). -/

namespace Sys2Proof.Machine

/-! ## Time and stamps of a site -/

/-- This moment in timing units. -/
def State.unow (s : State) : Nat := 1250 * s.now

/-- The full stamp of a programmed time (R200). -/
def State.stampAt (s : State) (u : Nat) : Stamp where
  coarse := ((65536 * (s.countAt (u / 1250) : Int) + (u % 1250 * 65536 + 625) / 1250 + s.phase) / 65536).toNat
  frac := ((((u % 1250 * 65536 + 625) / 1250 : Nat) + s.phase) % 65536).toNat
  hasFrac := true

/-! ## Earlier values (R246, R254, R259) -/

/-- A register whose earlier values are kept: comparator thresholds, the static masks, WARMING. -/
def keepsPast (a : Nat) : Bool :=
  a = A.GN_STATUS || (0x400000 ≤ a && a < 0x500000 && [0x04C, 0x050, 0x240].contains (a % 0x1000))

/-- How long after the start of the FAB cycle of a change its register still stands for what it was: a MASK takes effect in the next
FAB cycle (R254); thresholds and WARMING stand for what they are from the start of the cycle (DESIGN CHOICE, log entry 86). -/
def pastLag (a : Nat) : Nat := if a % 0x1000 = 0x240 then 8 else 0

/-- A FAB cycle ends: what it changed is kept while a driven cycle waits for its compares, a digitizer channel samples or a time-interval
channel measures, and forgotten when none does. -/
def keepPast (s : State) : State :=
  let samples (k : Nat) : Bool := [1, 2].contains (s.rd (A.AQ_STATUS k) F.AQ_STATUS.STATE)
  if s.sites.all (fun x => x.2.align.isEmpty && x.2.taken.isEmpty) && !(List.range 32).any samples
      && !(List.range 32).any (fun k => [1, 2].contains (s.rd (A.TU_STATUS k) F.TU_STATUS.STATE)) then { s with past := [] }
  else
    { s with past := s.past ++ ((kchanged s.regs0 s.regs).filter keepsPast).map (fun a => (a, s.now + pastLag a, s.reg0 a)) }

/-- A register as it stood at a time in timing units. -/
def State.regAt (s : State) (a u : Nat) : Word :=
  match s.past.find? (fun p => p.1 = a && u < 1250 * p.2.1) with
  | some p => p.2.2
  | none => if u < 1250 * (s.now + pastLag a) then s.reg0 a else s.reg a

/-! ## Site registers -/

def setSiteState (i n : Nat) (s : State) : State := wr (A.SEQ_SITE_STATE i) F.SEQ_SITE_STATE.STATE n s

/-- A PEND bit of SEQ_IRQ becomes set; it signals vector 10 + s where EN lets it (R170). -/
def raiseIrq (i b : Nat) (s : State) : State :=
  let p := s.rd (A.SEQ_IRQ i) F.SEQ_IRQ.PEND
  let t := raiseBits (A.SEQ_IRQ i) F.SEQ_IRQ.PEND (2 ^ b) s
  if nbit (s.rd (A.SEQ_IRQ i) F.SEQ_IRQ.EN) b && !nbit p b then signal (10 + i) t else t

/-- STATUS fires for a condition that STATUS_SEL selects (R160): 0 END, 1 HALT, 2 PAUSE, 3 FIRST_FAIL, 4 MATCH. -/
def fireStatus (i cond gen : Nat) (st : Stamp) (s : State) : State :=
  if nbit (s.rd (A.SEQ_EVT_CFG i) F.SEQ_EVT_CFG.STATUS_SEL) cond then fire (16 + i) 0 gen st s else s

/-- The event flag (R158). -/
def State.evFlag (s : State) (i : Nat) : Bool := s.flag (A.SEQ_EVT i) F.SEQ_EVT.EV_FLAG
def setEvFlag (i : Nat) (b : Bool) (s : State) : State :=
  if b then raise (A.SEQ_EVT i) F.SEQ_EVT.EV_FLAG s else wr (A.SEQ_EVT i) F.SEQ_EVT.EV_FLAG 0 s

/-- The request bits of SEQ_SITE_CTRL, which stay set until the action completes (R11). -/
def ctrlPause : Nat := 1
def ctrlResume : Nat := 2
def ctrlHalt : Nat := 4
def ctrlStep : Nat := 8

/-- A request by SEQ_SITE_CTRL is under way. -/
def setCtrl (i m : Nat) (s : State) : State := setReg (A.SEQ_SITE_CTRL i) (s.reg (A.SEQ_SITE_CTRL i) ||| word m) s

/-- Requests by SEQ_SITE_CTRL have completed. -/
def clearCtrl (i m : Nat) (s : State) : State := setReg (A.SEQ_SITE_CTRL i) (s.reg (A.SEQ_SITE_CTRL i) &&& ~~~ (word m)) s

/-- SEQ_DEPTH shows the stacks. -/
def refreshDepth (i : Nat) (s : State) : State :=
  wr (A.SEQ_DEPTH i) F.SEQ_DEPTH.CALL_DEPTH (s.site i).calls.length
    (wr (A.SEQ_DEPTH i) F.SEQ_DEPTH.LOOP_DEPTH (s.site i).loops.length s)

/-- A pending host jump lapses (R168). -/
def lapseJump (i : Nat) (s : State) : State :=
  wr (A.SEQ_JUMP i) F.SEQ_JUMP.REQ 0 (wr (A.SEQ_SITE_STATE i) F.SEQ_SITE_STATE.JUMP_PENDING 0 s)

/-- A site gives up its stream reservation and its run claim (R129, R439). -/
def releaseSite (i : Nat) (s : State) : State :=
  refreshLedger (release (uSite i) (modPlace (fun p => { p with reserve := kdel p.reserve i }) s))

/-! ## Forming (R139 to R141) -/

/-- Grade B: some pin of a tile would be governed, live or shadow, by a period below 2,500 units of table `g` in a timing
set in which its format is DDR (R212). The first such pin of the tiles. -/
def gradeClash (s : State) (tiles : List Nat) (g : Nat → Nat) : Option Nat :=
  if s.gradeB then
    (tiles.flatMap pinsOfTile).find? (fun n => (List.range 64).any (fun t =>
      (s.fmt n t = 5 && s.period (g (n / 16)) t < 2500) || (s.fmtS n t = 5 && s.periodS (g (n / 16)) t < 2500)))
  else none

/-- The tile registers show a tile's site. -/
def setTileSite (k : Nat) (site : Option (Nat × Bool)) (s : State) : State :=
  match site with
  | some (i, lead) => wr (A.SEQ_TILE_STATUS k) F.SEQ_TILE_STATUS.IN_SITE 1
      (wr (A.SEQ_TILE_STATUS k) F.SEQ_TILE_STATUS.SITE i (wr (A.SEQ_TILE_STATUS k) F.SEQ_TILE_STATUS.LEAD (b2n lead) s))
  | none => wr (A.SEQ_TILE_STATUS k) F.SEQ_TILE_STATUS.IN_SITE 0
      (wr (A.SEQ_TILE_STATUS k) F.SEQ_TILE_STATUS.SITE 0 (wr (A.SEQ_TILE_STATUS k) F.SEQ_TILE_STATUS.LEAD 0 s))

/-- A site is formed over tiles `a` to `a + w - 1`. -/
def formSite (i a w : Nat) (s : State) : State :=
  forAll (List.range w) (fun j => setTileSite (a + j) (some (i, j = 0)))
    (wr (A.SEQ_SITE_CFG i) F.SEQ_SITE_CFG.FORMED 1
      (wr (A.SEQ_SITE_CFG i) F.SEQ_SITE_CFG.FIRST a (wr (A.SEQ_SITE_CFG i) F.SEQ_SITE_CFG.WIDTH (w - 1) s)))

/-- A site's objects become unbound (R122). -/
def unbindObjs (i : Nat) (s : State) : State :=
  forAll (s.objects.filter (fun p => p.2.site = i)) (fun p => modObj p.1 (fun o => { o with bound := false })) s

/-- A site is dissolved (R141). -/
def dissolveSite (i : Nat) (s : State) : State :=
  let tiles := s.tilesOf i
  forAll tiles (fun k => setTileSite k none)
    (wr (A.SEQ_SITE_CFG i) F.SEQ_SITE_CFG.FORMED 0
      (wr (A.SEQ_SITE_CFG i) F.SEQ_SITE_CFG.FIRST 0 (wr (A.SEQ_SITE_CFG i) F.SEQ_SITE_CFG.WIDTH 0 (unbindObjs i s))))

/-- SITE_FORM (R139, R140). -/
def execSiteForm (q : Nat) (env : CommitEnv) (s : State) : Out :=
  .next (hostCmd q 0x0401
    (fun c _ => (List.range (bits (c.w 4) 3 0 + 1)).map (fun j => uTile (bits (c.w 4) 7 4 + j))) (fun c s =>
    let i := bits (c.w 4) 11 8
    let a := bits (c.w 4) 7 4
    let w := bits (c.w 4) 3 0 + 1
    let tiles := (List.range w).map (a + ·)
    let taken := tiles.find? (fun k => (s.siteOfTile k).isSome)
    let clash := gradeClash s tiles (fun _ => a)
    checked q [lenIs c 1, resv c 4 31 12, (16 < a + w, 0x0126, 4)]
      (checkedU q [chkU (s.formed i) 0x0313 0xFFFF (uSite i),
          chkU taken.isSome 0x0313 (taken.getD 0) (uTile (taken.getD 0)),
          chkU (s.mirror && (w ≠ 4 || a % 4 ≠ 0)) 0x0315 0 (uSite i),
          chkU clash.isSome 0x0142 (clash.getD 0) 0]
        (twoPhase q (tiles.map uTile) env
          (fun p => if (tiles.map uTile).all p then formSite i a w else id) (ok q []))) s) s)

/-- SITE_DISSOLVE (R141). -/
def execSiteDissolve (q : Nat) (env : CommitEnv) (s : State) : Out :=
  .next (hostCmd q 0x0402 (fun c s => (s.tilesOf (bits (c.w 4) 3 0)).map uTile) (fun c s =>
    let i := bits (c.w 4) 3 0
    let tiles := s.tilesOf i
    let clash := gradeClash s tiles id
    checked q [lenIs c 1, resv c 4 31 4]
      (checkedU q [chkU (!s.formed i) 0x0311 0 (uSite i), chkU (s.reserved i) 0x0312 0 (uSite i),
          chkU clash.isSome 0x0142 (clash.getD 0) 0]
        (twoPhase q (tiles.map uTile) env
          (fun p => if (tiles.map uTile).all p then dissolveSite i else id) (ok q []))) s) s)

/-! ## Halting and pausing (R164, R166) -/

/-- The governing period of a site's timing set in a captured bank, or live (R209). -/
def State.bankPeriod (s : State) (i t : Nat) (bank : Option (List (Nat × Word))) : Nat :=
  match bank with
  | some b =>
    let k := s.lead i
    (kget resetWord b (A.TSET_PERIOD_LO k t)).toNat +
      2 ^ 32 * fget (kget resetWord b (A.TSET_PERIOD_HI k t)) F.TSET_PERIOD_HI.PER_HI
  | none => s.period (s.lead i) t

/-- The governing period for cycles now issued: of the bank last captured for a TSET_APPLY instruction where one waits, else live
(R209). -/
def State.issuePeriod (s : State) (i t : Nat) : Nat := s.bankPeriod i t (s.site i).banks.getLast?

/-- The governing period before the head of the cycle queue: of the last bank that applies at a cycle already read, else live. -/
def State.headPeriod (s : State) (i t : Nat) : Nat :=
  let n := ((s.site i).align.filter (·.apply)).length
  s.bankPeriod i t (if n = 0 then none else (s.site i).banks[n - 1]?)

/-- Issue a cycle at the end of a site's queue (R175). -/
def issueCycle (i : Nat) (c : QCycle) (s : State) : State :=
  let p := s.issuePeriod i c.tset
  modSite i (fun t => { t with
    queue := t.queue ++ [{ c with num := t.nextNum, start := t.nextStart, per := p }],
    nextNum := t.nextNum + 1, nextStart := t.nextStart + p }) s

/-- The timing set of cycle `k` of a routine under a microword's TSOP and IMM (R146, R173). -/
def Routine.tsetAt (r : Routine) (tsop imm k : Nat) : Nat :=
  if tsop = 2 then imm % 64
  else if tsop = 1 && k < 4 then bits (wd r.ext 0) (6 * k + 5) (6 * k)
  else bits r.ctl 23 18

/-- Repetitions of an open repeat for every cycle that starts before `u`, up to `cap` cycles of the routine in all; with
fuel (R175). -/
def topUp (i u : Nat) (cap : Option Nat) : Nat → State → State
  | 0, s => s
  | fuel + 1, s =>
    match (s.site i).routine with
    | some r =>
      if r.repeating && (s.site i).nextStart < u && (match cap with
        | some n => r.issued < n
        | none => true) then
        topUp i u cap fuel
          (modSite i (fun t => { t with routine := t.routine.map (fun r => { r with issued := r.issued + 1 }) })
            (issueCycle i {
              seg := r.seg, line := r.repeatLine, tset := r.tsetAt r.repeatTsop r.repeatImm r.issued, mask := r.repeatMask,
              iter := ((s.site i).block.map (·.iter)).or r.repeatIter } s))
      else s
    | none => s

/-- Repetitions that one microcycle can ask for: a period is at least 312.5 ps. -/
def repeatFuel (i u : Nat) (s : State) : Nat := (u - (s.site i).nextStart) / 1250 + 1

/-- Drop the cycles that would start at or after `u`, and the test closes at them (R156, R166). -/
def cutCycles (i u : Nat) (s : State) : State :=
  let gone := (((s.site i).queue ++ (s.site i).align).filter (fun c => u ≤ c.start && !c.pad)).map (·.num)
  let kept (n : Nat) : Bool := gone.all (n < ·)
  modSite i (fun t => { t with
    queue := t.queue.filter (·.start < u), align := t.align.filter (·.start < u), nextStart := min t.nextStart u
    closes := t.closes.filter (fun c => kept c.1), marks := t.marks.filter (fun m => kept m.1) }) s

/-- A halt meets a routine: it runs on to its next YIELD or END; one that a pause has stopped at its YIELD ends (R181). -/
def haltRoutine (r : Routine) : Option Routine := if r.pausing then none else some { r with halting := true }

/-- A stop is registered; of two the earlier stands (R166). -/
def requestStop (i : Nat) (st : Stop) (s : State) : State :=
  match (s.site i).stop with
  | some o => if o.at_ ≤ st.at_ then s
    else modSite i (fun t => { t with stop := some st, routine := t.routine.bind haltRoutine }) (cutCycles i st.at_ s)
  | none => modSite i (fun t => { t with stop := some st, routine := t.routine.bind haltRoutine }) (cutCycles i st.at_ s)

/-- The lead tile registers a halt at `th` (timing units): no cycle that starts later than 50.0 ns after it is driven
(R166). A paused or priming site stops at once. -/
def haltAt (i cause th gen : Nat) (s : State) : State :=
  let paused := s.siteState i = 4
  let valid := cause = 3 || (cause = 2 && paused)
  if paused || (s.site i).priming then requestStop i ⟨cause, th, valid, gen⟩ s
  else
    let s := topUp i (th + 200001) none (repeatFuel i (th + 200001) s) s
    let late := ((s.site i).align ++ (s.site i).queue).find? (fun c => th + 200000 < c.start)
    requestStop i ⟨cause, ((late.map (·.start)).getD (s.site i).nextStart), valid, gen⟩ s

/-- A pause is requested (R164). -/
def pauseRequest (i gen : Nat) (s : State) : State :=
  modSite i (fun t => { t with pausePend := true, stopGen := gen, pauseAt := s.now }) s

/-- The running state an instruction of a segment puts a site into (R161). -/
def State.kindOf (s : State) (i seg : Nat) : Nat :=
  if (s.site i).block.isSome then 3
  else if (((s.runObj i).bind (·.seg seg)).map (·.streamed)).getD false then 2 else 1

/-- The running state of the segment last dispatched. -/
def State.kindNow (s : State) (i : Nat) : Nat := s.kindOf i (s.rd (A.SEQ_PC i) F.SEQ_PC.SEG)

/-- A paused site resumes: it is running, and its next cycle starts 640 MTC ticks later (R162, R164); with a number of instructions
to step (R165). -/
def resumeRequest (i : Nat) (steps : Option Nat) (s : State) : State :=
  let u := 1250 * (s.now + 640)
  setSiteState i (s.kindNow i) <| modSite i (fun t => { t with
    pausePend := false, resumeThen := none, steps := steps, resumeDue := some (s.now + 640), nextStart := u, routineEnd := 0,
    routine := t.routine.map (fun r => { r with time := u - 260000, pausing := false }) }) s

/-- A resume is allowed at a paused site, and at a running one where it meets a pause request in its FAB cycle (R162, R167). -/
def State.resumable (s : State) (i : Nat) : Bool :=
  s.siteState i = 4 || (s.runs i && (s.site i).pausePend && (s.site i).pauseAt = s.now)

/-- A resume: a paused site resumes; one whose pause it meets pauses first and then resumes at once (R167; DEDUCED, log
entry 71). -/
def resume (i : Nat) (steps : Option Nat) (s : State) : State :=
  if s.siteState i = 4 then resumeRequest i steps s else modSite i (fun t => { t with resumeThen := some steps }) s

/-- An armed site is disarmed with cause HOST_HALT (R162). -/
def disarm (i : Nat) (s : State) : State :=
  wr (A.SEQ_SITE_STATE i) F.SEQ_SITE_STATE.ARMED 0
    (wr (A.SEQ_SITE_STATE i) F.SEQ_SITE_STATE.CAUSE 2
      (lapseJump i (releaseSite i (modSite i (fun t => { t with
        startDue := none, priming := false, routine := none, queue := [], align := [] }) s))))

/-- A halt request with cause HOST_HALT: a running or paused site halts, an armed one is disarmed. -/
def hostHalt (i : Nat) (s : State) : State :=
  if s.active i then haltAt i 2 s.unow 0 s else if s.armed i then disarm i s else s

/-! ## Starting (R163, R129) -/

/-- A register range returns to reset values of a run start: every listed address. -/
def clearRegs (l : List Nat) (s : State) : State := forAll l (fun a => setReg a 0) s

/-- The registers of a site, its tiles and its pins that a run start clears (R163, R183, R208, R261, R265). -/
def State.runRegs (s : State) (i : Nat) : List Nat :=
  [A.SEQ_CYCLE_LO i, A.SEQ_CYCLE_HI i, A.SEQ_RESULT_LO i, A.SEQ_RESULT_HI i, A.SEQ_TESTS_LO i, A.SEQ_TESTS_HI i,
   A.SEQ_START_LO i, A.SEQ_START_HI i, A.SEQ_STOP_LO i, A.SEQ_STOP_HI i,
   A.UC_MCHK i, A.UC_MCHK_STAMP_LO i, A.UC_MCHK_STAMP_HI i,
   A.PL_STARVE i, A.PL_STARVE_CYC_LO i, A.PL_STARVE_CYC_HI i, A.PL_STARVE_STAMP_LO i, A.PL_STARVE_STAMP_HI i,
   A.PL_STARVE_PAD i, A.FAIL_WRITTEN i, A.FAIL_LOST i]
  ++ (List.range 8).map (fun j => A.UC_USER i j)
  ++ (s.tilesOf i).flatMap (fun k => [A.FF_STATUS k, A.FF_OVER k, A.FAIL_PINS k])
  ++ (s.pinsOf i).flatMap (fun n =>
    [A.TSET_COLLIDE n, A.TSET_COLLIDE_INFO n, A.TSET_COLLIDE_CYC_LO n, A.TSET_COLLIDE_CYC_HI n,
     A.CMP_FAILCNT n, A.CMP_FIRST_LO n, A.CMP_FIRST_HI n, A.CMP_STAT n])

/-- The run claim of a site with a reservation (R439). -/
def runClaim (width reservation : Nat) : Nat := 1000 * width + (reservation + 119) / 120

/-- Run start (R163): the reservation and the claim are held, everything a run start clears is cleared. -/
def runStart (i h reservation : Nat) (oversub stopOnFail arm : Bool) (s : State) : State :=
  let tiles := s.tilesOf i
  let first := ((s.obj? h).map (·.startSeg)).getD 0
  let s := setClaim (uSite i) (runClaim (s.width i) reservation)
    (modPlace (fun p => { p with reserve := kins p.reserve i reservation }) s)
  let s := clearRegs (s.runRegs i) s
  let s := forAll tiles (fun k => modTile k (fun t => { t with
    fill := 0, fetched := 0, burst := false, ctrlFill := 0, ctrlFetched := 0, ctrlBurst := false, store := [] })) s
  s
  |> wr (A.PL_STARVE i) F.PL_STARVE.OVERSUB (b2n oversub)
  |> wr (A.FAIL_STAT i) F.FAIL_STAT.FULL 0
  |> wr (A.FAIL_STAT i) F.FAIL_STAT.WRAPPED 0
  |> wr (A.FAIL_STAT i) F.FAIL_STAT.GAP_PENDING 0
  |> wr (A.FAIL_STAT i) F.FAIL_STAT.NEXT 0
  |> wr (A.SEQ_SITE_STATE i) F.SEQ_SITE_STATE.VALID 1
  |> wr (A.SEQ_SITE_STATE i) F.SEQ_SITE_STATE.JUMP_DEFERRED 0
  |> wr (A.SEQ_SITE_STATE i) F.SEQ_SITE_STATE.MATCH_TIMEOUT 0
  |> wr (A.SEQ_SITE_STATE i) F.SEQ_SITE_STATE.WAIT_TIMEOUT 0
  |> wr (A.SEQ_SITE_STATE i) F.SEQ_SITE_STATE.FAILED 0
  |> wr (A.SEQ_SITE_STATE i) F.SEQ_SITE_STATE.STOP_ON_FAIL (b2n stopOnFail)
  |> wr (A.SEQ_SITE_STATE i) F.SEQ_SITE_STATE.ARMED (b2n arm)
  |> setSiteState i (if arm then 0 else 1)
  |> setEvFlag i false
  |> lapseJump i
  |> setReg (A.SEQ_HANDLE i) (word h)
  |> modSite i (fun _ => {
      priming := true, pos := (first, 0)
      log := { credit := 65536 * 3200, creditAt := s.now, header := some true } })
  |> refreshDepth i
  |> refreshLedger

/-- What RUN_START decides for its sites in ascending order: (site, handle, reservation, OVERSUB) of each, or the first
failure: status, DETAIL, unit (R163, R130). -/
def runPlan (s : State) : List (Nat × Nat) → List (Nat × Nat × Nat × Bool) → Except (Nat × Nat × Nat) (List (Nat × Nat × Nat × Bool))
  | [], done => .ok done
  | (i, h) :: rest, done =>
    match s.obj? h with
    | none => .error (0x0112, 5 + done.length, 0)
    | some o =>
      let bad := (s.pinsOf i).find? (fun n => s.anyDdr n && !o.covered (n - 16 * s.lead i) (s.pair_ n))
      match bad with
      | some n => .error (0x0318, n, uPin n)
      | none =>
        if (o.tsets s.decl).any (fun t => s.period (s.lead i) t < o.minPeriod) then .error (0x0215, 0, 0)
        else
          let t := forAll done (fun d => modPlace (fun p => { p with reserve := kins p.reserve d.1 d.2.2.1 })) s
          match t.admission i o with
          | .error d => .error (0x0210, d, 0)
          | .ok (r, more) =>
            let claims := (done ++ [(i, h, r, more)]).map (fun d => (uSite d.1, runClaim (s.width d.1) d.2.2.1))
            if s.shortfall claims ≠ 0 then .error (0x0230, shortDetail (s.shortfall claims), 0)
            else runPlan s rest (done ++ [(i, h, r, more)])

/-- The units that a CAL_RUN holds from its start to its completion: run starts wait for them (R418). -/
def State.inCalRun (s : State) : List Nat :=
  (List.range 8).flatMap (fun q => match s.running q with
    | some c => if c.opcode = 0x0601 then c.held else []
    | none => [])

/-- RUN_START (R163): it starts or arms when the streams are primed (STREAM_PRIME_DONE). -/
def execRunStart (q : Nat) (env : CommitEnv) (s : State) : Out :=
  .next (hostCmd q 0x0410
    (fun c s => (bitList 16 (bits (c.w 4) 15 0)).flatMap (fun i =>
      (s.tilesOf i).map uTile ++ ((s.pinsOf i).map uPin).filter s.inCalRun.contains)) (fun c s =>
    let sites := bitList 16 (bits (c.w 4) 15 0)
    let plan := sites.zipIdx.map (fun p => (p.1, (c.w (5 + p.2)).toNat))
    let wrong := plan.zipIdx.find? (fun p => s.handleStatus p.1.2 [1] ≠ 0)
    let unformed := sites.find? (fun i => !s.formed i)
    let busy := sites.find? s.reserved
    let foreign := plan.zipIdx.find? (fun p => !(((s.obj? p.1.2).map (fun o => o.bound && o.site = p.1.1)).getD false))
    let units := sites.flatMap (fun i => (s.tilesOf i).map uTile)
    let arm := bit (c.w 4) 16
    checked q [lenIs c (1 + sites.length), resv c 4 31 18, (sites.isEmpty, 0x0126, 4),
        (wrong.isSome, (wrong.map (fun p => s.handleStatus p.1.2 [1])).getD 0, 5 + (wrong.map (·.2)).getD 0)]
      (checkedU q [chkU unformed.isSome 0x0311 0 (uSite (unformed.getD 0)), chkU busy.isSome 0x0312 0 (uSite (busy.getD 0))]
      (checked q [(foreign.isSome, 0x0114, 5 + (foreign.map (·.2)).getD 0)] (fun s =>
        match runPlan s plan [] with
        | .error (st, d, u) =>
          if st = 0x0318 || units.length ≤ 1 then finishU q st d [] u s
          else refuseMap q st (if st = 0x0215 then none else some d) units s
        | .ok done =>
          twoPhase q units env
            (fun p => forAll (done.filter (fun d => (s.tilesOf d.1).all (fun k => p (uTile k))))
              (fun d => runStart d.1 d.2.1 d.2.2.1 d.2.2.2 (bit (c.w 4) 17) arm))
            (modCmd q (fun c => { c with
              stage := 1, data := (bits (c.w 4) 15 0 : Int) :: (b2n arm : Int) :: done.map (fun d => (d.2.2.1 : Int)) }))
            s))) s) s)

/-- Words of the stream that priming found in error: (tile, whether of the control words, byte of the stream, 64-byte unit of
HBM). The site is halted when it reaches them (R135). -/
def primeErrors (i : Nat) (ues : List (Nat × Bool × Nat × Nat)) (s : State) : State :=
  forAll (ues.filter (fun e => (s.tilesOf i).contains e.1)) (fun e s => hbmError e.2.2.2 (modSite i (fun x =>
    if e.2.1 then { x with ueCtl := some (min (x.ueCtl.getD (2 ^ 64)) e.2.2.1) }
    else { x with ueAt := some (min (x.ueAt.getD (2 ^ 64)) e.2.2.1) }) s)) s

/-- The prefetch buffers and the control queue of a site hold the stream's beginning, and damaged local segments have been
copied again (R125, R136). -/
def primeSite (i : Nat) (s : State) : State :=
  match s.runObj i with
  | none => s
  | some o =>
    let n := min 65536 o.streamBytes
    let m := min 8192 o.streamCtrl
    let s := forAll (s.tilesOf i) (fun k s =>
      wr (A.PL_TILE_PF (s.rd (A.SEQ_TILE_STATUS k) F.SEQ_TILE_STATUS.PHYS)) F.PL_TILE_PF.FILL (n / 64)
        (modTile k (fun t => { t with fill := n, fetched := n }) s)) s
    modObj (s.reg (A.SEQ_HANDLE i)).toNat (fun o => { o with segs := o.segs.map (fun g => { g with damaged := false }) })
      (modTile (s.lead i) (fun t => { t with ctrlFill := m, ctrlFetched := m })
        (modSite i (fun t => { t with priming := false }) s))

/-- Cycle 0 of a site is set to start at tick `t`, and the site runs (R162, R163). -/
def beginRun (i t : Nat) (s : State) : State :=
  modSite i (fun x => { x with nextStart := 1250 * t }) (setSiteState i (s.kindOf i (s.site i).pos.1) s)

/-- Priming of a RUN_START completes: without ARM every site starts its cycle 0 on the same MTC tick, 640 ticks later (DEDUCED, log entry
20); with ARM the sites wait, primed. The command completes (R163, R125). `ce` words were corrected in the reads, those of `ues` are in
error (R135). -/
def execStreamPrimeDone (q ce : Nat) (ues : List (Nat × Bool × Nat × Nat)) (s : State) : Out :=
  .next (
    match s.running q with
    | some c =>
      if c.opcode = 0x0410 && c.stage = 1 then
        let sites := (bitList 16 ((c.data.getD 0 0).toNat)).filter (fun i => (s.site i).priming)
        let s := forAll sites (fun i s => primeErrors i ues (primeSite i s)) (hbmCorrected ce s)
        let s := if c.data.getD 1 0 = 0 then forAll sites (fun i => beginRun i (s.now + 640)) s else s
        ok q ((c.data.drop 2).map (fun r => word r.toNat)) s
      else s
    | none => s)

/-- Cycle 0 of an armed site that its START event has set running starts, 640 MTC ticks after it (R162, R163). -/
def execArmedStart (i : Nat) (s : State) : Out :=
  .next (
    match (s.site i).startDue with
    | some t => if t ≤ s.now then modSite i (fun x => { x with startDue := none }) s else s
    | none => s)

/-- A resumed site, running since its resume, starts its next cycle (R162, R164): the request of SEQ_SITE_CTRL has completed. -/
def execResumeStart (i : Nat) (s : State) : Out :=
  .next (
    match (s.site i).resumeDue with
    | some t => if t ≤ s.now then clearCtrl i ctrlResume (modSite i (fun x => { x with resumeDue := none }) s) else s
    | none => s)

/-! ## Run control commands (R162 to R168) -/

/-- The sites a mask command names. -/
def maskSites (c : Cmd) : List Nat := bitList 16 (bits (c.w 4) 15 0)

/-- A command over a mask of sites that registers a request at each (R162): common checks, then its own. -/
def maskCmd (q op : Nat) (env : CommitEnv) (own : List Nat → State → List (Bool × Nat × Nat × Nat))
    (act : Nat → State → State) (done : List Nat → State → State → State) (s : State) : State :=
  hostCmd q op (fun c s => (maskSites c).flatMap (fun i => (s.tilesOf i).map uTile)) (fun c s =>
    let sites := maskSites c
    let units := sites.flatMap (fun i => (s.tilesOf i).map uTile)
    let unformed := sites.find? (fun i => !s.formed i)
    checked q [lenIs c 1, resv c 4 31 16, (sites.isEmpty, 0x0126, 4)]
      (checkedU q ([chkU unformed.isSome 0x0311 0 (uSite (unformed.getD 0))] ++ own sites s)
        (twoPhase q units (if sites.length ≤ 1 then {} else env)
          (fun p => forAll (sites.filter (fun i => (s.tilesOf i).all (fun k => p (uTile k)))) act)
          (done sites s))) s) s

/-- RUN_PAUSE (R164). -/
def execRunPause (q : Nat) (env : CommitEnv) (s : State) : Out :=
  .next (maskCmd q 0x0411 env
    (fun sites s => [chkU (sites.any (fun i => !s.runs i)) 0x0312 0 (uSite ((sites.find? (fun i => !s.runs i)).getD 0))])
    (fun i => pauseRequest i 0) (fun _ _ => ok q []) s)

/-- RUN_RESUME (R164). -/
def execRunResume (q : Nat) (env : CommitEnv) (s : State) : Out :=
  .next (maskCmd q 0x0412 env
    (fun sites s => [chkU (sites.any (fun i => !s.resumable i)) 0x0312 0
      (uSite ((sites.find? (fun i => !s.resumable i)).getD 0))])
    (fun i => resume i none) (fun _ _ => ok q []) s)

/-- RUN_HALT (R166): sites already idle or halted are unchanged and reported. -/
def execRunHalt (q : Nat) (env : CommitEnv) (s : State) : Out :=
  .next (maskCmd q 0x0414 env (fun _ _ => []) hostHalt
    (fun sites old =>
      let rest := sites.filter (fun i => !old.reserved i)
      if rest.isEmpty then ok q [] else finish q 0x0001 (bitsOf rest) []) s)

/-- RUN_STEP (R165). -/
def execRunStep (q : Nat) (s : State) : Out :=
  .next (hostCmd q 0x0413 (fun c s => (s.tilesOf (bits (c.w 4) 3 0)).map uTile) (fun c s =>
    let i := bits (c.w 4) 3 0
    checked q [lenIs c 1, resv c 4 15 4, (bits (c.w 4) 31 16 = 0, 0x0125, 4)]
      (checkedU q [chkU (!s.formed i) 0x0311 0 (uSite i), chkU (!s.resumable i) 0x0312 0 (uSite i)]
        (fun s => ok q [] (resume i (some (bits (c.w 4) 31 16)) s))) s) s)

/-- A host jump to a segment is refused: it is not local, or a control path from it reaches a streamed segment (R168). -/
def jumpBad (o : PatObj) (decl : Nat → Option Decl) (seg : Nat) : Bool :=
  let gr := mkGraph (o.instrs decl)
  let succ (h : Nat) : List Nat := gr.flow h ++ (if gr.shape h = .call then (gr.target h).toList else [])
  match gr.code.findIdx? (·.seg = seg) with
  | none => true
  | some g => (reach succ gr.code.length walkFuel [g]).any (fun h =>
      (((gr.code[h]?).bind (fun x => o.seg x.seg)).map (·.streamed)).getD true)

/-- A host jump becomes pending; a newer one replaces it (R168). -/
def jumpRequest (i seg : Nat) (s : State) : State :=
  wr (A.SEQ_JUMP i) F.SEQ_JUMP.REQ 1 (wr (A.SEQ_JUMP i) F.SEQ_JUMP.SEG seg
    (wr (A.SEQ_SITE_STATE i) F.SEQ_SITE_STATE.JUMP_PENDING 1 (modSite i (fun t => { t with jumpId := t.jumpId + 1 }) s)))

/-- A host jump is pending at a site. -/
def State.jumpPending (s : State) (i : Nat) : Bool := s.flag (A.SEQ_SITE_STATE i) F.SEQ_SITE_STATE.JUMP_PENDING

/-- RUN_JUMP (R168). -/
def execRunJump (q : Nat) (s : State) : Out :=
  .next (hostCmd q 0x0415 (fun c s => (s.tilesOf (bits (c.w 4) 3 0)).map uTile) (fun c s =>
    let i := bits (c.w 4) 3 0
    let seg := bits (c.w 4) 27 16
    let o := s.runObj i
    checked q [lenIs c 1, resv c 4 31 28, resv c 4 15 4]
      (checkedU q [chkU (!s.formed i) 0x0311 0 (uSite i), chkU (!s.active i) 0x0312 0 (uSite i)]
      (checked q [(((o.map (·.segs.length)).getD 0) ≤ seg, 0x0126, 4)]
      (checkedU q [chkU ((o.map (fun o => jumpBad o s.decl seg)).getD true) 0x0314 0 (uSite i)]
        (fun s =>
          let old := s.jumpPending i
          let s := jumpRequest i seg s
          if old then finish q 0x0001 1 [] s else ok q [] s)))) s) s)

/-- RUN_STATUS (R161): twelve registers of the site. -/
def execRunStatus (q : Nat) (s : State) : Out :=
  .next (hostCmd q 0x0418 (fun _ _ => []) (fun c s =>
    let i := bits (c.w 4) 3 0
    checked q [lenIs c 1, resv c 4 31 4]
      (checkedU q [chkU (!s.formed i) 0x0311 0 (uSite i)] (fun s =>
        ok q ([A.SEQ_SITE_STATE i, A.SEQ_HANDLE i, A.SEQ_CYCLE_LO i, A.SEQ_CYCLE_HI i, A.SEQ_RESULT_LO i, A.SEQ_RESULT_HI i,
          A.SEQ_TESTS_LO i, A.SEQ_TESTS_HI i, A.SEQ_START_LO i, A.SEQ_START_HI i, A.SEQ_STOP_LO i, A.SEQ_STOP_HI i].map s.reg)
          s)) s) s)

/-! ## Register requests (R158, R162, R168) -/

/-- Write of PAUSE in SEQ_SITE_CTRL. -/
def execSiteCtrlPause (i : Nat) (s : State) : Out :=
  .next (barWrite (.siteCtrlPause i) (A.SEQ_SITE_CTRL i) (fun s => if s.runs i then setCtrl i ctrlPause (pauseRequest i 0 s) else discard s) s)

/-- Write of RESUME in SEQ_SITE_CTRL. -/
def execSiteCtrlResume (i : Nat) (s : State) : Out :=
  .next (barWrite (.siteCtrlResume i) (A.SEQ_SITE_CTRL i) (fun s => if s.resumable i then setCtrl i ctrlResume (resume i none s) else discard s) s)

/-- Write of HALT in SEQ_SITE_CTRL: cause HOST_HALT; an idle site that is not armed, or a halted one, allows none. -/
def execSiteCtrlHalt (i : Nat) (s : State) : Out :=
  .next (barWrite (.siteCtrlHalt i) (A.SEQ_SITE_CTRL i) (fun s => if s.active i then setCtrl i ctrlHalt (haltAt i 2 s.unow 0 s) else discard s) s)

/-- Write of STEP in SEQ_SITE_CTRL: as RUN_STEP with COUNT 1. -/
def execSiteCtrlStep (i : Nat) (s : State) : Out :=
  .next (barWrite (.siteCtrlStep i) (A.SEQ_SITE_CTRL i) (fun s => if s.resumable i then setCtrl i ctrlStep (resume i (some 1) s) else discard s) s)

/-- Write of EV_SET in SEQ_EVT (R158). -/
def execEvSet (i : Nat) (s : State) : Out := .next (barWrite (.evSet i) (A.SEQ_EVT i) (wr (A.SEQ_EVT i) F.SEQ_EVT.EV_FLAG 1) s)

/-- Write of REQ 1 in SEQ_JUMP with SEG (R168, R111): a request that RUN_JUMP would refuse is invalid. -/
def execSeqJumpReq (i seg : Nat) (s : State) : Out :=
  .next (barWrite (.seqJumpReq i seg) (A.SEQ_JUMP i) (fun s =>
    if !s.formed i || !s.active i || ((s.runObj i).map (fun o => o.segs.length ≤ seg || jumpBad o s.decl seg)).getD true
    then discard s else jumpRequest i seg s) s)

end Sys2Proof.Machine
end

