-- ==== Sys2Proof/Machine/Edges.lean ====
section
/-! DEFINITION. What a cycle asks of a pin: state codes (R221, R222, R227, R228), the edges a format uses (R223 to R225),
compares (R249, R250), and the generation of edges in order of programmed time with spacing and range drops (R203 to
R208). -/

namespace Sys2Proof.Machine

/-! ## Pins -/

def State.pin (s : State) (n : Nat) : Pin := kget (fun _ => {}) s.pins n
def modPin (n : Nat) (f : Pin → Pin) (s : State) : State :=
  { s with pins := kset (fun _ => {}) s.pins n (f (s.pin n)) }

def State.gangMember (s : State) (n : Nat) : Bool := s.flag (A.PIN_STATUS n) F.PIN_STATUS.GANG_MEMBER
def State.gangLeader (s : State) (n : Nat) : Bool := s.flag (A.PIN_STATUS n) F.PIN_STATUS.GANG_LEADER

/-- The pins of the gang a pin leads, itself among them; a pin without a gang alone (R236). -/
def State.gangOf (s : State) (n : Nat) : List Nat :=
  if s.gangLeader n then (bitList 8 (s.rd (A.PIN_GANG n) F.PIN_GANG.MASK)).map (n / 8 * 8 + ·) else [n]

/-- DRV_EN shows whether the driver is enabled while the isolation switch is closed: by the formatter, or in mode 4, where a
pin that is not parked always drives (R219, R307). -/
def refreshDrv (n : Nat) (s : State) : State :=
  let on : Bool := (s.pin n).en || (s.mode n = 4 && !s.flag (A.PIN_STATUS n) F.PIN_STATUS.PARKED)
  wr (A.PIN_STATUS n) F.PIN_STATUS.DRV_EN (b2n (on && s.flag (A.PIN_STATUS n) F.PIN_STATUS.DRV_CONN)) s

/-- The formatter's level of a pin and its gang. -/
def setLevel (n l : Nat) (s : State) : State := forAll (s.gangOf n) (fun m => modPin m (fun p => { p with level := l })) s

/-- The driver enable of a pin and its gang. -/
def setEnable (n : Nat) (on : Bool) (s : State) : State :=
  forAll (s.gangOf n) (fun m s => refreshDrv m (modPin m (fun p => { p with en := on }) s)) s

/-- The first edge of a run ends the park state (R243). -/
def unpark (n : Nat) (s : State) : State :=
  forAll (s.gangOf n) (fun m => wr (A.PIN_STATUS m) F.PIN_STATUS.PARKED 0) s

/-! ## State codes -/

/-- A state code's parts: driver action, compare expectation, load choice (R221). -/
structure Code where
  drv : Nat
  cmp : Nat
  load : Nat := 0
  deriving DecidableEq, Repr

/-- Codes 0x0 to 0xB (R221). -/
def fixedCode (c : Nat) : Code :=
  match c with
  | 0x0 => ⟨1, 0, 0⟩ | 0x1 => ⟨2, 0, 0⟩ | 0x2 => ⟨0, 1, 0⟩ | 0x3 => ⟨0, 2, 0⟩ | 0x4 => ⟨0, 0, 0⟩ | 0x5 => ⟨0, 3, 0⟩
  | 0x6 => ⟨0, 4, 0⟩ | 0x7 => ⟨3, 0, 0⟩ | 0x8 => ⟨4, 0, 0⟩ | 0x9 => ⟨1, 1, 0⟩ | 0xA => ⟨2, 2, 0⟩ | _ => ⟨0, 5, 0⟩

/-- An entry of a state map: LOAD [7:6], DRV [5:3], CMP [2:0]. -/
def mapCode (b : Nat) : Code := ⟨b / 8 % 8, b % 8, b / 64 % 4⟩

/-- An entry is invalid (R222). -/
def badMap (b : Nat) : Bool := 5 ≤ b / 8 % 8 || 6 ≤ b % 8 || b / 64 % 4 = 3

/-- A pin's reading of a state code, live (R222). -/
def State.code (s : State) (n c : Nat) : Code :=
  if c < 12 then fixedCode c else mapCode ((s.reg (A.PIN_STATE_MAP n)).toNat / 256 ^ (c - 12) % 256)

def Code.drives (c : Code) : Bool := 1 ≤ c.drv && c.drv ≤ 3
def Code.off (c : Code) : Bool := c.drv = 0

/-- What event `c` asks of the drive edges of a single-data format or of one DDR edge: (edge, level) (R223). -/
def driveEdges (fmt : Nat) (c : Code) : List (Nat × Nat) :=
  if !c.drives then []
  else
    let v := if c.drv = 1 then 0 else if c.drv = 2 then 1 else 2
    let alt (k : Nat) : Nat := if c.drv = 3 then 2 else k
    match fmt with
    | 0 => [(0, v)]
    | 1 => [(1, v)]
    | 2 => [(0, v), (1, alt 0)]
    | 3 => [(0, v), (1, alt 1)]
    | 4 => [(0, alt (1 - v)), (1, v), (2, alt (1 - v))]
    | _ => []

/-! ## What a cycle asks of a pin -/

/-- The codes a pin takes in a cycle: event 1 and event 2 (K in a single-data segment) (R143, R227, R228). -/
def State.codesIn (s : State) (i n : Nat) (c : QCycle) : Code × Code :=
  match (s.runObj i).bind (fun o => (o.seg c.seg).map (fun g => (o, g))) with
  | some (o, g) =>
    let k := n - 16 * s.lead i
    (s.code n (g.code o.width c.line k false), s.code n (if g.doubleData then g.code o.width c.line k true else 8))
  | none => (fixedCode 4, fixedCode 8)

/-- The compare of a code takes the window form at a pin in a format (R250). -/
def State.windowed (s : State) (n fmt : Nat) (c : Code) : Bool :=
  s.flag (A.CMP_CFG n) F.CMP_CFG.WIN && fmt ≠ 5 && 1 ≤ c.cmp && c.cmp ≤ 4

/-- The edges a cycle uses at a pin, before EN: (edge, what it does) (R223 to R225). -/
def State.usedEdges (s : State) (i n : Nat) (c : QCycle) : List (Nat × EdgeAct) :=
  let (a, b) := s.codesIn i n c
  let fmt := s.fmt n c.tset
  let edges := s.flag (A.PIN_FORMAT n c.tset) F.PIN_FORMAT.EMODE
  let drive :=
    if fmt = 5 then (driveEdges 0 a) ++ (driveEdges 0 b).map (fun e => (2, e.2)) else driveEdges fmt a
  let win := s.windowed n fmt a && s.edgeEn n c.tset 4 && s.edgeEn n c.tset 5
  let cmp :=
    if c.pad then []
    else if fmt = 5 then (if a.cmp ≠ 0 then [4] else []) ++ (if b.cmp ≠ 0 then [5] else [])
    else if a.cmp ≠ 0 then [4, 5] else []
  let ena :=
    if !edges then []
    else if fmt = 5 then
      (if a.drv = 4 then [] else [(6, a.drives)]) ++ (if b.drv = 4 then [] else [(7, b.drives)])
    else if a.drives then [(6, true)] else if a.off then [(7, false)] else []
  (drive.map (fun e => (e.1, EdgeAct.drive e.2))) ++ (cmp.map (fun e => (e, EdgeAct.compare win)))
    ++ (ena.map (fun e => (e.1, EdgeAct.enable e.2)))

/-- The enable and load choices a cycle makes without edges: EMODE FOLLOW (R225) and the active load (R234), with their
times. -/
def State.follows (s : State) (i n : Nat) (c : QCycle) : List (Nat × EdgeAct) :=
  let (a, b) := s.codesIn i n c
  let fmt := s.fmt n c.tset
  let d2 := c.start + s.offset n c.tset 2
  let ena :=
    if s.flag (A.PIN_FORMAT n c.tset) F.PIN_FORMAT.EMODE then []
    else (if a.drv = 4 then [] else [(c.start, EdgeAct.follow a.drives)])
      ++ (if fmt = 5 && b.drv ≠ 4 then [(d2, EdgeAct.follow b.drives)] else [])
  ena ++ [(c.start, EdgeAct.load a.load)] ++ (if fmt = 5 then [(d2, EdgeAct.load b.load)] else [])

/-- The compares of a cycle at a pin (R249, R250, R252). With WIN 1 the one compare has outcome bit 0, in the strobe forms that
a clear EN leaves it too (DEDUCED, log entry 46). -/
def State.cmpsOf (s : State) (i n : Nat) (c : QCycle) : List Cmp :=
  let (a, b) := s.codesIn i n c
  let fmt := s.fmt n c.tset
  let on (e : Nat) : Bool := s.edgeEn n c.tset e
  let at_ (e : Nat) : Nat := c.start + s.offset n c.tset e
  if c.pad || s.gangMember n || !(streamsOf (s.mode n)).contains 1 then []
  else if fmt = 5 then
    (if a.cmp ≠ 0 && on 4 then [⟨n, 0, 4, a.cmp, false, at_ 4, at_ 4⟩] else [])
      ++ (if b.cmp ≠ 0 && on 5 then [⟨n, 1, 5, b.cmp, false, at_ 5, at_ 5⟩] else [])
  else if a.cmp = 0 then []
  else if s.windowed n fmt a then
    if on 4 && on 5 then [⟨n, 0, 5, a.cmp, true, at_ 5, at_ 4⟩]
    else if on 4 then [⟨n, 0, 4, a.cmp, false, at_ 4, at_ 4⟩]
    else if on 5 then [⟨n, 0, 5, a.cmp, false, at_ 5, at_ 5⟩] else []
  else (if on 4 then [⟨n, 0, 4, a.cmp, false, at_ 4, at_ 4⟩] else []) ++ (if on 5 then [⟨n, 1, 5, a.cmp, false, at_ 5, at_ 5⟩] else [])

/-- The compares of a cycle of a site. -/
def State.cycleCmps (s : State) (i : Nat) (c : QCycle) : List Cmp := (s.pinsOf i).flatMap (fun n => s.cmpsOf i n c)

/-! ## Generation (R203, R206 to R208) -/

/-- A drop of a run is recorded the first time and counted (R208). -/
def recordDrop (n : Nat) (range : Bool) (e : PinEdge) (s : State) : State :=
  let s := if range then bump (A.TSET_COLLIDE n) F.TSET_COLLIDE.EDGE_RANGE s
    else bump (A.TSET_COLLIDE n) F.TSET_COLLIDE.EDGE_COLLIDE s
  if s.flag (A.TSET_COLLIDE_INFO n) F.TSET_COLLIDE_INFO.VALID then s
  else
    s |> setReg (A.TSET_COLLIDE_INFO n)
        (word (2 ^ 31 + b2n range * 2 ^ 30 + streamOf e.edge * 2 ^ 28 + e.edge * 2 ^ 25 + e.tset * 2 ^ 19))
      |> wrPair (A.TSET_COLLIDE_CYC_LO n) (A.TSET_COLLIDE_CYC_HI n) e.num

/-- The order of generation: programmed time, then cycle, then edge number (R207). -/
def PinEdge.before (a b : PinEdge) : Bool :=
  a.time < b.time || (a.time = b.time && (a.cyc < b.cyc || (a.cyc = b.cyc && a.edge ≤ b.edge)))

/-- Insert an edge in order. -/
def insertEdge (e : PinEdge) : List PinEdge → List PinEdge
  | [] => [e]
  | x :: l => if x.before e then x :: insertEdge e l else e :: x :: l

/-- The last generated edge of a stream. -/
def Pin.last (p : Pin) (stream : Nat) : Option Nat := if stream = 0 then p.lastD else if stream = 1 then p.lastC else p.lastE
def Pin.setLast (p : Pin) (stream t : Nat) : Pin :=
  if stream = 0 then { p with lastD := some t } else if stream = 1 then { p with lastC := some t }
  else { p with lastE := some t }

/-- A compare edge that is generated opens, cuts or closes a window where its compare has that form (R250, R251). -/
def windowEdge (n : Nat) (e : PinEdge) (s : State) : State :=
  if e.edge = 4 then
    match (s.pin n).window with
    | some w => bump (A.CMP_STAT n) F.CMP_STAT.WIN_CUT
        (modPin n (fun p => { p with window := some e.cyc, cuts := p.cuts ++ [(w, e.time)] }) s)
    | none => modPin n (fun p => { p with window := some e.cyc }) s
  else if (s.pin n).window = some e.cyc then modPin n (fun p => { p with window := none }) s
  else s

/-- One edge is generated, or dropped as a collision. -/
def generate (n : Nat) (e : PinEdge) (s : State) : State :=
  match e.act with
  | .follow on => unpark n (setEnable n on s)
  | .load l => modPin n (fun p => { p with load := l }) s
  | _ =>
    let st := streamOf e.edge
    let near : Bool := match (s.pin n).last st with
      | some t => e.time < t + minSpacing (s.mode n)
      | none => false
    if near then
      let s := recordDrop n false e s
      if st = 1 then modPin n (fun p => { p with missed := p.missed ++ [(e.cyc, e.edge)] }) s else s
    else
      let s := unpark n (modPin n (fun p => p.setLast st e.time) s)
      match e.act with
      | .drive l => setLevel n l s
      | .enable on => setEnable n on s
      | .compare opens => if opens then windowEdge n e s else s
      | _ => s

/-- Generate a pin's edges up to a time. -/
def settlePin (t n : Nat) (s : State) : State :=
  let due := (s.pin n).edges.takeWhile (fun e => e.time ≤ t)
  forAll due (generate n) (modPin n (fun p => { p with edges := p.edges.drop due.length }) s)

/-- Generate the edges of a site's pins up to a time. -/
def settleSite (t i : Nat) (s : State) : State := forAll (s.pinsOf i) (settlePin t) s

/-- The timing generator of a pin takes a cycle: it computes the times of all the edges the cycle uses (R199, R201, R203);
a gang member takes none of its own (R236). -/
def takePin (i : Nat) (c : QCycle) (n : Nat) (s : State) : State :=
  if s.gangMember n then s
  else
    let streams := streamsOf (s.mode n)
    let p := s.govPeriod n c.tset
    let used := (s.usedEdges i n c).filter (fun u => streams.contains (streamOf u.1) && s.edgeEn n c.tset u.1)
    let edge (u : Nat × EdgeAct) : PinEdge := ⟨c.start + s.offset n c.tset u.1, c.start, c.num, c.tset, u.1, u.2⟩
    let out := used.filter (fun u => 4 * p ≤ s.offset n c.tset u.1)
    let kept := used.filter (fun u => s.offset n c.tset u.1 < 4 * p)
    let follow := if streams.contains 2 then
        (s.follows i n c).map (fun f => (⟨f.1, c.start, c.num, c.tset, 8, f.2⟩ : PinEdge)) else []
    let s := forAll out (fun u s =>
      let s := recordDrop n true (edge u) s
      if streamOf u.1 = 1 then modPin n (fun q => { q with missed := q.missed ++ [(c.start, u.1)] }) s else s) s
    modPin n (fun q => { q with edges := (follow ++ kept.map edge).foldl (fun l e => insertEdge e l) q.edges }) s

end Sys2Proof.Machine
end

