-- ==== Sys2Proof/Machine/Micro.lean ====
section
/-! DEFINITION. The microword (R172, R173), the routine of each Lenmas opcode (R148, R179), what decisions see (R155 to
R157), staged writes (R180) and machine checks (R183, R184). -/

namespace Sys2Proof.Machine

/-! ## Microwords -/

/-- A microword (R172). -/
structure MW where
  na : Nat := 0
  nac : Nat := 5
  cond : Nat := 0
  cinv : Bool := false
  flow : Nat := 0
  lsel : Bool := false
  cyop : Nat := 1
  tsop : Nat := 0
  tsapply : Bool := false
  lc : Nat := 0
  lcop : Nat := 0
  fmop : Nat := 0
  msk : Nat := 0
  beacon : Bool := false
  matched : Bool := false
  evclr : Bool := false
  wait : Nat := 0
  wto : Bool := false
  yields : Bool := false
  commit : Bool := false
  strm : Nat := 0
  runc : Nat := 0
  mcop : Nat := 0
  sdst : Nat := 0
  ssrc : Nat := 0
  imm : Nat := 0
  deriving DecidableEq, Repr

/-- The number of a microword's five words, word 0 lowest. -/
def mwNumber (ws : List Word) : Nat := ((List.range 5).map (fun i => (wd ws i).toNat * 2 ^ (32 * i))).sum

/-- Bits [hi:lo] of a microword. -/
def mwf (m hi lo : Nat) : Nat := m / 2 ^ lo % 2 ^ (hi + 1 - lo)

/-- The fields of a stored microword. -/
def decodeMW (m : Nat) : MW where
  na := mwf m 159 147
  nac := mwf m 146 144
  cond := mwf m 143 139
  cinv := nbit m 138
  flow := mwf m 137 135
  lsel := nbit m 134
  cyop := mwf m 133 131
  tsop := mwf m 130 129
  tsapply := nbit m 128
  lc := mwf m 127 125
  lcop := mwf m 124 123
  fmop := mwf m 122 120
  msk := mwf m 119 116
  beacon := nbit m 115
  matched := nbit m 114
  evclr := nbit m 113
  wait := mwf m 112 110
  wto := nbit m 109
  yields := nbit m 108
  commit := nbit m 107
  strm := mwf m 106 105
  runc := mwf m 104 103
  mcop := mwf m 102 101
  sdst := mwf m 100 93
  ssrc := mwf m 92 90
  imm := mwf m 63 32

/-- The one microword of a Lenmas opcode's routine (R148, R179); the loop counter is the operand's (R151), and BR_EVT clears
the flag where it is taken (R158). -/
def lenmasWord (op : Nat) (ctl : Word) (flag : Bool) : MW :=
  let c := bits ctl 17 15
  match op with
  | 0x01 => { lsel := true }
  | 0x02 => { tsop := 1 }
  | 0x03 => { tsapply := true }
  | 0x04 => { beacon := true }
  | 0x08 => { lc := c, lcop := 1 }
  | 0x09 => { lc := c, lcop := 2, flow := 2 }
  | 0x10 => { flow := 1 }
  | 0x11 => { flow := 3 }
  | 0x12 => { flow := 4 }
  | 0x13 => { flow := 1, cond := 2, evclr := flag }
  | 0x14 => { flow := 1, cond := 3 }
  | 0x15 => { flow := 1, cond := 3, cinv := true }
  | 0x18 => { fmop := 1 }
  | 0x19 => { fmop := 2, flow := 5 }
  | 0x1A => { lsel := true, cyop := 4, wait := 1, wto := true, yields := true, evclr := true }
  | 0x20 => { lsel := true, cyop := 4, wait := 2, yields := true, strm := 1 }
  | 0x30 => { fmop := 3 }
  | 0x3D => { runc := 1 }
  | 0x3E => { runc := 2 }
  | 0x3F => { runc := 3 }
  | _ => {}

/-- The words of a control-store address; an address that no image has filled holds free words (DESIGN CHOICE, log entry 10). -/
def State.storeWord (s : State) (a : Nat) : List Word :=
  let r := s.region (regionOf a)
  if r.base ≤ a ∧ a < r.base + r.words.length then (r.words.getD (a - r.base) [])
  else (List.range 5).map (fun j => Config.blankWord (2 ^ 40 + 8 * a + j))

/-- The microword a routine executes: a Lenmas opcode that no patch entry replaces runs its one-word routine. -/
def State.microword (s : State) (r : Routine) : MW :=
  if r.opcode < 0xC0 && (s.record 2 r.opcode).isNone then lenmasWord r.opcode r.ctl r.flag
  else decodeMW (mwNumber (s.storeWord r.upc))

/-! ## The running instruction -/

/-- The instruction of a site at a position. -/
def State.instrAt (s : State) (i : Nat) (p : Nat × Nat) : Option PInstr := (s.runObj i).bind (·.instrAt s.decl p)

/-- The declaration a routine's operand is read by. -/
def State.routineDecl (s : State) (r : Routine) : Decl := (s.decl r.opcode).getD {}

/-- N of a routine's instruction. -/
def State.routineN (s : State) (r : Routine) : Nat := bits r.ctl 17 0 % 2 ^ (s.routineDecl r).nbits

/-- The position after a routine's instruction. -/
def State.after (s : State) (i : Nat) (r : Routine) : Nat × Nat :=
  let o := r.ofs + 1 + r.ext.length
  match (s.runObj i).bind (·.seg r.seg) with
  | some g => if o < g.ctrl.length then (r.seg, o) else (r.seg + 1, 0)
  | none => (r.seg + 1, 0)

/-- The TARGET of a routine's instruction as a position. -/
def Routine.targetPos (r : Routine) : Nat × Nat :=
  let t := (r.ext.getLast?).getD 0
  (tgtSeg t, tgtOfs t)

/-- TIMEOUT of a routine's instruction: its first extension word; 0: no limit. -/
def Routine.timeout (r : Routine) : Nat := (wd r.ext 0).toNat

/-- Every streaming tile of a site holds at least 32 KiB or the whole remaining stream (R128, R148). -/
def State.filled (s : State) (i : Nat) : Bool :=
  match s.runObj i with
  | some o => (s.tilesOf i).all (fun k => 32768 ≤ (s.tile k).fill || (s.tile k).fetched = o.streamBytes)
  | none => true

/-! ## Decisions (R155 to R157) -/

/-- The decision stamp of a routine: 97.5 ns before its dispatch (R155). -/
def Routine.stamp (r : Routine) : Nat := r.dispatch - 390000

/-- Every compare outcome with an edge at or before a time has been processed. -/
def State.seen (s : State) (i stamp : Nat) : Bool :=
  (s.site i).taken.all (fun t => t.cmps.all (fun c => stamp < c.ts))
    && ((s.site i).queue ++ (s.site i).align).all (fun c => stamp < c.start)

/-- The test accumulator as a decision stamp sees it: a fail with its edge at or before the stamp, of a cycle from the last close at or
before it (R156). -/
def State.accumulator (s : State) (i stamp : Nat) : Bool :=
  let from_ := (((s.site i).marks.filter (·.2 ≤ stamp)).getLast?.map (·.1)).getD 0
  (s.site i).fails.any (fun f => from_ ≤ f.1 && f.2 ≤ stamp)

/-- Every compare edge of a match iteration lies at or before a decision stamp (R157). -/
def State.iterSeen (s : State) (i stamp : Nat) (r : IterRes) : Bool :=
  r.lastEdge ≤ stamp
    && (s.site i).taken.all (fun t => t.cyc.iter ≠ some r.num || t.cmps.isEmpty)
    && ((s.site i).queue ++ (s.site i).align).all (fun c => c.iter ≠ some r.num || (s.cycleCmps i c).isEmpty)

/-- The iteration a MATCH_END decides from: the most recent one that is wholly seen (R157). -/
def State.decidedIter (s : State) (i stamp : Nat) : Option IterRes :=
  match (s.site i).block with
  | some b => ((s.site i).iters.filter (fun r => b.firstIter ≤ r.num && s.iterSeen i stamp r)).getLast?
  | none => none

/-- The open match block matches under its MODE (R157, R258). -/
def State.matches (s : State) (i stamp : Nat) : Bool :=
  match (s.site i).block, s.decidedIter i stamp with
  | some b, some r => if b.mode = 0 then !r.failed else r.failed
  | _, _ => false

/-- Iterations of the open block that have run, the present one included. -/
def State.iterations (s : State) (i : Nat) : Nat :=
  match (s.site i).block with
  | some b => b.iter + 1 - b.firstIter
  | none => 0

/-- The condition of a microword (R173 COND). -/
def State.condition (s : State) (i : Nat) (r : Routine) (w : MW) : Bool :=
  let v := match w.cond with
    | 1 => kget (fun _ => 0) (s.site i).counters w.lc = 0
    | 2 => r.flag
    | 3 => s.accumulator i r.stamp
    | 4 => s.matches i r.stamp
    | 5 => (((s.site i).block.map (·.count)).getD 0) ≤ s.iterations i
    | 6 => s.filled i
    | 7 => r.timeout ≠ 0 && r.timeout ≤ r.issued
    | 8 => r.micro = 0
    | 9 => r.fromLoopEnd
    | _ => true
  v != w.cinv

/-! ## Staged writes and machine checks -/

/-- One staged write is applied (R173 SDST). -/
def applyOne (i : Nat) (d : Nat × Word) (s : State) : State :=
  if 1 ≤ d.1 ∧ d.1 ≤ 8 then setReg (A.UC_USER i (d.1 - 1)) d.2 s
  else if d.1 = 0x20 then setReg (A.SEQ_MATCH i) d.2 s
  else if d.1 = 0x21 then raiseIrq i 3 (raise (A.SEQ_SITE_STATE i) F.SEQ_SITE_STATE.MATCH_TIMEOUT s)
  else if d.1 = 0x22 then raise (A.SEQ_SITE_STATE i) F.SEQ_SITE_STATE.WAIT_TIMEOUT s
  else s

/-- Change the running routine. -/
def modRoutine (i : Nat) (f : Routine → Routine) (s : State) : State :=
  modSite i (fun t => { t with routine := t.routine.map f }) s

/-- Every staged write of the routine is applied (R180). -/
def applyStaged (i : Nat) (s : State) : State :=
  match (s.site i).routine with
  | some r => modRoutine i (fun r => { r with staged := [] }) (forAll r.staged (applyOne i) s)
  | none => s

/-- A machine check (R183): staged writes are discarded, UC_MCHK records it, the lens hears of it, the site halts. A cycle that is missing
(QUEUE_EMPTY) makes the last issued cycle the stop cycle (R176); a site that has halted, whose routine runs on (R181), stays so. -/
def machineCheck (i code opcode uaddr th : Nat) (s : State) : State :=
  let k := s.lead i
  let phys := s.rd (A.SEQ_TILE_STATUS k) F.SEQ_TILE_STATUS.PHYS
  let st := s.coarseOf (th / 1250)
  s |> setReg (A.UC_MCHK i) (word (code * 2 ^ 26 + phys * 2 ^ 21 + opcode % 256 * 2 ^ 13 + uaddr % 8192))
    |> wrPair (A.UC_MCHK_STAMP_LO i) (A.UC_MCHK_STAMP_HI i) st
    |> reportAt (uTile k) 0x05 keyUnit st
    |> modSite i (fun t => { t with routine := none })
    |> (fun s => if !s.active i then s
        else if code = 5 then requestStop i ⟨9, (s.site i).nextStart, false, 0⟩ s else haltAt i 9 th 0 s)

end Sys2Proof.Machine
end

