-- ==== Sys2Proof/Machine/Seq.lean ====
section
/-! DEFINITION. The lead tile's control: dispatch of instructions (R178), microwords (R173 to R177), what the end of a
routine does (R151 to R157, R181), pauses and host jumps at instruction boundaries (R164, R168), starving of the control
stream (R127, R128) and the micro-watchdog (R182). -/

namespace Sys2Proof.Machine

/-! ## Pausing (R164, R165) -/

/-- A site pauses at the end of its last driven cycle; a fail-log header falls due (R264). A resume that met the pause is applied
at once (R167). -/
def pauseSite (i : Nat) (s : State) : State :=
  let e := if (s.site i).lastRun = 0 then s.unow else (s.site i).lastRun
  let gen := max (s.site i).runGen (s.site i).stopGen
  s |> modSite i (fun t => { t with
        pausePend := false, resumeThen := none, resumeDue := none, startDue := none, steps := none, stopGen := 0
        log := { t.log with header := some true } })
    |> setSiteState i 4 |> clearCtrl i (ctrlPause + ctrlStep)
    |> wrPair (A.SEQ_STOP_LO i) (A.SEQ_STOP_HI i) (s.coarseOf (e / 1250))
    |> raiseIrq i 2
    |> fireStatus i 2 gen (s.stampAt e)
    |> (fun t => match (s.site i).resumeThen with
        | some n => resumeRequest i n t
        | none => t)

/-- A pause takes effect at the next instruction boundary: a step is complete, or a pause is registered and no host jump is
pending (R164, R165, R167). -/
def State.pauses (s : State) (i : Nat) : Bool :=
  (s.site i).steps = some 0 || ((s.site i).pausePend && !s.jumpPending i)

/-- Every cycle a site has issued has been driven to its end. -/
def State.drained (s : State) (i : Nat) : Bool :=
  (s.site i).queue.isEmpty && (s.site i).align.isEmpty && (s.site i).lastRun ≤ s.unow

/-! ## Starving (R127, R128, R135) -/

/-- Offset of a segment's vector lines within the stream of one tile, and of its control words within the stream. -/
def PatObj.streamOfs (o : PatObj) (seg : Nat) : Nat :=
  (((o.segs.take seg).filter (·.streamed)).map (fun g => g.cycles * g.lineBytes)).sum
def PatObj.ctrlOfs (o : PatObj) (seg : Nat) : Nat :=
  (((o.segs.take seg).filter (·.streamed)).map (fun g => 4 * g.ctrl.length)).sum

/-- The keep-alive cycle of an object: its segment, its line and its timing set (R116, R128). -/
def PatObj.keepCycle (o : PatObj) : QCycle where
  seg := o.keepalive
  line := 0
  tset := (((o.seg o.keepalive).bind (·.ctrl.head?)).map (fun w => bits w 23 18)).getD 0
  pad := true

/-- PL_STARVE takes the first starve or pad of a run (R127, R128). -/
def recordStarve (i num start : Nat) (s : State) : State :=
  if s.flag (A.PL_STARVE i) F.PL_STARVE.UNDERRUN || s.flag (A.PL_STARVE i) F.PL_STARVE.PADDED then s
  else s |> wrPair (A.PL_STARVE_CYC_LO i) (A.PL_STARVE_CYC_HI i) num
         |> wrPair (A.PL_STARVE_STAMP_LO i) (A.PL_STARVE_STAMP_HI i) (s.coarseOf (start / 1250))

/-- A site halts because a cycle could not be supplied: the cycles before it are driven, its pins park at the time it
would have started (R127, R135, R136). The CYC and STAMP words of PL_STARVE are written by a starve only (DESIGN CHOICE, log entry 81). -/
def supplyHalt (i cause start : Nat) (s : State) : State := requestStop i ⟨cause, start, false, 0⟩ s

/-- Under PAD policy a pad cycle is driven before the head of the queue: everything issued later starts one keep-alive period
later (R128). -/
def insertPad (i : Nat) (s : State) : State :=
  match s.runObj i with
  | none => s
  | some o =>
    let k := o.keepCycle
    let p := s.headPeriod i k.tset
    let start := (((s.site i).queue.head?).map (·.start)).getD (s.site i).nextStart
    let num := (((s.site i).queue.head?).map (·.num)).getD (s.site i).nextNum
    s |> recordStarve i num start
      |> wr (A.PL_STARVE i) F.PL_STARVE.PADDED 1
      |> bump (A.PL_STARVE_PAD i) F.PL_STARVE_PAD.VALUE
      |> modSite i (fun t => { t with
          padding := true
          align := t.align ++ [{ k with num := num, start := start, per := p }]
          queue := t.queue.map (fun c => { c with start := c.start + p })
          nextStart := t.nextStart + p })

/-- A pad cycle driven after everything issued, while the lead tile lacks the next control word (R128). -/
def appendPad (i : Nat) (s : State) : State :=
  match s.runObj i with
  | none => s
  | some o =>
    let k := o.keepCycle
    let p := s.issuePeriod i k.tset
    let t := s.site i
    s |> recordStarve i t.nextNum t.nextStart
      |> wr (A.PL_STARVE i) F.PL_STARVE.PADDED 1
      |> bump (A.PL_STARVE_PAD i) F.PL_STARVE_PAD.VALUE
      |> modSite i (fun t => { t with
          queue := t.queue ++ [{ k with num := t.nextNum, start := t.nextStart, per := p }]
          nextStart := t.nextStart + p })

/-- PL_TILE_PF shows a tile's fill, and counts each fall below 16 KiB (R124). -/
def showFill (k : Nat) (fell : Bool) (s : State) : State :=
  let phys := s.rd (A.SEQ_TILE_STATUS k) F.SEQ_TILE_STATUS.PHYS
  let s := wr (A.PL_TILE_PF phys) F.PL_TILE_PF.FILL ((s.tile k).fill / 64) s
  if fell then bump (A.PL_TILE_PF phys) F.PL_TILE_PF.LOW_COUNT s else s

/-- A run whose reservation was granted in full does not starve while the stack is at or below 85 °C and the controller is not
throttled (R126). -/
def State.guaranteed (s : State) (i : Nat) : Bool :=
  !s.flag (A.PL_STARVE i) F.PL_STARVE.OVERSUB && !s.flag A.PL_STATUS F.PL_STATUS.REFRESH_2X
    && !s.flag A.PL_STATUS F.PL_STATUS.THROTTLE && !s.hbmStopped

/-- The bursts that a guaranteed stream still needs have arrived in time, whatever rows have told of them (R126; DEDUCED, log
entry 85): its prefetch buffers and its control queue are full, or hold the whole remaining stream. -/
def rush (i : Nat) (s : State) : State :=
  match s.runObj i with
  | none => s
  | some o => forAll (s.tilesOf i) (fun k s =>
      let t := s.tile k
      let n := min (65536 - t.fill) (o.streamBytes - t.fetched)
      let m := if k = s.lead i then min (8192 - t.ctrlFill) (o.streamCtrl - t.ctrlFetched) else 0
      showFill k false (modTile k (fun t => { t with
        fill := t.fill + n, fetched := t.fetched + n, ctrlFill := t.ctrlFill + m, ctrlFetched := t.ctrlFetched + m,
        burst := t.burst && n = 0, ctrlBurst := t.ctrlBurst && m = 0 }) s)) s

/-- A site starves of the cycle `num` that would start at `start` in a segment: it pads or halts (R127, R128). -/
def starve (i seg num start : Nat) (pad : State → State) (s : State) : State :=
  match s.runObj i with
  | none => s
  | some o =>
    if o.pad && (((o.seg seg).map (·.padTol)).getD false) then pad s
    else s |> recordStarve i num start |> wr (A.PL_STARVE i) F.PL_STARVE.UNDERRUN 1 |> supplyHalt i 6 start

/-! ## Dispatch (R178) -/

/-- The time at which the next instruction is dispatched: 65.0 ns before the next cycle, once the routine has ended. -/
def State.dispatchAt (s : State) (i : Nat) : Nat := max (s.site i).routineEnd ((s.site i).nextStart - 260000)

/-- The host jump that was present at the decision point of the boundary just reached: the dispatch of the instruction whose
span covers the sixteenth cycle before it (R168). -/
def decisionJump : List (Nat × Nat) → Nat → Nat
  | [], _ => 0
  | (n, j) :: l, left => if left ≤ n then j else decisionJump l (left - n)

/-- A jump boundary: a host jump present at its decision point is taken, a later one is deferred (R168). -/
def jumpBoundary (i : Nat) (s : State) : State :=
  if !(s.site i).boundary then s
  else
    let s' := modSite i (fun t => { t with boundary := false }) s
    if !s.jumpPending i then s'
    else if decisionJump (s.site i).hist 16 = (s.site i).jumpId then
      let seg := s.rd (A.SEQ_JUMP i) F.SEQ_JUMP.SEG
      s' |> lapseJump i
         |> modSite i (fun t => { t with
              pos := (seg, 0), fromLoopEnd := false, loops := [], calls := [], jumped := true })
         |> setReg (A.SEQ_PC i) (word (seg * 2 ^ 20))
         |> raiseIrq i 4 |> refreshDepth i
    else raise (A.SEQ_SITE_STATE i) F.SEQ_SITE_STATE.JUMP_DEFERRED s'

/-- The timing shadow bank of a site's tiles as it stands is what its next instruction applies (R209). -/
def captureBanks (i : Nat) (s : State) : State :=
  let tiles := s.tilesOf i
  let bank := s.shadow0.filter (fun p => tiles.any (fun k => inBank k p.1))
  forAll tiles leavePending (modSite i (fun t => { t with banks := t.banks ++ [bank] }) s)

/-- The control words of an instruction of a streamed segment leave the control queue; false where it does not hold them. -/
def takeControl (i : Nat) (p : PInstr) (s : State) : State × Bool :=
  match s.runObj i with
  | none => (s, true)
  | some o =>
    if !(((o.seg p.seg).map (·.streamed)).getD false) then (s, true)
    else
      let need := o.ctrlOfs p.seg + 4 * (p.ofs + 1 + p.ext.length) - (s.site i).usedCtl
      let s := when ((s.tile (s.lead i)).ctrlFill < need && s.guaranteed i) (rush i) s
      if (s.tile (s.lead i)).ctrlFill < need then (s, false)
      else (modSite i (fun t => { t with usedCtl := t.usedCtl + need })
        (modTile (s.lead i) (fun t => { t with ctrlFill := t.ctrlFill - need }) s), true)

/-- The stream byte in error of the control stream lies in an instruction of a streamed segment (R135). -/
def State.ctrlError (s : State) (i : Nat) (p : PInstr) : Bool :=
  match s.runObj i, (s.site i).ueCtl with
  | some o, some b => (((o.seg p.seg).map (·.streamed)).getD false)
      && b < o.ctrlOfs p.seg + 4 * (p.ofs + 1 + p.ext.length)
  | _, _ => false

/-- A position lies before or at another in table order. -/
def posLe (a b : Nat × Nat) : Bool := a.1 < b.1 || (a.1 = b.1 && a.2 ≤ b.2)

/-- A position lies in a match block (R153). -/
def MatchBlock.holds (b : MatchBlock) (p : Nat × Nat) : Bool := posLe (b.seg, b.ofs) p && posLe p b.last

/-- The lead tile starts the routine of an instruction. -/
def startRoutine (i td : Nat) (p : PInstr) (s : State) : State :=
  let r : Routine := {
    opcode := p.op, ctl := p.word, ext := p.ext, seg := p.seg, ofs := p.ofs, line := p.line
    fromLoopEnd := (s.site i).fromLoopEnd, dispatch := td, time := td
    upc := ((s.entry p.op).map (fun e => bits e 28 16)).getD 0
    flag := s.evFlag i
    jump := if s.jumpPending i then (s.site i).jumpId else 0 }
  let opens := p.op = 0x18 && (s.site i).block.isNone
  let last := ((((s.runObj i).map (·.instrs s.decl)).getD []).find? (fun j =>
    j.shape = .matchEnd && posLe (p.seg, p.ofs) (j.seg, j.ofs))).map (fun j => (j.seg, j.ofs))
  let first := (s.site i).nextIter
  s |> modSite i (fun t => { t with
        routine := some r, fromLoopEnd := false, steps := t.steps.map (· - 1)
        block := if opens then
            some ⟨p.operand / 2 ^ 16, (wd p.ext 0).toNat, wd p.ext 1, p.seg, p.ofs, first, first, last.getD (p.seg, p.ofs)⟩
          else t.block })
    |> setReg (A.SEQ_PC i) (word (p.seg * 2 ^ 20 + p.ofs))
    |> (fun s => if s.runs i then setSiteState i (s.kindOf i p.seg) s else s)
    |> when (p.op = 0x03) (captureBanks i)

/-- A tile of a site stands on a die whose link is down. -/
def State.cutOff (s : State) (i : Nat) : Bool := (s.tilesOf i).any (fun k => s.clocks.linksDown.contains (k / 4))

/-- ROUTINE_DISPATCH: at a routine's end the next instruction is dispatched, unless a pause takes effect or a host jump is
taken first (R164, R168, R178, R184). A site with a tile behind a link that is down halts at once (R34; DESIGN CHOICE, log entry
92). -/
def execRoutineDispatch (i : Nat) (parityOk : Bool) (s : State) : Out :=
  .next (
    let t := s.site i
    let waiting := match t.routine with
      | some r => r.pausing
      | none => false
    if !s.formed i || !s.runs i || t.stop.isSome || t.priming then s
    else if s.cutOff i then haltAt i 10 s.unow 0 s
    else if waiting then (if s.drained i then pauseSite i s else s)
    else if t.routine.isSome || (s.unow < s.dispatchAt i && !(s.pauses i && s.drained i)) then s
    else
      let s := jumpBoundary i s
      if s.pauses i then (if s.drained i then pauseSite i s else s)
      else
        let td := s.dispatchAt i
        match s.instrAt i (s.site i).pos with
        | none => s
        | some p =>
          if s.ctrlError i p then supplyHalt i 7 (s.site i).nextStart s
          else if s.mirror && !parityOk then
            machineCheck i 2 p.op (((s.entry p.op).map (fun e => bits e 28 16)).getD 0) td s
          else
            let (s', held) := takeControl i p s
            let padding := (((s.site i).queue.getLast?).map (·.pad)).getD false
            if held && (!padding || s.filled i) then startRoutine i td p s'
            else starve i p.seg (s.site i).nextNum (s.site i).nextStart (appendPad i) s)

/-! ## Microwords -/

/-- The iteration a microword marks its cycles with: the open block's; outside a block FMOP 1 and 2 mark the iteration begun last
(R173, R258). -/
def State.iterMark (s : State) (i : Nat) (w : MW) : Option Nat :=
  match (s.site i).block with
  | some b => some b.iter
  | none => if w.fmop = 1 || w.fmop = 2 then some ((s.site i).nextIter - 1) else none

/-- STATUS of a match is attached to the last cycle issued: it fires at its end (R160); where no cycle is left to be driven it fires
now. -/
def markStatus (i : Nat) (s : State) : State :=
  let t := s.site i
  let mark (l : List QCycle) : List QCycle := l.dropLast ++ (l.getLast?.map (fun c => { c with status := true })).toList
  if !t.queue.isEmpty then modSite i (fun t => { t with queue := mark t.queue }) s
  else if !t.align.isEmpty then modSite i (fun t => { t with align := mark t.align }) s
  else when (nbit (s.rd (A.SEQ_EVT_CFG i) F.SEQ_EVT_CFG.STATUS_SEL) 4)
    (fireAt (16 + i) 0 t.runGen (s.stampAt t.lastRun) (max s.now (t.lastRun / 1250))) s

/-- Issue `n` cycles of a routine (R173 CYOP, R175); the first carries what acts at the first cycle. -/
def issueMany (i : Nat) (w : MW) (first : Bool) : Nat → State → State
  | 0, s => s
  | n + 1, s =>
    match (s.site i).routine with
    | none => s
    | some r =>
      let line := if w.lsel then r.line else r.line + r.lineIdx
      let tset := r.tsetAt w.tsop w.imm r.issued
      let s := issueCycle i {
        seg := r.seg, line := line, tset := tset, iter := s.iterMark i w, mask := w.msk,
        beacon := first && w.beacon, apply := first && w.tsapply } s
      issueMany i w false n (modRoutine i (fun r => { r with
        issued := r.issued + 1, lineIdx := if w.lsel then r.lineIdx else r.lineIdx + 1, repeatLine := line }) s)

/-- FMOP 1: the first issued cycle begins a new match iteration (R173, R258). -/
def beginIteration (i : Nat) (s : State) : State :=
  modSite i (fun t => { t with
    iters := t.iters ++ [{ num := t.nextIter }], nextIter := t.nextIter + 1
    block := t.block.map (fun b => { b with iter := t.nextIter }) }) s

/-- FMOP 3: test operand[17:12] closes at the first issued cycle (R156). -/
def closeTest (i test : Nat) (s : State) : State :=
  modSite i (fun t => { t with
    closes := t.closes ++ [(t.nextNum, test)], marks := t.marks ++ [(t.nextNum, t.nextStart)] }) s

/-- The cycle issue of a microword's first execution. TSAPPLY and the beacon act at the first cycle it issues, FMOP 1 begins an iteration
there, and so does FMOP 2 where none has begun (R173, R177); STATUS_MATCH acts with the execution (R174). An opened repeat keeps the
microword's MSK, TSOP and class (R175, R255). -/
def issueWord (i : Nat) (w : MW) (r : Routine) (s : State) : State :=
  let n := if w.cyop = 1 || w.cyop = 4 then s.routineN r else if w.cyop = 2 then w.imm % 2 ^ 18 else 0
  let opens := w.cyop = 3 || w.cyop = 4
  let closes := w.cyop ≠ 0
  s |> when (closes && r.repeating) (modRoutine i (fun r => { r with repeating := false }))
    |> when (n ≠ 0 && (w.fmop = 1 || (w.fmop = 2 && (s.site i).nextIter = 0))) (beginIteration i)
    |> when (n ≠ 0 && w.fmop = 3) (closeTest i (bits r.ctl 17 12))
    |> when (n ≠ 0 && w.tsapply && !(r.opcode = 0x03)) (captureBanks i)
    |> issueMany i w true n
    |> when w.matched (markStatus i)
    |> when opens (fun s => modRoutine i (fun r => { r with
        repeating := true, firstRepeat := r.issued
        repeatLine := if r.issued = 0 then r.line else r.repeatLine
        repeatTsop := w.tsop, repeatImm := w.imm, repeatMask := w.msk, repeatIter := s.iterMark i w }) s)

/-- The loop-counter operation (R151, R173 LCOP). -/
def loopOp (i : Nat) (w : MW) (r : Routine) (s : State) : State :=
  if w.lcop = 1 && !r.fromLoopEnd then
    modSite i (fun t => { t with
      counters := kset (fun _ => 0) t.counters w.lc (wd r.ext 0).toNat, loops := t.loops ++ [(w.lc, r.seg, r.ofs)] }) s
  else if w.lcop = 2 then
    modSite i (fun t => { t with
      counters := kset (fun _ => 0) t.counters w.lc ((kget (fun _ => 0) t.counters w.lc - 1) % 2 ^ 32) }) s
  else s

/-- The staged write of a microword (R180); its source is sampled before the microword's own issue. -/
def stageWord (i : Nat) (w : MW) (r : Routine) (s : State) : State :=
  if w.sdst = 0 then s
  else
    let v := match w.ssrc with
      | 1 => r.micro
      | 2 => r.issued
      | 3 => s.iterations i
      | 4 => kget (fun _ => 0) (s.site i).counters w.lc
      | _ => w.imm
    modRoutine i (fun r => { r with staged := r.staged ++ [(w.sdst, word v)] }) s

/-- The micro-counter operation (R173 MCOP). -/
def microOp (i : Nat) (w : MW) : State → State :=
  modRoutine i (fun r => { r with
    micro := if w.mcop = 1 then w.imm % 65536 else if w.mcop = 2 then r.micro - 1
      else if w.mcop = 3 then bits r.ctl 15 0 else r.micro })

/-- The machine check a microword raises before it has any effect: STAGE_FULL or MSTACK (R180, R184). -/
def wordCheck (w : MW) (r : Routine) : Option Nat :=
  if r.executed then none
  else if w.sdst ≠ 0 && r.staged.length = 8 then some 4
  else if (w.nac = 3 && r.ustack.length = 4) || (w.nac = 4 && r.ustack.isEmpty) || (w.nac = 5 && !r.ustack.isEmpty)
  then some 6
  else none

/-- What the FLOW field decides (R151, R152, R157, R173). -/
def State.flowDest (s : State) (i : Nat) (r : Routine) (w : MW) (cond : Bool) : Dest :=
  match w.flow with
  | 1 => if cond then .target else .next
  | 2 => if kget (fun _ => 0) (s.site i).counters w.lc = 0 then .loopExit else .loopBack
  | 3 => .call
  | 4 => .ret
  | 5 =>
    if s.matches i r.stamp then .matchExit
    else if s.iterations i < ((s.site i).block.map (·.count)).getD 0 then .matchBack else .matchTimeout
  | _ => .next

/-- Control after a routine's span (R151, R152, R157). A TARGET outside the open match block leaves it (R153). -/
def moveOn (i : Nat) (r : Routine) (s : State) : State :=
  let next := s.after i r
  let go (p : Nat × Nat) : State → State := modSite i (fun t => { t with pos := p })
  let exit := modSite i (fun t => { t with block := none, iters := [] })
  match r.dest with
  | .next => go next s
  | .target => go r.targetPos (when (((s.site i).block.map (fun b => !b.holds r.targetPos)).getD false) exit s)
  | .call => go r.targetPos (modSite i (fun t => { t with calls := t.calls ++ [next] }) s)
  | .ret => modSite i (fun t => { t with pos := t.calls.getLast?.getD next, calls := t.calls.dropLast }) s
  | .loopBack => modSite i (fun t => { t with pos := (t.loops.getLast?.map (·.2)).getD next, fromLoopEnd := true }) s
  | .loopExit => modSite i (fun t => { t with pos := next, loops := t.loops.dropLast }) s
  | .matchBack => modSite i (fun t => { t with pos := (t.block.map (fun b => (b.seg, b.ofs))).getD next }) s
  | .matchExit =>
    s |> setReg (A.SEQ_MATCH i) (word (s.iterations i)) |> exit |> go next |> markStatus i
  | .matchTimeout =>
    s |> setReg (A.SEQ_MATCH i) (word (s.iterations i))
      |> go ((((s.site i).block).map (fun b => (tgtSeg b.target, tgtOfs b.target))).getD next) |> exit
      |> raise (A.SEQ_SITE_STATE i) F.SEQ_SITE_STATE.MATCH_TIMEOUT |> raiseIrq i 3

/-- The end of an instruction's span is a jump boundary: the last control word of a local segment, no loop or call open, not
inside a match block (R168). A CALL pushes after its span. -/
def State.atBoundary (s : State) (i : Nat) (r : Routine) : Bool :=
  match (s.runObj i).bind (·.seg r.seg) with
  | some g => !g.streamed && r.ofs + 1 + r.ext.length = g.ctrl.length && (s.site i).loops.isEmpty
      && (s.site i).block.isNone && ((s.site i).calls.isEmpty || (r.dest = .call && (s.site i).calls.length = 1))
  | none => false

/-- Run control after the span (R173 RUNC): a pause at the boundary, a PATTERN_HALT, the end of the run. An END or HALT at a jump
boundary holds, and a host jump present at its decision point lapses (R168; DESIGN CHOICE, log entry 82). -/
def runControl (i runc : Nat) (s : State) : State :=
  match runc with
  | 1 => modSite i (fun t => { t with steps := some 0 }) s
  | 2 => requestStop i ⟨3, (s.site i).nextStart, true, 0⟩ s
  | 3 => requestStop i ⟨1, (s.site i).nextStart, true, 0⟩ s
  | _ => s

/-- Routine end (NAC END): an open repeat closes, staged writes are applied, control moves on (R175, R180, R181). A wait that
ended by TIMEOUT drives no cycle beyond it. On a halted site the staged writes are discarded. -/
def endRoutine (i : Nat) (timedOut : Bool) (s : State) : State :=
  match (s.site i).routine with
  | none => s
  | some r =>
    if r.halting then modSite i (fun t => { t with routine := none }) s else
    let u := r.time + 265000
    let s := if timedOut then s else topUp i u none (repeatFuel i u s) s
    let issued := (((s.site i).routine).map (·.issued)).getD 0
    let s := moveOn i r (applyStaged i s)
    let b := s.atBoundary i r
    s |> modSite i (fun t => { t with
          routine := none
          routineEnd := if timedOut then t.nextStart - 260000 else r.time + 5000
          hist := ((issued, r.jump) :: t.hist).take 20
          boundary := b })
      |> runControl i r.runc
      |> modSite i (fun t => { t with routine := none })
      |> refreshDepth i

/-- The routine goes on to another microword one microcycle later. -/
def nextWord (i : Nat) (upc : Nat) (ustack : List Nat) (yields : Bool) : State → State :=
  modRoutine i (fun r => { r with
    upc := upc % 8192, ustack := ustack, time := r.time + 5000, executed := false
    sinceYield := if yields then 0 else r.sinceYield + 1 })

/-- NAC after a microword's last execution (R173). -/
def applyNac (i : Nat) (w : MW) (cond timedOut : Bool) (r : Routine) (s : State) : State :=
  match w.nac with
  | 1 => nextWord i w.na r.ustack w.yields s
  | 2 => nextWord i (if cond then w.na else r.upc + 1) r.ustack w.yields s
  | 3 => nextWord i w.na (r.ustack ++ [r.upc + 1]) w.yields s
  | 4 => nextWord i (r.ustack.getLast?.getD 0) r.ustack.dropLast w.yields s
  | 5 => endRoutine i timedOut s
  | _ => nextWord i (r.upc + 1) r.ustack w.yields s

/-- A pause meets a wait with an open repeat at its YIELD (R164, R181): staged writes are applied, and no repetition that
starts later than 50.0 ns from now is driven. -/
def pauseWait (i : Nat) (r : Routine) (s : State) : State :=
  let least := ((s.site i).queue ++ (s.site i).align).length - (r.issued - r.firstRepeat)
  let cut := r.time + 200001
  let q := (s.site i).queue.zipIdx.filter (fun p => p.2 + (s.site i).align.length < least || p.1.start < cut)
  let gone := (s.site i).queue.length - q.length
  let next := (((s.site i).queue[q.length]?).map (·.start)).getD (s.site i).nextStart
  modRoutine i (fun r => { r with pausing := true, issued := r.issued - gone })
    (modSite i (fun t => { t with queue := q.map (·.1), nextStart := next, nextNum := t.nextNum - gone }) (applyStaged i s))

/-- MICROWORD_EXEC: the lead tile executes one microword in a microcycle (R173 to R177, R180 to R184). The routine of a halted site
issues no cycle and ends at its next YIELD or END (R181). -/
def execMicrowordExec (i : Nat) (parityOk : Bool) (s : State) : Out :=
  .next (
    match (s.site i).routine with
    | none => s
    | some r =>
      let w := s.microword r
      if s.unow < r.time || 4096 ≤ r.sinceYield || r.pausing || s.siteState i = 4 then s
      else if !r.halting && ((s.site i).stop.isSome || (s.site i).nextStart < r.time + 250000) then s
      else if (w.flow = 5 || w.cond = 3 || w.cond = 4) && !s.seen i r.stamp then s
      else if s.mirror && !parityOk then machineCheck i 1 r.opcode r.upc r.time s
      else if r.halting && w.yields then modSite i (fun t => { t with routine := none }) s
      else
        match wordCheck w r with
        | some code => machineCheck i code r.opcode r.upc r.time s
        | none =>
          let cap := if w.wto && w.nac = 5 && r.timeout ≠ 0 then some r.timeout else none
          let s := if r.halting then s else topUp i (r.time + 260000) cap (repeatFuel i (r.time + 260000) s) s
          let r := ((s.site i).routine).getD r
          let s := if r.executed then s
            else s |> loopOp i w r |> microOp i w |> stageWord i w r |> when (!r.halting) (issueWord i w r)
                   |> when w.commit (applyStaged i)
          let r' := ((s.site i).routine).getD r
          let live := match w.wait with
            | 1 => s.evFlag i
            | 2 => s.filled i
            | 3 => r.micro = 0
            | _ => true
          let late := w.wait ≠ 0 && !live && w.wto && r'.timeout ≠ 0 && r'.timeout ≤ r'.issued
          if live || late then
            let s := when (w.evclr && (w.wait = 0 || (w.wait = 1 && live))) (setEvFlag i false) s
            let s := when late (raise (A.SEQ_SITE_STATE i) F.SEQ_SITE_STATE.WAIT_TIMEOUT) s
            let c := s.condition i r' w
            let d := s.flowDest i r' w c
            let s := modRoutine i (fun x => { x with
              dest := if w.flow = 0 then x.dest else d, runc := if w.runc = 0 then x.runc else w.runc }) s
            applyNac i w c (late && w.nac = 5) r' s
          else
            let s := modRoutine i (fun x => { x with
              executed := true, time := x.time + 5000
              micro := if w.wait = 3 then x.micro - 1 else x.micro
              sinceYield := if w.yields then 0 else x.sinceYield + 1 }) s
            if w.yields && r'.repeating && s.pauses i then pauseWait i r' s else s)

/-- MICRO_WATCHDOG: 4,096 microcycles without a yield (R182). -/
def execMicroWatchdog (i : Nat) (s : State) : Out :=
  .next (
    match (s.site i).routine with
    | some r => if 4096 ≤ r.sinceYield && r.time ≤ s.unow then machineCheck i 3 r.opcode r.upc r.time s else s
    | none => s)

end Sys2Proof.Machine
end

