-- ==== Sys2Proof/Machine/Cycles.lean ====
section
/-! DEFINITION. Cycles on their way to the pins: refills of the stream (R124, R134, R135), the read of a cycle's state codes
(R24, R127, R128, R136, R176), the take by the timing generators (R199) and the end of a run at the pins (R205, R243). -/

namespace Sys2Proof.Machine

/-! ## Refills (R124, R134, R135) -/

/-- A tile's buffer asks for its next burst where it has room and the stream goes on: 2 KiB of vector lines, or 512 bytes of
control words in a lead tile (R124). -/
def execRefillRequest (k : Nat) (ctrl : Bool) (s : State) : Out :=
  .next (
    match (s.siteOfTile k).bind (fun i => if s.reserved i then s.runObj i else none) with
    | none => s
    | some o =>
      let t := s.tile k
      if ctrl then
        if !t.ctrlBurst && t.ctrlFill + 512 ≤ 8192 && t.ctrlFetched < o.streamCtrl
            && s.flag (A.SEQ_TILE_STATUS k) F.SEQ_TILE_STATUS.LEAD then
          modTile k (fun t => { t with ctrlBurst := true }) s
        else s
      else if !t.burst && t.fill + 2048 ≤ 65536 && t.fetched < o.streamBytes then
        modTile k (fun t => { t with burst := true }) s
      else s)

/-- The words of a burst in error: `err` 1 tells that a word was corrected, 2 that the word at byte `ofs` of the burst, in the 64-byte
unit `addr` of HBM, is in error; `mark` marks the stream byte (R135). -/
def burstError (err addr : Nat) (mark : State → State) (s : State) : State :=
  if err = 2 then hbmError addr (mark s) else when (err = 1) (hbmCorrected 1) s

/-- A refill burst arrives in a tile of site `i`. -/
def arrive (i k : Nat) (o : PatObj) (ctrl : Bool) (err ofs addr : Nat) (s : State) : State :=
  let t := s.tile k
  if ctrl then
    let n := min 512 (o.streamCtrl - t.ctrlFetched)
    burstError err addr (modSite i (fun x => { x with ueCtl := some (min (x.ueCtl.getD (2 ^ 64)) (t.ctrlFetched + ofs)) }))
      (modTile k (fun t => { t with ctrlBurst := false, ctrlFill := t.ctrlFill + n, ctrlFetched := t.ctrlFetched + n }) s)
  else
    let n := min 2048 (o.streamBytes - t.fetched)
    burstError err addr (modSite i (fun x => { x with ueAt := some (min (x.ueAt.getD (2 ^ 64)) (t.fetched + ofs)) }))
      (showFill k false (modTile k (fun t => { t with burst := false, fill := t.fill + n, fetched := t.fetched + n }) s))

/-- A refill burst arrives: that of the refill whose turn it is at the HBM3 controller, while no request of a level before waits
(R134, R135). -/
def execRefillComplete (k : Nat) (ctrl : Bool) (err ofs addr : Nat) (s : State) : Out :=
  .next (
    match (s.siteOfTile k).bind (fun i => (s.runObj i).map (fun o => (i, o))), s.refillLevel k ctrl with
    | some (i, o), some level =>
      let x := 2 * k + b2n ctrl
      if s.hbmWaits level || s.hbmNext level ((s.refills.filter (·.1 = level)).map (·.2)) ≠ some x then s
      else serveReads (arrive i k o ctrl err ofs addr (served level x s))
    | _, _ => s)

/-! ## Reading (R24, R127, R128, R136, R176) -/

/-- The head of the cycle queue goes to the alignment queues. -/
def readHead (i : Nat) (s : State) : State :=
  modSite i (fun t => { t with align := t.align ++ (t.queue.head?).toList, queue := t.queue.drop 1, padding := false }) s

/-- Bytes leave the prefetch buffer of every tile of a site. -/
def consume (i n : Nat) (s : State) : State :=
  forAll (s.tilesOf i) (fun k s =>
    let fell := 16384 ≤ (s.tile k).fill && (s.tile k).fill < 16384 + n
    showFill k (fell && n ≠ 0) (modTile k (fun t => { t with fill := t.fill - n }) s))
    (modSite i (fun t => { t with used := t.used + n }) s)

/-- A read of local vector memory meets an error in a tile: corrected, or uncorrectable (R136). -/
def localError (i k seg : Nat) (bad : Bool) (start : Nat) (s : State) : State :=
  if bad then
    s |> bump A.PL_LM_ECC F.PL_LM_ECC.UE |> report (uTile k) 0x07 keyUnit
      |> modObj (s.reg (A.SEQ_HANDLE i)).toNat (fun o => { o with
          segs := o.segs.zipIdx.map (fun p => if p.2 = seg then { p.1 with damaged := true } else p.1) })
      |> supplyHalt i 8 start
  else readHead i (bump A.PL_LM_ECC F.PL_LM_ECC.CE s)

/-- CYCLE_READ: the tiles of a site read the state codes of the next cycle 62.5 ns before it starts. `lm` is an error of
local memory met in the read: the tile and whether it is uncorrectable. -/
def execCycleRead (i : Nat) (lm : Option (Nat × Bool)) (s : State) : Out :=
  .next (
    let t := s.site i
    match t.queue with
    | [] =>
      match t.routine with
      | some r =>
        if !r.halting && !r.pausing && t.stop.isNone && t.nextStart ≤ s.unow + 250000 && t.nextStart < r.time + 250000
            && s.siteState i ≠ 4 then
          machineCheck i 5 r.opcode r.upc (t.nextStart - 250000) s
        else s
      | none => s
    | c :: _ =>
      if s.unow + 250000 < c.start then s
      else if c.pad then readHead i s
      else
        match (s.runObj i).bind (fun o => (o.seg c.seg).map (fun g => (o, g))) with
        | none => readHead i s
        | some (o, g) =>
          if g.streamed then
            let last := o.streamOfs c.seg + (c.line + 1) * g.lineBytes
            let need := last - t.used
            if t.padding && !s.filled i then insertPad i s
            else if (t.ueAt.map (fun b => decide (b < last))).getD false then supplyHalt i 7 c.start s
            else
              let short (s : State) : Bool := (s.tilesOf i).any (fun k => (s.tile k).fill < need)
              let s := when (short s && s.guaranteed i) (rush i) s
              if short s then starve i c.seg c.num c.start (insertPad i) s else readHead i (consume i need s)
          else
            match lm with
            | some (k, bad) => localError i k c.seg bad c.start s
            | none => readHead i s)

/-! ## Test closes and finished cycles -/

/-- Tests whose earlier cycles have all been counted close: SEQ_TESTS, SEQ_RESULT, and the accumulator (R156). -/
def settleCloses (i : Nat) : Nat → State → State
  | 0, s => s
  | fuel + 1, s =>
    let t := s.site i
    match t.closes with
    | [] => s
    | (c, test) :: rest =>
      let out := (t.taken.filter (!·.cmps.isEmpty)).map (·.cyc) ++ t.align ++ t.queue
      if out.any (fun q => !q.pad && q.num < c) || t.nextNum < c then s
      else
        let prev := ((t.marks.filter (·.1 < c)).getLast?.map (·.1)).getD 0
        let bad := t.fails.any (fun f => prev ≤ f.1 && f.1 < c)
        let set (lo hi : Nat) (s : State) : State := wrPair lo hi (s.pair lo hi ||| 2 ^ test) s
        settleCloses i fuel (
          s |> set (A.SEQ_TESTS_LO i) (A.SEQ_TESTS_HI i)
            |> when bad (set (A.SEQ_RESULT_LO i) (A.SEQ_RESULT_HI i))
            |> modSite i (fun t => { t with
                closes := rest, fails := t.fails.filter (fun f => prev ≤ f.1), marks := t.marks.filter (fun m => prev ≤ m.1) }))

/-! ## Records (R259 to R266) -/

/-- A fail record of a tile's cycle (R259, R260): TYPE, marks, stamp edge and bits. -/
def State.failRecord (s : State) (i : Nat) (c : QCycle) (tile type ts fails : Nat) (missed fault : Bool) : List Word :=
  let st := s.stampAt ts
  let phys := s.rd (A.SEQ_TILE_STATUS tile) F.SEQ_TILE_STATUS.PHYS
  let spares := bitsOf ((List.range 8).filter (fun p => s.flag (A.LE_STATUS (8 * tile + p)) F.LE_STATUS.SPARE))
  let warming := fget (s.regAt A.GN_STATUS ts) F.GN_STATUS.WARMING
  [word (type * 2 ^ 28 + b2n missed * 2 ^ 26 + b2n fault * 2 ^ 25 + warming * 2 ^ 24 + i * 2 ^ 20 + tile * 2 ^ 16
      + phys * 2 ^ 11 + spares),
   word c.num, word (c.num / 2 ^ 32), word st.coarse, word (st.coarse / 2 ^ 32),
   word (2 ^ 16 + st.frac), word fails, word (c.tset * 2 ^ 26 + c.seg % 4096 * 2 ^ 14)]

/-- A record enters its tile's first-fail store (R261). -/
def storeRecord (tile : Nat) (r : List Word) (s : State) : State :=
  let n := (s.tile tile).store.length
  if n < 65536 then
    s |> modTile tile (fun t => { t with store := t.store ++ [r] })
      |> wr (A.FF_STATUS tile) F.FF_STATUS.COUNT (n + 1)
      |> when (n + 1 = 65536) (wr (A.FF_STATUS tile) F.FF_STATUS.FULL 1)
  else bump (A.FF_OVER tile) F.FF_OVER.COUNT s

/-- Change a site's fail-log state. -/
def modLog (i : Nat) (f : LogState → LogState) (s : State) : State := modSite i (fun t => { t with log := f t.log }) s

/-- A record waits to be written to the fail log; a site without one writes none (R266). -/
def queueRecord (i : Nat) (r : List Word) (s : State) : State :=
  if (s.failLog i).isSome then modLog i (fun l => { l with queue := l.queue ++ [r] }) s else s

/-- The cycle number of a record and the cycles it covers. -/
def recCycle (r : List Word) : Nat := (wd r 1).toNat + 2 ^ 32 * (wd r 2).toNat
def recRepeat (r : List Word) : Nat := bits (wd r 5) 31 16

/-- A record continues an RLE run: the next cycle, the same TYPE, MISSED, FAULT, FAILS and TSET (R263). -/
def continuesRun (run r : List Word) : Bool :=
  recCycle r = recCycle run + recRepeat run && recRepeat run < 65535
    && bits (wd run 0) 31 25 = bits (wd r 0) 31 25 && wd run 6 = wd r 6 && bits (wd run 7) 31 26 = bits (wd r 7) 31 26

/-- A tile's run ends: its FAIL and then its CAPTURE record wait to be written. -/
def flushRun (i k : Nat) (s : State) : State :=
  match (s.site i).log.runs.find? (·.1 = k) with
  | some r => forAll r.2 (queueRecord i) (modLog i (fun l => { l with runs := kdel l.runs k }) s)
  | none => s

/-- A cycle's records meet the tile's RLE run: where each continues its own, the run grows; a cycle that differs in either ends the
run and begins the next (R263; DEDUCED, log entry 87). -/
def runRecords (i k : Nat) (rs : List (List Word)) (s : State) : State :=
  let grow (q : List Word) : List Word := q.set 5 (wd q 5 + word (2 ^ 16))
  match (s.site i).log.runs.find? (·.1 = k) with
  | some q =>
    if q.2.length = rs.length && (q.2.zip rs).all (fun p => continuesRun p.1 p.2) then
      modLog i (fun l => { l with runs := kins l.runs k (q.2.map grow) }) s
    else
      let s := flushRun i k s
      if rs.isEmpty then s else modLog i (fun l => { l with runs := kins l.runs k rs }) s
  | none => if rs.isEmpty then s else modLog i (fun l => { l with runs := kins l.runs k rs }) s

/-- A tile's finished cycle gives its records, FAIL before CAPTURE, to the store and to the log under FL_MODE (R260, R263). -/
def tileRecords (i : Nat) (c : QCycle) (r : TileRes) (s : State) : State :=
  let fail := r.failTs.map (fun ts => s.failRecord i c r.tile 1 ts r.fails r.missedF r.fault)
  let first := r.firstTs.map (fun ts => s.failRecord i c r.tile 1 ts r.firsts r.missed1 r.fault1)
  let cap := r.capTs.map (fun ts => s.failRecord i c r.tile 2 ts r.caps r.missedC false)
  let s := forAll (fail.toList ++ cap.toList) (storeRecord r.tile) s
  match s.rd (A.FAIL_CFG i) F.FAIL_CFG.FL_MODE with
  | 1 => runRecords i r.tile (fail.toList ++ cap.toList) s
  | 2 => forAll (first.toList ++ cap.toList) (queueRecord i) s
  | _ => forAll (fail.toList ++ cap.toList) (queueRecord i) s

/-- The records of a driven cycle can be made: its compares are in, and 35.0 ns have passed since the stamp edge of each record
(R27, R261, R263). -/
def Taken.ripe (t : Taken) (u : Nat) : Bool :=
  t.cmps.isEmpty && t.tiles.all (fun r => (r.failTs.toList ++ r.capTs.toList).all (fun ts => ts + 140000 ≤ u))

/-- Driven cycles leave in cycle order as their records are made. -/
def popTaken (i : Nat) : Nat → State → State
  | 0, s => s
  | fuel + 1, s =>
    match (s.site i).taken with
    | t :: rest =>
      if t.ripe s.unow then
        popTaken i fuel (forAll (if t.cyc.pad then [] else t.tiles) (tileRecords i t.cyc)
          (modSite i (fun x => { x with taken := rest }) s))
      else s
    | [] => s

/-- Finished cycles leave and tests close. -/
def settleTaken (i : Nat) (s : State) : State :=
  let s := popTaken i (s.site i).taken.length s
  settleCloses i (s.site i).closes.length s

/-- A FAB cycle begins: the records that have fallen due are made. -/
def settleRecords (s : State) : State := forAll (s.sites.map (·.1)) settleTaken s

/-! ## Taking (R198, R199, R209) -/

/-- The first captured bank becomes the live copy of the site's timing banks (R209). -/
def applyBank (i : Nat) (s : State) : State :=
  match (s.site i).banks with
  | [] => s
  | b :: rest =>
    let tiles := s.tilesOf i
    let kept := s.regs.filter (fun p => !tiles.any (fun k => inBank k p.1))
    modSite i (fun t => { t with banks := rest }) { s with regs := b.foldl (fun m p => kins m p.1 p.2) kept }

/-- The mask set a cycle carries, in a tile (R255). -/
def State.maskOf (s : State) (k : Nat) (c : QCycle) : Nat :=
  if c.mask = 0 then 0 else s.rd (A.LE_MASKSET k c.mask) F.LE_MASKSET.PINS

/-- Events attached to a cycle: its beacon at its start, STATUS of a match at its end (R160, R177). -/
def fireCycle (i : Nat) (c : QCycle) (s : State) : State :=
  let gen := (s.site i).runGen
  let e := c.start + c.per
  s |> when (c.beacon && !c.pad) (fireAt i 0 gen (s.stampAt c.start) (c.start / 1250))
    |> when (c.status && nbit (s.rd (A.SEQ_EVT_CFG i) F.SEQ_EVT_CFG.STATUS_SEL) 4)
        (fireAt (16 + i) 0 gen (s.stampAt e) (e / 1250))

/-- CYCLE_TAKE: the timing generators take the next cycle 5.0 ns before it starts and compute its edges (R27, R199). -/
def execCycleTake (i : Nat) (s : State) : Out :=
  .next (
    match (s.site i).align with
    | [] => s
    | c :: rest =>
      if s.unow + 20000 < c.start then s
      else
        let s := modSite i (fun t => { t with align := rest, lastRun := c.start + c.per }) s
        let s := settleSite c.start i s
        let s := when c.apply (applyBank i) s
        let s := forAll (s.pinsOf i) (takePin i c) s
        let s := if c.pad then s
          else wrPair (A.SEQ_CYCLE_LO i) (A.SEQ_CYCLE_HI i) (c.num + 1) s
        let s := when (c.num = 0 && !c.pad)
          (wrPair (A.SEQ_START_LO i) (A.SEQ_START_HI i) (s.coarseOf (c.start / 1250))) s
        let t : Taken := {
          cyc := c, cmps := s.cycleCmps i c, tiles := (s.tilesOf i).map (fun k => { tile := k, mask := s.maskOf k c }) }
        settleTaken i (modSite i (fun x => { x with taken := x.taken ++ [t] }) (fireCycle i c s)))

/-! ## The end of a run at the pins (R166, R205, R243) -/

/-- A pin goes to its park state (R243). -/
def parkPin (n : Nat) (s : State) : State :=
  if [0, 1, 4].contains (s.mode n) then
    let park := if s.flag (A.PIN_STATUS n) F.PIN_STATUS.DRV_CONN then s.rd (A.PIN_DRV n) F.PIN_DRV.PARK else 0
    s |> modPin n (fun p => { p with en := park ≠ 0, level := if park = 0 then p.level else park - 1 })
      |> wr (A.PIN_STATUS n) F.PIN_STATUS.PARKED 1 |> refreshDrv n
  else s

/-- Edges that R205 discards at a halt: drive and enable edges at or after the moment. -/
def dropEdges (t n : Nat) (s : State) : State :=
  modPin n (fun p => { p with edges := p.edges.filter (fun e => e.time < t || (match e.act with
    | .compare _ => true
    | _ => false)) }) s

/-- The run ends or halts: the site's state, its registers, its interrupt and STATUS (R160, R166, R168). Banks that a TSET_APPLY
instruction has applied at its dispatch are live although its first cycle is not driven (R209); a routine runs on to its YIELD or
END (R181). -/
def finishRun (i : Nat) (st : Stop) (s : State) : State :=
  let t := s.site i
  let s := forAll t.banks (fun _ => applyBank i) s
  let ended := st.cause = 1
  let gen := max t.runGen st.gen
  s |> modSite i (fun t => { t with
        stop := none, queue := [], align := [], pausePend := false, resumeThen := none, steps := none, resumeDue := none
        startDue := none, priming := false, padding := false, banks := [], stopGen := 0
        log := { t.log with header := some false } })
    |> setSiteState i (if ended then 0 else 5) |> clearCtrl i (ctrlPause + ctrlResume + ctrlHalt + ctrlStep)
    |> wr (A.SEQ_SITE_STATE i) F.SEQ_SITE_STATE.CAUSE st.cause
    |> when (!st.valid) (wr (A.SEQ_SITE_STATE i) F.SEQ_SITE_STATE.VALID 0)
    |> wr (A.SEQ_SITE_STATE i) F.SEQ_SITE_STATE.ARMED 0
    |> when (t.lastRun ≠ 0) (wrPair (A.SEQ_STOP_LO i) (A.SEQ_STOP_HI i) (s.coarseOf (t.lastRun / 1250)))
    |> lapseJump i |> releaseSite i
    |> raiseIrq i (if ended then 0 else 1)
    |> fireStatus i (if ended then 0 else 1) gen (s.stampAt t.lastRun)

/-- SITE_PARK: a stop that has been reached ends the run. On a halt the pins park at once; on END they park once the last
edge of every driven cycle has been generated (R205, R243). -/
def execSitePark (i : Nat) (s : State) : Out :=
  .next (
    let t := s.site i
    match t.stop with
    | some st =>
      if s.unow < st.at_ || !t.queue.isEmpty || !t.align.isEmpty then s
      else if st.cause = 1 then
        modSite i (fun t => { t with parkDue := some st.at_ }) (finishRun i st s)
      else
        finishRun i st (forAll (s.pinsOf i) (fun n s => parkPin n (dropEdges st.at_ n s)) (settleSite (st.at_ - 1) i s))
    | none =>
      if t.parkDue.isSome && (s.pinsOf i).all (fun n => (s.pin n).edges.all (fun e => e.time ≤ s.unow)) then
        modSite i (fun t => { t with parkDue := none }) (forAll (s.pinsOf i) parkPin (settleSite s.unow i s))
      else s)

end Sys2Proof.Machine
end

