-- ==== Sys2Proof/Machine/Compare.lean ====
section
/-! DEFINITION. Compare outcomes at the lane engines (R246 to R258, R268), the fail log (R263 to R266) and the commands of
fail capture (R254, R255, R262, R267, R270). -/

namespace Sys2Proof.Machine

/-! ## Outcomes -/

/-- The expectation fails against one pair of comparisons (R248). -/
def expFails (cmp : Nat) (above below : Bool) : Bool :=
  match cmp with
  | 1 => !below
  | 2 => !above
  | 3 => above || below
  | 4 => !(above || below)
  | _ => false

/-- The voltage of a level code in a mode, in microvolts (R237). -/
def codeMicro (mode code : Nat) : Int :=
  if mode = 0 then ((code : Int) - 12000) * 125 else ((code : Int) - 15000) * 800

/-- The comparator of a pin at a moment: above the VCH and below the VCL threshold that is live then (R246, R250). -/
def State.comparisons (s : State) (n : Nat) (m : Nat × Int) : Bool × Bool :=
  let th (i : Nat) : Int := codeMicro (s.mode n) (fget (s.regAt (A.PIN_LEVEL n i) m.1) F.PIN_LEVEL.CODE)
  (decide (th 3 < m.2), decide (m.2 < th 4))

/-- The comparisons of a compare that is decided at `ts`: a strobe's, or those of the moments of its window (R249, R250; DESIGN CHOICE,
log entry 86, for a ball without a sample). -/
def State.seenOf (s : State) (l : List Sample) (c : Cmp) (ts : Nat) : List (Bool × Bool) :=
  let seen := ((l.find? (fun x => x.pin = c.pin && x.obit = c.obit)).map (·.seen)).getD []
  let ms := if c.window then seen.filter (fun m => c.open_ ≤ m.1 && m.1 ≤ ts) else seen.head?.toList.map (fun m => (ts, m.2))
  (if ms.isEmpty then [(ts, 0)] else ms).map (s.comparisons c.pin)

/-- A compare has a missing edge (R252). -/
def State.cmpMissed (s : State) (cyc : Nat) (c : Cmp) : Bool :=
  let m := (s.pin c.pin).missed
  if c.window then m.contains (cyc, 4) || m.contains (cyc, 5) else m.contains (cyc, c.edge)

/-- The time that orders a compare: the cut of its window where one cut it, and no edge of it is missing (R250, R251). -/
def State.cmpTime (s : State) (cyc : Nat) (c : Cmp) : Nat :=
  if c.window && !s.cmpMissed cyc c then (((s.pin c.pin).cuts.find? (·.1 = cyc)).map (·.2)).getD c.ts else c.ts

/-- A compare is masked: by MASK as it held for an outcome that reaches the lane engine 25.0 ns after its edge, by its mask set, or by
the pin's retirement (R27, R254). -/
def State.masked (s : State) (t : Taken) (c : Cmp) (ts : Nat) : Bool :=
  fget (s.regAt (A.CMP_CFG c.pin) (ts + 100000)) F.CMP_CFG.MASK ≠ 0 || s.retired c.pin
    || t.tiles.any (fun r => r.tile = c.pin / 16 && nbit r.mask (c.pin % 16))

/-- Change what a tile has given in a cycle. -/
def modRes (i cyc tile : Nat) (f : TileRes → TileRes) (s : State) : State :=
  modSite i (fun x => { x with taken := x.taken.map (fun t =>
    if t.cyc.start = cyc then { t with tiles := t.tiles.map (fun r => if r.tile = tile then f r else r) } else t) }) s

/-- The earlier of a time and one that may be there. -/
def minTs (o : Option Nat) (t : Nat) : Option Nat := some (min (o.getD t) t)

/-- An unmasked ordinary compare fails (R256, R257, R260). -/
def countFail (i : Nat) (c : QCycle) (m : Cmp) (ts : Nat) (missed fault : Bool) (s : State) : State :=
  let n := m.pin
  let held := s.pair (A.CMP_FIRST_LO n) (A.CMP_FIRST_HI n)
  let own := !s.flag (A.CMP_STAT n) F.CMP_STAT.FIRST_VALID || c.num < held
  let here := own || held = c.num
  let first := (s.site i).first.isNone
  let b := 2 ^ (2 * (n % 16) + m.obit)
  let gen := (s.site i).runGen
  s |> wr (A.SEQ_SITE_STATE i) F.SEQ_SITE_STATE.FAILED 1
    |> bump (A.CMP_FAILCNT n) F.CMP_FAILCNT.COUNT
    |> wr (A.FAIL_PINS (n / 16)) F.FAIL_PINS.PINS (s.rd (A.FAIL_PINS (n / 16)) F.FAIL_PINS.PINS ||| 2 ^ (n % 16))
    |> when missed (wr (A.CMP_STAT n) F.CMP_STAT.MISSED 1)
    |> when own (fun s => s |> wr (A.CMP_STAT n) F.CMP_STAT.FIRST_VALID 1 |> wr (A.CMP_STAT n) F.CMP_STAT.FIRST_C1 m.obit
        |> wrPair (A.CMP_FIRST_LO n) (A.CMP_FIRST_HI n) c.num)
    |> modRes i c.start (n / 16) (fun r => { r with
        fails := r.fails ||| b, failTs := minTs r.failTs ts, missedF := r.missedF || missed, fault := r.fault || fault
        firsts := if here then r.firsts ||| b else r.firsts, firstTs := if here then minTs r.firstTs ts else r.firstTs
        missed1 := r.missed1 || (here && missed), fault1 := r.fault1 || (here && fault) })
    |> modSite i (fun x => { x with
        fails := x.fails ++ [(c.num, ts)], first := if first then some (ts, n, m.obit) else x.first })
    |> when first (fun s => s |> fireStatus i 3 gen (s.stampAt ts)
        |> when (s.flag (A.SEQ_SITE_STATE i) F.SEQ_SITE_STATE.STOP_ON_FAIL && s.active i) (haltAt i 5 (ts + 130000) 0))

/-- An unmasked match compare's outcome enters its iteration; one that fails by a missing edge is marked (R252, R258). -/
def countMatch (i it n ts : Nat) (fails missed : Bool) (s : State) : State :=
  s |> modSite i (fun x => { x with iters := x.iters.map (fun r =>
        if r.num = it then { r with lastEdge := max r.lastEdge ts, failed := r.failed || fails } else r) })
    |> when missed (wr (A.CMP_STAT n) F.CMP_STAT.MISSED 1)

/-- A capture edge of an ordinary cycle gives its bit (R253, R260). -/
def countCapture (i : Nat) (c : QCycle) (m : Cmp) (ts : Nat) (missed one : Bool) (s : State) : State :=
  s |> modRes i c.start (m.pin / 16) (fun r => { r with
        caps := if one then r.caps ||| 2 ^ (2 * (m.pin % 16) + m.obit) else r.caps
        capTs := minTs r.capTs ts, missedC := r.missedC || missed })

/-- An unmasked compare, no capture of an ordinary cycle, has failed or passed. A failing one counts (R256, R258); a passing one is
kept, for a parity failure can still make it fail (R268). -/
def verdict (i : Nat) (c : QCycle) (m : Cmp) (ts : Nat) (fails missed fault : Bool) (s : State) : State :=
  let s := match c.iter with
    | some it => countMatch i it m.pin ts fails (fails && missed) s
    | none => when fails (countFail i c m ts missed fault) s
  when (!fails && m.exp ≠ 5) (modSite i (fun x => { x with taken := x.taken.map (fun u =>
    if u.cyc.start = c.start then { u with passed := u.passed ++ [(m, ts)] } else u) })) s

/-- One compare's outcome is masked, counted and combined. -/
def takeOutcome (i : Nat) (l : List Sample) (cyc : Nat) (m : Cmp) (s : State) : State :=
  match (s.site i).taken.find? (fun t => t.cyc.start = cyc) with
  | none => s
  | some t =>
    let c := t.cyc
    let ts := s.cmpTime c.start m
    let missed := s.cmpMissed c.start m
    let fault := t.faulty.contains (m.pin / 2)
    let seen := s.seenOf l m ts
    let fails := m.exp ≠ 5 && (missed || fault || seen.any (fun x => expFails m.exp x.1 x.2))
    let s := if s.masked t m ts then s
      else if m.exp = 5 && c.iter.isNone then
        let one := if fget (s.reg (A.CMP_CFG m.pin)) F.CMP_CFG.CAPT_REF ≠ 0 then seen.any (fun x => !x.2) else seen.any (·.1)
        countCapture i c m ts missed (one && !missed) s
      else verdict i c m ts fails missed fault s
    s |> modPin m.pin (fun p => { p with
          missed := p.missed.filter (fun x => x ≠ (c.start, m.edge) && !(m.window && x.1 = c.start))
          cuts := p.cuts.filter (fun x => !(m.window && x.1 = c.start)) })
      |> modSite i (fun x => { x with taken := x.taken.map (fun u =>
          if u.cyc.start = c.start then { u with cmps := u.cmps.erase m } else u) })

/-- The failing bits of a lane engine's pair, in a record of its tile. -/
def pairBits (j : Nat) : Nat := 15 * 16 ^ (j % 8)

/-- A lane engine meets a parity failure in a cycle of a site (R268): it shows FAULT and reports; its compares of the cycle that have
passed fail after all, those that have failed are marked, and those still out will fail. -/
def laneFault (i j num : Nat) (s : State) : State :=
  let s := report (uLane j) 0x08 keyUnit (raise (A.LE_STATUS j) F.LE_STATUS.FAULT s)
  match (s.site i).taken.find? (fun t => t.cyc.num = num && !t.cyc.pad) with
  | none => s
  | some t =>
    let mine (p : Cmp × Nat) : Bool := p.1.pin / 2 = j
    s |> modSite i (fun x => { x with taken := x.taken.map (fun u =>
          if u.cyc.start = t.cyc.start then
            { u with faulty := u.faulty ++ [j], passed := u.passed.filter (fun p => !mine p) } else u) })
      |> modRes i t.cyc.start (j / 8) (fun r => { r with
          fault := r.fault || r.fails &&& pairBits j ≠ 0, fault1 := r.fault1 || r.firsts &&& pairBits j ≠ 0 })
      |> forAll (t.passed.filter mine) (fun p => verdict i t.cyc p.1 p.2 true false true)

/-- The least of a list of numbers. -/
def leastOf (l : List Nat) : Option Nat := l.foldl (fun a x => minTs a x) none

/-- The outcomes of a site's earliest compare edges that are due at `limit`, in order of pin and then of outcome bit (R257). -/
def takeGroup (i limit : Nat) (l : List Sample) (s : State) : State :=
  let all := (s.site i).taken.flatMap (fun u => u.cmps.map (fun m => (u.cyc.start, m)))
  match leastOf (all.map (fun p => s.cmpTime p.1 p.2)) with
  | none => s
  | some ts =>
    if limit < ts then s
    else
      let group := all.filter (fun p => s.cmpTime p.1 p.2 = ts)
      let order := (List.range 256).flatMap (fun n => (List.range 2).flatMap (fun b =>
        group.filter (fun p => p.2.pin = n && p.2.obit = b)))
      forAll order (fun p => takeOutcome i l p.1 p.2) s

/-- COMPARE_OUTCOME: the outcomes of a site's earliest compare edges that are due, 30.0 ns after them, meet the lane engines
(R27, R256 to R258). `faults` are the parity failures they meet, each a lane engine and the number of the affected cycle (R268). -/
def execCompareOutcome (i : Nat) (l : List Sample) (faults : List (Nat × Nat)) (s : State) : Out :=
  .next (
    let later := leastOf (((s.site i).align ++ (s.site i).queue).map (·.start))
    let limit := min (s.unow - 120000) ((later.map (· - 1)).getD s.unow)
    settleSite limit i s
    |> forAll (faults.filter (·.1 < 128)) (fun f => laneFault i f.1 f.2)
    |> takeGroup i limit l
    |> settleTaken i)

/-! ## The fail log (R264 to R266) -/

/-- Slots of a fail log (R263). -/
def Buffer.slots (b : Buffer) : Nat := (b.kib * 1024 - 32) / 32

/-- Bring a log's write credit up to date: RATE bytes a microsecond, up to 65,536; kept in units of 1/3,200 byte (R265). -/
def growCredit (i rate : Nat) (s : State) : State :=
  modLog i (fun l => { l with
    credit := min (65536 * 3200) (l.credit + rate * (s.now - l.creditAt)), creditAt := s.now }) s

/-- No free slot remains in a log of so many slots (R266). -/
def State.logFull (s : State) (i slots : Nat) : Bool :=
  slots ≤ s.rd (A.FAIL_STAT i) F.FAIL_STAT.NEXT || s.flag (A.FAIL_STAT i) F.FAIL_STAT.WRAPPED
    || (s.rd (A.FAIL_STAT i) F.FAIL_STAT.NEXT = 0 && s.reg (A.FAIL_WRITTEN i) ≠ 0)

/-- A record goes to the next slot (R264, R266). Under WRAP the slot after the last is slot 0. -/
def writeSlot (i h slots : Nat) (r : List Word) (s : State) : State :=
  let k := s.rd (A.FAIL_STAT i) F.FAIL_STAT.NEXT
  let next := if k + 1 = slots && s.flag (A.FAIL_CFG i) F.FAIL_CFG.FULL_POLICY then 0 else k + 1
  s |> modBuf h (fun b => b.write (8 + 8 * k) r)
    |> when (s.logFull i slots) (wr (A.FAIL_STAT i) F.FAIL_STAT.WRAPPED 1)
    |> wr (A.FAIL_STAT i) F.FAIL_STAT.NEXT next |> bump (A.FAIL_WRITTEN i) F.FAIL_WRITTEN.COUNT

/-- The GAP record of a site's pending loss: first cycle, coarse stamp, number of records lost (R260). -/
def gapRecord (i : Nat) (g : Nat × Nat × Nat) : List Word :=
  [word (3 * 2 ^ 28 + i * 2 ^ 20), word g.1, word (g.1 / 2 ^ 32), word g.2.1, word (g.2.1 / 2 ^ 32), 0, word g.2.2, 0]

/-- Spend write credit. -/
def spend (i n : Nat) (s : State) : State := modLog i (fun l => { l with credit := l.credit - 3200 * n }) s

/-- The pending GAP record is written; as every record it costs 32 bytes of credit (R265). -/
def writeGap (i h slots : Nat) (s : State) : State :=
  match (s.site i).log.gap with
  | some g => s |> writeSlot i h slots (gapRecord i g) |> spend i 32 |> modLog i (fun l => { l with gap := none })
      |> wr (A.FAIL_STAT i) F.FAIL_STAT.GAP_PENDING 0
  | none => s

/-- A record is lost for want of credit: a GAP covers it (R265). -/
def loseRecord (i : Nat) (r : List Word) (s : State) : State :=
  let g := match (s.site i).log.gap with
    | some g => (g.1, g.2.1, g.2.2 + 1)
    | none => (recCycle r, (wd r 3).toNat + 2 ^ 32 * (wd r 4).toNat, 1)
  s |> bump (A.FAIL_LOST i) F.FAIL_LOST.COUNT |> modLog i (fun l => { l with gap := some g })
    |> wr (A.FAIL_STAT i) F.FAIL_STAT.GAP_PENDING 1

/-- A record of a site reaches its fail log, or is lost: for want of a free slot (R266), or of credit (R265). -/
def writeLog (i h : Nat) (b : Buffer) (r : List Word) (s : State) : State :=
  let s := growCredit i b.rate s
  let l := (s.site i).log
  let stop := !s.flag (A.FAIL_CFG i) F.FAIL_CFG.FULL_POLICY
  let free := b.slots - s.rd (A.FAIL_STAT i) F.FAIL_STAT.NEXT
  let full (s : State) : State := bump (A.FAIL_LOST i) F.FAIL_LOST.COUNT (wr (A.FAIL_STAT i) F.FAIL_STAT.FULL 1 s)
  let put (s : State) : State := spend i 32 (writeSlot i h b.slots r s)
  if stop && free = 0 then full s
  else if l.gap.isNone then (if l.credit < 32 * 3200 then loseRecord i r s else put s)
  else if l.credit < 64 * 3200 then loseRecord i r s
  else if stop && free = 1 then full (writeGap i h b.slots s)
  else put (writeGap i h b.slots s)

/-- FAIL_LOG_WRITE: the next waiting record of a site reaches its fail log, or is lost (R265, R266), once no urgent refill waits and it is
the site's turn (R134). -/
def execFailLogWrite (i : Nat) (s : State) : Out :=
  .next (
    match (s.site i).log.queue with
    | [] => s
    | r :: rest =>
      let s' := modLog i (fun l => { l with queue := rest }) s
      match (s.failLog i).bind (fun h => (s.buf? h).map (fun b => (h, b))) with
      | none => s'
      | some p => if s.hbmWaits 2 || s.hbmNext 2 s.logsWaiting ≠ some i then s
          else serveReads (writeLog i p.1 p.2 r (served 2 i s')))

/-- The HEADER record of a site's fail log (R264). -/
def State.headerRecord (s : State) (i : Nat) (active : Bool) : List Word :=
  [word (0xE * 2 ^ 28 + i * 2 ^ 20), s.reg (A.SEQ_HANDLE i), s.reg (A.FAIL_WRITTEN i), s.reg (A.FAIL_LOST i),
   word (s.rd (A.FAIL_STAT i) F.FAIL_STAT.NEXT),
   word (b2n active * 4 + s.rd (A.FAIL_STAT i) F.FAIL_STAT.WRAPPED * 2 + s.rd (A.FAIL_STAT i) F.FAIL_STAT.FULL),
   s.reg (A.SEQ_START_LO i), s.reg (A.SEQ_START_HI i)]

/-- FAIL_LOG_HEADER: at run start, end, halt and pause the header is written, the latter once every record of the cycles
driven has been written or lost, a pending GAP among them (R264, R265); it waits while an urgent refill does (R134). -/
def execFailLogHeader (i : Nat) (s : State) : Out :=
  .next (
    match (s.site i).log.header with
    | none => s
    | some active =>
      match s.failLog i with
      | none => modLog i (fun l => { l with header := none }) s
      | some h =>
        if !(s.site i).taken.isEmpty || !(s.site i).align.isEmpty || s.hbmWaits 2 then s
        else if !(s.site i).log.runs.isEmpty then forAll ((s.site i).log.runs.map (·.1)) (flushRun i) s
        else if !(s.site i).log.queue.isEmpty then s
        else
          let slots := ((s.buf? h).map (·.slots)).getD 0
          let room := s.rd (A.FAIL_CFG i) F.FAIL_CFG.FULL_POLICY = 1 || s.rd (A.FAIL_STAT i) F.FAIL_STAT.NEXT < slots
          let s := if room then writeGap i h slots s else s
          modLog i (fun l => { l with header := none })
            (modBuf h (fun b => b.write 0 (s.headerRecord i active)) s))

/-! ## Commands (R270) -/

/-- The pins of records that are retired. -/
def firstRetired (s : State) (l : List (Nat × Nat)) : Option (Nat × Nat) := l.find? (fun p => s.retired p.2)

/-- CMP_CFG_SET (R254, R270). -/
def execCmpCfgSet (q : Nat) (env : CommitEnv) (s : State) : Out :=
  .next (hostCmd q 0x0430
    (fun c _ => (tilesOfPins ((List.range (min 256 (bits (c.w 4) 15 0))).map (fun k => bits (c.w (5 + k)) 23 16))).map uTile)
    (fun c s =>
      let n := bits (c.w 4) 15 0
      let recs := (List.range (min 256 n)).map (fun k => (5 + k, c.w (5 + k)))
      let pin (r : Nat × Word) : Nat := bits r.2 23 16
      let only (r : Nat × Word) : Bool := bit r.2 31
      let tiles := tilesOfPins (recs.map pin)
      checked q [chk (c.payload ≠ 1 + n) 0x0104 1, resv c 4 31 16, (n = 0 || 256 < n, 0x0160, 4)]
        (checkedU q (recs.flatMap (fun r => [
            chkU (bits r.2 30 24 ≠ 0 || bits r.2 15 3 ≠ 0) 0x0101 r.1 0,
            chkU (!only r && s.retired (pin r)) 0x0334 0 (uPin (pin r)),
            chkU (!only r && s.pinBusy (pin r)) 0x0340 0 (uPin (pin r))]))
          (twoPhase q (tiles.map uTile) (acksOver env (tiles.map uTile))
            (fun p s => forAll (recs.filter (fun r => p (uTile (pin r / 16)))) (fun r s =>
              let s := wr (A.CMP_CFG (pin r)) F.CMP_CFG.MASK (bits r.2 0 0) s
              if only r then s
              else wr (A.CMP_CFG (pin r)) F.CMP_CFG.WIN (bits r.2 1 1) (wr (A.CMP_CFG (pin r)) F.CMP_CFG.CAPT_REF (bits r.2 2 2) s)) s)
            (ok q []))) s) s)

/-- MASK_SET (R255, R270): it applies as TSET_EDGES does. -/
def execMaskSet (q : Nat) (env : CommitEnv) (s : State) : Out :=
  .next (hostCmd q 0x0431
    (fun c _ => ((List.range 16).filter (fun k => (List.range (min 240 (bits (c.w 4) 15 0))).any
      (fun j => bits (c.w (5 + j)) 19 16 = k))).map uTile)
    (fun c s =>
      let n := bits (c.w 4) 15 0
      let defer := bit (c.w 4) 31
      let recs := (List.range (min 240 n)).map (fun k => (5 + k, c.w (5 + k)))
      let tile (r : Nat × Word) : Nat := bits r.2 19 16
      let tiles := (List.range 16).filter (fun k => recs.any (fun r => tile r = k))
      let write (k : Nat) (s : State) : State := forAll (recs.filter (fun r => tile r = k)) (fun r s =>
        wrS (A.LE_MASKSET k (bits r.2 27 24)) F.LE_MASKSET.PINS (bits r.2 15 0) s) s
      checked q ([chk (c.payload ≠ 1 + n) 0x0104 1, resv c 4 30 16, (n = 0 || 240 < n, 0x0160, 4)]
        ++ recs.flatMap (fun r => [chk (bits r.2 31 28 ≠ 0 || bits r.2 23 20 ≠ 0) 0x0101 r.1,
            chk (bits r.2 27 24 = 0) 0x0160 r.1]))
        (fun s =>
          let note := 4 * b2n (!defer && tiles.any s.tileActive)
          timingCommit q env defer tiles write (noteEnd q note) s) s) s)

/-- FAIL_CFG_SET (R263, R266, R270). -/
def execFailCfgSet (q : Nat) (s : State) : Out :=
  .next (hostCmd q 0x0432 (fun c s => (s.tilesOf (bits (c.w 4) 11 8)).map uTile) (fun c s =>
    let i := bits (c.w 4) 11 8
    checked q [lenIs c 1, (bits (c.w 4) 31 12 ≠ 0 || bits (c.w 4) 7 6 ≠ 0 || bits (c.w 4) 2 0 ≠ 0, 0x0101, 4),
        (bits (c.w 4) 5 4 = 3, 0x0160, 4)]
      (checkedU q [chkU (s.reserved i) 0x0340 0 (uSite i)] (fun s =>
        ok q [] (wr (A.FAIL_CFG i) F.FAIL_CFG.FL_MODE (bits (c.w 4) 5 4)
          (wr (A.FAIL_CFG i) F.FAIL_CFG.FULL_POLICY (bits (c.w 4) 3 3) s)))) s) s)

/-- FAIL_READ (R262, R267): the records that were complete when the command started; `bad` are the indices of records read back with an
uncorrectable error. -/
def execFailRead (q : Nat) (bad : List Nat) (s : State) : Out :=
  .next (hostCmd q 0x0B10 (fun c _ => [uTile (bits (c.w 4) 3 0)]) (fun c s =>
    let k := bits (c.w 4) 3 0
    let n := bits (c.w 5) 31 16
    let first := bits (c.w 5) 15 0
    checked q [lenIs c 2, resv c 4 31 4, (n = 0 || 8191 < n, 0x0160, 5)] (fun s =>
      let held := (s.tile k).store.take (c.data.headD 0).toNat
      let recs := (held.zipIdx.drop first).take n
      let ws := recs.flatMap (fun p => if bad.contains p.2 then p.1.set 0 (wd p.1 0 ||| word (2 ^ 27)) else p.1)
      let ues := (recs.filter (fun p => bad.contains p.2)).length
      let s := when (ues ≠ 0) (bumpBy A.PL_LM_ECC F.PL_LM_ECC.UE ues) s
      let res := word (b2n (held.length = 65536) * 2 ^ 31 + held.length) :: ws
      if recs.length = n then ok q res s else finish q 0x0001 recs.length res s) s) s)

/-- FAIL_SUMMARY (R257). -/
def execFailSummary (q : Nat) (s : State) : Out :=
  .next (hostCmd q 0x0B11 (fun _ _ => []) (fun c s =>
    let i := bits (c.w 4) 3 0
    checked q [lenIs c 1, resv c 4 31 4] (checkedU q [chkU (!s.formed i) 0x0311 0 (uSite i)] (fun s =>
      let pins := s.pinsOf i
      ok q (word pins.length :: pins.flatMap (fun n =>
        [word (n * 2 ^ 16 + s.rd (A.CMP_CFG n) F.CMP_CFG.MASK * 4 + s.rd (A.CMP_STAT n) F.CMP_STAT.MISSED * 2
            + s.rd (A.CMP_STAT n) F.CMP_STAT.FIRST_VALID),
         s.reg (A.CMP_FAILCNT n), s.reg (A.CMP_FIRST_LO n), s.reg (A.CMP_FIRST_HI n)])) s)) s) s)

end Sys2Proof.Machine
end

