-- ==== Sys2Proof/Machine/Instruments.lean ====
section
/-! DEFINITION. What the analogue instruments of a die are set to, as their registers show it, and what holds a pin
(R271 to R376): digitizer and time-interval channels, window monitors, pulse engines, source channels; calibration values and
the calibration state (R410 to R414). -/

namespace Sys2Proof.Machine

/-! ## Units by die -/

/-- The front-end die of a pin. -/
def dieOf (n : Nat) : Nat := n / 64

/-- The pins of a die. -/
def pinsOfDie (d : Nat) : List Nat := (List.range 64).map (64 * d + ·)

def State.awOf (s : State) (k : Nat) : Aw := kget (fun _ => {}) s.aw k
def modAw (k : Nat) (f : Aw → Aw) (s : State) : State := { s with aw := kset (fun _ => {}) s.aw k (f (s.awOf k)) }
def State.wmOf (s : State) (k : Nat) : Wm := kget (fun _ => {}) s.wm k
def modWm (k : Nat) (f : Wm → Wm) (s : State) : State := { s with wm := kset (fun _ => {}) s.wm k (f (s.wmOf k)) }
def State.pgOf (s : State) (j : Nat) : Pg := kget (fun _ => {}) s.pg j
/-- The first tick at or after a time in timing units. -/
def tickOf (t : Nat) : Nat := (t + 1249) / 1250

/-- The coarse stamp of the first tick at or after a time. -/
def State.coarseAt (s : State) (t : Nat) : Stamp := { coarse := s.coarseOf (tickOf t) }

def modPg (j : Nat) (f : Pg → Pg) (s : State) : State := { s with pg := kset (fun _ => {}) s.pg j (f (s.pgOf j)) }

/-! ## Source channels (R284, R285) -/

def State.awState (s : State) (k : Nat) : Nat := s.rd (A.AW_STATUS k) F.AW_STATUS.STATE

/-! ## Pulse engines (R308) -/

def State.pgState (s : State) (j : Nat) : Nat := s.rd (A.PG_STATUS j) F.PG_STATUS.STATE

/-- Armed or running. -/
def State.pgLive (s : State) (j : Nat) : Bool := s.pgState j = 2 || s.pgState j = 3

/-- Fields of PG_CFG (PG_SET word 4). -/
def State.pgCfg (s : State) (j hi lo : Nat) : Nat := bits (s.reg (A.PG_CFG j)) hi lo
def State.pgMode (s : State) (j : Nat) : Nat := s.pgCfg j 25 24
def State.tripMask (s : State) (j : Nat) : Nat := s.rd (A.PG_MASK j) F.PG_MASK.TRIP_MASK
def State.faultMask (s : State) (j : Nat) : Nat := s.rd (A.PG_MASK j) F.PG_MASK.FAULT_MASK

/-- The output is active. -/
def State.pgActive (s : State) (j : Nat) : Bool := (s.pgOf j).trail.isSome

/-- The pulse engine a pin of mode 4 follows: a gang member takes its leader's (R217, R236). -/
def State.engineOf (s : State) (n : Nat) : Nat :=
  let m := if s.gangMember n then s.rd (A.PIN_GANG n) F.PIN_GANG.LEADER else n
  8 * dieOf n + s.rd (A.PIN_MODE m) F.PIN_MODE.PG_SEL

/-- A pin in mode 4 that is not parked drives VIH while its engine's output is active and VIL while it is not (R307). -/
def followEngine (n : Nat) (s : State) : State :=
  when (s.mode n = 4 && !s.flag (A.PIN_STATUS n) F.PIN_STATUS.PARKED)
    (modPin n (fun p => { p with level := b2n (s.pgActive (s.engineOf n)) })) s

/-! ## Window monitors (R296 to R306, R319) -/

/-- Fields of WM_CFG (WM_SET word a). -/
def State.wmCfg (s : State) (k hi lo : Nat) : Nat := bits (s.reg (A.WM_CFG k)) hi lo
def State.wmEnabled (s : State) (k : Nat) : Bool := s.wmCfg k 25 25 = 1

/-- An engine that is armed or running holds the monitor in a mask. -/
def State.guard (s : State) (k : Nat) : Option Nat :=
  ((List.range 8).map (8 * (k / 16) + ·)).find? (fun j =>
    s.pgLive j && (nbit (s.tripMask j) (k % 16) || nbit (s.faultMask j) (k % 16)))

def State.guarded (s : State) (k : Nat) : Bool := (s.guard k).isSome

/-- A source of type 0 or 1 is the given pin of the die. -/
def pinSource (type idx n : Nat) : Bool := type ≤ 1 && idx = n % 64

/-- The monitor senses the pin (R296). -/
def State.wmSenses (s : State) (k n : Nat) : Bool :=
  k / 16 = dieOf n && pinSource (s.wmCfg k 21 20) (s.wmCfg k 19 14) n

/-! ## Digitizer and time-interval channels (R322, R330, R354, R361) -/

def State.aqState (s : State) (k : Nat) : Nat := s.rd (A.AQ_STATUS k) F.AQ_STATUS.STATE
def State.aqLive (s : State) (k : Nat) : Bool := s.aqState k = 1 || s.aqState k = 2
def State.aqSamples (s : State) (k n : Nat) : Bool :=
  k / 8 = dieOf n && pinSource (s.rd (A.AQ_CFG k) F.AQ_CFG.SRC_TYPE) (s.rd (A.AQ_CFG k) F.AQ_CFG.SRC_IDX) n

def State.tuState (s : State) (k : Nat) : Nat := s.rd (A.TU_STATUS k) F.TU_STATUS.STATE
def State.tuLive (s : State) (k : Nat) : Bool := s.tuState k = 1 || s.tuState k = 2

/-- The handle and the measurement that hold a unit (R133). -/
def State.holder (s : State) (u : Nat) : Option (Nat × Meas) :=
  s.place.meas.findSome? (fun p => p.2.val.bind (fun m =>
    if m.units.contains u then some (mkHandle 4 p.2.gen p.1, m) else none))

/-- The KIND of the measurement that holds a time-interval channel. -/
def State.tuKind (s : State) (k : Nat) : Nat := ((s.holder (uTu k)).map (fun m => m.2.kind)).getD 0

/-- A time-interval channel takes a pin as an input (R354). -/
def State.tuTakes (s : State) (k n : Nat) : Bool :=
  let a := s.reg (A.TU_IN_A k)
  let b := s.reg (A.TU_IN_B k)
  k / 8 = dieOf n && (pinSource (bits a 31 29) (bits a 28 23) n ||
    (s.tuKind k = 1 && pinSource (bits b 31 29) (bits b 28 23) n))

/-- The instrument that keeps a pin's mode: a filling or capturing digitizer channel, an armed or measuring time-interval
channel, a guarded monitor, the engine of a pin in mode 4 (R376). -/
def State.pinHeld (s : State) (n : Nat) : Option Nat :=
  let ks := (List.range 8).map (8 * dieOf n + ·)
  match ks.find? (fun k => s.aqLive k && s.aqSamples k n) with
  | some k => some (uAq k)
  | none =>
    match ks.find? (fun k => s.tuLive k && s.tuTakes k n) with
    | some k => some (uTu k)
    | none =>
      match ((List.range 16).map (16 * dieOf n + ·)).find? (fun k => s.guarded k && s.wmSenses k n) with
      | some k => some (uWm k)
      | none => if s.mode n = 4 && s.pgLive (s.engineOf n) then some (uPg (s.engineOf n)) else none

/-! ## Calibration (R410 to R414) -/

/-- The key of a working-set entry. -/
def calKey (u item e : Nat) : Nat := u * 65536 + item * 256 + e

/-- A working-set entry as it was set. -/
def State.calEntry (s : State) (u item e : Nat) : Option CalVal := kget (fun _ => none) s.cal.entries (calKey u item e)

/-- The value of a working-set entry, signed; 0 where it has not been set (R410). -/
def State.calVal (s : State) (u item e : Nat) : Int := ((s.calEntry u item e).map (fun v => v.value.toInt)).getD 0

/-- The number of entries of an item (R411). -/
def itemEntries (item : Nat) : Nat :=
  match item with
  | 0x01 => 12 | 0x02 => 2 | 0x03 => 36 | 0x04 => 4 | 0x05 => 28 | 0x06 => 4 | 0x07 => 12 | 0x08 => 24 | 0x09 => 4
  | 0x0A => 2 | 0x0B => 64 | _ => 0

/-- The items of a unit class (R411). -/
def itemsOf (cls : Nat) : List Nat :=
  match cls with
  | 0x01 => [0x01, 0x03, 0x04, 0x05] | 0x0D => [0x02, 0x0A] | 0x08 => [0x06] | 0x09 => [0x07] | 0x0A => [0x08]
  | 0x0B => [0x09] | 0x15 => [0x0B] | _ => []

/-- The die of a unit that has a calibration state. -/
def unitDie (u : Nat) : Nat :=
  match uclass u with
  | 0x01 => uindex u / 64 | 0x0B => uindex u / 16 | 0x0D => uindex u | _ => uindex u / 8

/-- The index of a unit in CAL_UNIT_STATE. -/
def calIndex (u : Nat) : Nat :=
  match uclass u with
  | 0x01 => uindex u | 0x08 => 256 + uindex u | 0x09 => 288 + uindex u | 0x0A => 320 + uindex u | 0x0B => 352 + uindex u
  | _ => 416 + uindex u

/-- The unit at an index of CAL_UNIT_STATE. -/
def calUnit (i : Nat) : Nat :=
  if i < 256 then uPin i else if i < 288 then uAw (i - 256) else if i < 320 then uAq (i - 288)
  else if i < 352 then uTu (i - 320) else if i < 416 then uWm (i - 352) else uDie (i - 416)

/-- The temperature of a die, in eighths of a degree, two's complement. -/
def State.dieTemp (s : State) (d : Nat) : Nat := s.rd (A.TH_TEMP (d + 1)) F.TH_TEMP.TEMP

/-- Two temperatures differ by more than `n` eighths of a degree. -/
def tempApart (a b n : Nat) : Bool := (n : Int) < (sext 16 a - sext 16 b).natAbs

/-- The calibration state of a unit: 0 warming, 1 calibrated, 2 stale (R414). -/
def State.calState (s : State) (u : Nat) : Nat :=
  let d := unitDie u
  if s.warming || s.now < kget (fun _ => 0) s.power.islandWarm d then 0
  else if s.flag (A.CAL_UNIT_STATE (calIndex u)) F.CAL_UNIT_STATE.MARKED then 2
  else if (itemsOf (uclass u)).any (fun i => (List.range (itemEntries i)).any (fun e =>
      match s.calEntry u i e with
      | some v => tempApart v.temp (s.dieTemp d) 40 || s.cal.drifted.contains (calKey u i e)
      | none => true)) then 2
  else 1

/-- Before a front-end die's temperature is read anew: the entries that the present one makes stale stay so until they are set (R414). -/
def noteDrift (d : Nat) (s : State) : State :=
  let off := s.cal.entries.filterMap (fun p =>
    let u := p.1 / 65536
    match p.2 with
    | some v => if uclass u ≠ 0x15 && unitDie u = d && tempApart v.temp (s.dieTemp d) 40 then some p.1 else none
    | none => none)
  { s with cal := { s.cal with drifted := s.cal.drifted.filter (fun k => !off.contains k) ++ off } }

/-- A quotient rounded to the nearest integer, halves away from zero (R412). -/
def roundDiv (a : Int) (b : Nat) : Int :=
  if 0 ≤ a then ((2 * a.toNat + b) / (2 * b) : Nat) else -(((2 * a.natAbs + b) / (2 * b) : Nat) : Int)

/-- A code or a result corrected with a gain and an offset (R412). -/
def corrected (c c0 g o : Int) : Int := roundDiv (c0 * 2 ^ 24 + (c - c0) * (2 ^ 24 + g) + o * 2 ^ 16) (2 ^ 24)

end Sys2Proof.Machine
end

