-- ==== Sys2Proof/Machine/Levels.lean ====
section
/-! DEFINITION. Strobe groups and level DACs: what a load strobe captures, strobes held, DAC updates, isolation switches
(R237 to R245, R279, R285, R301, R313). -/

namespace Sys2Proof.Machine

/-! ## Pins -/

/-- The level-DAC scale of a mode has its 0 V code (R237). -/
def zeroCode (mode : Nat) : Nat := if mode = 0 then 12000 else 15000

/-- Codes in the shadow and the live copy of a level DAC, and its strobe group. -/
def State.codeS (s : State) (n i : Nat) : Nat := s.rdS (A.PIN_LEVEL n i) F.PIN_LEVEL.CODE
def State.codeL (s : State) (n i : Nat) : Nat := s.rd (A.PIN_LEVEL n i) F.PIN_LEVEL.CODE
def State.groupOf (s : State) (n i : Nat) : Nat := s.rd (A.PIN_LEVEL n i) F.PIN_LEVEL.GROUP

def State.modeBusy (s : State) (n : Nat) : Bool := s.flag (A.PIN_STATUS n) F.PIN_STATUS.MODE_BUSY
def State.rangeBusy (s : State) (n : Nat) : Bool := s.flag (A.PMU_STATUS n) F.PMU_STATUS.RANGE_BUSY
def State.pinConn (s : State) (n : Nat) : Bool := s.flag (A.PIN_STATUS n) F.PIN_STATUS.DRV_CONN
def State.loaded (s : State) (n i : Nat) : Bool := nbit (s.rd (A.PIN_STATUS n) F.PIN_STATUS.LOADED) i
def State.force (s : State) (n : Nat) : Nat := s.rd (A.PMU_CFG n) F.PMU_CFG.FORCE

/-- A unit is under calibration (R419). -/
def State.calBusy (s : State) (u : Nat) : Bool := s.flag (A.CAL_UNIT_STATE (calIndex u)) F.CAL_UNIT_STATE.CAL_BUSY

/-- The DACs of the drive set: VIH, VIL, VTT, CLH, CLL (R242). -/
def driveSet : List Nat := [0, 1, 2, 5, 6]

/-- A die's switches stay open: a tripped critical limit, or thermal shutdown (R445, R473). -/
def State.dieOpen (s : State) (d : Nat) : Bool :=
  s.flag (A.TH_TEMP (d + 1)) F.TH_TEMP.TRIPPED || s.power.shutDown.contains d

/-- The isolation switch of a pin opens at once: its driver is off the ball, its limiting ends (R219, R233, R281). -/
def openPin (n : Nat) (s : State) : State :=
  modPin n (fun p => { p with closeAt := none, limitAt := none }) s
  |> wr (A.PIN_STATUS n) F.PIN_STATUS.DRV_CONN 0
  |> wr (A.PIN_STATUS n) F.PIN_STATUS.LIMITING 0
  |> wr (A.PMU_STATUS n) F.PMU_STATUS.CLAMPING 0
  |> refreshDrv n

/-- Everything but a strobe that the switch of a pin needs to close holds (R242, R279, R419, R445). -/
def State.pinReady (s : State) (n : Nat) : Bool :=
  let m := s.mode n
  !s.modeBusy n && !s.flag (A.PIN_STATUS n) F.PIN_STATUS.OVERCURRENT && !s.calBusy (uPin n)
    && !s.power.shutDown.contains (dieOf n) && !s.retired n
    && (if m = 0 || m = 1 || m = 4 then driveSet.all (s.loaded n) && (m = 0 || !s.dieOpen (dieOf n))
        else if m = 2 then
          !s.rangeBusy n && s.loaded n 9 && (s.force n ≠ 1 || (s.loaded n 5 && s.loaded n 6)) && !s.dieOpen (dieOf n)
        else false)

/-- Update `loads` of a pin's DACs reach its switch: it closes 2.0 µs after the update that completed its conditions (R242,
R279); an opened output needs a strobe of its VIH group, a PMU one of its PMUF group. -/
def reachPin (due : Nat) (n : Nat) (dacs : List Nat) (s : State) : State :=
  let reaches : Bool := if s.mode n = 2 then dacs.contains 9
    else if (s.pin n).byVih then dacs.contains 0 else dacs.any driveSet.contains
  if reaches && s.pinReady n && !s.pinConn n && (s.pin n).closeAt.isNone then
    modPin n (fun p => { p with closeAt := some (due + 8000000) }) s
  else s

/-! ## Source channels -/

/-- The switch of a source channel opens: its limiting ends; a strobe that has reached the channel since still closes it (R285, R286). -/
def partAw (k : Nat) (s : State) : State :=
  modAw k (fun a => { a with limitAt := none }) s
  |> wr (A.AW_STATUS k) F.AW_STATUS.DRV_CONN 0
  |> wr (A.AW_STATUS k) F.AW_STATUS.LIMITING 0

/-- The switch of a source channel opens at once and is not closing (R287). -/
def openAw (k : Nat) (s : State) : State := partAw k (modAw k (fun a => { a with closeAt := none }) s)

/-- Everything but a strobe that the switch of a source channel needs to close holds (R285, R419, R445). -/
def State.awReady (s : State) (k : Nat) : Bool :=
  s.flag (A.AW_CFG k) F.AW_CFG.ENABLE && s.flag (A.AW_STATUS k) F.AW_STATUS.LOADED
    && !s.flag (A.AW_STATUS k) F.AW_STATUS.RANGE_BUSY && !s.flag (A.AW_STATUS k) F.AW_STATUS.OVERCURRENT
    && !s.calBusy (uAw k) && !s.dieOpen (k / 8)

/-- A DAC update reaches a source channel. -/
def reachAw (due k : Nat) (s : State) : State :=
  if s.awReady k && !s.flag (A.AW_STATUS k) F.AW_STATUS.DRV_CONN && (s.awOf k).closeAt.isNone then
    modAw k (fun a => { a with closeAt := some (due + 8000000) }) s
  else s

/-! ## What a strobe captures (R13, R240, R241) -/

/-- What the DACs of a strobe group of a die load: their shadow words as they stood at the start of the FAB cycle, by their GROUP as it
stood then (R240; the shadow copy keeps GROUP as the live one has it). Pins with MODE_BUSY and retired pins take nothing; PMUF takes
nothing during a break. -/
def State.captures (s : State) (d g : Nat) : List Load :=
  let inGroup (n i : Nat) : Bool := fget (s.shd0 (A.PIN_LEVEL n i)) F.PIN_LEVEL.GROUP = g
  ((pinsOfDie d).filter (fun n => !s.modeBusy n && s.mode n ≠ 7 && !s.retired n)).flatMap (fun n =>
    ((List.range 10).filter (fun i => inGroup n i && !(i = 9 && s.rangeBusy n))).map
        (fun i => Load.level n i (fget (s.shd0 (A.PIN_LEVEL n i)) F.PIN_LEVEL.CODE))
      ++ (if inGroup n 0 then [Load.drive n (fget (s.shd0 (A.PIN_DRV n)) F.PIN_DRV.SLEW)
            (fget (s.shd0 (A.PIN_DRV n)) F.PIN_DRV.LOAD_EN)] else []))
  ++ ((List.range 8).map (8 * d + ·)).flatMap (fun k =>
    if fget (s.shd0 (A.AW_CFG k)) F.AW_CFG.GROUP = g then
      [Load.idle k (fget (s.shd0 (A.AW_IDLE k)) F.AW_IDLE.CODE) (s.awState k ≠ 0
        && !s.flag (A.AW_STATUS k) F.AW_STATUS.RANGE_BUSY && !s.flag (A.AW_STATUS k) F.AW_STATUS.OVERCURRENT)] else [])
  ++ ((List.range 16).map (16 * d + ·)).flatMap (fun k =>
    if bits (s.shd0 (A.WM_CFG k)) 11 8 = g then [Load.monitor k (s.shd0 (A.WM_TH k))
      (s.shd0 (A.WM_SHAPE k)) (if s.wmEnabled k then some (s.wmOf k).epoch else none)] else [])
  ++ ((List.range 8).map (8 * d + ·)).flatMap (fun j =>
    if bits (s.shd0 (A.PG_CFG j)) 19 16 = g then [Load.engine j ((List.range 6).map (fun w => s.shd0 (A.PG_PER_LO j + 4 * w)))] else [])

/-- A load belongs to a unit under calibration, whose switch is open: it is held for its DAC (R419). -/
def State.calHolds (s : State) : Load → Bool
  | .level n _ _ => s.calBusy (uPin n)
  | .idle k _ _ => s.calBusy (uAw k)
  | _ => false

/-- The strobe groups, as (die, group), that hold a DAC prepared by a two-phase request that waits for its units (R241). -/
def State.prepared (s : State) : List (Nat × Nat) :=
  (List.range 8).flatMap (fun q =>
    match s.running q with
    | some c =>
      if c.ack.isNone then [] else
      match c.opcode with
      | 0x0202 => (List.range (bits (c.w 4) 15 0)).map (fun i =>
          (dieOf (bits (c.w (5 + i)) 23 16), s.groupOf (bits (c.w (5 + i)) 23 16) (bits (c.w (5 + i)) 31 28)))
      | 0x0201 => (List.range (bits (c.w 4) 15 0)).flatMap (fun i =>
          let n := bits (c.w (5 + i)) 31 24
          if zeroCode (s.mode n) ≠ zeroCode (bits (c.w (5 + i)) 23 21) then
            (List.range 7).map (fun d => (dieOf n, s.groupOf n d)) else [])
      | 0x0210 => (List.range (bits (c.w 4) 15 0)).map (fun i =>
          (dieOf (bits (c.w (5 + 2 * i)) 31 24), s.groupOf (bits (c.w (5 + 2 * i)) 31 24) 9))
      | 0x0501 => (List.range (bits (c.w 4) 15 0)).map (fun i =>
          (bits (c.w (5 + i)) 31 27 / 8, s.rd (A.AW_CFG (bits (c.w (5 + i)) 31 27)) F.AW_CFG.GROUP))
      | 0x0520 => (List.range (bits (c.w 4) 15 0)).map (fun i =>
          (bits (c.w (5 + 3 * i)) 31 26 / 16, s.wmCfg (bits (c.w (5 + 3 * i)) 31 26) 11 8))
      | _ => []
    | none => [])

/-- A strobe reaches a group that is held (R241): PEND shows it and HELD counts it. -/
def holdStrobe (byEvent : Bool) (d g : Nat) (s : State) : State :=
  let s := bump (A.LVL_STROBE_STAT d) F.LVL_STROBE_STAT.HELD
    (wr (A.LVL_STROBE_STAT d) F.LVL_STROBE_STAT.PEND (s.rd (A.LVL_STROBE_STAT d) F.LVL_STROBE_STAT.PEND ||| 2 ^ g) s)
  if byEvent then
    { s with levels := { s.levels with
        byEvent := kset (fun _ => 0) s.levels.byEvent d (kget (fun _ => 0) s.levels.byEvent d ||| 2 ^ g) } }
  else s

/-- Groups are strobed in one FAB cycle: their DACs update 128 ns later (R240). Groups of prepared DACs are held; loads of
units under calibration wait for the end of their group. -/
def strobe (byEvent : Bool) (groups : List (Nat × Nat)) (s : State) : State :=
  let groups := groups.eraseDups
  let held := groups.filter s.prepared.contains
  let loads := (groups.filter (fun g => !s.prepared.contains g)).flatMap (fun g => s.captures g.1 g.2)
  let s' := forAll held (fun g => holdStrobe byEvent g.1 g.2) s
  { s' with levels := { s'.levels with
      calHeld := s'.levels.calHeld ++ loads.filter s.calHolds,
      strobes := s'.levels.strobes ++ [⟨s.unow + 512000, loads.filter (fun l => !s.calHolds l)⟩] } }

/-- The groups set in a mask of a die. -/
def groupsIn (d mask : Nat) : List (Nat × Nat) := (bitList 16 mask).map (d, ·)

/-- A strobe held for DACs of a two-phase request applies in the FAB cycle in which that request commits or discards
(R241). -/
def execStrobeHeldRelease (s : State) : Out :=
  .next (
    let ready := (List.range 4).flatMap (fun d =>
      (groupsIn d (s.rd (A.LVL_STROBE_STAT d) F.LVL_STROBE_STAT.PEND)).filter (fun g => !s.prepared.contains g))
    if ready.isEmpty then s
    else
      let s := forAll ready (fun g s =>
        let s := wr (A.LVL_STROBE_STAT g.1) F.LVL_STROBE_STAT.PEND
          (s.rd (A.LVL_STROBE_STAT g.1) F.LVL_STROBE_STAT.PEND &&& (0xFFFF - 2 ^ g.2))
          (wr (A.LVL_STROBE g.1) F.LVL_STROBE.GO (s.rd (A.LVL_STROBE g.1) F.LVL_STROBE.GO &&& (0xFFFF - 2 ^ g.2)) s)
        { s with levels := { s.levels with
            byEvent := kset (fun _ => 0) s.levels.byEvent g.1 (kget (fun _ => 0) s.levels.byEvent g.1 &&& (0xFFFF - 2 ^ g.2)) } }) s
      strobe false ready s)

/-! ## DAC updates (R240, R285, R301, R313, R412) -/

/-- A corrected code beyond its converter's 16-bit range is counted (R412; DEDUCED, log entry 31). -/
def countClip (d : Nat) (lo hi v : Int) (s : State) : State :=
  if v < lo || hi < v then bump (A.CAL_CLIP d) F.CAL_CLIP.COUNT s else s

/-- A level DAC loads a code: LOADED rises, a measurement sees it (R240, R283). -/
def loadLevel (n i code : Nat) (s : State) : State :=
  if s.modeBusy n || s.mode n = 7 || s.retired n || (i = 9 && s.rangeBusy n) then s
  else
    let m := s.mode n
    let scale := if m = 0 && i ≠ 9 then 0 else 1
    let v := if i = 9 then
        if s.force n = 1 then
          let r := s.rd (A.PMU_CFG n) F.PMU_CFG.RANGE
          corrected code 32768 (s.calVal (uPin n) 5 (4 + 4 * r)) (s.calVal (uPin n) 5 (5 + 4 * r))
        else corrected code 15000 (s.calVal (uPin n) 5 0) (s.calVal (uPin n) 5 1)
      else corrected code (if i = 7 || i = 8 then 0 else zeroCode m)
        (s.calVal (uPin n) 3 (4 * i + 2 * scale)) (s.calVal (uPin n) 3 (4 * i + 2 * scale + 1))
    wr (A.PIN_LEVEL n i) F.PIN_LEVEL.CODE code s
    |> wr (A.PIN_STATUS n) F.PIN_STATUS.LOADED (s.rd (A.PIN_STATUS n) F.PIN_STATUS.LOADED ||| 2 ^ i)
    |> modPin n (fun p => { p with strobed := p.strobed || i = 9 || i = 5 || i = 6 })
    |> countClip (dieOf n) 0 65535 v

/-- A source channel loads its idle code; a holding channel returns to idle (R285). -/
def loadIdle (k code : Nat) (on : Bool) (s : State) : State :=
  let r := s.rd (A.AW_CFG k) F.AW_CFG.RANGE
  let s := wrBoth (A.AW_IDLE k) F.AW_IDLE.LIVE code (wr (A.AW_IDLE k) F.AW_IDLE.CODE code s)
  let s := countClip (k / 8) (-32768) 32767 (corrected (sext 16 code) 0 (s.calVal (uAw k) 6 (2 * r)) (s.calVal (uAw k) 6 (2 * r + 1))) s
  if s.awState k = 0 then s
  else
    when (s.awState k = 4) (wr (A.AW_STATUS k) F.AW_STATUS.STATE 1) (when on (wr (A.AW_STATUS k) F.AW_STATUS.LOADED 1) s)

/-- A pulse engine whose servo runs holds a monitor's live TH_HI (R320). -/
def State.servoed (s : State) (k : Nat) : Bool :=
  ((List.range 8).map (8 * (k / 16) + ·)).any (fun j =>
    s.pgState j = 3 && bit (s.reg (A.PG_SERVO j)) 31 && bits (s.reg (A.PG_SERVO j)) 27 24 = k % 16)

/-- A monitor's thresholds and shape load at time `t`; the live thresholds show in WM_LIVE (R301, R320). A ramp under way goes on from
where it is by the new SLOPE (R302). -/
def loadMonitor (k : Nat) (th shape : Word) (epoch : Option Nat) (t : Nat) (s : State) : State :=
  let hi := if s.servoed k then s.rd (A.WM_LIVE k) F.WM_LIVE.TH_HI else bits th 27 16
  let slope := s.rd (A.WM_SHAPE k) F.WM_SHAPE.SLOPE
  let s := modWm k (fun m => { m with ramp := m.ramp.map (fun r => (max r.1 t, r.2 + slope * (t - r.1))) }) s
  setReg (A.WM_TH k) th s
  |> setReg (A.WM_SHAPE k) shape
  |> wr (A.WM_LIVE k) F.WM_LIVE.TH_HI hi
  |> wr (A.WM_LIVE k) F.WM_LIVE.TH_LO (bits th 11 0)
  |> when (epoch.isSome && s.wmEnabled k) (fun s => wr (A.WM_STATUS k) F.WM_STATUS.LOADED 1
      (modWm k (fun m => { m with loaded := m.loaded || epoch = some m.epoch }) s))

/-- What one load of a strobe does at time `t`. -/
def Load.apply (t : Nat) (l : Load) (s : State) : State :=
  match l with
  | .level n i code => loadLevel n i code s
  | .drive n slew en =>
    if s.modeBusy n || s.mode n = 7 then s
    else wr (A.PIN_DRV n) F.PIN_DRV.SLEW slew (wr (A.PIN_DRV n) F.PIN_DRV.LOAD_EN en s)
  | .idle k code on => loadIdle k code on s
  | .monitor k th shape epoch => loadMonitor k th shape epoch t s
  | .engine j ws => forAll ws.zipIdx (fun w => setReg (A.PG_PER_LO j + 4 * w.2) w.1) s

/-- The DACs of a pin that a strobe loads. -/
def dacsOf (loads : List Load) (n : Nat) : List Nat :=
  loads.filterMap (fun l => match l with
    | .level m i _ => if m = n then some i else none
    | _ => none)

/-- The pins a strobe loads. -/
def pinsIn (loads : List Load) : List Nat :=
  (loads.filterMap (fun l => match l with
    | .level m _ _ => some m
    | _ => none)).eraseDups

/-- The source channels a strobe loads that could close their switches as it was registered (R285, R286). -/
def awIn (loads : List Load) : List Nat :=
  loads.filterMap (fun l => match l with
    | .idle k _ true => some k
    | _ => none)

/-- The monitors a strobe loads. -/
def wmIn (loads : List Load) : List Nat :=
  loads.filterMap (fun l => match l with
    | .monitor k _ _ _ => some k
    | _ => none)

/-- A strobe of the PMUF group of a pin, or of a source channel's group, tries remote sense again; `close` are the units whose
remote and local sense stay within 1.0 V (R275, R284). -/
def retrySense (close : List Nat) (loads : List Load) (s : State) : State :=
  let s := forAll (pinsIn loads) (fun n =>
    when ((dacsOf loads n).contains 9 && close.contains (uPin n)) (wr (A.PMU_STATUS n) F.PMU_STATUS.SENSE_OPEN 0)) s
  let channels := loads.filterMap (fun l => match l with
    | .idle k _ _ => some k
    | _ => none)
  forAll channels (fun k => when (close.contains (uAw k)) (wr (A.AW_STATUS k) F.AW_STATUS.SENSE_OPEN 0)) s

/-- One strobe updates its DACs. -/
def updateDacs (close : List Nat) (b : Strobe) (s : State) : State :=
  let s := forAll b.loads (Load.apply b.due) s
  let s := retrySense close b.loads s
  let s := forAll (pinsIn b.loads) (fun n => reachPin b.due n (dacsOf b.loads n)) s
  forAll (awIn b.loads) (reachAw b.due) s

/-- An isolation switch closes 2.0 µs after the DAC update that completed its conditions (R242, R279, R285). -/
def execSwitchClose (u : Nat) (s : State) : Out :=
  .next (
    let i := uindex u
    if uclass u = 0x08 then
      match (s.awOf i).closeAt with
      | some t =>
        if s.unow < t then s
        else
          let s := modAw i (fun a => { a with closeAt := none }) s
          when (s.awReady i) (wr (A.AW_STATUS i) F.AW_STATUS.DRV_CONN 1) s
      | none => s
    else
      match (s.pin i).closeAt with
      | some t =>
        if s.unow < t then s
        else
          let s := modPin i (fun p => { p with closeAt := none }) s
          if s.pinReady i then
            refreshDrv i (wr (A.PIN_STATUS i) F.PIN_STATUS.DRV_CONN 1 (modPin i (fun p => { p with byVih := false }) s))
          else s
      | none => s)

/-! ## Strobing commands (R240, R245) -/

/-- LEVEL_STROBE (R240), two-phase over groups of more than one die (R41). -/
def execLevelStrobe (q : Nat) (env : CommitEnv) (s : State) : Out :=
  .next (hostCmd q 0x0203
    (fun c _ => (bitList 32 (c.w 4).toNat ++ (bitList 32 (c.w 5).toNat).map (32 + ·)).map uGroup) (fun c s =>
    let groups := groupsIn 0 (bits (c.w 4) 15 0) ++ groupsIn 1 (bits (c.w 4) 31 16)
      ++ groupsIn 2 (bits (c.w 5) 15 0) ++ groupsIn 3 (bits (c.w 5) 31 16)
    let units := groups.map (fun g => uGroup (16 * g.1 + g.2))
    checked q [lenIs c 2, (c.w 4 = 0 && c.w 5 = 0, 0x0150, 4)]
      (twoPhase q units (if apart units then env else {})
        (fun p => strobe false (groups.filter (fun g => p (uGroup (16 * g.1 + g.2))))) (ok q [])) s) s)

/-- Write of GO in LVL_STROBE of a die (R240). GO of a group whose strobe is held stays set until it applies (R11, R241). -/
def execLvlStrobeGo (d mask : Nat) (s : State) : Out :=
  .next (
    if 3 < d then s
    else barWrite (.lvlStrobeGo d mask) (A.LVL_STROBE d) (fun s =>
      let held := bitsOf (((groupsIn d mask).filter s.prepared.contains).map (·.2))
      wr (A.LVL_STROBE d) F.LVL_STROBE.GO (s.rd (A.LVL_STROBE d) F.LVL_STROBE.GO ||| held) (strobe false (groupsIn d mask) s)) s)

/-- LEVEL_READ (R13, R245). -/
def execLevelRead (q : Nat) (s : State) : Out :=
  .next (hostCmd q 0x0204 (fun c _ => [uPin (bits (c.w 4) 7 0)]) (fun c s =>
    let n := bits (c.w 4) 7 0
    checked q [lenIs c 1, resv c 4 31 9] (fun s =>
      ok q ((List.range 10).map (fun i =>
        word (s.groupOf n i * 2 ^ 24 + b2n (s.loaded n i) * 2 ^ 16
          + (if bit (c.w 4) 8 then s.codeS n i else s.codeL n i)))) s) s) s)

end Sys2Proof.Machine
end

