-- ==== Sys2Proof/Machine/PinModes.lean ====
section
/-! DEFINITION. The commands over pins: modes, levels, formats, maps, gangs, the high-voltage ceiling (R217 to R245), and what
follows a mode change or a current limit in time. -/

namespace Sys2Proof.Machine

/-- The pins of a list, rising, each once. -/
def pinsNamed (l : List Nat) : List Nat := (List.range 256).filter l.contains

/-- A two-phase request that takes power claims in its prepare phase (R42, R440). Each claim is a unit with what it holds
while the request stands and what it held before; a unit that is not applied gets back what it held. The claims are refused together,
which fails the prepare of the units whose claims rise: 0x0230 with the shortfall, and the unit map where the request is two-phase (R44).
The first failure in unit-identifier order decides the status (R42). -/
def claimPhase (q : Nat) (units : List Nat) (claims : List (Nat × Nat × Nat)) (map : Bool) (e : Acks)
    (commit : (Nat → Bool) → State → State) (done : State → State) (s : State) : State :=
  let short := s.shortfall (claims.map (fun c => (c.1, c.2.1)))
  let rises (u : Nat) : Bool := short ≠ 0 && claims.any (fun c => c.1 = u && c.2.2 < c.2.1)
  let first : Bool := match firstFault e units, units.find? rises with
    | some f, some u => u ≤ f.1
    | _, r => r.isSome
  if short ≠ 0 && (first || (firstFault e units).isNone) then
    if map then
      finishMap q 0x0230 (some (shortDetail short))
        (units.map (fun u => (if rises u || (prepFault e u).isSome then 2 else 0, u))) s
    else finish q 0x0230 (shortDetail short) [] s
  else
    let keep (u : Nat) : Bool :=
      if (firstFault e units).isSome then false
      else if units.any e.silent.contains then true
      else if units.any e.commit.contains then e.stuck.contains u && !e.commit.contains u
      else true
    twoPhase q units e commit done (forAll claims (fun c => setClaim c.1 (if keep c.1 then c.2.1 else c.2.2))
      (modCmd q (fun x => { x with before := claims.map (fun c => (c.1, s.claimOf c.1)) }) s))

/-! ## Modes (R217 to R220, R272, R278) -/

/-- The power claim of a PMU in mode 2 (R272). -/
def pmuClaim (force range : Nat) : Nat :=
  if force = 2 then 10
  else match range with
    | 0 => 11 | 1 => 11 | 2 => 20 | 3 => 108 | 4 => 990 | _ => 3146

/-- The power claim of a pin in a mode (R220, R278). -/
def State.modeClaim (s : State) (n mode : Nat) : Nat :=
  if mode = 1 || mode = 4 then 150
  else if mode = 2 then pmuClaim (s.force n) (s.rd (A.PMU_CFG n) F.PMU_CFG.RANGE)
  else 0

/-- A record of PIN_MODE_SET. -/
structure ModeRec where
  at_ : Nat
  pin : Nat
  mode : Nat
  pgSel : Nat
  park : Nat
  loadEn : Nat
  dwell : Nat
  slew : Nat
  deriving DecidableEq, Repr

/-- The record `i` of a PIN_MODE_SET packet. -/
def modeRec (c : Cmd) (i : Nat) : ModeRec where
  at_ := 5 + i
  pin := bits (c.w (5 + i)) 31 24
  mode := bits (c.w (5 + i)) 23 21
  pgSel := bits (c.w (5 + i)) 20 18
  park := bits (c.w (5 + i)) 17 16
  loadEn := bits (c.w (5 + i)) 15 15
  dwell := bits (c.w (5 + i)) 14 12
  slew := bits (c.w (5 + i)) 11 6

/-- A pin is fixed by its site: the site that runs, is paused or is armed (R218). -/
def State.siteHolds (s : State) (n : Nat) : Option Nat := (s.siteOfPin n).bind (fun i => if s.reserved i then some i else none)

/-- The unit in conflict with a record that changes MODE or PG_SEL (R376). -/
def ModeRec.conflict (r : ModeRec) (s : State) : Option Nat :=
  let g := 8 * dieOf r.pin + r.pgSel
  if r.mode ≠ s.mode r.pin then
    match s.pinHeld r.pin with
    | some u => some u
    | none => if r.mode = 4 && s.pgLive g then some (uPg g) else none
  else if r.mode = 4 && r.pgSel ≠ s.rd (A.PIN_MODE r.pin) F.PIN_MODE.PG_SEL then
    if s.pgLive (s.engineOf r.pin) then some (uPg (s.engineOf r.pin)) else if s.pgLive g then some (uPg g) else none
  else none

/-- A mode change begins at its commit (R219): MODE_BUSY, and a changed level scale puts the voltage DACs at its 0 V code. -/
def changeMode (n mode : Nat) (s : State) : State :=
  let s :=
    if zeroCode mode ≠ zeroCode (s.mode n) then
      forAll (List.range 7) (fun i => wrBoth (A.PIN_LEVEL n i) F.PIN_LEVEL.CODE (zeroCode mode))
        (wr (A.PIN_STATUS n) F.PIN_STATUS.LOADED (s.rd (A.PIN_STATUS n) F.PIN_STATUS.LOADED / 128 * 128) s)
    else s
  wr (A.PIN_MODE n) F.PIN_MODE.MODE mode s
  |> wr (A.PIN_STATUS n) F.PIN_STATUS.MODE_BUSY 1
  |> modPin n (fun p => { p with modeAt := some s.now, partAt := some (p.partAt.getD s.now), closeAt := none, byVih := false })

/-- A record of PIN_MODE_SET at the commit (R218): PARK, DWELL and PG_SEL live, LOAD_EN and SLEW in the shadow; a pin of mode 4 takes
the level of the engine that PG_SEL names (R307). -/
def ModeRec.put (r : ModeRec) (s : State) : State :=
  when (r.mode ≠ s.mode r.pin) (changeMode r.pin r.mode) s
  |> wr (A.PIN_MODE r.pin) F.PIN_MODE.PG_SEL r.pgSel
  |> wrBoth (A.PIN_DRV r.pin) F.PIN_DRV.PARK r.park
  |> wrBoth (A.PIN_DRV r.pin) F.PIN_DRV.DWELL r.dwell
  |> wrS (A.PIN_DRV r.pin) F.PIN_DRV.SLEW r.slew
  |> wrS (A.PIN_DRV r.pin) F.PIN_DRV.LOAD_EN r.loadEn
  |> when (r.mode = s.mode r.pin) (followEngine r.pin)

/-- What a pin holds while its mode changes: what it holds until tc + 0.5 µs, beside the claim of the new mode; modes 1
and 4 share one claim (R220, R278). -/
def State.changeClaim (s : State) (n mode : Nat) : Nat :=
  let old := s.claimOf (uPin n)
  let shares : Bool := (s.mode n = 1 || s.mode n = 4) && (mode = 1 || mode = 4)
  if shares then old else old + s.modeClaim n mode

/-- PIN_MODE_SET (R218 to R220, R376): records are judged on the state after all of them (R245). -/
def execPinModeSet (q : Nat) (env : CommitEnv) (s : State) : Out :=
  .next (hostCmd q 0x0201
    (fun c _ => (pinsNamed ((List.range (bits (c.w 4) 15 0)).map (fun i => (modeRec c i).pin))).map uPin) (fun c s =>
    let n := bits (c.w 4) 15 0
    let recs := (List.range (min n 256)).map (modeRec c)
    let pins := pinsNamed (recs.map (·.pin))
    let final := pins.filterMap (fun p => (recs.filter (·.pin = p)).getLast?)
    let multi : Bool := 1 < (tilesOfPins pins).length
    checked q ([chk (c.payload ≠ 1 + n) 0x0104 1, resv c 4 31 16, (n = 0 || 256 < n, 0x0150, 4)])
      (checkedU q (recs.flatMap (fun r =>
        let f := (final.find? (·.pin = r.pin)).getD r
        let change : Bool := f.mode ≠ s.mode r.pin
        [chkU (bits (c.w r.at_) 5 0 ≠ 0) 0x0101 r.at_ 0,
         chkU (6 ≤ r.mode || 4 ≤ r.dwell || r.slew = 0 || 50 < r.slew) 0x0150 r.at_ 0,
         chkU (change && (s.siteHolds r.pin).isSome) 0x0330 0 (uSite ((s.siteHolds r.pin).getD 0)),
         chkU (s.mode r.pin = 7 || s.retired r.pin) 0x0334 0 (uPin r.pin),
         chkU (change && (s.gangMember r.pin || s.gangLeader r.pin)) 0x0153 r.at_ 0,
         chkU (change && (f.mode = 1 || f.mode = 4) && s.anyDdr r.pin) 0x0151 r.at_ 0,
         chkU (f.conflict s).isSome 0x0331 r.at_ ((f.conflict s).getD 0)]))
      (fun s =>
        let moved := final.filter (fun r => r.mode ≠ s.mode r.pin)
        claimPhase q (pins.map uPin)
          (moved.map (fun r => (uPin r.pin, s.changeClaim r.pin r.mode, s.claimOf (uPin r.pin)))) multi
          (if multi then env else {})
          (fun p => forAll (final.filter (fun r => p (uPin r.pin))) ModeRec.put) (ok q []) s)) s) s)

/-- tc + 0.5 µs of a mode change: the switch opens and the claim of the old mode is released; a pin of mode 4 follows its engine
(R219, R220, R278, R307). -/
def execPinModeDisconnect (n : Nat) (s : State) : Out :=
  .next (
    match (s.pin n).partAt with
    | some t =>
      if s.now < t + 1600 then s
      else
        openPin n (modPin n (fun p => { p with partAt := none, servo := 0 }) s)
        |> wr (A.PMU_STATUS n) F.PMU_STATUS.SERVO_SAT 0
        |> setClaim (uPin n) (s.modeClaim n (s.mode n))
        |> followEngine n
    | none => s)

/-- tc + 50 µs of a mode change: MODE_BUSY clears (R219). -/
def execModeBusyClear (n : Nat) (s : State) : Out :=
  .next (
    match (s.pin n).modeAt with
    | some t =>
      if (s.pin n).partAt.isSome || s.now < t + us 50 then s
      else wr (A.PIN_STATUS n) F.PIN_STATUS.MODE_BUSY 0 (modPin n (fun p => { p with modeAt := none }) s)
    | none => s)

/-! ## Levels (R237 to R239) -/

/-- A record of LEVEL_SET. -/
structure LevelRec where
  at_ : Nat
  dac : Nat
  group : Nat
  pin : Nat
  code : Nat
  deriving DecidableEq, Repr

/-- The record `i` of a LEVEL_SET packet. -/
def levelRec (c : Cmd) (i : Nat) : LevelRec where
  at_ := 5 + i
  dac := bits (c.w (5 + i)) 31 28
  group := bits (c.w (5 + i)) 27 24
  pin := bits (c.w (5 + i)) 23 16
  code := bits (c.w (5 + i)) 15 0

/-- A code lies in the range of its DAC (R237, R273). -/
def State.codeOk (s : State) (n i code : Nat) : Bool :=
  if i = 7 || i = 8 then code ≤ 40000
  else if i = 9 then
    if s.force n = 1 then 768 ≤ code && code ≤ 64768 else if s.force n = 0 then code ≤ 52500 else true
  else if s.mode n = 0 then code ≤ 64000 else code ≤ 52500

/-- A code is a high-voltage code under the ceiling of the die (R238). -/
def State.ceiled (s : State) (n i : Nat) : Bool :=
  if i = 9 then s.force n = 0 else driveSet.contains i && s.mode n ≠ 0

/-- A code lies above the ceiling of its die (R238). -/
def State.overCeil (s : State) (n i code : Nat) : Bool :=
  s.ceiled n i && s.rd (A.LVL_HV_CEIL (dieOf n)) F.LVL_HV_CEIL.CEIL < code

/-- A relation of R239 that a written DAC takes part in fails in the shadow codes. -/
def State.relationFails (s : State) (n i : Nat) : Bool :=
  ((i = 0 || i = 1) && s.mode n = 0 && 48000 < max (s.codeS n 0) (s.codeS n 1) - min (s.codeS n 0) (s.codeS n 1))
  || ((i = 5 || i = 6) && s.codeS n 5 ≤ s.codeS n 6)
  || ((i = 3 || i = 4) && s.codeS n 3 < s.codeS n 4)

/-- A record of LEVEL_SET is written: its code to the shadow, its group at once (R240). -/
def LevelRec.put (r : LevelRec) (s : State) : State :=
  wrS (A.PIN_LEVEL r.pin r.dac) F.PIN_LEVEL.CODE r.code
    (wrBoth (A.PIN_LEVEL r.pin r.dac) F.PIN_LEVEL.GROUP r.group s)

/-- LEVEL_SET (R237 to R240). -/
def execLevelSet (q : Nat) (env : CommitEnv) (s : State) : Out :=
  .next (hostCmd q 0x0202
    (fun c _ => (pinsNamed ((List.range (bits (c.w 4) 15 0)).map (fun i => (levelRec c i).pin))).map uPin) (fun c s =>
    let n := bits (c.w 4) 15 0
    let recs := (List.range (min n 2560)).map (levelRec c)
    let pins := pinsNamed (recs.map (·.pin))
    let multi : Bool := 1 < (tilesOfPins pins).length
    let t := forAll recs LevelRec.put s
    checked q [chk (c.payload ≠ 1 + n) 0x0104 1, resv c 4 30 16, (n = 0 || 2560 < n, 0x0150, 4)]
      (checkedU q (recs.flatMap (fun r => [
        chkU (9 < r.dac) 0x0150 r.at_ 0,
        chkU (s.mode r.pin = 7 || s.retired r.pin) 0x0334 0 (uPin r.pin),
        chkU (!s.codeOk r.pin r.dac r.code) 0x0152 r.at_ 0,
        chkU (s.overCeil r.pin r.dac (t.codeS r.pin r.dac)) 0x0333 r.at_ (uPin r.pin),
        chkU (t.relationFails r.pin r.dac) 0x0152 r.at_ 0]))
      (fun s => twoPhase q (pins.map uPin) (if multi then env else {})
        (fun p s =>
          let mine := recs.filter (fun r => p (uPin r.pin))
          let write (s : State) : State := forAll mine LevelRec.put s
          if bit (c.w 4) 31 then strobe false (mine.map (fun r => (dieOf r.pin, r.group))) (early write s) else write s)
        (ok q []) s)) s) s)

/-! ## Formats and maps (R222, R227 to R231) -/

/-- A pin covers every object bound to its site (R229). -/
def State.covers (s : State) (n : Nat) : Bool :=
  match s.siteOfPin n with
  | some i => s.objects.all (fun o => !(o.2.bound && o.2.site = i) || o.2.covered (n - 16 * s.lead i) (s.pair_ n))
  | none => true

/-- A FORMAT_SET record: its word index, pin, timing set, EMODE and FMT together. -/
def formatRec (c : Cmd) (i : Nat) : Nat × Nat × Nat × Nat :=
  (5 + i, bits (c.w (5 + i)) 23 16, bits (c.w (5 + i)) 15 10, bits (c.w (5 + i)) 3 0)

/-- FORMAT_SET (R229 to R231). Each record's own fields are checked first; what relates values is then judged on the shadow as it stands
after all writes, at the last record of an entry (R216, R231). -/
def execFormatSet (q : Nat) (env : CommitEnv) (s : State) : Out :=
  .next (hostCmd q 0x0205
    (fun c _ => (tilesOfPins ((List.range (bits (c.w 4) 15 0)).map (fun i => (formatRec c i).2.1))).map uTile) (fun c s =>
    let defer := bit (c.w 4) 31
    let n := bits (c.w 4) 15 0
    let recs := (List.range (min n 16384)).map (formatRec c)
    let tiles := tilesOfPins (recs.map (·.2.1))
    let write (k : Nat) (s : State) : State :=
      forAll (recs.filter (fun r => r.2.1 / 16 = k)) (fun r => setShd (A.PIN_FORMAT r.2.1 r.2.2.1) (word r.2.2.2)) s
    let final := recs.filter (fun r => recs.all (fun x => x.2.1 ≠ r.2.1 || x.2.2.1 ≠ r.2.2.1 || x.1 ≤ r.1))
    checked q [chk (c.payload ≠ 1 + n) 0x0104 1, resv c 4 30 16, (n = 0 || 16384 < n, 0x0150, 4)]
      (checkedU q (recs.flatMap (fun r => [
          chkU (bits (c.w r.1) 31 24 ≠ 0 || bits (c.w r.1) 9 4 ≠ 0) 0x0101 r.1 0,
          chkU (6 ≤ r.2.2.2 % 8) 0x0150 r.1 0,
          chkU (s.mode r.2.1 = 7 || s.retired r.2.1) 0x0334 0 (uPin r.2.1)])
        ++ (final.filter (fun r => r.2.2.2 % 8 = 5)).flatMap (fun r => [
          chkU (s.mode r.2.1 = 1 || s.mode r.2.1 = 4) 0x0151 r.1 0,
          chkU (s.gradeB && s.periodS (s.govTile (r.2.1 / 16)) r.2.2.1 < 2500) 0x0142 r.1 0,
          chkU (!s.covers r.2.1) 0x0332 r.1 (uPin r.2.1)]))
      (fun s => timingCommit q env defer tiles write (noteEnd q (4 * b2n (!defer && tiles.any s.tileActive))) s)) s) s)

/-- PIN_MAP_SET (R222, R227, R229): the pair table applies at the commit, the map with the tile's timing bank. Records are judged as
FORMAT_SET's (R216, R231). -/
def execPinMapSet (q : Nat) (env : CommitEnv) (s : State) : Out :=
  .next (hostCmd q 0x0206
    (fun c _ => (tilesOfPins ((List.range (bits (c.w 4) 15 0)).map (fun i => bits (c.w (5 + 2 * i)) 23 16))).map uTile) (fun c s =>
    let defer := bit (c.w 4) 31
    let n := bits (c.w 4) 15 0
    let recs := (List.range (min n 256)).map (fun i =>
      (5 + 2 * i, bits (c.w (5 + 2 * i)) 23 16, bits (c.w (5 + 2 * i)) 15 0, c.w (6 + 2 * i)))
    let tiles := tilesOfPins (recs.map (·.2.1))
    let write (k : Nat) (s : State) : State :=
      forAll (recs.filter (fun r => r.2.1 / 16 = k)) (fun r s =>
        setShd (A.PIN_STATE_MAP r.2.1) r.2.2.2 (wr (A.PIN_PAIR r.2.1) F.PIN_PAIR.PAIR r.2.2.1 s)) s
    let t := forAll tiles write s
    let final := recs.filter (fun r => recs.all (fun x => x.2.1 ≠ r.2.1 || x.1 ≤ r.1))
    let double (p : Nat) : Bool := match s.siteOfPin p with
      | some i => s.objects.any (fun o => o.2.bound && o.2.site = i && o.2.segs.any (·.doubleData))
      | none => false
    checked q [chk (c.payload ≠ 1 + 2 * n) 0x0104 1, resv c 4 30 16, (n = 0 || 256 < n, 0x0150, 4)]
      (checkedU q (recs.flatMap (fun r => [
          chkU (bits (c.w r.1) 31 24 ≠ 0) 0x0101 r.1 0,
          chkU ((List.range 4).any (fun i => badMap (r.2.2.2.toNat / 256 ^ i % 256))) 0x0150 (r.1 + 1) 0,
          chkU (s.mode r.2.1 = 7 || s.retired r.2.1) 0x0334 0 (uPin r.2.1)])
        ++ final.flatMap (fun r => [
          chkU (r.2.2.1 ≠ s.pair_ r.2.1 && double r.2.1) 0x0332 r.1 (uPin r.2.1),
          chkU (s.anyDdr r.2.1 && !t.covers r.2.1) 0x0332 r.1 (uPin r.2.1)]))
      (fun s => timingCommit q env defer tiles write (noteEnd q (4 * b2n (!defer && tiles.any s.tileActive))) s)) s) s)

/-! ## What reaches a ball (R217, R221, R225, R232 to R236, R242, R243) -/

/-- The pin whose live drive codes a pin drives from: a gang member takes its leader's (R236). -/
def State.levelPin (s : State) (n : Nat) : Nat := if s.gangMember n then s.rd (A.PIN_GANG n) F.PIN_GANG.LEADER else n

/-- The keeper of a pin is connected (R217): in modes 0, 1 and 4 while the driver is disabled or disconnected, always in mode 7. -/
def State.keeperOn (s : State) (n : Nat) : Bool :=
  if [0, 1, 4].contains (s.mode n) then !s.flag (A.PIN_STATUS n) F.PIN_STATUS.DRV_EN else s.mode n = 7

/-- The driver of a pin drives its ball: the voltage in µV of the live VIL, VIH or VTT code that its formatter has chosen (R217, R236). -/
def State.driven (s : State) (n : Nat) : Option Int :=
  if s.flag (A.PIN_STATUS n) F.PIN_STATUS.DRV_EN then
    let dac := if (s.pin n).level = 0 then 1 else if (s.pin n).level = 1 then 0 else 2
    some (codeMicro (s.mode n) (s.codeL (s.levelPin n) dac))
  else none

/-- The active load of a pin is connected (R221, R234, R242). -/
def State.loadOn (s : State) (n : Nat) : Bool :=
  let chosen : Bool := match (s.pin n).load with
    | 0 => s.flag (A.PIN_DRV n) F.PIN_DRV.LOAD_EN
    | 2 => true
    | _ => false
  let paused : Bool := ((s.siteOfPin n).map (fun i => decide (s.siteState i = 4))).getD false
  s.mode n = 0 && s.pinConn n && !s.flag (A.PIN_STATUS n) F.PIN_STATUS.DRV_EN && chosen && !paused
    && !s.flag (A.PIN_STATUS n) F.PIN_STATUS.PARKED && s.loaded n 7 && s.loaded n 8

/-- What the active load does to a ball at a voltage in µV, as a current into the ball in µA: it commutates at VTT (R234). -/
def State.loadCurrent (s : State) (n : Nat) (v : Int) : Int :=
  let vtt := codeMicro 0 (s.codeL (s.levelPin n) 2)
  if !s.loadOn n then 0
  else if vtt < v then -(s.codeL n 7 : Int) else if v < vtt then (s.codeL n 8 : Int) else 0

/-- The clamps of a pin, in µV, low and high: while its switch is closed, in modes 0, 1 and 4 (R235, R236). -/
def State.clamps (s : State) (n : Nat) : Option (Int × Int) :=
  if [0, 1, 4].contains (s.mode n) && s.pinConn n then
    some (codeMicro (s.mode n) (s.codeL (s.levelPin n) 6), codeMicro (s.mode n) (s.codeL (s.levelPin n) 5))
  else none

/-! ## Gangs and the ceiling (R236, R238) -/

/-- The pins of an octet form the gang of a mask, or none (R236). -/
def setGang (m mask : Nat) (s : State) : State :=
  let members := bitList 8 mask
  let real : Bool := 2 ≤ members.length
  let leader := 8 * m + members.headD 0
  forAll (List.range 8) (fun i s =>
    let n := 8 * m + i
    let mine : Bool := real && members.contains i
    wr (A.PIN_STATUS n) F.PIN_STATUS.GANG_LEADER (b2n (mine && n = leader)) s
    |> wr (A.PIN_STATUS n) F.PIN_STATUS.GANG_MEMBER (b2n (mine && n ≠ leader))
    |> wr (A.PIN_GANG n) F.PIN_GANG.LEADER (if mine then leader else 0)
    |> wr (A.PIN_GANG n) F.PIN_GANG.MASK (if mine then mask else 0)) s
  |> forAll ((List.range 8).map (8 * m + ·)) followEngine

/-- GANG_SET (R236). -/
def execGangSet (q : Nat) (s : State) : Out :=
  .next (hostCmd q 0x0207 (fun c _ => (List.range 8).map (fun i => uPin (8 * bits (c.w 4) 12 8 + i))) (fun c s =>
    let m := bits (c.w 4) 12 8
    let mask := bits (c.w 4) 7 0
    let pins := (bitList 8 mask).map (8 * m + ·)
    let modes := pins.map s.mode
    let gone := pins.find? (fun n => s.mode n = 7 || s.retired n)
    checked q [lenIs c 1, resv c 4 31 13]
      (checkedU q [chkU (s.siteHolds (8 * m)).isSome 0x0330 0 (uSite ((s.siteHolds (8 * m)).getD 0)),
          chkU gone.isSome 0x0334 0 (uPin (gone.getD 0)),
          chkU (2 ≤ pins.length && !(modes.all (· = 1) || modes.all (· = 4))) 0x0153 4 0]
        (fun s => ok q [] (setGang m mask s))) s) s)

/-- The first pin of the dies with a high-voltage code above a ceiling, live or shadow (R238). -/
def State.aboveCeil (s : State) (dies : List Nat) (ceil : Nat) : Option Nat :=
  (dies.flatMap pinsOfDie).find? (fun n => s.mode n ≠ 7 && (9 :: driveSet).any (fun i =>
    s.ceiled n i && (ceil < s.codeS n i || ceil < s.codeL n i)))

/-- HV_LIMIT_SET (R238), two-phase over more than one die (R41). -/
def execHvLimitSet (q : Nat) (env : CommitEnv) (s : State) : Out :=
  .next (hostCmd q 0x0208 (fun c _ => (bitList 4 (bits (c.w 4) 19 16)).map uDie) (fun c s =>
    let dies := bitList 4 (bits (c.w 4) 19 16)
    let ceil := bits (c.w 4) 15 0
    checked q [lenIs c 1, resv c 4 31 20, (dies.isEmpty || ceil < 40000 || 52500 < ceil, 0x0150, 4)]
      (checkedU q [chkU (s.aboveCeil dies ceil).isSome 0x0333 ((s.aboveCeil dies ceil).getD 0) (uPin ((s.aboveCeil dies ceil).getD 0))]
        (twoPhase q (dies.map uDie) (if dies.length ≤ 1 then {} else env)
          (fun p => forAll (dies.filter (fun d => p (uDie d))) (fun d => wr (A.LVL_HV_CEIL d) F.LVL_HV_CEIL.CEIL ceil))
          (ok q []))) s) s)

/-! ## Current limits (R233, R281, R287) -/

/-- The ticks of a DWELL setting. -/
def dwellTicks (d : Nat) : Nat := us (10 * 10 ^ d)

/-- An HV driver, a PMU that forces a voltage, or a source channel begins to limit its current (R233, R281, R287). The sense voltage of
a PMU that forces a current reaches a compliance limit by the same command, as the table has none of its own (R274; DESIGN CHOICE,
log entry 89). -/
def execCurrentLimitOnset (u : Nat) (s : State) : Out :=
  .next (
    let i := uindex u
    if uclass u = 0x08 then
      if s.flag (A.AW_STATUS i) F.AW_STATUS.DRV_CONN && (s.awOf i).limitAt.isNone then
        wr (A.AW_STATUS i) F.AW_STATUS.LIMITING 1 (modAw i (fun a => { a with limitAt := some s.now }) s)
      else s
    else if s.pinConn i && (s.mode i = 1 || s.mode i = 4 || (s.mode i = 2 && s.force i = 0)) && (s.pin i).limitAt.isNone then
      wr (A.PIN_STATUS i) F.PIN_STATUS.LIMITING 1 (modPin i (fun p => { p with limitAt := some s.now }) s)
    else if s.pinConn i && s.mode i = 2 && s.force i = 1 then wr (A.PMU_STATUS i) F.PMU_STATUS.CLAMPING 1 s
    else s)

/-- An output stops limiting before its dwell ends (R233, R281, R287), or clamping (R274; DESIGN CHOICE, log entry 89). -/
def execCurrentLimitEnd (u : Nat) (s : State) : Out :=
  .next (
    let i := uindex u
    if uclass u = 0x08 then wr (A.AW_STATUS i) F.AW_STATUS.LIMITING 0 (modAw i (fun a => { a with limitAt := none }) s)
    else wr (A.PIN_STATUS i) F.PIN_STATUS.LIMITING 0 (modPin i (fun p => { p with limitAt := none }) s)
      |> when (s.mode i = 2 && s.force i = 1) (wr (A.PMU_STATUS i) F.PMU_STATUS.CLAMPING 0))

/-- Limiting has outlasted the DWELL of a pin. -/
def State.dwellOver (s : State) (n : Nat) : Bool :=
  match (s.pin n).limitAt with
  | some t => t + dwellTicks (s.rd (A.PIN_DRV n) F.PIN_DRV.DWELL) ≤ s.now
  | none => false

/-- A pin opens on its current limit: it stays open until OVERCURRENT is cleared. -/
def overcurrent (n : Nat) (s : State) : State :=
  modPin n (fun p => { p with byVih := true }) (raise (A.PIN_STATUS n) F.PIN_STATUS.OVERCURRENT (openPin n s))

/-- HV-driver limiting has outlasted DWELL: the pin, and every pin of its gang, opens (R233, R236). -/
def execPinDwellExpire (n : Nat) (s : State) : Out :=
  .next (
    if (s.mode n = 1 || s.mode n = 4) && s.dwellOver n then
      let gang := if s.gangMember n then s.gangOf (s.rd (A.PIN_GANG n) F.PIN_GANG.LEADER) else s.gangOf n
      report (uPin n) 0x01 (keyDie (dieOf n)) (forAll gang overcurrent s)
    else s)

/-- PMU limiting has outlasted DWELL (R281). -/
def execPmuDwellExpire (n : Nat) (s : State) : Out :=
  .next (
    if s.mode n = 2 && s.dwellOver n then report (uPin n) 0x01 (keyDie (dieOf n)) (overcurrent n s) else s)

/-- Source-channel limiting has outlasted DWELL (R287). -/
def execAwDwellExpire (k : Nat) (s : State) : Out :=
  .next (
    match (s.awOf k).limitAt with
    | some t =>
      if s.now < t + dwellTicks (s.rd (A.AW_CFG k) F.AW_CFG.DWELL) then s
      else report (uAw k) 0x02 (keyDie (k / 8)) (raise (A.AW_STATUS k) F.AW_STATUS.OVERCURRENT (openAw k s))
    | none => s)

end Sys2Proof.Machine
end

