-- ==== Sys2Proof/Machine/Pmu.lean ====
section
/-! DEFINITION. The parametric units: configuration, breaks, supervision and measurement (R271 to R283, R295). -/

namespace Sys2Proof.Machine

/-- A record of PMU_SET. -/
structure PmuRec where
  at_ : Nat
  pin : Nat
  force : Nat
  meas : Nat
  range : Nat
  sense : Nat
  servo : Nat
  awsrc : Nat
  awSel : Nat
  group : Nat
  code : Nat
  deriving DecidableEq, Repr

/-- The record `i` of a PMU_SET packet. -/
def pmuRec (c : Cmd) (i : Nat) : PmuRec where
  at_ := 5 + 2 * i
  pin := bits (c.w (5 + 2 * i)) 31 24
  force := bits (c.w (5 + 2 * i)) 23 22
  meas := bits (c.w (5 + 2 * i)) 21 21
  range := bits (c.w (5 + 2 * i)) 20 18
  sense := bits (c.w (5 + 2 * i)) 17 17
  servo := bits (c.w (5 + 2 * i)) 16 16
  awsrc := bits (c.w (5 + 2 * i)) 15 15
  awSel := bits (c.w (5 + 2 * i)) 14 12
  group := bits (c.w (5 + 2 * i)) 11 8
  code := bits (c.w (6 + 2 * i)) 15 0

/-- The configuration of a record is one R271, R276 and R277 allow. -/
def PmuRec.ok (r : PmuRec) : Bool :=
  r.force ≠ 3 && r.range ≤ 5 && !(r.force = 2 && r.meas = 1) && !((r.servo = 1 || r.awsrc = 1) && r.force ≠ 0)

/-- A PMUF code is valid for a FORCE (R273). -/
def pmufOk (force code : Nat) : Bool :=
  if force = 0 then code ≤ 52500 else if force = 1 then 768 ≤ code && code ≤ 64768 else true

/-- The zero code of PMUF for a FORCE (R273). -/
def pmufZero (force : Nat) : Nat := if force = 1 then 32768 else 15000

/-- FORCE changes between 0 and 1 (R273). -/
def swapsForce (a b : Nat) : Bool := (a = 0 && b = 1) || (a = 1 && b = 0)

/-- A record starts a break: the pin is in mode 2 and FORCE, RANGE, AWSRC or AW_SEL changes (R280). -/
def PmuRec.breaks (r : PmuRec) (s : State) : Bool :=
  let cfg := s.reg (A.PMU_CFG r.pin)
  s.mode r.pin = 2 && (fget cfg F.PMU_CFG.FORCE ≠ r.force || fget cfg F.PMU_CFG.RANGE ≠ r.range
    || fget cfg F.PMU_CFG.AWSRC ≠ r.awsrc || fget cfg F.PMU_CFG.AW_SEL ≠ r.awSel)

/-- The live PMUF takes the zero code of its new meaning (R273). -/
def zeroPmuf (n force : Nat) (s : State) : State :=
  wr (A.PIN_LEVEL n 9) F.PIN_LEVEL.CODE (pmufZero force)
    (wr (A.PIN_STATUS n) F.PIN_STATUS.LOADED (s.rd (A.PIN_STATUS n) F.PIN_STATUS.LOADED % 512) s)

/-- The servo's correction returns to 0 (R276). -/
def clearServo (n : Nat) (s : State) : State :=
  wr (A.PMU_STATUS n) F.PMU_STATUS.SERVO_SAT 0 (modPin n (fun p => { p with servo := 0 }) s)

/-- A record of PMU_SET at its commit (R273, R276, R278, R280). -/
def PmuRec.put (r : PmuRec) (s : State) : State :=
  let n := r.pin
  let breaks := r.breaks s
  let swaps := swapsForce (s.force n) r.force
  let sensed : Bool := s.flag (A.PMU_CFG n) F.PMU_CFG.SENSE
  let s := s
    |> wr (A.PMU_CFG n) F.PMU_CFG.FORCE r.force |> wr (A.PMU_CFG n) F.PMU_CFG.MEAS r.meas
    |> wr (A.PMU_CFG n) F.PMU_CFG.RANGE r.range |> wr (A.PMU_CFG n) F.PMU_CFG.SENSE r.sense
    |> wr (A.PMU_CFG n) F.PMU_CFG.SERVO r.servo |> wr (A.PMU_CFG n) F.PMU_CFG.AWSRC r.awsrc
    |> wr (A.PMU_CFG n) F.PMU_CFG.AW_SEL r.awSel
    |> wrBoth (A.PIN_LEVEL n 9) F.PIN_LEVEL.GROUP r.group
    |> wrS (A.PIN_LEVEL n 9) F.PIN_LEVEL.CODE r.code
    |> when (r.servo = 0) (clearServo n)
    |> when (sensed != (r.sense = 1)) (wr (A.PMU_STATUS n) F.PMU_STATUS.SENSE_OPEN 0)
  if breaks then
    wr (A.PMU_STATUS n) F.PMU_STATUS.RANGE_BUSY 1
      (modPin n (fun p => { p with
        rangeAt := some s.now, breakAt := some (p.breakAt.getD s.now), zeroed := p.zeroed || swaps, closeAt := none }) s)
  else when swaps (zeroPmuf n r.force) s

/-- PMU_SET (R271 to R280, R295). A pin holds the greater of its claims until its switch opens, beside what a mode change that has not
yet parted its ball still holds (R278). -/
def execPmuSet (q : Nat) (env : CommitEnv) (s : State) : Out :=
  .next (hostCmd q 0x0210
    (fun c _ => (pinsNamed ((List.range (bits (c.w 4) 15 0)).map (fun i => (pmuRec c i).pin))).map uPin) (fun c s =>
    let n := bits (c.w 4) 15 0
    let recs := (List.range (min n 256)).map (pmuRec c)
    let pins := pinsNamed (recs.map (·.pin))
    let final := pins.filterMap (fun p => (recs.filter (·.pin = p)).getLast?)
    let multi : Bool := 1 < (tilesOfPins pins).length
    let claim (r : PmuRec) : Nat × Nat × Nat :=
      let held := s.claimOf (uPin r.pin)
      let old := if (s.pin r.pin).partAt.isSome then held - s.modeClaim r.pin 2 else 0
      (uPin r.pin, old + max (held - old) (pmuClaim r.force r.range), held)
    checked q [chk (c.payload ≠ 1 + 2 * n) 0x0104 1, resv c 4 30 16, (n = 0 || 256 < n, 0x0170, 4)]
      (checkedU q (recs.flatMap (fun r => [
        chkU (bits (c.w r.at_) 7 0 ≠ 0) 0x0101 r.at_ 0,
        chkU (bits (c.w (r.at_ + 1)) 31 16 ≠ 0) 0x0101 (r.at_ + 1) 0,
        chkU (!r.ok) 0x0170 r.at_ 0,
        chkU (!pmufOk r.force r.code) 0x0171 (r.at_ + 1) 0,
        chkU (r.force = 0 && s.rd (A.LVL_HV_CEIL (dieOf r.pin)) F.LVL_HV_CEIL.CEIL < r.code) 0x0333 (r.at_ + 1) (uPin r.pin),
        chkU (s.mode r.pin = 7 || s.retired r.pin) 0x0334 0 (uPin r.pin)]))
      (fun s => claimPhase q (pins.map uPin) ((final.filter (fun r => s.mode r.pin = 2)).map claim) multi
        (if multi then env else {})
        (fun p s =>
          let mine := final.filter (fun r => p (uPin r.pin))
          let broken := (mine.filter (·.breaks s)).map (fun r => uPin r.pin)
          let groups := (recs.filter (fun r => p (uPin r.pin))).map (fun r => (dieOf r.pin, r.group))
          let write (s : State) : State := forAll mine PmuRec.put s
          if !bit (c.w 4) 31 then write s
          else if broken.isEmpty then strobe false groups (early write s)
          else
            let s := write s
            { s with levels := { s.levels with late := s.levels.late ++ [(broken, groups)] } })
        (ok q []) s)) s) s)

/-! ## Breaks (R280, R285, R286) -/

/-- The switch of a PMU or a source channel opens 0.5 µs after the commit of a break, or of a disabling, and a claim that
falls is released (R278, R280, R285, R286). -/
def execRangeBreakOpen (u : Nat) (s : State) : Out :=
  .next (
    let i := uindex u
    if uclass u = 0x08 then
      let past (t : Option Nat) : Bool := (t.map (fun t => decide (t + 1600 ≤ s.now))).getD false
      let a := s.awOf i
      let off := past a.offAt
      let broken := past a.breakAt
      if !off && !broken then s
      else
        let s := partAw i (modAw i (fun a => { a with
          offAt := if off then none else a.offAt, breakAt := if broken then none else a.breakAt }) s)
        if (s.awOf i).offAt.isSome || (s.awOf i).breakAt.isSome then s
        else setClaim u (if s.awState i = 0 then 0 else if s.flag (A.AW_CFG i) F.AW_CFG.ILIM then 390 else 3450) s
    else
      match (s.pin i).breakAt with
      | some t =>
        if s.now < t + 1600 then s
        else
          let swaps := (s.pin i).zeroed
          openPin i (modPin i (fun p => { p with breakAt := none, zeroed := false }) s)
          |> clearServo i
          |> when swaps (zeroPmuf i (s.force i))
          |> when (s.pin i).partAt.isNone (setClaim (uPin i) (s.modeClaim i (s.mode i)))
      | none => s)

/-- A break of a unit has ended: the strobes of commands whose last break it was are made (R295). -/
def breakEnded (u : Nat) (s : State) : State :=
  let late := s.levels.late.map (fun l => (l.1.filter (· ≠ u), l.2))
  let due := (late.filter (fun l => l.1.isEmpty)).flatMap (·.2)
  let s := { s with levels := { s.levels with late := late.filter (fun l => !l.1.isEmpty) } }
  if due.isEmpty then s else strobe false due s

/-- RANGE_BUSY clears 20 µs after the commit of a break, and the command's strobe is made (R280, R286). -/
def execRangeBusyClear (u : Nat) (s : State) : Out :=
  .next (
    let i := uindex u
    if uclass u = 0x08 then
      match (s.awOf i).rangeAt with
      | some t =>
        if (s.awOf i).breakAt.isSome || s.now < t + us 20 then s
        else breakEnded u (wr (A.AW_STATUS i) F.AW_STATUS.RANGE_BUSY 0 (modAw i (fun a => { a with rangeAt := none }) s))
      | none => s
    else
      match (s.pin i).rangeAt with
      | some t =>
        if (s.pin i).breakAt.isSome || s.now < t + us 20 then s
        else breakEnded u (wr (A.PMU_STATUS i) F.PMU_STATUS.RANGE_BUSY 0 (modPin i (fun p => { p with rangeAt := none }) s))
      | none => s)

/-! ## Supervision (R275, R276) -/

/-- Remote and local sense have differed by more than 1.0 V for 10 µs: local sense, and SENSE_OPEN (R275, R284). -/
def execSenseOpenDetect (u : Nat) (s : State) : Out :=
  .next (
    let i := uindex u
    if uclass u = 0x08 then
      when (s.flag (A.AW_CFG i) F.AW_CFG.SENSE && s.flag (A.AW_STATUS i) F.AW_STATUS.DRV_CONN)
        (wr (A.AW_STATUS i) F.AW_STATUS.SENSE_OPEN 1) s
    else
      when (s.mode i = 2 && s.flag (A.PMU_CFG i) F.PMU_CFG.SENSE && s.pinConn i)
        (wr (A.PMU_STATUS i) F.PMU_STATUS.SENSE_OPEN 1) s)

/-- Each microsecond the loop engine moves the setpoint of a servoed PMU by the error of the measured sense voltage (µV)
against the live PMUF voltage, bounded to ±0.5 V (R276). -/
def execPmuServoTick (n : Nat) (sensed : Int) (s : State) : Out :=
  .next (
    if s.flag (A.PMU_CFG n) F.PMU_CFG.SERVO && s.force n = 0 && s.mode n = 2 && s.pinConn n && (s.pin n).servoAt + 3200 ≤ s.now then
      let target := ((s.codeL n 9 : Int) - 15000) * 800
      let want := (s.pin n).servo + (target - sensed)
      let got := max (-500000) (min 500000 want)
      wr (A.PMU_STATUS n) F.PMU_STATUS.SERVO_SAT (b2n (got ≠ want))
        (modPin n (fun p => { p with servo := got, servoAt := s.now }) s)
    else s)

/-! ## Measurement (R282, R283) -/

/-- The pins a mask of eight words from packet word 5 names. -/
def maskPins (c : Cmd) : List Nat := (List.range 256).filter (fun n => bit (c.w (5 + n / 32)) (n % 32))

/-- 105 % of the full scale of a current range, in its result units (R272, R281). -/
def spanOf (range : Nat) : Int := if range = 5 then 672000000 else 2100000000

/-- PMU_MEASURE starts: it holds its pins until its samples are taken (R282, R283). -/
def execPmuMeasure (q : Nat) (env : CommitEnv) (s : State) : Out :=
  .next (hostCmd q 0x0211 (fun c _ => (maskPins c).map uPin) (fun c s =>
    let n := bits (c.w 4) 31 16
    let delay := bits (c.w 4) 15 0
    let pins := maskPins c
    checked q [lenIs c 9, (n = 0 || 8192 < n || 1000 < delay, 0x0172, 4), (pins.isEmpty, 0x0172, 5)]
      (checkedU q (pins.flatMap (fun p => [
        chkU (s.mode p = 7 || s.retired p) 0x0334 0 (uPin p),
        chkU (s.mode p ≠ 2) 0x0350 (5 + p / 32) (uPin p)]))
      (twoPhase q (pins.map uPin) (if apart (pins.map uPin) then env else {})
        (fun p => forAll (pins.filter (fun n => p (uPin n))) (fun n => modPin n (fun x => { x with strobed := false })))
        (fun s => modCmd q (fun c => { c with
            stage := 1, due := s.unow + 512000 + 4000000 * delay, data := 0 :: 0 :: pins.flatMap (fun _ => [0, 0]) }) s))) s) s)

/-- The sense voltage of a pin is held at a compliance limit, as an observation `clamp` says: only a closed PMU that forces a current
has these limits (R274). -/
def State.clampSeen (s : State) (n : Nat) (clamp : Bool) : Bool := clamp && s.mode n = 2 && s.force n = 1 && s.pinConn n

/-- What a sample adds to a pin: its corrected value and its flags (R282, R283, R412). -/
def State.pmuTake (s : State) (first : Bool) (x : PmuSample) : Int × Nat :=
  let n := x.pin
  let r := s.rd (A.PMU_CFG n) F.PMU_CFG.RANGE
  let current := s.flag (A.PMU_CFG n) F.PMU_CFG.MEAS
  let raw := if current then max (-(spanOf r)) (min (spanOf r) x.value) else x.value
  let v := if current then corrected raw 0 (s.calVal (uPin n) 5 (6 + 4 * r)) (s.calVal (uPin n) 5 (7 + 4 * r))
    else corrected raw 0 (s.calVal (uPin n) 5 2) (s.calVal (uPin n) 5 3)
  (v, b2n (s.flag (A.PIN_STATUS n) F.PIN_STATUS.LIMITING) + 2 * b2n (!s.pinConn n)
    + 4 * b2n (!first && (s.pin n).strobed) + 8 * b2n (s.flag (A.PMU_STATUS n) F.PMU_STATUS.SENSE_OPEN)
    + 16 * b2n (s.clampSeen n x.clamp) + 32 * b2n (first && s.calState (uPin n) ≠ 1) + 64 * b2n (x.sat || raw ≠ x.value))

/-- One sample on every pin of a measurement, one microsecond after the last (R282). -/
def execPmuSample (q : Nat) (samples : List PmuSample) (s : State) : Out :=
  .next (
    match s.running q with
    | none => s
    | some c =>
      let pins := maskPins c
      if c.opcode ≠ 0x0211 || c.stage ≠ 1 || s.unow < c.due || bits (c.w 4) 31 16 ≤ (c.data.getD 0 0).toNat
          || samples.map (·.pin) ≠ pins then s
      else
        let first : Bool := c.data.getD 0 0 = 0
        let sums := samples.zipIdx.flatMap (fun p =>
          let (v, f) := s.pmuTake first p.1
          [c.data.getD (2 + 2 * p.2) 0 + v, (((c.data.getD (3 + 2 * p.2) 0).toNat ||| f : Nat) : Int)])
        let stamp : Int := if first then (s.coarseOf (c.due / 1250) : Int) else c.data.getD 1 0
        let s := forAll samples (fun x s =>
          wr (A.PMU_STATUS x.pin) F.PMU_STATUS.CLAMPING (b2n (s.clampSeen x.pin x.clamp)) (modPin x.pin (fun p => { p with strobed := false }) s)) s
        modCmd q (fun d => { d with due := c.due + 4000000, data := (c.data.getD 0 0 + 1) :: stamp :: sums }) s)

/-- The loop engines return the means and the command completes (R282). -/
def execPmuMeasureDone (q : Nat) (s : State) : Out :=
  .next (
    match s.running q with
    | none => s
    | some c =>
      let n := bits (c.w 4) 31 16
      if c.opcode ≠ 0x0211 || c.stage ≠ 1 || c.data.getD 0 0 ≠ n then s
      else
        let pins := maskPins c
        let stamp := (c.data.getD 1 0).toNat
        ok q ([word (n * 2 ^ 16 + pins.length), word stamp, word (stamp / 2 ^ 32)] ++ pins.zipIdx.flatMap (fun p =>
          let cfg := s.reg (A.PMU_CFG p.1)
          [word (p.1 * 2 ^ 16 + fget cfg F.PMU_CFG.RANGE * 256 + 128 * (1 - fget cfg F.PMU_CFG.MEAS)
              + (c.data.getD (3 + 2 * p.2) 0).toNat),
            word (toTwos 32 (roundDiv (c.data.getD (2 + 2 * p.2) 0) n))])) s)

end Sys2Proof.Machine
end

