-- ==== Sys2Proof/Machine/Sources.lean ====
section
/-! DEFINITION. The source channels: configuration, waveform memory, sequences, starts, triggers, jumps and stops (R284 to
R295). -/

namespace Sys2Proof.Machine

/-! ## Configuration (R284 to R286, R295) -/

/-- A record of AW_SET. -/
structure AwRec where
  at_ : Nat
  ch : Nat
  enable : Nat
  range : Nat
  ilim : Nat
  sense : Nat
  dwell : Nat
  group : Nat
  idle : Nat
  deriving DecidableEq, Repr

/-- The record `i` of an AW_SET packet. -/
def awRec (c : Cmd) (i : Nat) : AwRec where
  at_ := 5 + i
  ch := bits (c.w (5 + i)) 31 27
  enable := bits (c.w (5 + i)) 26 26
  range := bits (c.w (5 + i)) 25 25
  ilim := bits (c.w (5 + i)) 24 24
  sense := bits (c.w (5 + i)) 23 23
  dwell := bits (c.w (5 + i)) 22 20
  group := bits (c.w (5 + i)) 19 16
  idle := bits (c.w (5 + i)) 15 0

/-- A source-channel code lies within ±32,000 (R284). -/
def awCodeOk (code : Nat) : Bool := (sext 16 code).natAbs ≤ 32000

/-- The power claim of a current limit (R284). -/
def awClaim (ilim : Nat) : Nat := if ilim = 0 then 3450 else 390

/-- A record changes RANGE or ILIM. -/
def AwRec.changes (r : AwRec) (s : State) : Bool :=
  s.rd (A.AW_CFG r.ch) F.AW_CFG.RANGE ≠ r.range || s.rd (A.AW_CFG r.ch) F.AW_CFG.ILIM ≠ r.ilim

/-- A record starts a break of an enabled channel that stays enabled (R286). -/
def AwRec.breaks (r : AwRec) (s : State) : Bool :=
  r.enable = 1 && (s.awState r.ch = 1 || s.awState r.ch = 4) && r.changes s

/-- A sequence stops by any means (R292, R294): the channel enters `state`; a trigger and a jump lapse. -/
def stopSeq (k state : Nat) (s : State) : State :=
  modAw k (fun a => { a with jump := none, late := false, gen := 0 }) s
  |> wr (A.AW_STATUS k) F.AW_STATUS.STATE state
  |> wr (A.AW_STATUS k) F.AW_STATUS.TRIG_PEND 0
  |> wr (A.AW_STATUS k) F.AW_STATUS.JUMP_PENDING 0

def State.awSeg (s : State) (k g : Nat) : Option AwSeg := kget (fun _ => none) (s.awOf k).segs g

/-- A step of a sequence table; one that nothing has written is SEG 0 with REPEAT 1 (DESIGN CHOICE, log entry 33). -/
def State.awStep (s : State) (k i : Nat) : Word × Word := kget (fun _ => (0, 1)) (s.awOf k).steps i

/-- The updates a segment lasts (R289). -/
def AwSeg.updates (g : AwSeg) : Nat :=
  let step := if g.step = 0 then 2 ^ 32 else g.step
  (g.samples.length * 2 ^ 32 + step - 1) / step

/-- The segment of a step. -/
def State.stepSeg (s : State) (k i : Nat) : Option AwSeg := s.awSeg k (bits (s.awStep k i).1 9 0)

/-- The value of update `j` of a segment before clipping: a segment at 500 MS/s plays its samples; the values a resampler gives between
samples are not stated (R289; DESIGN CHOICE, log entry 34). -/
def AwSeg.value (g : AwSeg) (j : Nat) : Int :=
  if g.step = 0 then g.samples.getD j 0 else Config.resampled g.step g.samples j

/-- What a repetition's first `n` updates clip, as (AW_SAT, CAL_CLIP): beyond ±32,000, and beyond the converter's range once
corrected (R289, R412). Each segment plays identically wherever it stands. -/
def State.clips (s : State) (k : Nat) (g : AwSeg) (n : Nat) : Nat × Nat :=
  let r := s.rd (A.AW_CFG k) F.AW_CFG.RANGE
  let out (v : Int) : Int := corrected v 0 (s.calVal (uAw k) 6 (2 * r)) (s.calVal (uAw k) 6 (2 * r + 1))
  let vs := (List.range n).map g.value
  ((vs.filter (fun v => 32000 < v.natAbs)).length,
    (vs.filter (fun v => let w := out (max (-32000) (min 32000 v)); w < -32768 || 32767 < w)).length)

/-- The clipped updates of the present repetition up to time `t` are counted. -/
def countPlayed (k t : Nat) (s : State) : State :=
  match s.stepSeg k (s.rd (A.AW_POS k) F.AW_POS.STEP) with
  | some g =>
    let c := s.clips k g (min g.updates ((t - (s.awOf k).began) / 8000))
    bumpBy (A.CAL_CLIP (k / 8)) F.CAL_CLIP.COUNT c.2 (bumpBy (A.AW_SAT k) F.AW_SAT.COUNT c.1 s)
  | none => s

/-- A record of AW_SET at its commit (R285, R286). A break goes on although the channel is disabled in it, so that the strobe of its
command is made at its end (R295; DESIGN CHOICE, log entry 89). -/
def AwRec.put (r : AwRec) (s : State) : State :=
  let k := r.ch
  let breaks := r.breaks s
  let old := s.awState k
  let sensed := s.rd (A.AW_CFG k) F.AW_CFG.SENSE
  let s := s
    |> wr (A.AW_CFG k) F.AW_CFG.ENABLE r.enable |> wr (A.AW_CFG k) F.AW_CFG.RANGE r.range
    |> wr (A.AW_CFG k) F.AW_CFG.ILIM r.ilim |> wr (A.AW_CFG k) F.AW_CFG.SENSE r.sense
    |> wr (A.AW_CFG k) F.AW_CFG.DWELL r.dwell |> wrBoth (A.AW_CFG k) F.AW_CFG.GROUP r.group
    |> wrS (A.AW_IDLE k) F.AW_IDLE.CODE r.idle
    |> when (sensed ≠ r.sense) (wr (A.AW_STATUS k) F.AW_STATUS.SENSE_OPEN 0)
  if r.enable = 0 then
    if old = 0 then s
    else modAw k (fun a => { a with offAt := some s.now, closeAt := none, start := none, stopAt := [] })
      (stopSeq k 0 (when (old = 3) (countPlayed k s.unow) s))
  else if old = 0 then
    modAw k (fun a => { a with last := none }) s
    |> wr (A.AW_STATUS k) F.AW_STATUS.STATE 1
    |> wr (A.AW_STATUS k) F.AW_STATUS.LOADED 0
  else if breaks then
    wr (A.AW_STATUS k) F.AW_STATUS.RANGE_BUSY 1
      (modAw k (fun a => { a with rangeAt := some s.now, breakAt := some (a.breakAt.getD s.now), closeAt := none }) s)
  else s

/-- The source channels a list names, rising, each once. -/
def awNamed (l : List Nat) : List Nat := (List.range 32).filter l.contains

/-- More than one die (R295). -/
def manyDies (chs : List Nat) : Bool := 1 < ((chs.map (· / 8)).eraseDups).length

/-- AW_SET (R285, R286, R295). A channel holds the greater of its claims until its switch opens. -/
def execAwSet (q : Nat) (env : CommitEnv) (s : State) : Out :=
  .next (hostCmd q 0x0501
    (fun c _ => (awNamed ((List.range (min 32 (bits (c.w 4) 15 0))).map (fun i => (awRec c i).ch))).map uAw) (fun c s =>
    let n := bits (c.w 4) 15 0
    let recs := (List.range (min n 32)).map (awRec c)
    let chs := awNamed (recs.map (·.ch))
    let final := chs.filterMap (fun k => (recs.filter (·.ch = k)).getLast?)
    let multi := manyDies chs
    checked q [chk (c.payload ≠ 1 + n) 0x0104 1, resv c 4 30 16, (n = 0 || 32 < n, 0x0180, 4)]
      (checkedU q (recs.flatMap (fun r => [
        chkU (3 < r.dwell || !awCodeOk r.idle) 0x0180 r.at_ 0,
        chkU ((s.awState r.ch = 2 || s.awState r.ch = 3) && ((final.find? (·.ch = r.ch)).getD r).changes s) 0x0351 r.at_ (uAw r.ch)]))
      (fun s => claimPhase q (chs.map uAw)
        ((final.filter (·.enable = 1)).map (fun r => (uAw r.ch, max (awClaim r.ilim) (s.claimOf (uAw r.ch)), s.claimOf (uAw r.ch)))) multi
        (if multi then env else {})
        (fun p s =>
          let mine := final.filter (fun r => p (uAw r.ch))
          let broken := (mine.filter (·.breaks s)).map (fun r => uAw r.ch)
          let groups := (recs.filter (fun r => p (uAw r.ch))).map (fun r => (r.ch / 8, r.group))
          let write (s : State) : State := forAll mine AwRec.put s
          if !bit (c.w 4) 31 then write s
          else if broken.isEmpty then strobe false groups (early write s)
          else
            let s := write s
            { s with levels := { s.levels with late := s.levels.late ++ [(broken, groups)] } })
        (ok q []) s)) s) s)

/-! ## Waveform memory and sequences (R288 to R290) -/

/-- The samples of waveform memory a segment of `n` samples takes (R288). -/
def blocks64 (n : Nat) : Nat := (n + 63) / 64 * 64

/-- The waveform memory of a die that its channels' segments take, without segment `skip`. -/
def State.awTaken (s : State) (d : Nat) (skip : Option (Nat × Nat)) : Nat :=
  (((List.range 8).map (8 * d + ·)).flatMap (fun k => (s.awOf k).segs.map (fun p =>
    if skip = some (k, p.1) then 0 else (p.2.map (fun g => blocks64 g.samples.length)).getD 0))).sum

/-- The waveform samples of a die. -/
def waveSamples : Nat := 2097152

/-- AW_MEM shows the free samples of a die. -/
def refreshMem (d : Nat) (s : State) : State :=
  wr (A.AW_MEM d) F.AW_MEM.FREE (waveSamples - s.awTaken d none) s

/-- The samples packed two to a word, sample 2i low. -/
def unpackSamples (ws : List Word) (n : Nat) : List Nat := (ws.flatMap (fun w => [bits w 15 0, bits w 31 16])).take n

/-- AW_SEG_LOAD (R288); `data` are the words read from host memory, none where a read fails (R76, R91). -/
def execAwSegLoad (q : Nat) (data : Option (List Word)) (s : State) : Out :=
  .next (hostCmd q 0x0502 (fun c _ => [uAw (bits (c.w 4) 14 10)]) (fun c s =>
    let k := bits (c.w 4) 14 10
    let g := bits (c.w 4) 9 0
    let n := (c.w 6).toNat
    let samples := unpackSamples (data.getD []) n
    let bad := samples.findIdx? (fun v => !awCodeOk v)
    checked q [lenIs c 5, resv c 4 31 15, (n = 0 || waveSamples < n, 0x0181, 6), resv c 7 1 0]
      (checkedU q [
        chkU (s.awState k = 2 || s.awState k = 3) 0x0351 0 (uAw k),
        chkU (waveSamples < s.awTaken (k / 8) (some (k, g)) + blocks64 n) 0x0250 0 0]
      (fun s =>
        if s.dmaWaits then s
        else if data.isNone || samples.length < n then finish q 0x0602 0 [] s
        else match bad with
        | some i => finish q 0x0181 7 [word i] s
        | none =>
          let s := refreshMem (k / 8) (modAw k (fun a => { a with
            segs := kset (fun _ => none) a.segs g (some ⟨(c.w 5).toNat, samples.map (fun v => sext 16 v)⟩) }) s)
          ok q [word (s.rd (A.AW_MEM (k / 8)) F.AW_MEM.FREE)] s)) s) s)

/-- AW_SEQ_LOAD (R290). -/
def execAwSeqLoad (q : Nat) (s : State) : Out :=
  .next (hostCmd q 0x0503 (fun c _ => [uAw (bits (c.w 4) 31 27)]) (fun c s =>
    let k := bits (c.w 4) 31 27
    let first := bits (c.w 4) 11 0
    let n := bits (c.w 5) 12 0
    let at_ := (List.range (min n 4096)).map (fun i => (i, 6 + 2 * i))
    checked q ([chk (c.payload ≠ 2 + 2 * n) 0x0104 1, resv c 4 26 12, resv c 5 31 13,
        (n = 0 || 4096 < n, 0x0180, 5), (4096 < first + n, 0x0180, 4)]
      ++ at_.flatMap (fun p => [resv c p.2 28 28, resv c p.2 25 24, resv c p.2 11 10,
        (c.w (p.2 + 1) = 0 && !bit (c.w p.2) 29, 0x0180, p.2 + 1)]))
      (checkedU q [chkU (s.awState k = 2 || s.awState k = 3) 0x0351 0 (uAw k)]
        (fun s => ok q [] (modAw k (fun a => { a with
          steps := at_.foldl (fun m p => kset (fun _ => (0, 1)) m (first + p.1) (c.w p.2, c.w (p.2 + 1))) a.steps }) s))) s) s)

/-- The first step reachable through NEXTM from `i` that fails a check of R291. -/
def State.badStep (s : State) (k : Nat) : Nat → Nat → Option Nat
  | 0, _ => none
  | n + 1, i =>
    let w := (s.awStep k i).1
    let unfit : Bool := match s.stepSeg k i with
      | some g => g.updates < 32
      | none => true
    let inf := bit w 29
    if unfit || (!inf && bits w 27 26 = 0 && i = 4095) then some i
    else if inf || 2 ≤ bits w 27 26 then none
    else s.badStep k n (if bits w 27 26 = 0 then i + 1 else bits w 23 12)

/-! ## Playing (R289 to R294) -/

/-- A repetition of the present step begins at time `t`. -/
def beginRep (k t : Nat) (s : State) : State :=
  let d := ((s.stepSeg k (s.rd (A.AW_POS k) F.AW_POS.STEP)).map AwSeg.updates).getD 0
  modAw k (fun a => { a with began := t, boundary := t + 8000 * d }) s

/-- Step `i` starts playing at time `t`; its beacon carries generation `gen` (R290, R291, R393). -/
def playStep (k i t gen : Nat) (s : State) : State :=
  let w := (s.awStep k i).1
  let s := s
    |> wr (A.AW_STATUS k) F.AW_STATUS.STATE 3
    |> wr (A.AW_POS k) F.AW_POS.STEP i |> wr (A.AW_POS k) F.AW_POS.SEG (bits w 9 0)
    |> wr (A.AW_REP k) F.AW_REP.DONE 0
    |> modAw k (fun a => { a with last := some i })
  beginRep k t (when (bit w 30) (fireAt (48 + k) 0 gen (s.stampAt t) (tickOf t)) s)

/-- Something of a channel that is due before time `t` has yet to act: what happens on a channel happens in the order of its times. -/
def State.awOwes (s : State) (k t : Nat) : Bool :=
  let a := s.awOf k
  (a.start.map (fun x => decide (x.1 < t))).getD false || a.stopAt.any (· < t)
    || (s.awState k = 3 && a.boundary < t) || a.trigs.any (·.due < t)
    || (s.awState k = 2 && (a.jump.map (fun x => decide (max x.1 a.began < t))).getD false)

/-- Step `i` is reached at time `t`: a WAIT step without TRIG_PEND waits (R292). -/
def reachStep (k i t : Nat) (s : State) : State :=
  let w := (s.awStep k i).1
  if !bit w 31 then playStep k i t 0 s
  else if s.flag (A.AW_STATUS k) F.AW_STATUS.TRIG_PEND then
    playStep k i t ((s.awOf k).gen + 1) (wr (A.AW_STATUS k) F.AW_STATUS.TRIG_PEND 0 s)
  else
    s |> wr (A.AW_STATUS k) F.AW_STATUS.STATE 2
      |> wr (A.AW_POS k) F.AW_POS.STEP i |> wr (A.AW_POS k) F.AW_POS.SEG (bits w 9 0)
      |> wr (A.AW_REP k) F.AW_REP.DONE 0
      |> modAw k (fun a => { a with began := t })

/-- AW_RUN (R291, R295). A stop commanded earlier for the same update gives way (DESIGN CHOICE, log entry 89). -/
def execAwRun (q : Nat) (env : CommitEnv) (s : State) : Out :=
  .next (hostCmd q 0x0504 (fun c _ => (bitList 32 (c.w 4).toNat).map uAw) (fun c s =>
    let chs := bitList 32 (c.w 4).toNat
    let start := bits (c.w 5) 11 0
    let bad := chs.findSome? (fun k => (s.badStep k 4096 start).map (fun i => (k, i)))
    let multi := manyDies chs
    checked q [lenIs c 2, resv c 5 31 12, (chs.isEmpty, 0x0180, 4)] (fun s =>
      match bad with
      | some (k, i) => finish q 0x0182 5 [word k, word i] s
      | none =>
        checkedU q (chs.map (fun k => chkU (s.awState k = 2 || s.awState k = 3) 0x0351 0 (uAw k))
            ++ chs.map (fun k => chkU (s.awState k = 0) 0x0352 0 (uAw k)))
          (fun s => twoPhase q (chs.map uAw) (if multi then env else {})
            (fun p => forAll (chs.filter (fun k => p (uAw k))) (fun k s =>
              wr (A.AW_STATUS k) F.AW_STATUS.TRIG_PEND 0
                (modAw k (fun a => { a with
                  start := some (s.unow + 512000, start), stopAt := a.stopAt.filter (· ≠ s.unow + 512000) }) s)))
            (ok q []) s) s) s) s)

/-- Named channels enter waiting or playing 128 ns after the commit of AW_RUN (R291). -/
def execAwRunStart (s : State) : Out :=
  .next (forAll (List.range 32) (fun k s =>
    match (s.awOf k).start with
    | some (t, i) =>
      if s.unow < t || s.awOwes k t then s
      else reachStep k i t (modAw k (fun a => { a with start := none }) s)
    | none => s) s)

/-- AW_STOP (R294). -/
def execAwStop (q : Nat) (env : CommitEnv) (s : State) : Out :=
  .next (hostCmd q 0x0505 (fun c _ => (bitList 32 (c.w 4).toNat).map uAw) (fun c s =>
    let chans := bitList 32 (c.w 4).toNat
    checked q [lenIs c 1, (c.w 4 = 0, 0x0180, 4)]
      (twoPhase q (chans.map uAw) (if apart (chans.map uAw) then env else {})
        (fun p => forAll (chans.filter (fun k => p (uAw k))) (fun k s =>
          when (s.awState k ≠ 0) (fun s => wr (A.AW_STATUS k) F.AW_STATUS.TRIG_PEND 0
            (modAw k (fun a => { a with stopAt := a.stopAt ++ [s.unow + 512000] }) s)) s)) (ok q [])) s) s)

/-- A stop acts on a channel at time `t` (R294). -/
def stopNow (k t : Nat) (s : State) : State :=
  stopSeq k 1 (when (s.awState k = 3) (countPlayed k t) s)

/-- Named channels go idle at the update 128 ns after AW_STOP (R294); at a boundary the stop is the boundary's. -/
def execAwStopAct (s : State) : Out :=
  .next (forAll (List.range 32) (fun k s =>
    match (s.awOf k).stopAt with
    | t :: rest =>
      let started : Bool := ((s.awOf k).start.map (fun x => decide (x.1 = t))).getD false
      if s.unow < t || s.awOwes k t || started || (s.awState k = 3 && (s.awOf k).boundary = t) then s
      else
        let s := modAw k (fun a => { a with stopAt := rest }) s
        if s.awState k = 0 then s else stopNow k t s
    | [] => s) s)

/-- AW_JUMP (R293). -/
def execAwJump (q : Nat) (s : State) : Out :=
  .next (hostCmd q 0x0506 (fun c _ => [uAw (bits (c.w 4) 31 27)]) (fun c s =>
    let k := bits (c.w 4) 31 27
    let i := bits (c.w 4) 11 0
    checked q [lenIs c 1, resv c 4 26 12, ((s.badStep k 4096 i).isSome, 0x0183, 4)]
      (checkedU q [chkU (s.awState k ≠ 2 && s.awState k ≠ 3) 0x0352 0 (uAw k)] (fun s =>
        let replaced : Bool := (s.awOf k).jump.isSome
        let s := wr (A.AW_STATUS k) F.AW_STATUS.JUMP_PENDING 1
          (modAw k (fun a => { a with jump := some (s.unow + 512000, i), late := false }) s)
        finish q (b2n replaced) (b2n replaced) [] s)) s) s)

/-- A pending jump is taken at time `t`. -/
def takeJump (k i t : Nat) (s : State) : State :=
  reachStep k i t (wr (A.AW_STATUS k) F.AW_STATUS.JUMP_PENDING 0
    (modAw k (fun a => { a with jump := none, late := false }) s))

/-- A jump request present after the decision point of the boundary `b` that follows is late (R293). -/
def markLate (k b : Nat) (s : State) : State :=
  match (s.awOf k).jump with
  | some (p, _) =>
    if b < p + 128000 && p ≤ b && !(s.awOf k).late then
      raise (A.AW_STATUS k) F.AW_STATUS.JUMP_DEFERRED (modAw k (fun a => { a with late := true }) s)
    else s
  | none => s

/-- A jump request becomes present: a waiting channel takes it at the first update after, a playing one may find it late (R293). -/
def execAwJumpPresent (k : Nat) (s : State) : Out :=
  .next (
    match (s.awOf k).jump with
    | some (p, i) =>
      if s.unow < p || s.awOwes k p then s
      else if s.awState k = 2 then takeJump k i (max p (s.awOf k).began) s
      else if s.awState k = 3 then markLate k (s.awOf k).boundary s
      else s
    | none => s)

/-- The end of a repetition of a playing channel (R290 to R294). -/
def execAwBoundary (k : Nat) (s : State) : Out :=
  .next (
    let a := s.awOf k
    let b := a.boundary
    if s.awState k ≠ 3 || s.unow < b || s.awOwes k b then s
    else
      let s := bump (A.AW_REP k) F.AW_REP.DONE (countPlayed k b s)
      if a.stopAt.contains b then stopSeq k 1 (modAw k (fun a => { a with stopAt := a.stopAt.filter (· ≠ b) }) s)
      else
        let s := markLate k b s
        let i := s.rd (A.AW_POS k) F.AW_POS.STEP
        let w := s.awStep k i
        let jump := a.jump.bind (fun j => if j.1 + 128000 ≤ b then some j.2 else none)
        match jump with
        | some j => takeJump k j b s
        | none =>
          if bit w.1 29 || s.rd (A.AW_REP k) F.AW_REP.DONE < w.2.toNat then beginRep k b s
          else match bits w.1 27 26 with
            | 0 => reachStep k (i + 1) b s
            | 1 => reachStep k (bits w.1 23 12) b s
            | 2 => stopSeq k 4 s
            | _ => stopSeq k 1 s)

/-- The earliest arrival that is due, and the rest. -/
def takeDue (now : Nat) : List Arrival → Option (Arrival × List Arrival)
  | [] => none
  | a :: l => if a.due ≤ now then some (a, l) else (takeDue now l).map (fun r => (r.1, a :: r.2))

/-- An input of a die met a busy unit (R396). -/
def inputOverrun (d i : Nat) (s : State) : State :=
  if i < 32 then raiseBits (A.PR_DIN_OVR_LO d) F.PR_DIN_OVR_LO.VALUE (2 ^ i) s
  else raiseBits (A.PR_DIN_OVR_HI d) F.PR_DIN_OVR_HI.VALUE (2 ^ (i - 32)) s

/-- The first update of a waiting channel at or after time `t`: updates come every 8,000 timing units (R284, R292). -/
def State.firstUpdate (s : State) (k t : Nat) : Nat :=
  let b := (s.awOf k).began
  b + (t - b + 7999) / 8000 * 8000

/-- An event becomes present at a channel's AW_TRIG (R292). -/
def execAwTrigPresent (k : Nat) (s : State) : Out :=
  .next (
    match takeDue s.unow (s.awOf k).trigs with
    | none => s
    | some (e, rest) =>
      if s.awOwes k e.due || (s.awState k = 3 && (s.awOf k).boundary = e.due) then s else
      let s := modAw k (fun a => { a with trigs := rest }) s
      match s.awState k with
      | 2 => playStep k (s.rd (A.AW_POS k) F.AW_POS.STEP) (s.firstUpdate k e.due) (e.gen + 1) s
      | 3 =>
        if s.flag (A.AW_STATUS k) F.AW_STATUS.TRIG_PEND then inputOverrun (k / 8) (k % 8) s
        else wr (A.AW_STATUS k) F.AW_STATUS.TRIG_PEND 1 (modAw k (fun a => { a with gen := e.gen }) s)
      | _ => s)

end Sys2Proof.Machine
end

