-- ==== Sys2Proof/Machine/Monitors.lean ====
section
/-! DEFINITION. The window monitors: comparisons, resolving, eclipse, gated output and tap converter, and the updates of the
level DACs (R240, R296 to R306, R319, R321). -/

namespace Sys2Proof.Machine

/-! ## Inputs and thresholds (R296 to R298, R302) -/

/-- The top valid threshold code of a range (R297). -/
def wmTop (range : Nat) : Nat := if range = 0 then 3360 else 4095

/-- Fields of WM_CFG. -/
def State.wmSpeed (s : State) (k : Nat) : Nat := s.wmCfg k 24 23
def State.wmRange (s : State) (k : Nat) : Nat := s.wmCfg k 22 22
def State.wmCond (s : State) (k : Nat) : Nat := s.wmCfg k 13 12
def State.wmLink (s : State) (k : Nat) : Nat := 8 * (k / 16) + s.wmCfg k 6 4
def State.wmEclEdge (s : State) (k : Nat) : Nat := s.wmCfg k 3 2

/-- The pin a source names, if it names one (R296). -/
def wmPin (k type idx : Nat) : Option Nat := if type ≤ 1 then some (64 * (k / 16) + idx) else none

/-- The pin a monitor senses is retired, or was and the monitor has been given no other source since (R306). -/
def State.wmLost (s : State) (k : Nat) : Bool :=
  match wmPin k (s.wmCfg k 21 20) (s.wmCfg k 19 14) with
  | some n => s.mode n = 7 || s.retired n || (s.wmOf k).lost
  | none => false

/-- One code in the fine scale of comparisons: a ramp moves a threshold by SLOPE of these each timing unit (R302). -/
def fine : Nat := 400000

/-- The effective thresholds TH_HI and TH_LO of a monitor at time `t`, in codes times `fine` (R298, R302). -/
def State.wmThresholds (s : State) (k t : Nat) : Int × Int :=
  let ramp : Nat := match (s.wmOf k).ramp with
    | some r => r.2 + s.rd (A.WM_SHAPE k) F.WM_SHAPE.SLOPE * (t - r.1)
    | none => 0
  let top := wmTop (s.wmRange k) * fine
  let hi := s.rd (A.WM_LIVE k) F.WM_LIVE.TH_HI * fine
  let lo := s.rd (A.WM_LIVE k) F.WM_LIVE.TH_LO * fine
  if s.wmCfg k 7 7 = 0 then ((max 0 ((hi : Int) - ramp)), (lo : Int)) else ((hi : Int), ((min top (lo + ramp) : Nat) : Int))

/-- The input of a monitor in the scale of its thresholds: µV to codes times `fine` (R297). -/
def State.wmInput (s : State) (k : Nat) : Int :=
  let v := (s.wmOf k).input
  if s.wmRange k = 0 then v * 32 + 960 * fine else v * 320 + 2048 * fine

/-- The input lies outside the hysteresis band of every comparison the COND uses (R300). -/
def State.wmClear (s : State) (k t : Nat) : Bool :=
  let v := s.wmInput k
  let (hi, lo) := s.wmThresholds k t
  let h : Int := s.rd (A.WM_SHAPE k) F.WM_SHAPE.HYS * fine
  let a : Bool := hi < v || v < hi - h
  let b : Bool := v < lo || lo + h < v
  match s.wmCond k with
  | 0 => a
  | 1 => b
  | _ => a && b

/-- The output a monitor's comparisons give (R298). -/
def condActive (cond : Nat) (above below : Bool) : Bool :=
  match cond with
  | 0 => above
  | 1 => below
  | 2 => above || below
  | _ => !above && !below

/-- The output and the gated output follow at time `t`; each time the gated output becomes active it is counted and WM_OUT fires with
the coarse stamp of the first tick at or after the change (R303, R305). -/
def refreshOut (k t : Nat) (s : State) : State :=
  let m := s.wmOf k
  let out : Bool := s.wmEnabled k && !m.held && !s.calBusy (uWm k) && !s.wmLost k && !m.resolving
    && condActive (s.wmCond k) m.above m.below
  let gated : Bool := out && m.eclipse.isNone
  let was := s.flag (A.WM_STATUS k) F.WM_STATUS.GATED
  let s := s
    |> wr (A.WM_STATUS k) F.WM_STATUS.OUT (b2n out)
    |> wr (A.WM_STATUS k) F.WM_STATUS.GATED (b2n gated)
    |> wr (A.WM_STATUS k) F.WM_STATUS.ECLIPSED (b2n m.eclipse.isSome)
    |> wr (A.WM_STATUS k) F.WM_STATUS.UNRESOLVED (b2n m.resolving)
  when (gated && !was) (fun s => fireAt (80 + k) 0 0 (s.coarseAt t) (tickOf t)
    (bump (A.WM_COUNT k) F.WM_COUNT.COUNT (modWm k (fun m => { m with gatedAt := t }) s))) s

/-- A monitor compares its input with its effective thresholds of time `t`; resolving may end (R298, R300). -/
def compareNow (k t : Nat) (s : State) : State :=
  let v := s.wmInput k
  let (hi, lo) := s.wmThresholds k t
  let h : Int := s.rd (A.WM_SHAPE k) F.WM_SHAPE.HYS * fine
  let m := s.wmOf k
  let above : Bool := if hi < v then true else if v < hi - h then false else m.above
  let below : Bool := if v < lo then true else if lo + h < v then false else m.below
  let ready : Bool := s.wmEnabled k && m.settleAt.isNone && m.loaded && !s.wmLost k
  let resolving : Bool := m.resolving && !(ready && s.wmClear k t)
  refreshOut k t (modWm k (fun m => { m with above := above, below := below, resolving := resolving }) s)

/-! ## Configuration (R299 to R301, R319, R321) -/

/-- A record of WM_SET. -/
structure WmRec where
  at_ : Nat
  wm : Nat
  a : Word
  b : Word
  c : Word
  deriving DecidableEq, Repr

/-- The record `i` of a WM_SET packet. -/
def wmRec (c : Cmd) (i : Nat) : WmRec where
  at_ := 5 + 3 * i
  wm := bits (c.w (5 + 3 * i)) 31 26
  a := c.w (5 + 3 * i)
  b := c.w (6 + 3 * i)
  c := c.w (7 + 3 * i)

/-- The word of the first field of a record that R296 to R298 do not allow, 0 where none. -/
def WmRec.badAt (r : WmRec) : Nat :=
  let type := bits r.a 21 20
  let range := bits r.a 22 22
  if (2 ≤ type && 7 < bits r.a 19 14) || (type = 2 && range = 0) then r.at_
  else if wmTop range < bits r.b 27 16 || wmTop range < bits r.b 11 0
      || (2 ≤ bits r.a 13 12 && bits r.b 27 16 ≤ bits r.b 11 0) then r.at_ + 1
  else 0

/-- A record lowers the protection that a guarded monitor gives (R319). -/
def WmRec.lowers (r : WmRec) (s : State) : Bool :=
  let old := s.reg (A.WM_CFG r.wm)
  s.guarded r.wm && (bits r.a 25 25 = 0 || bits r.a 22 14 ≠ bits old 22 14 || bits r.a 13 12 ≠ bits old 13 12
    || bits r.a 6 4 ≠ bits old 6 4 || bits r.a 3 2 ≠ bits old 3 2 || bits old 24 23 < bits r.a 24 23)

/-- The settle time of a speed, in ticks (R299). -/
def settleTicks (speed : Nat) : Nat := match speed with | 0 => us 1 | 1 => us 5 | 2 => us 50 | _ => us 1000

/-- A record of WM_SET at its commit: an enable or a change of SPEED, RANGE, source or COND starts resolving (R300); another source
replaces a lost one (R306); a changed LINK ends the ramp, which the new engine's next leading edge starts (R302; DESIGN CHOICE,
log entry 89); thresholds and shape go to the shadow (R301). -/
def WmRec.put (r : WmRec) (s : State) : State :=
  let k := r.wm
  let old := s.reg (A.WM_CFG k)
  let on : Bool := bits r.a 25 25 = 1
  let enables : Bool := on && bits old 25 25 = 0
  let restarts : Bool := enables || bits r.a 24 12 ≠ bits old 24 12
  let moved : Bool := bits r.a 21 14 ≠ bits old 21 14
  let relinked : Bool := bits r.a 6 4 ≠ bits old 6 4
  wrBoth (A.WM_CFG k) F.WM_CFG.WORD (bits r.a 25 0) s
  |> setShd (A.WM_TH k) r.b
  |> setShd (A.WM_SHAPE k) r.c
  |> when enables (wr (A.WM_STATUS k) F.WM_STATUS.LOADED 0)
  |> when restarts (fun s => modWm k (fun m => { m with
       settleAt := some (s.now + settleTicks (bits r.a 24 23)), loaded := false, resolving := true, epoch := m.epoch + 1
       lost := m.lost && !moved }) s)
  |> when relinked (modWm k (fun m => { m with ramp := none }))
  |> wr (A.WM_TAP k) F.WM_TAP.VALID (b2n (on && bits r.a 24 23 ≤ 1))
  |> refreshOut k s.unow

/-- The monitors a list names, rising, each once. -/
def wmNamed (l : List Nat) : List Nat := (List.range 64).filter l.contains

/-- WM_SET (R296 to R301, R319, R321). -/
def execWmSet (q : Nat) (env : CommitEnv) (s : State) : Out :=
  .next (hostCmd q 0x0520
    (fun c _ => (wmNamed ((List.range (min 64 (bits (c.w 4) 15 0))).map (fun i => (wmRec c i).wm))).map uWm) (fun c s =>
    let n := bits (c.w 4) 15 0
    let recs := (List.range (min n 64)).map (wmRec c)
    let wms := wmNamed (recs.map (·.wm))
    let final := wms.filterMap (fun k => (recs.filter (·.wm = k)).getLast?)
    let last (r : WmRec) : WmRec := (final.find? (·.wm = r.wm)).getD r
    let multi : Bool := 1 < ((wms.map (· / 16)).eraseDups).length
    let gone (r : WmRec) : Option Nat :=
      (wmPin r.wm (bits r.a 21 20) (bits r.a 19 14)).filter (fun n => s.mode n = 7 || s.retired n)
    checked q [chk (c.payload ≠ 1 + 3 * n) 0x0104 1, resv c 4 30 16, (n = 0 || 64 < n, 0x0190, 4)]
      (checkedU q (recs.flatMap (fun r => [
        chkU (bits r.a 1 0 ≠ 0) 0x0101 r.at_ 0,
        chkU (bits r.b 31 28 ≠ 0 || bits r.b 15 12 ≠ 0) 0x0101 (r.at_ + 1) 0,
        chkU (r.badAt ≠ 0) 0x0190 r.badAt 0,
        chkU (gone r).isSome 0x0334 0 (uPin ((gone r).getD 0)),
        chkU ((last r).lowers s) 0x0360 0 (uPg ((s.guard r.wm).getD 0))]))
      (fun s => twoPhase q (wms.map uWm) (if multi then env else {})
        (fun p s =>
          let mine := final.filter (fun r => p (uWm r.wm))
          let groups := (recs.filter (fun r => p (uWm r.wm))).map (fun r => (r.wm / 16, bits r.a 11 8))
          let write (s : State) : State := forAll mine WmRec.put s
          if bit (c.w 4) 31 then strobe false groups (early write s) else write s)
        (ok q []) s)) s) s)

/-! ## Events in time (R298 to R305) -/

/-- The input of a monitor is `v` µV as it crosses an effective threshold (R298). -/
def execWmInputCrossing (k : Nat) (v : Int) (s : State) : Out :=
  .next (if 63 < k then s else compareNow k s.unow (modWm k (fun m => { m with input := v }) s))

/-- The settle time of a monitor passes (R299, R300). -/
def execWmSettleExpire (k : Nat) (s : State) : Out :=
  .next (
    match (s.wmOf k).settleAt with
    | some t => if s.now < t then s else compareNow k (1250 * t) (modWm k (fun m => { m with settleAt := none }) s)
    | none => s)

/-- An eclipse window opens at an edge of the engine a monitor is linked to, or restarts (R303). -/
def openEclipse (k edge : Nat) (s : State) : State :=
  let len := s.rd (A.WM_SHAPE k) F.WM_SHAPE.ECL_LEN
  if len = 0 then s else modWm k (fun m => { m with eclipse := some ((edge + 1249) / 1250 + len) }) s

/-- An eclipse window closes (R303). -/
def execEclipseClose (k : Nat) (s : State) : Out :=
  .next (
    match (s.wmOf k).eclipse with
    | some t => if s.now < t then s else compareNow k (1250 * t) (modWm k (fun m => { m with eclipse := none }) s)
    | none => s)

/-- Each microsecond the tap converter gives the mean of the input as a code, saturating at the ends of the range (R304). -/
def execWmTapUpdate (k : Nat) (mean : Int) (s : State) : Out :=
  .next (
    if s.flag (A.WM_TAP k) F.WM_TAP.VALID && (s.wmOf k).tapAt + 3200 ≤ s.now then
      wr (A.WM_TAP k) F.WM_TAP.MEAN (min (wmTop (s.wmRange k)) mean.toNat)
        (modWm k (fun m => { m with tapAt := s.now }) s)
    else s)

/-- A leading edge of a running engine that a strobe loads comes before the strobe's update: it takes what is live before (R313). -/
def State.edgeOwed (s : State) (b : Strobe) : Bool :=
  b.loads.any (fun l => match l with
    | .engine j _ => s.pgState j = 3 && ((s.pgOf j).next.map (fun t => decide (t < b.due))).getD false
    | _ => false)

/-- The DACs of strobed groups load, 128 ns after their strobe; `close` are the units whose remote and local sense stay within
1.0 V when their sense is tried again (R240, R275, R301, R313). -/
def execLevelDacUpdate (close : List Nat) (s : State) : Out :=
  .next (
    let due := s.levels.strobes.takeWhile (fun b => b.due ≤ s.unow && !s.edgeOwed b)
    let s := { s with levels := { s.levels with strobes := s.levels.strobes.drop due.length } }
    forAll due (fun b s => forAll (wmIn b.loads) (fun k => compareNow k b.due) (updateDacs close b s)) s)

end Sys2Proof.Machine
end

