-- ==== Sys2Proof/Machine/Pulses.lean ====
section
/-! DEFINITION. The pulse engines: configuration, lists, starts and stops, edges, trips, faults and the servo (R307 to
R321). -/

namespace Sys2Proof.Machine

/-! ## Timing values (R309, R313) -/

/-- The live PERIOD, WIDTH and DELAY of an engine. -/
def State.pgPeriod (s : State) (j : Nat) : Nat := s.pair (A.PG_PER_LO j) (A.PG_PER_HI j)
def State.pgWidth (s : State) (j : Nat) : Nat := s.pair (A.PG_WID_LO j) (A.PG_WID_HI j)
def State.pgDelay (s : State) (j : Nat) : Nat := s.pair (A.PG_DLY_LO j) (A.PG_DLY_HI j)

/-- The longest PERIOD and DELAY: 10 s. -/
def pgMax : Nat := 40000000000000

/-- The least distance of edges: 2.5 ns. -/
def pgMin : Nat := 10000

/-- PERIOD and WIDTH obey R309 in a MODE. -/
def pgPairOk (mode period width : Nat) : Bool :=
  mode = 1 || (pgMin ≤ width && width + pgMin ≤ period && period ≤ pgMax)

/-- BAR0 write of the HI word of a timing pair: the shadow value takes it with the latched LO word of the same pair, or the
present one; a pair outside R309 is discarded (R210, R309, R313). -/
def execPgTimingHiWrite (j w : Nat) (v : Word) (s : State) : Out :=
  .next (
    if 31 < j || 2 < w then s
    else
      let lo := A.PG_PER_LO j + 8 * w
      barWrite (.pgTimingHiWrite j w v) (lo + 4) (fun s =>
        let low := match (s.pgOf j).latch with
          | some (a, l) => if a = lo then l else s.shd lo
          | none => s.shd lo
        let s := modPg j (fun p => { p with latch := none }) s
        let t := setShd (lo + 4) (word (bits v 15 0)) (setShd lo low s)
        let valS (t : State) (i : Nat) : Nat := (t.shd (A.PG_PER_LO j + 8 * i)).toNat + 2 ^ 32 * bits (t.shd (A.PG_PER_HI j + 8 * i)) 15 0
        if w = 2 then (if valS t 2 ≤ pgMax then t else discard s)
        else if pgPairOk (s.pgMode j) (valS t 0) (valS t 1) then t else discard s) s)

/-! ## Output (R307) -/

/-- The pins that follow an engine. -/
def State.pinsFollowing (s : State) (j : Nat) : List Nat :=
  (pinsOfDie (j / 8)).filter (fun n => s.mode n = 4 && s.engineOf n = j)

/-- The pins in mode 4 follow the output: VIH while it is active, VIL while it is not; a leading edge after the run start of
its site, or of a pin in no site, ends a park (R243, R307). -/
def followOutput (j : Nat) (active : Bool) (s : State) : State :=
  forAll (s.pinsFollowing j) (fun n s =>
    let ends : Bool := active && ((s.siteOfPin n).map s.active).getD true
    refreshDrv n (followEngine n (when ends (wr (A.PIN_STATUS n) F.PIN_STATUS.PARKED 0) s))) s

/-- The monitors linked to an engine. -/
def State.linked (s : State) (j : Nat) : List Nat :=
  ((List.range 16).map (16 * (j / 8) + ·)).filter (fun k => s.wmLink k = j)

/-- An edge appears at the output at time `t`: ramps start or return to 0, eclipses open (R302, R303). -/
def outputEdge (j t : Nat) (leading : Bool) (s : State) : State :=
  forAll (s.linked j) (fun k s =>
    let opens : Bool := s.wmEclEdge k = 2 || s.wmEclEdge k = (if leading then 0 else 1)
    compareNow k t (when opens (openEclipse k t) (modWm k (fun m => { m with ramp := if leading then some (t, 0) else none }) s)))
    (followOutput j leading s)

/-! ## Runs and pulses (R311, R314 to R318) -/

/-- The local monitors of a die whose gated output is active by the end of a tick. -/
def State.gatedMap (s : State) (d tick : Nat) : Nat :=
  bitsOf ((List.range 16).filter (fun i =>
    s.flag (A.WM_STATUS (16 * d + i)) F.WM_STATUS.GATED && tickOf (s.wmOf (16 * d + i)).gatedAt ≤ tick))

/-- Since when a gated monitor acts on the pulse in progress of an engine: not before it is in a mask (R315). -/
def State.actsAt (s : State) (j i : Nat) : Nat := max (s.wmOf (16 * (j / 8) + i)).gatedAt (s.pgOf j).maskAt

/-- The active monitors in an engine's masks. -/
def State.tripping (s : State) (j : Nat) : List Nat :=
  (bitList 16 (s.tripMask j ||| s.faultMask j)).filter (fun i => s.flag (A.WM_STATUS (16 * (j / 8) + i)) F.WM_STATUS.GATED)

/-- When the pulse in progress trips or faults: as the first monitor of the masks acts on it (R315). -/
def State.tripAt (s : State) (j : Nat) : Option Nat :=
  if s.pgActive j then leastOf ((s.tripping j).map (s.actsAt j)) else none

/-- The monitors of the masks that act by the tick in which the pulse in progress trips; one of FAULT_MASK among them faults the
engine (R315, R316). -/
def State.trippers (s : State) (j u : Nat) : Nat :=
  bitsOf ((s.tripping j).filter (fun i => tickOf (s.actsAt j i) ≤ tickOf u))

/-- The monitors of a trip or fault are recorded: all whose gated outputs are active at the registering tick (R316). -/
def recordMap (j map : Nat) (s : State) : State :=
  wr (A.PG_TRIPSRC j) F.PG_TRIPSRC.MAP map (wr (A.PG_TRIPSRC j) F.PG_TRIPSRC.FIRST ((bitList 16 map).headD 0) s)

/-- A run ends at time `t` with a CAUSE in a state: PG_END fires, the ramp and the pulse have ended (R311). -/
def endRun (j cause state t : Nat) (s : State) : State :=
  let gen := (s.pgOf j).gen
  modPg j (fun p => { p with next := none, trail := none, gen := 0 }) s
  |> wr (A.PG_STATUS j) F.PG_STATUS.CAUSE cause
  |> wr (A.PG_STATUS j) F.PG_STATUS.STATE state
  |> fireAt (144 + j) 1 gen (s.coarseAt t) (tickOf t)

/-- The pulse in progress ends at time `t`. -/
def endPulse (j t : Nat) (s : State) : State :=
  outputEdge j t false (modPg j (fun p => { p with trail := none }) s)

/-- The state a run leaves its engine in: armed where TRIG and REARM are both 1, else idle (R311). -/
def State.pgRests (s : State) (j : Nat) : Nat := if s.pgCfg j 22 21 = 3 then 2 else 1

/-- A LIST run ends with its last entry (R311). -/
def endIfLast (j t : Nat) (s : State) : State :=
  if (s.pgOf j).next.isNone then endRun j 2 (s.pgRests j) t s else s

/-- A fault of an engine at time `t`: the output becomes inactive, the run ends, PG_TRIP fires with kind 3, the lens gets a
report (R311, R317). `gen` is the generation of the event fired. -/
def faultEngine (j kind gen t : Nat) (s : State) : State :=
  let s := when (s.pgActive j) (endPulse j t) s
  let s := if s.pgState j = 3 then endRun j 4 4 t s else wr (A.PG_STATUS j) F.PG_STATUS.STATE 4 s
  let st := s.coarseAt t
  modPg j (fun p => { p with go := none, gen := 0, faultAt := some (tickOf t) }) s
  |> wr (A.PG_STATUS j) F.PG_STATUS.FAULT_KIND kind
  |> wrPair (A.PG_FAULT_STAMP_LO j) (A.PG_FAULT_STAMP_HI j) st.coarse
  |> fireAt (144 + j) 3 gen st (tickOf t)
  |> reportAt (uPg j) 0x03 (keyDie (j / 8)) st.coarse

/-- Where an armed or running engine guards a monitor, every enabled engine that holds it in a mask faults before it is lost
(R306, R319; DEDUCED, log entry 76). -/
def monitorLost (k : Nat) (s : State) : State :=
  when (s.guarded k) (forAll ((List.range 8).map (8 * (k / 16) + ·)) (fun j s =>
    if s.pgState j ≠ 0 && s.pgState j ≠ 4 && (nbit (s.tripMask j) (k % 16) || nbit (s.faultMask j) (k % 16)) then
      faultEngine j 2 (s.pgOf j).gen s.unow s else s)) s

/-- A list entry: START and WIDTH. -/
def State.pgEntry (s : State) (j e : Nat) : Nat × Nat :=
  let w (i : Nat) : Nat := (s.reg (A.PG_LIST j e i)).toNat
  (w 0 + 2 ^ 32 * (w 1 % 2 ^ 16), w 2 + 2 ^ 32 * (w 3 % 2 ^ 16))

/-- The leading edge after edge `i` at time `t`: none after the last entry of a list; after COUNT periods it is where the run ends
(R311, R313). -/
def State.nextEdge (s : State) (j i t : Nat) : Option Nat :=
  if s.pgMode j = 1 then
    if i + 1 < (s.pgOf j).entries then some (t + (s.pgEntry j (i + 1)).1 - (s.pgEntry j i).1) else none
  else some (t + s.pgPeriod j)

/-- An engine's stop has come by a tick (R314). -/
def State.stopsBy (s : State) (j tick : Nat) : Bool := (s.pgOf j).stops.any (fun x => x.1 ≤ tick)

/-- Something of an engine that is due before a tick has yet to act: what happens at an engine happens in the order of its times. -/
def State.pgOwes (s : State) (j tick : Nat) : Bool :=
  let p := s.pgOf j
  (p.go.map (fun x => decide (tickOf x.1 < tick))).getD false || p.stops.any (fun x => x.1 < tick)
    || (s.pgState j = 3 && p.trail.isNone && (p.next.map (fun t => decide (tickOf t < tick))).getD false)
    || (p.trail.map (fun t => decide (tickOf t < tick))).getD false || p.kills.any (fun e => tickOf e.due < tick)

/-- A trip or fault at time `u` ends the pulse in progress: a fault where a monitor of FAULT_MASK acts in that tick, else a trip, which
PG_TRIPS counts (R315 to R317). -/
def tripPulse (j u : Nat) (s : State) : State :=
  let map := s.gatedMap (j / 8) (tickOf u)
  let gen := (s.pgOf j).gen
  if s.trippers j u &&& s.faultMask j ≠ 0 then faultEngine j 1 gen u (recordMap j map s)
  else
    endPulse j u (recordMap j map s)
    |> bump (A.PG_TRIPS j) F.PG_TRIPS.COUNT
    |> when (s.pgCfg j 20 20 = 1) (fireAt (144 + j) 2 gen (s.coarseAt u) (tickOf u))
    |> endIfLast j u

/-- A trip or fault that comes by a tick is resolved before what happens in that tick (R316). -/
def tripBy (j tick : Nat) (s : State) : State :=
  match s.tripAt j with
  | some u => if tickOf u ≤ tick then tripPulse j u s else s
  | none => s

/-- The first stop of an engine acts at its tick (R308, R314): a trip or fault of that tick comes first (R316); a pulse in progress is
truncated and the run ends, an armed engine becomes idle, a faulted one stays; a start that lies no later lapses; where ENABLE was
cleared the engine is disabled and its claim released. -/
def stopEngine (j : Nat) (s : State) : State :=
  match (s.pgOf j).stops with
  | [] => s
  | (u, disables) :: rest =>
    let t := 1250 * u
    let s := tripBy j u (modPg j (fun p => { p with stops := rest, go := p.go.filter (fun x => t < x.1) }) s)
    let s := when (s.pgActive j) (fun s => raise (A.PG_STATUS j) F.PG_STATUS.TRUNC (endPulse j t s)) s
    let s := if s.pgState j = 3 then endRun j (if disables then 5 else 3) (if disables then 1 else s.pgRests j) t s
      else if s.pgState j = 2 then wr (A.PG_STATUS j) F.PG_STATUS.STATE 1 (modPg j (fun p => { p with go := none }) s)
      else s
    when disables (fun s => release (uPg j) (wr (A.PG_STATUS j) F.PG_STATUS.STATE 0 (modPg j (fun p => { p with go := none }) s))) s

/-- Named engines' runs end at the first FEM tick 128 ns after PG_STOP (R314). -/
def execPgStopAct (s : State) : Out :=
  .next (forAll (List.range 32) (fun j s =>
    match (s.pgOf j).stops with
    | x :: _ => if s.now < x.1 || s.pgOwes j x.1 then s else stopEngine j s
    | [] => s) s)

/-- An engine reaches its go time (R310). One that has been disabled or has faulted since does not start. -/
def execPgGo (j : Nat) (s : State) : Out :=
  .next (
    match (s.pgOf j).go with
    | some (t, gen) =>
      if s.unow < t || s.pgOwes j (tickOf t) then s
      else if s.stopsBy j (tickOf t) then stopEngine j s
      else if s.pgState j ≠ 1 && s.pgState j ≠ 2 then modPg j (fun p => { p with go := none }) s
      else
        let first := if s.pgMode j = 1 then (s.pgEntry j 0).1 else 0
        modPg j (fun p => { p with go := none, gen := gen, index := 0, next := some (t + s.pgDelay j + first),
                                   acc := 0, servoAt := t / 1250 }) s
        |> wr (A.PG_STATUS j) F.PG_STATUS.STATE 3
        |> wr (A.PG_PULSES j) F.PG_PULSES.COUNT 0
    | none => s)

/-- The monitors that the engine's own leading edge eclipses (R303, R316). -/
def State.selfEclipsed (s : State) (j : Nat) : Nat :=
  bitsOf (((s.linked j).filter (fun k =>
    (s.wmEclEdge k = 0 || s.wmEclEdge k = 2) && s.rd (A.WM_SHAPE k) F.WM_SHAPE.ECL_LEN ≠ 0)).map (· % 16))

/-- An eclipse of an active monitor in an engine's masks has yet to close although its time is by `t` (R303). -/
def State.eclipseOwed (s : State) (j t : Nat) : Bool :=
  (bitList 16 (s.tripMask j ||| s.faultMask j)).any (fun i =>
    let k := 16 * (j / 8) + i
    s.flag (A.WM_STATUS k) F.WM_STATUS.OUT && ((s.wmOf k).eclipse.map (fun e => decide (1250 * e ≤ t))).getD false)

/-- A strobe of an engine's timing has yet to update although its time is by `t` (R313). -/
def State.timingOwed (s : State) (j t : Nat) : Bool :=
  s.levels.strobes.any (fun b => b.due ≤ t && b.loads.any (fun l => match l with
    | .engine i _ => i = j
    | _ => false))

/-- A scheduled leading edge: it starts a pulse, or is skipped or faults where a monitor of the masks is active (R311, R313,
R316). A stop on the same tick wins (R314). After COUNT periods the run ends instead (R311). -/
def execPgLeadingEdge (j : Nat) (s : State) : Out :=
  .next (
    match (s.pgOf j).next with
    | some t =>
      let count := (s.reg (A.PG_COUNT j)).toNat
      let i := (s.pgOf j).index
      if s.unow < t || s.pgState j ≠ 3 || s.pgActive j || s.pgOwes j (tickOf t) || s.eclipseOwed j t || s.timingOwed j t then s
      else if s.stopsBy j (tickOf t) then stopEngine j s
      else if s.pgMode j ≠ 1 && count ≠ 0 && count ≤ i then endRun j 1 (s.pgRests j) t s
      else
        let gen := (s.pgOf j).gen
        let width := if s.pgMode j = 1 then (s.pgEntry j i).2 else s.pgWidth j
        let here := 0xFFFF - s.selfEclipsed j
        let active := bitsOf ((s.tripping j).filter (fun i => (s.wmOf (16 * (j / 8) + i)).gatedAt ≤ t)) &&& here
        let s := modPg j (fun p => { p with next := s.nextEdge j i t, index := i + 1 }) s
        if active &&& s.faultMask j ≠ 0 then faultEngine j 1 gen t (recordMap j (s.gatedMap (j / 8) (tickOf t) &&& here) s)
        else if active ≠ 0 then endIfLast j t (bump (A.PG_SKIP j) F.PG_SKIP.COUNT s)
        else
          modPg j (fun p => { p with trail := some (t + width) }) s
          |> bump (A.PG_PULSES j) F.PG_PULSES.COUNT
          |> when (s.pgCfg j 20 20 = 1) (fireAt (144 + j) 0 gen (s.stampAt t) (tickOf t))
          |> outputEdge j t true
    | none => s)

/-- A scheduled trailing edge (R311). Where a monitor of the masks acts in its tick or before, the end counts as a trip (R316). -/
def execPgTrailingEdge (j : Nat) (s : State) : Out :=
  .next (
    match (s.pgOf j).trail with
    | some t =>
      let tick := tickOf t
      let tripped : Bool := ((s.tripAt j).map (fun u => decide (tickOf u ≤ tick))).getD false
      if s.unow < t || s.pgOwes j tick || s.eclipseOwed j (1250 * tick) then s
      else if s.stopsBy j tick then stopEngine j s
      else if tripped then tripBy j tick s
      else endIfLast j t (endPulse j t s)
    | none => s)

/-- When a trip or fault of the pulse in progress may act: not before what is due earlier, and not where the scheduled end lies in an
earlier tick (R316). -/
def State.tripDue (s : State) (j : Nat) : Option Nat :=
  (s.tripAt j).filter (fun u => u ≤ s.unow && !s.pgOwes j (tickOf u))

/-- A monitor in TRIP_MASK trips the engine (R315, R316). -/
def execPgTrip (j : Nat) (s : State) : Out :=
  .next (
    match s.tripDue j with
    | some u => if s.trippers j u &&& s.faultMask j ≠ 0 then s else tripPulse j u s
    | none => s)

/-- A monitor in FAULT_MASK faults the engine (R315, R317). -/
def execPgFault (j : Nat) (s : State) : Out :=
  .next (
    match s.tripDue j with
    | some u => if s.trippers j u &&& s.faultMask j = 0 then s else tripPulse j u s
    | none => s)

/-- An event at PG_KILL faults an enabled engine (R318; DEDUCED, log entry 36). -/
def execPgKill (j : Nat) (s : State) : Out :=
  .next (
    match takeDue s.unow (s.pgOf j).kills with
    | none => s
    | some (e, rest) =>
      let tick := tickOf e.due
      if s.pgOwes j tick then s
      else
        let s := tripBy j tick (modPg j (fun p => { p with kills := rest }) s)
        if s.pgState j = 0 || s.pgState j = 4 then s
        else faultEngine j 4 (e.gen + 1) (1250 * tick) s)

/-! ## Servo (R320) -/

/-- An integer kept within 32-bit two's complement. -/
def sat32 (v : Int) : Int := max (-2147483648) (min 2147483647 v)

/-- Each microsecond the servo moves the live TH_HI of its monitor (R320). -/
def execPgServoTick (j : Nat) (s : State) : Out :=
  .next (
    let w := s.reg (A.PG_SERVO j)
    if s.pgState j ≠ 3 || !bit w 31 || s.now < (s.pgOf j).servoAt + 3200 then s
    else
      let m := 16 * (j / 8) + bits w 27 24
      let acc := sat32 ((s.pgOf j).acc + bits w 11 0 * ((bits w 23 12 : Int) - s.rd (A.WM_TAP m) F.WM_TAP.MEAN))
      let th := (s.rdS (A.WM_TH m) F.WM_TH.TH_HI : Int) + acc.tdiv 256
      let top : Int := wmTop (s.wmRange m)
      modPg j (fun p => { p with acc := acc, servoAt := p.servoAt + 3200 }) s
      |> wr (A.WM_STATUS m) F.WM_STATUS.SERVO_SAT (b2n (th < 0 || top < th))
      |> wr (A.WM_LIVE m) F.WM_LIVE.TH_HI (max 0 (min top th)).toNat
      |> compareNow m (1250 * ((s.pgOf j).servoAt + 3200)))

/-! ## Commands (R308 to R314, R321) -/

/-- The fields of PG_SET that an armed or running engine refuses to change (R321). -/
def State.pgFixed (s : State) (j : Nat) (c : Cmd) : Bool :=
  bits (c.w 4) 25 16 ≠ s.pgCfg j 25 16 || (bit (c.w 4) 26 && s.pgCfg j 26 26 = 0)
    || c.w 12 ≠ s.reg (A.PG_COUNT j) || bits (c.w 13) 31 24 ≠ bits (s.reg (A.PG_SERVO j)) 31 24

/-- PG_SET's servo settings are valid (R320). -/
def State.servoOk (s : State) (j : Nat) (c : Cmd) : Bool :=
  let m := 16 * (j / 8) + bits (c.w 13) 27 24
  !bit (c.w 13) 31 || (bits (c.w 4) 25 24 = 2 && bit (c.w 5) (bits (c.w 13) 27 24) && s.wmCond m = 0 && s.wmSpeed m ≤ 1)

/-- PG_SET at its commit. -/
def putEngine (j : Nat) (c : Cmd) (s : State) : State :=
  let s := s
    |> wrBoth (A.PG_CFG j) F.PG_CFG.WORD (bits (c.w 4) 26 16)
    |> setReg (A.PG_MASK j) (c.w 5)
    |> fun s => forAll (List.range 6) (fun i => setShd (A.PG_PER_LO j + 4 * i) (c.w (6 + i))) s
    |> setReg (A.PG_COUNT j) (c.w 12)
    |> setReg (A.PG_SERVO j) (c.w 13)
    |> fun s => modPg j (fun p => { p with maskAt := s.unow }) s
  if bit (c.w 4) 26 then when (s.pgState j = 0) (wr (A.PG_STATUS j) F.PG_STATUS.STATE 1) s
  else if s.pgLive j then modPg j (fun p => { p with stops := p.stops ++ [(s.now + t128, true)] }) s
  else if s.pgState j = 0 then s
  else release (uPg j) (wr (A.PG_STATUS j) F.PG_STATUS.STATE 0 (modPg j (fun p => { p with go := none, stops := [] }) s))

/-- PG_SET (R308, R309, R319, R320). -/
def execPgSet (q : Nat) (s : State) : Out :=
  .next (hostCmd q 0x0530 (fun c _ => [uPg (bits (c.w 4) 31 27)]) (fun c s =>
    let j := bits (c.w 4) 31 27
    let mode := bits (c.w 4) 25 24
    let v (i : Nat) : Nat := (c.w i).toNat + 2 ^ 32 * bits (c.w (i + 1)) 15 0
    let timed : Bool := mode = 0 || mode = 2
    let live := s.pgLive j
    checked q [lenIs c 10, resv c 4 23 23, resv c 4 15 0, resv c 7 31 16, resv c 9 31 16, resv c 11 31 16, resv c 13 30 28,
        (mode = 3, 0x0191, 4), (timed && pgMax < v 6, 0x0191, 6), (timed && !pgPairOk mode (v 6) (v 8), 0x0191, 8),
        (pgMax < v 10, 0x0191, 10), (mode = 2 && bits (c.w 5) 15 0 = 0, 0x0192, 5), (!s.servoOk j c, 0x0192, 13)]
      (checkedU q [
        chkU (live && (s.reg (A.PG_MASK j) &&& ~~~ (c.w 5)) ≠ 0) 0x0360 0 (uPg j),
        chkU (live && s.pgFixed j c) 0x0361 0 (uPg j)]
      (claimPhase q [uPg j] (if bit (c.w 4) 26 then [(uPg j, 60, s.claimOf (uPg j))] else []) false {}
        (fun p => when (p (uPg j)) (putEngine j c)) (ok q []))) s) s)

/-- The word of the first entry of a list that breaks R309 or R312, if any. -/
def badEntryAt (c : Cmd) : Nat → Nat → Nat → Option Nat
  | 0, _, _ => none
  | n + 1, i, least =>
    let a := 5 + 4 * i
    let start := (c.w a).toNat + 2 ^ 32 * bits (c.w (a + 1)) 15 0
    let width := (c.w (a + 2)).toNat + 2 ^ 32 * bits (c.w (a + 3)) 15 0
    if start < least then some a
    else if width < pgMin then some (a + 2)
    else badEntryAt c n (i + 1) (start + width + pgMin)

/-- PG_LIST_LOAD (R312). -/
def execPgListLoad (q : Nat) (s : State) : Out :=
  .next (hostCmd q 0x0531 (fun c _ => [uPg (bits (c.w 4) 31 27)]) (fun c s =>
    let j := bits (c.w 4) 31 27
    let n := bits (c.w 4) 6 0
    let es := List.range (min n 64)
    checked q ([chk (c.payload ≠ 1 + 4 * n) 0x0104 1, resv c 4 26 7, (n = 0 || 64 < n, 0x0191, 4)]
        ++ es.flatMap (fun e => [resv c (6 + 4 * e) 31 16, resv c (8 + 4 * e) 31 16])
        ++ [((badEntryAt c (min n 64) 0 0).isSome, 0x0191, (badEntryAt c (min n 64) 0 0).getD 0)])
      (checkedU q [chkU (s.pgLive j) 0x0361 0 (uPg j)] (fun s =>
        ok q [] (modPg j (fun p => { p with entries := n })
          (forAll es (fun e s => forAll (List.range 4) (fun w => setReg (A.PG_LIST j e w) (c.w (5 + 4 * e + w))) s) s)))) s) s)

/-- The engines of a mask lie on more than one die (R321). -/
def manyPgDies (js : List Nat) : Bool := 1 < ((js.map (· / 8)).eraseDups).length

/-- PG_START (R310). A stop commanded earlier for the same tick gives way (DESIGN CHOICE, log entry 89). -/
def execPgStart (q : Nat) (env : CommitEnv) (s : State) : Out :=
  .next (hostCmd q 0x0532 (fun c _ => (bitList 32 (c.w 4).toNat).map uPg) (fun c s =>
    let js := bitList 32 (c.w 4).toNat
    checked q [lenIs c 1, (js.isEmpty, 0x0193, 4), (js.any (fun j => s.pgMode j = 1 && (s.pgOf j).entries = 0), 0x0191, 4)]
      (checkedU q (js.map (fun j => chkU (s.pgLive j) 0x0361 0 (uPg j)) ++ js.map (fun j => chkU (s.pgState j = 4) 0x0362 0 (uPg j))
          ++ js.map (fun j => chkU (s.pgState j = 0) 0x0363 0 (uPg j)))
        (twoPhase q (js.map uPg) (if manyPgDies js then env else {})
          (fun p => forAll (js.filter (fun j => p (uPg j))) (fun j s =>
            if s.pgCfg j 21 21 = 1 then wr (A.PG_STATUS j) F.PG_STATUS.STATE 2 (modPg j (fun p => { p with go := none }) s)
            else modPg j (fun p => { p with
              go := some (s.unow + 512000, 0), stops := p.stops.filter (fun x => x.2 || x.1 ≠ s.now + t128) }) s))
          (ok q []))) s) s)

/-- PG_STOP (R314). -/
def execPgStop (q : Nat) (env : CommitEnv) (s : State) : Out :=
  .next (hostCmd q 0x0533 (fun c _ => (bitList 32 (c.w 4).toNat).map uPg) (fun c s =>
    let js := bitList 32 (c.w 4).toNat
    checked q [lenIs c 1, (js.isEmpty, 0x0193, 4)]
      (twoPhase q (js.map uPg) (if manyPgDies js then env else {})
        (fun p => forAll (js.filter (fun j => p (uPg j))) (fun j s =>
          when (s.pgState j ≠ 0) (modPg j (fun p => { p with stops := p.stops ++ [(s.now + t128, false)] })) s))
        (ok q [])) s) s)

/-- PG_CLEAR (R314): an engine that faulted in this very tick stays faulted (R316). -/
def execPgClear (q : Nat) (env : CommitEnv) (s : State) : Out :=
  .next (hostCmd q 0x0534 (fun c _ => (bitList 32 (c.w 4).toNat).map uPg) (fun c s =>
    let js := bitList 32 (c.w 4).toNat
    checked q [lenIs c 1, (js.isEmpty, 0x0193, 4)]
      (twoPhase q (js.map uPg) (if manyPgDies js then env else {})
        (fun p => forAll (js.filter (fun j => p (uPg j))) (fun j s =>
          when (s.pgState j = 4 && (s.pgOf j).faultAt ≠ some s.now) (fun s =>
            wr (A.PG_STATUS j) F.PG_STATUS.FAULT_KIND 0 (wr (A.PG_STATUS j) F.PG_STATUS.STATE 1 s)) s))
        (ok q [])) s) s)

end Sys2Proof.Machine
end

