-- ==== Sys2Proof/Machine/Digitizer.lean ====
section
/-! DEFINITION. The digitizer: samples, trigger conditions, records, stopping and reading (R322 to R339). -/

namespace Sys2Proof.Machine

def State.aqOf (s : State) (k : Nat) : Aq := kget (fun _ => {}) s.aq k
def modAq (k : Nat) (f : Aq → Aq) (s : State) : State := { s with aq := kset (fun _ => {}) s.aq k (f (s.aqOf k)) }

/-! ## Settings (R322 to R326) -/

def State.aqDecim (s : State) (k : Nat) : Nat := s.rd (A.AQ_CFG k) F.AQ_CFG.DECIM

/-- The sample period in timing units (R325). -/
def State.aqPeriod (s : State) (k : Nat) : Nat := 16000 * 2 ^ s.aqDecim k

/-- The fields of a condition (R332). -/
def State.tcKind (s : State) (k c : Nat) : Nat := bits (s.reg (A.AQ_COND_A k c)) 31 28
def State.tcHys (s : State) (k c : Nat) : Nat := bits (s.reg (A.AQ_COND_A k c)) 27 16
def State.tcLevel (s : State) (k c : Nat) : Int := sext 16 (bits (s.reg (A.AQ_COND_A k c)) 15 0)
def State.tcHi (s : State) (k c : Nat) : Int := sext 16 (bits (s.reg (A.AQ_COND_B k c)) 15 0)

/-- AQ_SKEW shows the working-set entry for the present source (R326, R411). -/
def refreshSkew (k : Nat) (s : State) : State :=
  wr (A.AQ_SKEW k) F.AQ_SKEW.SKEW (s.calVal (uAq k) 7 (6 + s.rd (A.AQ_CFG k) F.AQ_CFG.SRC_TYPE)).toNat s

/-- The stamp, in timing units, of a stored sample whose last raw sample lies at `edge` (R326). -/
def State.sampleTime (s : State) (k edge : Nat) : Nat :=
  edge - (2 ^ s.aqDecim k - 1) * 8000 - s.rd (A.AQ_SKEW k) F.AQ_SKEW.SKEW

/-- A source and range are valid together (R322, R324). -/
def aqSourceOk (type idx range : Nat) : Bool :=
  range ≠ 3 && (match type with
    | 0 | 1 => true
    | 2 => idx = 0 && range ≠ 0
    | 3 => idx ≤ 7
    | 4 => idx ≤ 31
    | 5 => idx ≤ 3
    | _ => false)

/-- The channel a handle of KIND 0x3 names, and the status where it names none (R115, R339). -/
def State.aqHandle (s : State) (h : Nat) : Nat :=
  match s.handleStatus h [4] with
  | 0 => if ((s.meas? h).map (·.kind)).getD 0 = 3 then 0 else 0x01A4
  | e => e

def State.aqChan (s : State) (h : Nat) : Nat :=
  (((s.meas? h).map (·.units)).getD []).foldl (fun a u => if uclass u = 0x09 then uindex u else a) 0

/-- AQ_SET (R322, R332, R339). -/
def execAqSet (q : Nat) (s : State) : Out :=
  .next (hostCmd q 0x0510 (fun c s => [uAq (s.aqChan (c.w 4).toNat)]) (fun c s =>
    let h := (c.w 4).toNat
    let k := s.aqChan h
    let type := bits (c.w 5) 31 29
    let idx := bits (c.w 5) 28 23
    let kind (i : Nat) : Nat := bits (c.w (6 + 2 * i)) 31 28
    let level (i : Nat) : Nat := bits (c.w (6 + 2 * i)) 15 0
    let four := List.range 4
    let gone : Bool := type ≤ 1 && (s.mode (64 * (k / 8) + idx) = 7 || s.retired (64 * (k / 8) + idx))
    checked q ([lenIs c 10, resv c 5 15 0] ++ four.map (fun i => resv c (7 + 2 * i) 31 16)
        ++ [chk (s.aqHandle h ≠ 0) (s.aqHandle h) 4, chk (!aqSourceOk type idx (bits (c.w 5) 22 21)) 0x01A0 5]
        ++ four.flatMap (fun i => [
          chk (8 ≤ kind i) 0x01A0 (6 + 2 * i),
          chk ((kind i = 4 || kind i = 5) && sext 16 (bits (c.w (7 + 2 * i)) 15 0) ≤ sext 16 (level i)) 0x01A1 (6 + 2 * i),
          chk (kind i = 7 && (level i % 8 = k % 8 || 8 ≤ level i)) 0x01A1 (6 + 2 * i)]))
      (checkedU q [chkU gone 0x0334 0 (uPin (64 * (k / 8) + idx)), chkU (s.aqLive k) 0x0370 0 (uAq k)]
        (fun s => ok q [] (refreshSkew k
          (forAll four (fun i s => setReg (A.AQ_COND_B k i) (c.w (7 + 2 * i)) (setReg (A.AQ_COND_A k i) (c.w (6 + 2 * i)) s))
            (setReg (A.AQ_CFG k) (c.w 5) s))))) s) s)

/-! ## Arming (R327 to R329) -/

/-- The capture buffer of a channel: its handle. -/
def State.aqBuffer (s : State) (k : Nat) : Nat := ((s.holder (uAq k)).map (fun m => m.2.buffer)).getD 0

/-- The slot size in bytes of a buffer of `kib` KiB with `n` records (R327). -/
def slotSize (kib n : Nat) : Nat := 64 * (kib * 1024 / (64 * n))

/-- A record of AQ_ARM: its word, handle, PRE, POST and NREC. -/
structure ArmRec where
  at_ : Nat
  handle : Nat
  pre : Nat
  post : Nat
  nrec : Nat
  deriving DecidableEq, Repr

def armRec (c : Cmd) (i : Nat) : ArmRec where
  at_ := 5 + 4 * i
  handle := (c.w (5 + 4 * i)).toNat
  pre := (c.w (6 + 4 * i)).toNat
  post := (c.w (7 + 4 * i)).toNat
  nrec := bits (c.w (8 + 4 * i)) 10 0

/-- The ring size of a record's arm (R327). -/
def ArmRec.cap (r : ArmRec) (s : State) : Nat :=
  let k := s.aqChan r.handle
  (slotSize (((s.buf? (s.aqBuffer k)).map (·.kib)).getD 0) r.nrec - 64) / 2

/-- The rate a channel writes at, in MB/s (R328). -/
def State.aqRate (s : State) (k : Nat) : Nat := (500 + 2 ^ s.aqDecim k - 1) / 2 ^ s.aqDecim k

/-- The first raw sampling edge of a die at or after a time (R326). -/
def firstEdge (d u : Nat) : Nat :=
  let p := Config.samplingPhase d % 16000
  p + (u + 15999 - p) / 16000 * 16000

/-- A record starts (R330, R332). -/
def newRecord (a : Aq) : Aq :=
  { a with count := 0, post := 0, clips := [], warm := [], primed := 0, barred := 0, met := 0, forced := false, link := none,
           trig := none }

/-- An arm begins to fill (R327, R329). -/
def ArmRec.put (r : ArmRec) (s : State) : State :=
  let k := s.aqChan r.handle
  let h := s.aqBuffer k
  let cap := r.cap s
  let slot := 2 * cap + 64
  modAq k (fun a => newRecord { a with slot := slot, cap := cap, record := 0, present := none, force := none, stop := none,
                                       next := firstEdge (k / 8) s.unow + (2 ^ s.aqDecim k - 1) * 16000 }) s
  |> modBuf h (fun b => (List.range r.nrec).foldl (fun b i => b.write (i * slot / 4) [0]) b)
  |> wr (A.AQ_STATUS k) F.AQ_STATUS.STATE 1
  |> wr (A.AQ_STATUS k) F.AQ_STATUS.DONE_REC 0
  |> setReg (A.AQ_PRE k) (word r.pre)
  |> setReg (A.AQ_POST k) (word r.post)
  |> setReg (A.AQ_NREC k) (word (r.nrec + 2 ^ 11 * (if cap < 2 ^ 21 then cap else 0x1FFFFF)))

/-- The channels lie on more than one die. -/
def manyAqDies (ks : List Nat) : Bool := 1 < ((ks.map (· / 8)).eraseDups).length

/-- An arm whose write rate exceeds the RATE of its buffer by `over` MB/s is refused (R44, R129, R328). -/
def refuseRate (q : Nat) (map : Bool) (more : Nat) (units : List Nat) (s : State) : State :=
  if map then refuseMap q 0x0210 (some (excessDetail (600000 + more))) units s
  else finish q 0x0210 (excessDetail (600000 + more)) [] s

/-- AQ_ARM (R327 to R329, R339). -/
def execAqArm (q : Nat) (env : CommitEnv) (s : State) : Out :=
  .next (hostCmd q 0x0511
    (fun c s => ((List.range (min 32 (bits (c.w 4) 5 0))).map (fun i => uAq (s.aqChan (armRec c i).handle))).eraseDups) (fun c s =>
    let n := bits (c.w 4) 5 0
    let recs := (List.range (min n 32)).map (armRec c)
    let chan (r : ArmRec) : Nat := s.aqChan r.handle
    let ks := (List.range 32).filter (recs.map chan).contains
    let final := ks.filterMap (fun k => (recs.filter (fun r => chan r = k)).getLast?)
    let small := recs.filter (fun r => r.cap s < r.pre + r.post)
    let first := ([chkU (c.payload ≠ 1 + 4 * n) 0x0104 1 0, chkU (bits (c.w 4) 31 6 ≠ 0) 0x0101 4 0, chkU (n = 0 || 32 < n) 0x01A2 4 0]
        ++ recs.flatMap (fun r => [chkU (s.aqHandle r.handle ≠ 0) (s.aqHandle r.handle) r.at_ 0,
          chkU (r.post = 0) 0x01A2 (r.at_ + 2) 0, chkU (bits (c.w (r.at_ + 3)) 31 11 ≠ 0) 0x0101 (r.at_ + 3) 0,
          chkU (r.nrec = 0 || 1024 < r.nrec) 0x01A2 (r.at_ + 3) 0, chkU (r.cap s < r.pre + r.post) 0x01A3 (r.at_ + 1) 0,
          chkU (s.aqLive (chan r)) 0x0370 0 (uAq (chan r))])).find? (·.1)
    match first with
    | some (_, st, d, u) => finishU q st d (if st = 0x01A3 then small.map (fun r => word (r.cap s)) else []) u s
    | none =>
      let more := (ks.map (fun k => (s.aqRate k - ((s.buf? (s.aqBuffer k)).map (·.rate)).getD 0))).find? (0 < ·)
      match more with
      | some o => refuseRate q (manyAqDies ks) o (ks.map uAq) s
      | none => twoPhase q (ks.map uAq) (if manyAqDies ks then env else {})
          (fun p s => forAll (final.filter (fun r => p (uAq (chan r)))) ArmRec.put s) (ok q []) s) s)

/-! ## Samples (R324, R325, R330, R332, R335) -/

/-- Whether conditions track a sample: filling or capturing. -/
def State.aqTrig? (s : State) (k c : Nat) (v : Int) : Bool :=
  let a := s.aqOf k
  let l := s.tcLevel k c
  let up : Bool := nbit a.primed c
  let down : Bool := nbit a.primed (4 + c)
  match s.tcKind k c with
  | 1 => up && l ≤ v
  | 2 => down && v ≤ l
  | 3 => (up && l ≤ v) || (down && v ≤ l)
  | 4 => up && l ≤ v && v ≤ s.tcHi k c
  | 5 => up && (v < l || s.tcHi k c < v)
  | _ => false

/-- The priming of a condition after a sample `v` at which it was met or not (R332): bits primed and bits barred. -/
def State.aqPrime (s : State) (k c : Nat) (v : Int) (met : Bool) : (Bool × Bool) × (Bool × Bool) :=
  let a := s.aqOf k
  let l := s.tcLevel k c
  let h : Int := s.tcHys k c
  let up : Bool := nbit a.primed c
  let down : Bool := nbit a.primed (4 + c)
  let noUp : Bool := nbit a.barred c
  let noDown : Bool := nbit a.barred (4 + c)
  match s.tcKind k c with
  | 1 => ((up || v ≤ l - h, false), (false, false))
  | 2 => ((false, down || l + h ≤ v), (false, false))
  | 3 =>
    if met then
      let rise : Bool := up && l ≤ v
      ((false, false), (rise, !rise))
    else ((up || (!noUp && v ≤ l - h), down || (!noDown && l + h ≤ v)), (noUp, noDown))
  | 4 => ((up || v < l || s.tcHi k c < v, false), (false, false))
  | 5 => ((up || (l ≤ v && v ≤ s.tcHi k c), false), (false, false))
  | _ => ((false, false), (false, false))

/-- The event, link and force that act at a sample whose last raw edge is `edge` (R332, R333, R335). -/
def State.aqEvent (s : State) (k edge : Nat) : Bool :=
  match (s.aqOf k).present with
  | some e => e.due ≤ s.sampleTime k edge
  | none => false

def State.aqLinked (s : State) (k edge : Nat) : Bool :=
  match (s.aqOf k).link with
  | some l => l.1 ≤ edge
  | none => false

/-- A sample is written to the ring of its record (R330). -/
def writeSample (k : Nat) (v : Int) (s : State) : State :=
  let a := s.aqOf k
  let byte := a.record * a.slot + 64 + 2 * (a.count % max 1 a.cap)
  modBuf (s.aqBuffer k) (fun b =>
    let w := b.word (byte / 4)
    b.write (byte / 4) [if byte % 4 = 0 then word (bits w 31 16 * 2 ^ 16 + toTwos 16 v)
      else word (toTwos 16 v * 2 ^ 16 + bits w 15 0)]) s

/-- A code of the effective-threshold scale, in µV (R297). -/
def fineMicro (range : Nat) (v : Int) : Int :=
  if range = 0 then roundDiv (v - 960 * fine) 32 else roundDiv (v - 2048 * fine) 320

/-- The input of a channel in µV at time `t`, where the spec gives it: the effective threshold of a monitor, ramp and servo included, or
an internal reference (R304, R322). -/
def State.aqGiven (s : State) (k t : Nat) : Option Int :=
  let idx := s.rd (A.AQ_CFG k) F.AQ_CFG.SRC_IDX
  match s.rd (A.AQ_CFG k) F.AQ_CFG.SRC_TYPE with
  | 4 =>
    let m := 16 * (k / 8) + idx % 16
    let th := s.wmThresholds m t
    some (fineMicro (s.wmRange m) (if idx < 16 then th.1 else th.2))
  | 5 => match idx with
    | 0 => some 0
    | 1 => some 1000000
    | 2 => some 10000000
    | _ => none
  | _ => none

/-- The code of a voltage in µV in a range (R324). A voltage beyond the range gives a code beyond ±32,000: which one, the converter's
own value `raw` says. -/
def aqCode (range : Nat) (v raw : Int) : Int :=
  let c := roundDiv v (1000 / 10 ^ range)
  if 32000 < c then max 32001 (min 32767 raw) else if c < -32000 then min (-32001) (max (-32768) raw) else c

/-- The stored sample of raw converter values: corrected, held to 16 bits, averaged (R324, R325, R412). Of an input that the spec gives,
the samples are its codes: the converter's own error is not modelled there (DESIGN CHOICE, log entry 90). -/
def State.storedSample (s : State) (k : Nat) (raws : List Int) : Int :=
  let r := s.rd (A.AQ_CFG k) F.AQ_CFG.RANGE
  let first := (s.aqOf k).next - (raws.length - 1) * 16000
  let fix (x : Int × Nat) : Int :=
    let v := max (-32768) (min 32767 (corrected x.1 0 (s.calVal (uAq k) 7 (2 * r)) (s.calVal (uAq k) 7 (2 * r + 1))))
    match s.aqGiven k (first + 16000 * x.2) with
    | some u => aqCode r u v
    | none => v
  roundDiv (raws.zipIdx.map fix).sum (max 1 raws.length)

/-- WARMING as it held at a time (R343). -/
def State.warmingAt (s : State) (t : Nat) : Bool := fget (s.regAt A.GN_STATUS t) F.GN_STATUS.WARMING = 1

/-- What the last sample of a channel brought has yet to act: a trigger, or the end of its record (R330). -/
def State.aqOwes (s : State) (k : Nat) : Bool :=
  let a := s.aqOf k
  a.met ≠ 0 || a.forced || (s.aqState k = 2 && (s.reg (A.AQ_POST k)).toNat ≤ a.post)

/-- The next stored sample of a filling or capturing channel, from the raw samples it averages (R324 to R335). A trigger, the
end of a record, or a stop that the last sample brought, and an event present by then, come first. -/
def execDigitizerSample (k : Nat) (raws : List Int) (s : State) : Out :=
  .next (
    let a := s.aqOf k
    let edge := a.next
    let stops : Bool := match a.stop with
      | some t => t ≤ edge
      | none => false
    let capturing : Bool := s.aqState k = 2
    if !s.aqLive k || s.unow < edge || raws.length ≠ 2 ^ s.aqDecim k || stops || s.aqOwes k
        || a.events.any (fun e => e.due ≤ edge) then s
    else
      let v := s.storedSample k raws
      let met (c : Nat) : Bool := match s.tcKind k c with
        | 6 => s.aqEvent k edge
        | 7 => s.aqLinked k edge
        | _ => s.aqTrig? k c v
      let mets := bitsOf ((List.range 4).filter met)
      let missed := ((List.range 4).filter (fun c => met c && s.tcKind k c ≠ 6 && s.tcKind k c ≠ 7)).length
      let primes := (List.range 4).map (fun c => s.aqPrime k c v (met c))
      let pick (f : (Bool × Bool) × (Bool × Bool) → Bool) (i : Nat) : List Nat :=
        ((List.range 4).filter (fun c => f (primes.getD c ((false, false), (false, false))))).map (i + ·)
      let forced : Bool := !capturing && (match a.force with
        | some t => t ≤ edge
        | none => false)
      let out : Bool := v < -32000 || 32000 < v
      let warm := s.warmingAt edge
      let s := writeSample k v s
      let s := wr (A.AQ_LIVE k) F.AQ_LIVE.SAMPLE (toTwos 16 v) s
      let s := when out (bump (A.AQ_CLIP k) F.AQ_CLIP.COUNT) s
      let s := when capturing (bumpBy (A.AQ_MISSED k) F.AQ_MISSED.COUNT missed) s
      modAq k (fun a => { a with
        count := a.count + 1, next := edge + s.aqPeriod k, post := if capturing then a.post + 1 else 0,
        prev := a.cur, cur := v,
        clips := (if out then [a.count] else []) ++ a.clips.takeWhile (fun i => a.count < i + a.cap),
        warm := if (a.warm.head?.map (·.2)).getD false = warm then a.warm else (a.count, warm) :: a.warm,
        primed := bitsOf (pick (·.1.1) 0 ++ pick (·.1.2) 4), barred := bitsOf (pick (·.2.1) 0 ++ pick (·.2.2) 4),
        met := if capturing then 0 else mets, forced := forced,
        link := if s.aqLinked k edge then a.link.filter (fun _ => mets ≠ 0 && !capturing) else a.link,
        present := if s.aqEvent k edge && (mets = 0 || capturing) then none else a.present,
        force := if forced || capturing then none else a.force }) s)

/-! ## Triggers (R332 to R337) -/

/-- The time of a crossing between the last two samples (R334): halves upward. Equal values give no crossing: the time is then
a free value within the period. -/
def State.crossing (s : State) (k : Nat) (x : Int) : Nat :=
  let a := s.aqOf k
  let p := s.aqPeriod k
  let t := s.sampleTime k (a.next - p) - p
  let den := (a.cur - a.prev).natAbs
  if den = 0 then t + (Config.freeWord s.fresh 2).toNat % (p + 1)
  else t + (2 * p * (x - a.prev).natAbs + den) / (2 * den)

/-- The trigger stamp that a condition gives (R334). -/
def State.tcStamp (s : State) (k c : Nat) : Stamp :=
  let a := s.aqOf k
  match s.tcKind k c with
  | 4 => s.stampAt (s.crossing k (if a.prev < s.tcLevel k c then s.tcLevel k c else s.tcHi k c))
  | 5 => s.stampAt (s.crossing k (if a.cur < s.tcLevel k c then s.tcLevel k c else s.tcHi k c))
  | 6 => (a.present.map (·.stamp)).getD s.stampNow
  | 7 => (a.link.map (·.2.1)).getD s.stampNow
  | _ => s.stampAt (s.crossing k (s.tcLevel k c))

/-- A channel takes the trigger that its last sample brought: AQ_TRIGD fires, local links to it follow (R330, R333, R334,
R337, R393). -/
def takeTrigger (k : Nat) (s : State) : State :=
  let a := s.aqOf k
  if s.aqState k ≠ 1 || (a.met = 0 && !a.forced) then s
  else
    let edge := a.next - s.aqPeriod k
    let cs := bitList 4 a.met
    let stamp := match cs.head? with
      | some c => s.tcStamp k c
      | none => s.stampAt (s.sampleTime k edge)
    let event : Nat := if cs.any (fun c => s.tcKind k c = 6) then (a.present.map (fun e => e.gen + 1)).getD 0 else 0
    let linked : Nat := if cs.any (fun c => s.tcKind k c = 7) then (a.link.map (·.2.2)).getD 0 else 0
    let gen := max event linked
    let leads : Bool := a.forced || cs.any (fun c => s.tcKind k c ≠ 7)
    let follows (m : Nat) : Bool := leads && m ≠ k && (List.range 4).any (fun c => s.tcKind m c = 7 && s.tcLevel m c = (k % 8 : Nat))
    let s := modAq k (fun a => { a with
      met := 0, forced := false, link := none, present := if event = 0 then a.present else none, force := none, post := 1,
      trig := some ⟨a.met, a.forced, stamp, a.count - 1, s.warmingAt edge⟩ }) s
    let s := fireAt (176 + k) 0 gen stamp (tickOf edge) (nextFresh (wr (A.AQ_STATUS k) F.AQ_STATUS.STATE 2 s))
    forAll (((List.range 8).map (8 * (k / 8) + ·)).filter follows) (fun m s =>
      if s.aqState m = 2 then bump (A.AQ_MISSED m) F.AQ_MISSED.COUNT s
      else if s.aqState m ≠ 1 then s
      else
        let b := s.aqOf m
        let at_ : Bool := b.count ≠ 0 && edge ≤ b.next - s.aqPeriod m
        let mine := bitsOf ((List.range 4).filter (fun c => s.tcKind m c = 7 && s.tcLevel m c = (k % 8 : Nat)))
        modAq m (fun b => { b with link := some (edge, stamp, gen), met := if at_ then b.met ||| mine else b.met }) s) s

/-- A met condition or link at a filling channel takes the trigger sample (R330). -/
def execAqTrigger (k : Nat) (s : State) : Out := .next (takeTrigger k s)

/-- A forced trigger acts at the first sample 128 ns after AQ_FORCE (R335). -/
def execAqForceAct (k : Nat) (s : State) : Out := .next (when (s.aqOf k).forced (takeTrigger k) s)

/-- An event at AQ_TRIG is present 128 ns after its delivery, once the samples before then are taken: a filling channel meets EVENT
conditions at its next sample from then on, a capturing one is busy (R332, R333). -/
def execAqTrigEvent (k : Nat) (s : State) : Out :=
  .next (
    match takeDue s.unow (s.aqOf k).events with
    | none => s
    | some (e, rest) =>
      if s.aqLive k && ((s.aqOf k).next < e.due || s.aqOwes k) then s else
      let s := modAq k (fun a => { a with events := rest }) s
      match s.aqState k with
      | 1 => modAq k (fun a => { a with present := some (match a.present with
          | some f => { f with gen := max f.gen e.gen }
          | none => e) }) s
      | 2 => inputOverrun (k / 8) (24 + k % 8) s
      | _ => s)

/-! ## The end of records (R330, R331, R336) -/

/-- WARMING held at a sample of the present record. -/
def Aq.warmAt (a : Aq) (i : Nat) : Bool := ((a.warm.find? (fun p => p.1 ≤ i)).map (·.2)).getD false

/-- The header of the present record of a channel (R331), closed by a stop or not. -/
def State.aqHeader (s : State) (k : Nat) (trunc : Bool) (t : AqTrig) : List Word :=
  let a := s.aqOf k
  let pre := min (s.reg (A.AQ_PRE k)).toNat t.at_
  let first := t.at_ - pre
  let last := a.next - s.aqPeriod k
  let time := s.sampleTime k last - (a.count - 1 - first) * s.aqPeriod k
  let st := s.stampAt time
  let clip : Bool := a.clips.any (fun i => first ≤ i)
  [word (5 * 2 ^ 28 + b2n (a.warmAt first || t.warm) * 2 ^ 26 + b2n trunc * 2 ^ 25 + b2n t.forced * 2 ^ 24 + t.met * 2 ^ 20
      + (bitList 4 t.met).headD 0 * 2 ^ 18 + b2n (t.at_ < (s.reg (A.AQ_PRE k)).toNat) * 2 ^ 17 + b2n clip * 2 ^ 16 + k),
   word (bits (s.reg (A.AQ_CFG k)) 31 16 * 2 ^ 16 + a.record), word st.coarse, word (st.coarse / 2 ^ 32), word st.frac,
   word t.stamp.coarse, word (t.stamp.coarse / 2 ^ 32), word t.stamp.frac, word pre, word a.post,
   word (first % max 1 a.cap), word a.cap, 0, 0, 0, 0]

/-- The present record is closed: its header is written (R329). -/
def closeRecord (k : Nat) (trunc : Bool) (s : State) : State :=
  match (s.aqOf k).trig with
  | some t =>
    let hd := s.aqHeader k trunc t
    modBuf (s.aqBuffer k) (fun b => b.write ((s.aqOf k).record * (s.aqOf k).slot / 4) hd) s
  | none => s

/-- An arm ends with a CAUSE at time `t`: AQ_DONE fires (R336). -/
def endArm (k cause t : Nat) (s : State) : State :=
  modAq k (fun a => { a with stop := none, force := none, present := none, met := 0, forced := false, link := none }) s
  |> wr (A.AQ_STATUS k) F.AQ_STATUS.STATE 3
  |> wr (A.AQ_STATUS k) F.AQ_STATUS.CAUSE cause
  |> fireAt (176 + k) 1 0 (s.coarseAt t) (tickOf t)

/-- After POST samples a record is complete; the next starts, or the arm ends (R330). -/
def execAqRecordComplete (k : Nat) (s : State) : Out :=
  .next (
    if s.aqState k ≠ 2 || (s.aqOf k).post < (s.reg (A.AQ_POST k)).toNat then s
    else
      let n := (s.aqOf k).record + 1
      let s := wr (A.AQ_STATUS k) F.AQ_STATUS.DONE_REC n (closeRecord k false s)
      if bits (s.reg (A.AQ_NREC k)) 10 0 ≤ n then endArm k 1 ((s.aqOf k).next - s.aqPeriod k) s
      else wr (A.AQ_STATUS k) F.AQ_STATUS.STATE 1 (modAq k (fun a => newRecord { a with record := n }) s))

/-- A stop at time `t` closes a record in capture, abandons one still filling, and ends the arm (R336). -/
def stopChannel (k cause t : Nat) (s : State) : State :=
  endArm k cause t (when (s.aqState k = 2) (fun s =>
    wr (A.AQ_STATUS k) F.AQ_STATUS.DONE_REC ((s.aqOf k).record + 1) (closeRecord k true s)) s)

/-- Named channels stop at the first sample 128 ns after AQ_STOP (R336), once what an earlier sample brought has acted. -/
def execAqStopAct (s : State) : Out :=
  .next (forAll (List.range 32) (fun k s =>
    match (s.aqOf k).stop with
    | some t =>
      if !s.aqLive k then modAq k (fun a => { a with stop := none }) s
      else if t ≤ (s.aqOf k).next && (s.aqOf k).next ≤ s.unow && !s.aqOwes k then stopChannel k 2 (s.aqOf k).next s else s
    | none => s) s)

/-- The channels of a handle list from word 5 on. -/
def State.aqNamed (s : State) (c : Cmd) : List Nat :=
  (List.range 32).filter (((List.range (min 32 (bits (c.w 4) 5 0))).map (fun i => s.aqChan (c.w (5 + i)).toNat)).contains)

/-- The checks of a list of handles. -/
def State.aqListChecks (s : State) (c : Cmd) : List (Bool × Nat × Nat) :=
  let n := bits (c.w 4) 5 0
  [chk (c.payload ≠ 1 + n) 0x0104 1, resv c 4 31 6, (n = 0 || 32 < n, 0x01A2, 4)]
    ++ (List.range (min n 32)).map (fun i => chk (s.aqHandle (c.w (5 + i)).toNat ≠ 0) (s.aqHandle (c.w (5 + i)).toNat) (5 + i))

/-- AQ_FORCE (R335, R339): channels that are not filling are refused, the others are forced. -/
def execAqForce (q : Nat) (env : CommitEnv) (s : State) : Out :=
  .next (hostCmd q 0x0512 (fun c s => (s.aqNamed c).map uAq) (fun c s =>
    let ks := s.aqNamed c
    let bad := (List.range (min 32 (bits (c.w 4) 5 0))).find? (fun i => s.aqState (s.aqChan (c.w (5 + i)).toNat) ≠ 1)
    checked q (s.aqListChecks c) (twoPhase q (ks.map uAq) (if manyAqDies ks then env else {})
      (fun p => forAll (ks.filter (fun k => p (uAq k))) (fun k s =>
        when (s.aqState k = 1) (modAq k (fun a => { a with force := some (s.unow + 512000) })) s))
      (fun s => match bad with
        | some i => finishU q 0x0371 (5 + i) [] (uAq (s.aqChan (c.w (5 + i)).toNat)) s
        | none => ok q [] s)) s) s)

/-- AQ_STOP (R336, R339). -/
def execAqStop (q : Nat) (env : CommitEnv) (s : State) : Out :=
  .next (hostCmd q 0x0513 (fun c s => (s.aqNamed c).map uAq) (fun c s =>
    let ks := s.aqNamed c
    let idle := (ks.filter (fun k => !s.aqLive k)).length
    checked q (s.aqListChecks c) (twoPhase q (ks.map uAq) (if manyAqDies ks then env else {})
      (fun p => forAll (ks.filter (fun k => p (uAq k))) (fun k s =>
        when (s.aqLive k) (modAq k (fun a => { a with stop := some (a.stop.getD (s.unow + 512000)) })) s))
      (fun s => finish q (b2n (idle ≠ 0)) idle [] s)) s) s)

/-! ## Reading (R338) -/

/-- AQ_READ (R338): its reads wait for the HBM3 controller (R134), `ce` words are corrected in them, and `bad` is the HBM address, in
64-byte units, of a word in error that they meet (R135). -/
def execAqRead (q ce : Nat) (bad : Option Nat) (s : State) : Out :=
  .next (hostCmd q 0x0514 (fun c s => [uAq (s.aqChan (c.w 4).toNat)]) (fun c s =>
    let h := (c.w 4).toNat
    let k := s.aqChan h
    let rec_ := bits (c.w 5) 9 0
    let n := (c.w 7).toNat
    checked q [lenIs c 4, resv c 5 31 10, (s.aqHandle h ≠ 0, s.aqHandle h, 4),
        (bits (s.reg (A.AQ_NREC k)) 10 0 ≤ rec_, 0x01A2, 5), (131038 < n, 0x01A2, 7)]
      (fun s =>
        match s.buf? (s.aqBuffer k) with
        | none => finish q 1 1 (List.replicate 16 0) s
        | some b =>
          if s.hbmWaits 5 then s else
          let s := hbmCorrected ce s
          let a := s.aqOf k
          let base := rec_ * a.slot / 4
          let hd := (List.range 16).map (fun i => b.word (base + i))
          if wd hd 0 = 0 then finish q 1 1 hd s
          else
            let kept := (wd hd 8).toNat + (wd hd 9).toNat
            let ofs := (c.w 6).toNat
            let m := min n (kept - ofs)
            let first := (wd hd 10).toNat
            let sample (j : Nat) : Nat :=
              let i := (first + j) % max 1 a.cap
              let w := b.word (base + 16 + i / 2)
              if i % 2 = 0 then bits w 15 0 else bits w 31 16
            let words := (List.range ((m + 1) / 2)).map (fun i =>
              word (sample (ofs + 2 * i) + 2 ^ 16 * (if 2 * i + 1 < m then sample (ofs + 2 * i + 1) else 0)))
            let hd := if bad.isSome then (wd hd 0 ||| word (2 ^ 27)) :: hd.tail else hd
            let s := match bad with
              | some u => hbmError u s
              | none => s
            if m < n then finish q 1 2 (hd ++ words) s else ok q (hd ++ words) s) s) s)

end Sys2Proof.Machine
end

