-- ==== Sys2Proof/Machine/TimeUnits.lean ====
section
/-! DEFINITION. The time-interval channels and the measurement engines: edges, stamps, intervals, gates, results, bin
calibration (R354 to R371). -/

namespace Sys2Proof.Machine

def State.tuOf (s : State) (k : Nat) : Tu := kget (fun _ => {}) s.tu k
def modTu (k : Nat) (f : Tu → Tu) (s : State) : State := { s with tu := kset (fun _ => {}) s.tu k (f (s.tuOf k)) }

/-! ## Settings (R354, R355, R362, R365) -/

/-- Input A (0) or B (1) of a channel: its register. -/
def State.tuIn (s : State) (k b : Nat) : Word := if b = 0 then s.reg (A.TU_IN_A k) else s.reg (A.TU_IN_B k)

def State.tuCtrl (s : State) (k hi lo : Nat) : Nat := bits (s.reg (A.TU_CTRL k)) hi lo

/-- The channel measures frequencies (KIND 0x2). -/
def State.tuFreq (s : State) (k : Nat) : Bool := s.tuKind k = 2

/-- The window of an interval measurement, in fine units. -/
def State.tuOpen (s : State) (k : Nat) : Int := 65536 * (s.reg (A.TU_WOPEN k)).toInt
def State.tuClose (s : State) (k : Nat) : Int := 65536 * (s.reg (A.TU_WCLOSE k)).toInt

/-- TU_SKEW_A and TU_SKEW_B show the working-set entries for the present sources and digital section (R357, R411). -/
def refreshTuSkew (k : Nat) (s : State) : State :=
  let skew (b : Nat) : Nat :=
    let t := bits (s.tuIn k b) 31 29
    if 5 < t then 0
    else (s.calVal (uTu k) 8 ((if s.rd (A.TU_STATUS k) F.TU_STATUS.PHYS = 8 then 12 else 0) + 6 * b + t)).toNat
  wr (A.TU_SKEW_A k) F.TU_SKEW_A.SKEW (skew 0) (wr (A.TU_SKEW_B k) F.TU_SKEW_B.SKEW (skew 1) s)

/-- An input word is one that R354 and R297 allow. -/
def tuInputOk (w : Word) : Bool :=
  let idx := bits w 28 23
  let range := bits w 22 22
  let edge := bits w 21 20
  let plain : Bool := range = 0 && bits w 19 14 = 0 && bits w 11 0 = 0
  let analog : Bool := bits w 11 0 ≤ wmTop range
  edge ≠ 0 && (match bits w 31 29 with
    | 0 | 1 => analog
    | 2 => analog && idx ≤ 7 && range = 1
    | 3 => analog && idx ≤ 7
    | 4 => plain && idx ≤ 7
    | 5 => plain && idx ≤ 15
    | 6 => plain && idx = 0 && edge = 1
    | _ => false)

/-- The channel a handle of KIND 0x1 or 0x2 names, and the status where it names none (R371). -/
def State.tuHandle (s : State) (h : Nat) : Nat :=
  match s.handleStatus h [4] with
  | 0 => if [1, 2].contains (((s.meas? h).map (·.kind)).getD 0) then 0 else 0x01B4
  | e => e

def State.tuChan (s : State) (h : Nat) : Nat :=
  (((s.meas? h).map (·.units)).getD []).foldl (fun a u => if uclass u = 0x0A then uindex u else a) 0

/-- A measurement takes another buffer: the old one is free of it, the new one is bound to it. -/
def bindBuffer (h buf : Nat) (s : State) : State :=
  match s.meas? h with
  | some m =>
    modBuf m.buffer (fun b => if b.boundTo = h then { b with boundTo := 0 } else b) s
    |> modPlace (fun p => { p with meas := putSlot p.meas (hIndex h) { m with buffer := buf } })
    |> modBuf buf (fun b => { b with boundTo := h })
  | none => s

/-- TU_SET (R354, R355, R362, R365, R370, R371). -/
def execTuSet (q : Nat) (s : State) : Out :=
  .next (hostCmd q 0x0540 (fun c s => [uTu (s.tuChan (c.w 4).toNat)]) (fun c s =>
    let h := (c.w 4).toNat
    let k := s.tuChan h
    let freq : Bool := ((s.meas? h).map (·.kind)).getD 0 = 2
    let log := (c.w 12).toNat
    let gone (w : Word) : Bool := bits w 31 29 ≤ 1 &&
      (s.mode (64 * (k / 8) + bits w 28 23) = 7 || s.retired (64 * (k / 8) + bits w 28 23))
    let open_ := (c.w 8).toInt
    let close := (c.w 9).toInt
    checked q [lenIs c 9, resv c 5 13 12, (!freq && bits (c.w 6) 13 12 ≠ 0, 0x0101, 6), resv c 7 29 24, resv c 7 19 16,
        (s.tuHandle h ≠ 0, s.tuHandle h, 4), (!tuInputOk (c.w 5), 0x01B0, 5), (!freq && !tuInputOk (c.w 6), 0x01B0, 6),
        (!freq && close ≤ open_, 0x01B1, 9),
        (!freq && (open_ < (if bit (c.w 7) 31 then -1048576 else 0)), 0x01B1, 8),
        (bits (c.w 7) 15 0 < 4, 0x01B2, 7),
        (if freq then (c.w 10).toNat < 1000 else c.w 10 = 0 || 16777216 < (c.w 10).toNat, 0x01B2, 10),
        (log ≠ 0 && s.handleStatus log [2] ≠ 0, s.handleStatus log [2], 12)]
      (checkedU q [
        chkU (log ≠ 0 && (((s.buf? log).map (·.boundTo)).getD 0 ≠ 0) && ((s.buf? log).map (·.boundTo)).getD 0 ≠ h) 0x0310 0 0,
        chkU (gone (c.w 5)) 0x0334 0 (uPin (64 * (k / 8) + bits (c.w 5) 28 23)),
        chkU (!freq && gone (c.w 6)) 0x0334 0 (uPin (64 * (k / 8) + bits (c.w 6) 28 23)),
        chkU (s.tuLive k) 0x0380 0 (uTu k)]
      (fun s => ok q [] (refreshTuSkew k (bindBuffer h log (modTu k (fun t => { t with validAt := s.now + us 5 })
        (forAll (List.range 7) (fun i => setReg (A.TU_IN_A k + 4 * i)
          (if i = 1 then c.w 6 &&& ~~~ (word (3 * 2 ^ 12)) else c.w (5 + i))) s)))))) s) s)

/-! ## Arming and stopping (R361, R370) -/

/-- The rate of a stamp log in MB/s (R370). -/
def State.logRate (s : State) (k : Nat) : Nat :=
  let dead := max 1 (s.tuCtrl k 15 0)
  min 3000 (((if s.tuFreq k then 1 else 2) * 12000 + dead - 1) / dead)

/-- The log buffer of a channel: its handle, 0 where there is none. -/
def State.tuLog (s : State) (k : Nat) : Nat := ((s.holder (uTu k)).map (fun m => m.2.buffer)).getD 0

/-- The channels of a handle list from word 5 on. -/
def State.tuNamed (s : State) (c : Cmd) : List Nat :=
  (List.range 32).filter (((List.range (min 32 (bits (c.w 4) 5 0))).map (fun i => s.tuChan (c.w (5 + i)).toNat)).contains)

/-- The checks of a handle list, record by record in packet order; `more` are those of a named channel (R371). -/
def State.tuListChecks (s : State) (c : Cmd) (more : Nat → List (Bool × Nat × Nat × Nat)) : List (Bool × Nat × Nat × Nat) :=
  let n := bits (c.w 4) 5 0
  [chkU (c.payload ≠ 1 + n) 0x0104 1 0, chkU (bits (c.w 4) 31 6 ≠ 0) 0x0101 4 0, chkU (n = 0 || 32 < n) 0x01B2 4 0]
    ++ (List.range (min n 32)).flatMap (fun i =>
      chkU (s.tuHandle (c.w (5 + i)).toNat ≠ 0) (s.tuHandle (c.w (5 + i)).toNat) (5 + i) 0 :: more (s.tuChan (c.w (5 + i)).toNat))

/-- A channel is armed (R361). -/
def armTu (k : Nat) (s : State) : State :=
  modTu k (fun t => { t with
    start := if s.tuCtrl k 30 30 = 0 then some (s.now + t128) else none, startGen := 0, stopAt := none, openAt := none,
    inA := {}, inB := {}, starts := [], stops := [], block := {}, gate := none, done := 0 }) s
  |> wr (A.TU_STATUS k) F.TU_STATUS.STATE 1
  |> wr (A.TU_STATUS k) F.TU_STATUS.LOG_FULL 0
  |> wr (A.TU_EDGES_A k) F.TU_EDGES_A.COUNT 0
  |> wr (A.TU_EDGES_B k) F.TU_EDGES_B.COUNT 0
  |> wr (A.TU_LOST k) F.TU_LOST.COUNT 0
  |> wr (A.TU_LOGCNT k) F.TU_LOGCNT.COUNT 0

/-- TU_ARM (R361, R370, R371). -/
def execTuArm (q : Nat) (env : CommitEnv) (s : State) : Out :=
  .next (hostCmd q 0x0541 (fun c s => (s.tuNamed c).map uTu) (fun c s =>
    let ks := s.tuNamed c
    let rate (k : Nat) : Nat := ((s.buf? (s.tuLog k)).map (·.rate)).getD 0
    let more := ((ks.filter (fun k => s.tuLog k ≠ 0)).map (fun k => s.logRate k - rate k)).find? (0 < ·)
    checkedU q (s.tuListChecks c (fun k => [chkU (s.tuLive k) 0x0380 0 (uTu k),
        chkU (s.flag (A.TU_STATUS k) F.TU_STATUS.BINCAL_BUSY || s.flag (A.TU_STATUS k) F.TU_STATUS.BIN_FAIL) 0x0381 0 (uTu k)]))
      (fun s => match more with
        | some o => refuseRate q (manyAqDies ks) o (ks.map uTu) s
        | none => twoPhase q (ks.map uTu) (if manyAqDies ks then env else {})
            (fun p => forAll (ks.filter (fun k => p (uTu k))) armTu) (ok q []) s) s) s)

/-- A stop is requested for a channel. -/
def stopTu (k : Nat) (s : State) : State :=
  when (s.tuLive k) (modTu k (fun t => { t with stopAt := some (t.stopAt.getD (s.now + t128)) })) s

/-- TU_STOP (R361, R371). -/
def execTuStop (q : Nat) (env : CommitEnv) (s : State) : Out :=
  .next (hostCmd q 0x0542 (fun c s => (s.tuNamed c).map uTu) (fun c s =>
    let ks := s.tuNamed c
    let idle := (ks.filter (fun k => !s.tuLive k)).length
    checkedU q (s.tuListChecks c (fun _ => [])) (twoPhase q (ks.map uTu) (if manyAqDies ks then env else {})
      (fun p => forAll (ks.filter (fun k => p (uTu k))) stopTu)
      (fun s => finish q (b2n (idle ≠ 0)) idle [] s)) s) s)

/-- A channel loses a source (R361). -/
def loseSource (k : Nat) (s : State) : State :=
  raise (A.TU_STATUS k) F.TU_STATUS.SRC_LOST (stopTu k s)

/-- A window monitor leads to a channel: it is a source of an input, or it was taken or joined by the placement (R354, R361). -/
def State.tuRouted (s : State) (k w : Nat) : Bool :=
  let own (b : Nat) : Bool := bits (s.tuIn k b) 31 29 = 5 && w = 16 * (k / 8) + bits (s.tuIn k b) 28 23
  own 0 || (!s.tuFreq k && own 1)
    || ((s.holder (uTu k)).map (fun m => m.2.units.contains (uWm w) || m.2.links.any (fun l => l.1 = 80 + w))).getD false

/-- The bin table of a channel is stale: its die has moved more than 3 °C since (R360). -/
def State.binStale (s : State) (k : Nat) : Bool :=
  s.tuLive k && tempApart (s.rd (A.TU_BINTEMP k) F.TU_BINTEMP.TEMP) (s.dieTemp (k / 8)) 24

/-! ## Results (R364, R366 to R369) -/

/-- A square root rounded down, found bit by bit from the highest. -/
def isqrtFrom : Nat → Nat → Nat → Nat
  | 0, _, r => r
  | i + 1, n, r => isqrtFrom i n (if (r + 2 ^ i) * (r + 2 ^ i) ≤ n then r + 2 ^ i else r)

/-- The square root of a quotient, rounded to the nearest integer, halves upward. -/
def rootOf (p q : Nat) : Nat :=
  let v := 4 * p / max 1 q
  (isqrtFrom (v.log2 / 2 + 1) v 0 + 1) / 2

/-- A quotient rounded to the nearest integer, halves upward. -/
def halfUp (a : Int) (b : Nat) : Int := (2 * a + b) / (2 * b)

/-- Two marks together. -/
def TuMarks.or (a b : TuMarks) : TuMarks :=
  ⟨a.warm || b.warm, a.coarse || b.coarse, a.stale || b.stale, a.lost || b.lost, a.offRing || b.offRing, a.neg || b.neg,
    a.coincident || b.coincident⟩

/-- Word 0 of a result record (R367). -/
def resultWord (type : Nat) (m : TuMarks) (part sat few : Bool) (seq : Nat) : Word :=
  word (type * 2 ^ 28 + b2n m.warm * 2 ^ 27 + b2n m.coarse * 2 ^ 26 + b2n m.stale * 2 ^ 25 + b2n m.lost * 2 ^ 24
    + b2n part * 2 ^ 23 + b2n m.neg * 2 ^ 22 + b2n m.coincident * 2 ^ 21 + b2n sat * 2 ^ 20 + b2n few * 2 ^ 19
    + b2n m.offRing * 2 ^ 18 + seq % 65536)

/-- Two words of a 64-bit value, low first. -/
def twoWords (v : Int) : List Word := [word (toTwos 64 v), word (toTwos 64 v / 2 ^ 32)]

/-- An interval block record (R368). -/
def TuBlock.record (b : TuBlock) (handle seq : Nat) (part : Bool) : List Word :=
  let sd := if b.n ≤ 1 then 0 else rootOf ((b.s2 : Int) * b.n - b.s1 * b.s1).toNat (b.n * (b.n - 1))
  [resultWord 1 b.marks part (0xFFFFFFFF < sd) false seq, word handle,
   word (b.first / 65536), word (b.first / 65536 / 2 ^ 32), word (b.first % 65536), word b.n]
  ++ twoWords (roundDiv (b.x0 * b.n + b.s1) b.n) ++ twoWords b.lo ++ twoWords b.hi
  ++ [word (min sd 0xFFFFFFFF), word b.unpaired, word b.rejected, word b.extra]

/-- A frequency gate record (R366, R369); `free` stands for the frequency of a fit without a positive period. -/
def TuGate.record (g : TuGate) (handle seq prescale close : Nat) (part : Bool) (free : Nat) : List Word :=
  let d := g.n * g.sii - g.si * g.si
  let few : Bool := g.n < 3 || d = 0
  let nb : Int := g.n * g.sit - g.si * g.st
  let period := if few then 0 else halfUp (nb * 65536) (d * 2 ^ prescale)
  let freq : Int := if few then 0 else if period ≤ 0 then free else halfUp (3200000000000000 * 4294967296) period.toNat
  let resid := if few then 0 else rootOf ((g.n * g.stt - g.st * g.st) * d - nb * nb).toNat (g.n * d * (g.n - 2))
  [resultWord 2 g.marks part false few seq, word handle, word g.opened, word (g.opened / 2 ^ 32), word close, word (close / 2 ^ 32),
   word g.n, word g.edges]
  ++ twoWords period ++ twoWords freq ++ [word resid, word g.skipped, word g.lost, 0]

/-- The measurement-engine slot of a channel. -/
def State.tuSlot (s : State) (k : Nat) : Option Nat := (s.holder (uTu k)).bind (fun m => m.2.slot)

/-- A result record enters the queue of its slot and fires TU_RES, or is lost (R367). -/
def pushResult (k gen : Nat) (st : Stamp) (ws : List Word) (s : State) : State :=
  match s.tuSlot k with
  | some m =>
    let l := kget (fun _ => []) s.results m
    if 256 ≤ l.length then bump (A.ME_QUEUE m) F.ME_QUEUE.RES_LOST s
    else
      wr (A.ME_QUEUE m) F.ME_QUEUE.FILL (l.length + 1) { s with results := kset (fun _ => []) s.results m (l ++ [ws]) }
      |> fire (208 + k) 0 gen st
  | none => s

/-- The handle of the measurement that holds a channel. -/
def State.tuMeas (s : State) (k : Nat) : Nat := ((s.holder (uTu k)).map (·.1)).getD 0

/-- A block or gate has been reported: after REPS of them the channel is done (R361, R364, R365). -/
def countDone (k : Nat) (s : State) : State :=
  let n := (s.tuOf k).done + 1
  let reps := (s.reg (A.TU_REPS k)).toNat
  let s := modTu k (fun t => { t with done := n }) s
  if reps ≠ 0 && reps ≤ n then
    wr (A.TU_STATUS k) F.TU_STATUS.STATE 3 (modTu k (fun t => { t with starts := [], stops := [], gate := none, openAt := none }) s)
  else s

/-- The block in progress is reported and another begins (R364). -/
def endBlock (k : Nat) (part : Bool) (s : State) : State :=
  let b := { (s.tuOf k).block with marks := (s.tuOf k).block.marks.or { stale := s.binStale k } }
  let st : Stamp := ⟨b.first / 65536, b.first % 65536, b.first % 65536 ≠ 0 || !b.marks.coarse⟩
  modTu k (fun t => { t with block := {} }) s
  |> pushResult k 0 st (b.record (s.tuMeas k) (s.tuOf k).done part)
  |> countDone k

/-! ## Interval measurement (R362 to R364) -/

/-- An interval is added to the block in progress. -/
def addInterval (k start : Nat) (x : Int) (m : TuMarks) (s : State) : State :=
  let small : Bool := x.natAbs < 512
  let v := if small then 0 else x
  let b := (s.tuOf k).block
  let d := if b.n = 0 then 0 else v - b.x0
  let c : TuBlock := { b with
    first := if b.n = 0 then start else b.first, x0 := if b.n = 0 then v else b.x0, n := b.n + 1,
    s1 := b.s1 + d, s2 := b.s2 + (d * d).toNat, lo := if b.n = 0 then v else min b.lo v, hi := if b.n = 0 then v else max b.hi v,
    marks := (b.marks.or m).or { neg := v < 0, coincident := small } }
  let s := modTu k (fun t => { t with block := c }) s
  if (s.reg (A.TU_COUNT k)).toNat ≤ c.n then endBlock k false s else s

/-- A stamp enters a list kept in stamp order. -/
def insertBy {α : Type} (f : α → Nat) (x : α) : List α → List α
  | [] => [x]
  | y :: l => if f y ≤ f x then y :: insertBy f x l else x :: y :: l

/-- The window of the earliest open start closes: it is paired with the earliest unpaired stop in it, or counted (R362). -/
def closeWindow (k : Nat) (s : State) : State :=
  let t := s.tuOf k
  match t.starts with
  | [] => s
  | (a, m) :: rest =>
    let inside (p : TuStop × TuMarks) : Bool := a + s.tuOpen k ≤ (p.1.at_ : Int) && (p.1.at_ : Int) < a + s.tuClose k
    match t.stops.filter inside with
    | [] =>
      modTu k (fun t => { t with starts := rest, block := { t.block with unpaired := t.block.unpaired + 1, marks := t.block.marks.or m } }) s
    | (b, mb) :: _ =>
      let stops := (t.stops.eraseP (fun p => p.1.at_ = b.at_)).map (fun p => if inside p then ({ p.1 with held := true }, p.2) else p)
      addInterval k a ((b.at_ : Int) - a) (m.or mb) (modTu k (fun t => { t with starts := rest, stops := stops }) s)

/-- Stops that no start can pair any more are counted: `now` is the count, in fine units, from which later starts come
(R362). -/
def settleStops (k : Nat) (now : Int) (s : State) : State :=
  let t := s.tuOf k
  let open_ (p : TuStop × TuMarks) : Bool := now ≤ p.1.at_ - s.tuOpen k
    || t.starts.any (fun a => a.1 + s.tuOpen k ≤ (p.1.at_ : Int) && (p.1.at_ : Int) < a.1 + s.tuClose k)
  let gone := t.stops.filter (fun p => !open_ p)
  modTu k (fun t => { t with
    stops := t.stops.filter open_,
    block := { t.block with extra := t.block.extra + (gone.filter (·.1.held)).length,
                            rejected := t.block.rejected + (gone.filter (fun p => !p.1.held)).length } }) s

/-- The count in fine units. -/
def State.fineNow (s : State) : Int := 65536 * (s.count : Int) + s.phase

/-- The windows that have closed by a count are closed in stamp order, or, with `cut`, all of them, those still open being cut at that
count; the stops that no start can pair any more by the close of a window are counted before it (R361, R362). -/
def closeDue (k : Nat) (lim : Int) (cut : Bool) : Nat → State → State
  | 0, s => s
  | n + 1, s =>
    match (s.tuOf k).starts with
    | (a, _) :: _ =>
      if (cut || a + s.tuClose k ≤ lim) && s.tuState k = 2 then
        closeDue k lim cut n (closeWindow k (settleStops k (min lim (a + s.tuClose k)) s))
      else s
    | [] => s

/-- The close of a start's stop window (R362). -/
def execTuWindowClose (k : Nat) (s : State) : Out :=
  .next (
    if s.tuState k ≠ 2 || s.tuFreq k then s
    else
      let s := closeDue k s.fineNow false (s.tuOf k).starts.length s
      when (s.tuState k = 2) (fun s => settleStops k s.fineNow s) s)

/-! ## Frequency measurement (R365, R366) -/

/-- A gate opens at a count. -/
def openGate (k count gen : Nat) (s : State) : State :=
  let m : TuMarks := { warm := s.warming, offRing := !s.flag A.GN_STATUS F.GN_STATUS.RING_TIME }
  modTu k (fun t => { t with gate := some { opened := count, gen := gen, marks := m }, openAt := none }) s

/-- The open gate closes at a count: its regression is reported; with GATE_SRC 0 the next opens (R365, R366). -/
def closeGate (k close : Nat) (part : Bool) (s : State) : State :=
  match (s.tuOf k).gate with
  | none => s
  | some g =>
    let free := (Config.freeWord s.fresh 3).toNat
    let marks := g.marks.or { warm := s.warming, offRing := !s.flag A.GN_STATUS F.GN_STATUS.RING_TIME, stale := s.binStale k }
    let rec_ := { g with marks := marks }.record (s.tuMeas k) (s.tuOf k).done (s.tuCtrl k 23 20) close part free
    let s := countDone k (pushResult k g.gen { coarse := g.opened } rec_ (nextFresh (modTu k (fun t => { t with gate := none }) s)))
    when (!part && s.tuState k = 2 && s.tuCtrl k 30 30 = 0) (openGate k close 0) s

/-- The gates of a channel that close by a count are closed, at most `n` of them (R365). -/
def closeGates (k count : Nat) : Nat → State → State
  | 0, s => s
  | n + 1, s =>
    match (s.tuOf k).gate with
    | some g =>
      let close := g.opened + (s.reg (A.TU_COUNT k)).toNat
      if s.tuState k = 2 && close ≤ count then closeGates k count n (closeGate k close false s) else s
    | none => s

/-- As many gates as can have closed by a count. -/
def State.gatesBy (s : State) (k count : Nat) : Nat :=
  match (s.tuOf k).gate with
  | some g => (count - g.opened) / max 1 (s.reg (A.TU_COUNT k)).toNat
  | none => 0

/-- A frequency gate closes (R365). -/
def execTuGateClose (k : Nat) (s : State) : Out := .next (closeGates k s.coarseNow 1 s)

/-- Measuring starts where its start has come by tick `u` (R361, R365). -/
def startBy (k u : Nat) (s : State) : State :=
  match (s.tuOf k).start with
  | some t =>
    if u < t || s.tuState k ≠ 1 then s
    else
      let s := wr (A.TU_STATUS k) F.TU_STATUS.STATE 2 s
      when (s.tuFreq k) (openGate k (s.coarseOf t) (s.tuOf k).startGen) s
  | none => s

/-- Measuring starts (R361, R365). -/
def execTuMeasureStart (k : Nat) (s : State) : Out := .next (startBy k s.now s)

/-- A later gate whose tick has come by tick `u` opens (R365). -/
def gateBy (k u : Nat) (s : State) : State :=
  match (s.tuOf k).openAt with
  | some (t, gen) => if u < t || s.tuState k ≠ 2 then s else openGate k (s.coarseOf t) gen s
  | none => s

/-- With GATE_SRC 1 a later gate opens at the tick reckoned from its event (R365). -/
def execTuGateOpen (k : Nat) (s : State) : Out := .next (gateBy k s.now s)

/-! ## Edges (R356, R357, R370) -/

/-- The centre of a bin in fine units (R359); without a table it is a free value below the sampling period. -/
def binCentre (bins : List Nat) (b free : Nat) : Nat :=
  if bins.isEmpty then free % 262144 else (2 * (bins.take b).sum + bins.getD b 0 + 4) / 8

/-- A stamp is written to the log buffer; LOG_FULL is set once no further stamp has room (R370). -/
def logStamp (k b : Nat) (rising : Bool) (at_ : Nat) (m : TuMarks) (gap : Bool) (s : State) : State :=
  match s.buf? (s.tuLog k) with
  | none => s
  | some buf =>
    let n := (s.reg (A.TU_LOGCNT k)).toNat
    let room (n : Nat) : Bool := 3 * n + 3 ≤ buf.kib * 256
    if !room n then s
    else
      let ws := [word (at_ / 65536), word (at_ / 65536 / 2 ^ 32),
        word (b * 2 ^ 31 + b2n m.warm * 2 ^ 30 + b2n m.coarse * 2 ^ 29 + b2n gap * 2 ^ 28 + (if rising then 1 else 2) * 2 ^ 26 + at_ % 65536)]
      when (!room (n + 1)) (wr (A.TU_STATUS k) F.TU_STATUS.LOG_FULL 1)
        (bump (A.TU_LOGCNT k) F.TU_LOGCNT.COUNT (modBuf (s.tuLog k) (fun x => x.write (3 * n) ws) s))

/-- Change an input. -/
def modIn (k b : Nat) (f : TuInput → TuInput) (s : State) : State :=
  modTu k (fun t => if b = 0 then { t with inA := f t.inA } else { t with inB := f t.inB }) s

def Tu.input (t : Tu) (b : Nat) : TuInput := if b = 0 then t.inA else t.inB

/-- Change what the engine gathers at present. -/
def modGate (k : Nat) (f : TuGate → TuGate) (s : State) : State := modTu k (fun t => { t with gate := t.gate.map f }) s

/-- A stamp reaches the measurement engine, which takes starts and stops in stamp order (R362, R366). -/
def takeStamp (k b e at_ : Nat) (m : TuMarks) (s : State) : State :=
  if s.tuFreq k then
    modGate k (fun g =>
      let t0 := g.first.getD at_
      let i := e / 2 ^ s.tuCtrl k 23 20
      let u : Int := (at_ : Int) - t0
      { g with first := some t0, n := g.n + 1, si := g.si + i, st := g.st + u, sii := g.sii + i * i, sit := g.sit + i * u,
               stt := g.stt + u * u, marks := g.marks.or m }) s
  else if b = 0 then modTu k (fun t => { t with starts := insertBy (·.1) (at_, m) t.starts }) s
  else modTu k (fun t => { t with stops := insertBy (·.1.at_) (⟨at_, false⟩, m) t.stops }) s

/-- A selected edge of an input, taken at time `u`, with its stamp: counted, prescaled, dead-timed, queued, logged (R356, R370). Gates that
its stamp lies beyond close first (R365). -/
def edgeAt (k b : Nat) (rising : Bool) (u at_ : Nat) (coarse : Bool) (s : State) : State :=
  let freq := s.tuFreq k
  let s := when freq (closeGates k (at_ / 65536) (s.gatesBy k (at_ / 65536))) s
  if s.tuState k ≠ 2 then s else
  let x := (s.tuOf k).input b
  let held : Bool := !freq || (match (s.tuOf k).gate with
    | some g => g.opened ≤ at_ / 65536
    | none => false)
  let e := if freq then (((s.tuOf k).gate.map (·.edges)).getD 0) else x.edges
  let s := modIn k b (fun x => { x with edges := x.edges + 1 }) s
  let s := if b = 0 then bump (A.TU_EDGES_A k) F.TU_EDGES_A.COUNT s else bump (A.TU_EDGES_B k) F.TU_EDGES_B.COUNT s
  let s := when held (modGate k (fun g => { g with edges := g.edges + 1 })) s
  if !held then s
  else if b = 0 && e % 2 ^ s.tuCtrl k 23 20 ≠ 0 then s
  else if (match x.last with
      | some l => l ≤ at_ && 10 * (at_ - l) < 2097152 * s.tuCtrl k 15 0
      | none => false) then modGate k (fun g => { g with skipped := g.skipped + 1 }) s
  else
    let gn := s.regAt A.GN_STATUS u
    let m : TuMarks := { warm := fget gn F.GN_STATUS.WARMING = 1, coarse := coarse, offRing := fget gn F.GN_STATUS.RING_TIME = 0 }
    if u + 63 * 16000 < (s.tuOf k).drained then
      bump (A.TU_LOST k) F.TU_LOST.COUNT (modIn k b (fun x => { x with last := some at_, gap := true }) s)
      |> modTu k (fun t => { t with
          gate := t.gate.map (fun g => { g with lost := g.lost + 1, marks := g.marks.or { lost := true } }),
          block := if freq then t.block else { t.block with marks := t.block.marks.or { lost := true } } })
    else
      modIn k b (fun x => { x with last := some at_, gap := false }) s
      |> modTu k (fun t => { t with drained := max t.drained u + 16000 })
      |> logStamp k b rising at_ m x.gap
      |> takeStamp k b e at_ m

/-- An edge at an input (R355 to R357). For sources 0 to 5 the sampling edge before the hit lies at `tick` and the hit fell
in `bin`, which had hits in the table; for source 6 the earliest event at the input's consumer is the edge. A measuring start or a
gate opening that has come by then acts first. -/
def execTuEdge (k b : Nat) (rising : Bool) (tick bin : Nat) (s : State) : Out :=
  .next (
    let due := (((s.tuOf k).input b).events.head?.map (fun a => a.due / 1250)).getD 0
    let u := if bits (s.tuIn k b) 31 29 = 6 then due else min tick s.now
    let s := gateBy k u (startBy k u s)
    let w := s.tuIn k b
    let t := s.tuOf k
    let measuring (at_ : Nat) : Bool := s.tuState k = 2 && (match t.start with
        | some u => u ≤ at_
        | none => false)
      && (match t.stopAt with
        | some u => at_ ≤ u
        | none => true)
    if 1 < b || (b = 1 && s.tuFreq k) then s
    else if bits w 31 29 = 6 then
      match (t.input b).events with
      | [] => s
      | a :: rest =>
        let s := modIn k b (fun x => { x with events := rest }) s
        if measuring (a.due / 1250) then
          edgeAt k b true a.due (65536 * a.stamp.coarse + a.stamp.frac) (!a.stamp.hasFrac) s
        else s
    else
      let edge := bits w 21 20
      if !measuring tick || s.now < tick || 511 < bin || (!t.bins.isEmpty && t.bins.getD bin 0 = 0) || (bits w 31 29 ≤ 3 && tick < t.validAt) || !(nbit edge (if rising then 0 else 1)) then s
      else
        let c := binCentre t.bins bin (Config.freeWord s.fresh 4).toNat
        let skew := if b = 0 then s.rd (A.TU_SKEW_A k) F.TU_SKEW_A.SKEW else s.rd (A.TU_SKEW_B k) F.TU_SKEW_B.SKEW
        edgeAt k b rising (1250 * tick) (65536 * (s.countAt tick : Int) + c + s.phase - skew).toNat false (nextFresh s))

/-! ## The end of measuring (R361) -/

/-- Measuring of a channel ends at its stop tick (R361). -/
def endMeasuring (k t : Nat) (s : State) : State :=
  let s := gateBy k t (startBy k t s)
  let s :=
    if s.tuState k ≠ 2 then s
    else if s.tuFreq k then
      let s := closeGates k (s.coarseOf t) (s.gatesBy k (s.coarseOf t)) s
      match (s.tuOf k).gate with
      | some g => if s.tuState k = 2 && g.opened < s.coarseOf t then closeGate k (s.coarseOf t) true s else s
      | none => s
    else
      let s := closeDue k (65536 * (s.coarseOf t : Int)) true (s.tuOf k).starts.length s
      let s := when (s.tuState k = 2) (fun s =>
        let far : Int := (((s.tuOf k).stops.map (fun p => (p.1.at_ : Int))).foldl max 0) + (s.tuOpen k).natAbs + 1
        settleStops k far s) s
      when (s.tuState k = 2 && (s.tuOf k).block.n ≠ 0) (endBlock k true) s
  wr (A.TU_STATUS k) F.TU_STATUS.STATE 3
    (modTu k (fun t => { t with start := none, stopAt := none, openAt := none, starts := [], stops := [], gate := none }) s)

/-- Measuring ends at the first MTC tick 128 ns after TU_STOP (R361). -/
def execTuStopAct (s : State) : Out :=
  .next (forAll (List.range 32) (fun k s =>
    match (s.tuOf k).stopAt with
    | some t =>
      if s.now < t then s
      else if s.tuLive k then endMeasuring k t s
      else modTu k (fun t => { t with stopAt := none }) s
    | none => s) s)

/-- TU_READ (R367, R371). -/
def execTuRead (q : Nat) (s : State) : Out :=
  .next (hostCmd q 0x0543 (fun c s => [uTu (s.tuChan (c.w 4).toNat)]) (fun c s =>
    let h := (c.w 4).toNat
    let n := bits (c.w 5) 6 0
    checked q [lenIs c 2, resv c 5 31 7, (s.tuHandle h ≠ 0, s.tuHandle h, 4), (n = 0 || 64 < n, 0x01B2, 5)] (fun s =>
      let m := ((s.meas? h).bind (·.slot)).getD 0
      let l := kget (fun _ => []) s.results m
      let out := l.take n
      let s := wr (A.ME_QUEUE m) F.ME_QUEUE.FILL (l.length - out.length)
        { s with results := kset (fun _ => []) s.results m (l.drop n) }
      let ws := word ((l.length - out.length) * 2 ^ 16 + out.length) :: out.flatten
      if out.length < n then finish q 1 out.length ws s else ok q ws s) s) s)

/-! ## Bin calibration (R359, R360, R441) -/

/-- A bin calibration of a channel starts. -/
def startBincal (k : Nat) (s : State) : State :=
  if s.flag (A.TU_STATUS k) F.TU_STATUS.BINCAL_BUSY then s
  else wr (A.TU_STATUS k) F.TU_STATUS.BINCAL_BUSY 1 (modTu k (fun t => { t with calAt := some s.now }) s)

/-- TU_BINCAL (R359, R360). -/
def execTuBincal (q : Nat) (env : CommitEnv) (s : State) : Out :=
  .next (hostCmd q 0x0544 (fun c _ => (bitList 32 (c.w 4).toNat).map uTu) (fun c s =>
    let ks := bitList 32 (c.w 4).toNat
    checked q [lenIs c 1, (ks.isEmpty, 0x01B2, 4)] (checkedU q (ks.map (fun k => chkU (s.tuLive k) 0x0381 0 (uTu k)))
      (twoPhase q (ks.map uTu) (if apart (ks.map uTu) then env else {})
        (fun p => forAll (ks.filter (fun k => p (uTu k))) startBincal) (modCmd q (fun c => { c with stage := 1 })))) s) s)

/-- The channels of a die that bin calibration has to mend: idle or done, and drifted (R359). -/
def State.drifted (s : State) (d : Nat) : List Nat :=
  ((List.range 8).map (8 * d + ·)).filter (fun k =>
    !s.tuLive k && !s.flag (A.TU_STATUS k) F.TU_STATUS.BINCAL_BUSY
      && tempApart (s.rd (A.TU_BINTEMP k) F.TU_BINTEMP.TEMP) (s.dieTemp d) 24)

/-- The queue of running-block claims shows in PW_STATUS and PW_WAIT_HEAD (R441). -/
def setQueue (l : List Waiting) (s : State) : State :=
  wr A.PW_STATUS F.PW_STATUS.WAITING l.length { s with power := { s.power with queue := l } }
  |> wr A.PW_STATUS F.PW_STATUS.BUDGET_WAIT (b2n !l.isEmpty)
  |> setReg A.PW_WAIT_HEAD (word ((l.head?.map (·.unit)).getD 0))

/-- A running-block claim fits (R440, R441). -/
def State.fits (s : State) (amount : Nat) : Bool := s.rd A.PW_GRANTED F.PW_GRANTED.MW + amount ≤ s.effBudget

/-- The automatic bin calibration of a die, its claim granted, begins. -/
def beginAuto (d : Nat) (s : State) : State := forAll (s.drifted d) startBincal (setClaim (uDie d) 200 s)

/-- The temperature check of a die, every second (R359, R441). -/
def execBincalAuto (d : Nat) (s : State) : Out :=
  .next (
    let due := kget (fun _ => ms 1000) s.power.binCheck d
    if 3 < d || s.now < due then s
    else
      let s := { s with power := { s.power with binCheck := kset (fun _ => ms 1000) s.power.binCheck d (due + ms 1000) } }
      if (s.drifted d).isEmpty || s.claimOf (uDie d) ≠ 0 || s.power.queue.any (fun w => w.unit = uDie d) then s
      else if s.power.queue.isEmpty && s.fits 200 then beginAuto d s
      else setQueue (s.power.queue ++ [⟨uDie d, 200⟩]) s)

/-- A TU_BINCAL whose channels have all calibrated ends (R359, R360). -/
def endBincal (s : State) : State :=
  forAll (List.range 8) (fun q s =>
    match s.running q with
    | none => s
    | some c =>
      let ks := bitList 32 (c.w 4).toNat
      if c.opcode ≠ 0x0544 || c.stage ≠ 1 || ks.any (fun k => s.flag (A.TU_STATUS k) F.TU_STATUS.BINCAL_BUSY) then s
      else
        let bad := bitsOf (ks.filter (fun k => s.flag (A.TU_STATUS k) F.TU_STATUS.BIN_FAIL))
        if bad = 0 then ok q [0] s else finish q 0x0620 0 [word bad] s) s

/-- The hits of a bin calibration are taken as the table, or the calibration fails (R359, R360). -/
def takeBins (k : Nat) (hits : List Nat) (s : State) : State :=
  if hits.any (8192 < ·) then
    report (uTu k) 0x09 (keyDie (k / 8)) (wr (A.TU_STATUS k) F.TU_STATUS.BIN_FAIL 1 s)
  else
    modTu k (fun t => { t with bins := hits }) s
    |> wr (A.TU_STATUS k) F.TU_STATUS.BIN_FAIL 0
    |> wr (A.TU_BINTEMP k) F.TU_BINTEMP.TEMP (s.dieTemp (k / 8))

/-- A bin calibration of 15 ms ends with the hits of the 512 bins (R359, R360). -/
def execBincalDone (k : Nat) (hits : List Nat) (s : State) : Out :=
  .next (
    match (s.tuOf k).calAt with
    | some t =>
      if s.now < t + ms 15 || hits.length ≠ 512 || hits.sum ≠ 1048576 then s
      else
        let d := k / 8
        let s := takeBins k hits (wr (A.TU_STATUS k) F.TU_STATUS.BINCAL_BUSY 0 (modTu k (fun t => { t with calAt := none }) s))
        let quiet : Bool := ((List.range 8).map (8 * d + ·)).all (fun i => !s.flag (A.TU_STATUS i) F.TU_STATUS.BINCAL_BUSY)
        endBincal (when quiet (release (uDie d)) s)
    | none => s)

end Sys2Proof.Machine
end

