-- ==== Sys2Proof/Machine/Measure.lean ====
section
/-! DEFINITION. Placement of measurements: the units chosen, their inputs, the prism paths that join them to their sources
(R35, R133, R277, R322, R390). -/

namespace Sys2Proof.Machine

/-! ## Sources (R133, R322, R354) -/

/-- A unit identifier names an existing unit of a class with `n` units. -/
def isUnit (u cls n : Nat) : Bool := uclass u = cls && u % 2 ^ 24 < n

/-- A source that a time-interval channel can measure: a pin, a TIO pin, or the output of a source channel, window monitor or
pulse engine, or an AIN input, named by its digitizer channel (DESIGN CHOICE, log entry 38). -/
def tuSource (u : Nat) : Bool :=
  isUnit u 0x01 256 || isUnit u 0x0F 16 || isUnit u 0x08 32 || isUnit u 0x09 32 || isUnit u 0x0B 64 || isUnit u 0x0C 32

/-- A source that a digitizer channel can sample (R133, R322). -/
def aqSource (u : Nat) : Bool := isUnit u 0x01 256 || isUnit u 0x08 32 || isUnit u 0x09 32 || isUnit u 0x0B 64

/-- The die of a source, if it is fixed to one. -/
def sourceDie (u : Nat) : Option Nat :=
  match uclass u with
  | 0x01 => some (uindex u / 64)
  | 0x0B => some (uindex u / 16)
  | 0x0F => none
  | _ => some (uindex u / 8)

/-- A unit is held by a measurement. -/
def State.unitHeld (s : State) (u : Nat) : Bool := (s.holder u).isSome

/-- The lowest free unit of a class on a die: `per` units a die (R133). -/
def State.freeUnit (s : State) (f : Nat → Nat) (per d : Nat) : Option Nat :=
  ((List.range per).map (per * d + ·)).find? (fun k => !s.unitHeld (f k))

/-- The lowest free time-interval channel of a die: not held, its bins calibrated (R360). -/
def State.freeTu (s : State) (d : Nat) : Option Nat :=
  ((List.range 8).map (8 * d + ·)).find? (fun k => !s.unitHeld (uTu k) && !s.flag (A.TU_STATUS k) F.TU_STATUS.BIN_FAIL)

/-- The lowest free slot of the measurement engines. -/
def State.freeSlot? (s : State) : Option Nat := (List.range 64).find? (fun i => s.reg (A.ME_SLOT i) = 0)

/-- The lowest die line of a die that no handle holds (R390). -/
def State.freeLine (s : State) (d : Nat) (skip : List Nat) : Option Nat :=
  ((List.range 31).map (68 + 31 * d + ·)).find? (fun c => !skip.contains c && !s.flag (A.PR_CCFG c) F.PR_CCFG.HELD)

/-! ## Inputs of time-interval channels -/

/-- How an input reaches a source: its input word, and, where it comes through the prism, the producer, with the window monitor
taken on the source's die (R35, R354). -/
structure Route where
  input : Word
  producer : Option Nat := none
  monitor : Option Nat := none
  deriving DecidableEq, Repr

/-- An input word with the settings a placement starts with (R354; DESIGN CHOICE, log entry 39 for AIN). -/
def startInput (type idx edge : Nat) : Word :=
  if 4 ≤ type then word (type * 2 ^ 29 + idx * 2 ^ 23 + edge * 2 ^ 20)
  else
    let ain : Bool := type = 2
    word (type * 2 ^ 29 + idx * 2 ^ 23 + b2n ain * 2 ^ 22 + edge * 2 ^ 20 + 4 * 2 ^ 14 + (if ain then 3248 else 1080))

/-- The source's type and index on its own die. -/
def localSource (u : Nat) : Nat × Nat :=
  match uclass u with
  | 0x01 => (0, uindex u % 64)
  | 0x08 => (3, uindex u % 8)
  | 0x09 => (2, uindex u % 8)
  | 0x0B => (5, uindex u % 16)
  | _ => (4, uindex u % 8)

/-- How an input of a channel of die `d` reaches a source; none where the source's die has no free window monitor. `taken` are
monitors already chosen. -/
def State.route (s : State) (d u edge : Nat) (taken : List Nat) : Option Route :=
  match sourceDie u with
  | none => some { input := startInput 6 0 1, producer := some (32 + uindex u) }
  | some e =>
    if e = d then some { input := startInput (localSource u).1 (localSource u).2 edge }
    else match uclass u with
      | 0x0B => some { input := startInput 6 0 1, producer := some (80 + uindex u) }
      | 0x0C => some { input := startInput 6 0 1, producer := some (144 + uindex u) }
      | _ =>
        (((List.range 16).map (16 * e + ·)).find? (fun k => !s.unitHeld (uWm k) && !taken.contains k)).map (fun k =>
          { input := startInput 6 0 1, producer := some (80 + k), monitor := some k })

/-- A routed monitor takes the source as its input; RANGE 1 for an AIN input (R296, R300). -/
def senseSource (k u : Nat) (s : State) : State :=
  let src := localSource u
  let old := s.reg (A.WM_CFG k)
  let cfg := bits old 25 23 * 2 ^ 23 + b2n (src.1 = 2) * 2 ^ 22 + src.1 * 2 ^ 20 + src.2 * 2 ^ 14 + bits old 13 0
  WmRec.put ⟨0, k, word cfg, s.shd (A.WM_TH k), s.shd (A.WM_SHAPE k)⟩ s

/-- A die line of the channel's die carries producer `p` to an input bit of TARGET, held by the handle (R388, R390). -/
def holdLine (p c target : Nat) (s : State) : State :=
  let x := c - 68
  setJoin p c true s
  |> wr (A.PR_CCFG c) F.PR_CCFG.HELD 1
  |> wr (A.PR_CCFG c) F.PR_CCFG.KMASK 1
  |> setReg (A.PR_LTGT_LO x) (word (2 ^ target))
  |> setReg (A.PR_LTGT_HI x) (word (2 ^ target / 2 ^ 32))

/-! ## MEAS_PLACE (R133) -/

/-- A measurement is entered in its table; the handle is returned with its units, ascending. -/
def placeMeas (q i : Nat) (m : Meas) (s : State) : State :=
  let g := (kget (fun _ => {}) s.place.meas i).gen
  let h := mkHandle 4 g i
  let s := modPlace (fun p => { p with meas := putSlot p.meas i m }) s
  let s := match m.slot with
    | some x => setReg (A.ME_SLOT x) (word h) (wr (A.ME_QUEUE x) F.ME_QUEUE.FILL 0 { s with results := kdel s.results x })
    | none => s
  let s := modBuf m.buffer (fun b => { b with boundTo := h }) s
  ok q ([word h, word m.units.length] ++ m.units.map word) s

/-- KIND 0x1 and 0x2: a time-interval channel, a measurement-engine slot, and what leads sources of other dies to it. -/
def placeTime (q i kind edgeA edgeB a b : Nat) (s : State) : State :=
  let two : Bool := kind = 1
  let die := match sourceDie a, (if two then sourceDie b else none) with
    | some d, _ => some d
    | none, some d => some d
    | none, none => (List.range 4).find? (fun d => (s.freeTu d).isSome)
  match die.bind s.freeTu with
  | none => finish q 0x0214 0x0A [] s
  | some k =>
    match s.freeSlot? with
    | none => finish q 0x0214 0x05 [] s
    | some x =>
      let d := k / 8
      match s.route d a edgeA [] with
      | none => finish q 0x0214 0x0B [] s
      | some ra =>
        match (if two then s.route d b edgeB ra.monitor.toList else some { input := 0 }) with
        | none => finish q 0x0214 0x0B [] s
        | some rb =>
          let la := if ra.producer.isSome then s.freeLine d [] else some 0
          let lb := if rb.producer.isSome then s.freeLine d (if ra.producer.isSome then la.toList else []) else some 0
          match la, lb with
          | some la, some lb =>
            let wms := ra.monitor.toList ++ rb.monitor.toList
            let links := (ra.producer.toList.map (·, la)) ++ (rb.producer.toList.map (·, lb))
            let lines := links.map (·.2)
            let s := match ra.monitor with | some w => senseSource w a s | none => s
            let s := match rb.monitor with | some w => senseSource w b s | none => s
            let s := match ra.producer with | some p => holdLine p la (32 + k % 8) s | none => s
            let s := match rb.producer with | some p => holdLine p lb (40 + k % 8) s | none => s
            let s := setReg (A.TU_IN_A k) ra.input s
              |> setReg (A.TU_IN_B k) rb.input
              |> setReg (A.TU_CTRL k) 4
              |> setReg (A.TU_WOPEN k) 0
              |> setReg (A.TU_WCLOSE k) 3200000
              |> setReg (A.TU_COUNT k) (if two then 1 else 3200000)
              |> setReg (A.TU_REPS k) 0
              |> refreshTuSkew k
              |> modTu k (fun t => { t with validAt := s.now + us 5 })
            placeMeas q i ⟨kind, edgeA + 4 * edgeB, a, b, uMeas (x / 8) :: uTu k :: ((List.range 64).filter wms.contains).map uWm,
              links, lines, some x, 0⟩ s
          | _, _ => finish q 0x0214 0x11 [] s

/-- KIND 0x3: a digitizer channel and its capture buffer; the channel takes the source as its input (R322). -/
def placeDigit (q i a buf : Nat) (s : State) : State :=
  let chan := if uclass a = 0x09 then (if s.unitHeld a then none else some (uindex a))
    else (sourceDie a).bind (s.freeUnit uAq 8)
  match chan with
  | none => finish q 0x0214 0x09 [] s
  | some k =>
    let wide := b2n (uclass a = 0x09 || (uclass a = 0x0B && s.wmRange (uindex a) = 1))
    let src : Nat × Nat := match uclass a with
      | 0x01 => (0, uindex a % 64)
      | 0x08 => (3, uindex a % 8)
      | 0x09 => (2, 0)
      | _ => (4, uindex a % 16)
    let s := setReg (A.AQ_CFG k) (word (src.1 * 2 ^ 29 + src.2 * 2 ^ 23 + wide * 2 ^ 21)) s
    let s := forAll (List.range 4) (fun c s => setReg (A.AQ_COND_A k c) 0 (setReg (A.AQ_COND_B k c) 0 s)) s
    placeMeas q i ⟨3, 0, a, 0, [uAq k], [], [], none, buf⟩ (refreshSkew k s)

/-- KIND 0x5: a source channel of the pin's die; the pin's PMU takes its force voltage from it, with the checks of PMU_SET
(R277). -/
def placeSource (q i n : Nat) (s : State) : State :=
  match s.freeUnit uAw 8 (dieOf n) with
  | none => finish q 0x0214 0x08 [] s
  | some k =>
    let cfg := s.reg (A.PMU_CFG n)
    let r : PmuRec := ⟨5, n, fget cfg F.PMU_CFG.FORCE, fget cfg F.PMU_CFG.MEAS, fget cfg F.PMU_CFG.RANGE, fget cfg F.PMU_CFG.SENSE,
      fget cfg F.PMU_CFG.SERVO, 1, k % 8, s.groupOf n 9, s.codeS n 9⟩
    if !r.ok then finish q 0x0170 5 [] s
    else placeMeas q i ⟨5, 0, uPin n, 0, [uAw k], [], [], none, 0⟩ (r.put s)

/-- MEAS_PLACE (R133, R35). A placement that changes the PMU_CFG of its pin holds the pin (R89, R283). -/
def execMeasPlace (q : Nat) (s : State) : Out :=
  .next (hostCmd q 0x0120 (fun c _ => 
    (if bits (c.w 4) 3 0 = 5 && isUnit (c.w 5).toNat 0x01 256 then [(c.w 5).toNat] else []) ++ [uPlace]) (fun c s =>
    let kind := bits (c.w 4) 3 0
    let edgeA := bits (c.w 4) 5 4
    let edgeB := bits (c.w 4) 7 6
    let a := (c.w 5).toNat
    let b := (c.w 6).toNat
    let buf := (c.w 7).toNat
    let aOk : Bool := match kind with
      | 1 | 2 => tuSource a
      | 3 => aqSource a
      | _ => isUnit a 0x01 256
    let gone (u : Nat) : Bool := isUnit u 0x01 256 && (s.mode (uindex u) = 7 || s.retired (uindex u))
    let slot := freeIndex s.place.meas 256
    checked q [lenIs c 4, resv c 4 31 8,
        (kind = 0 || 5 < kind || (kind ≤ 2 && edgeA = 0) || (kind = 1 && edgeB = 0), 0x0116, 4),
        (!aOk, 0x0116, 5), (if kind = 1 then !tuSource b else b ≠ 0, 0x0116, 6), (kind ≠ 3 && buf ≠ 0, 0x0116, 7),
        (kind = 3 && s.handleStatus buf [2] ≠ 0, s.handleStatus buf [2], 7)]
      (checkedU q [
        chkU (gone a) 0x0334 0 a, chkU (kind = 1 && gone b) 0x0334 0 b,
        chkU (kind = 3 && ((s.buf? buf).map (·.boundTo)).getD 0 ≠ 0) 0x0310 0 0,
        chkU slot.isNone 0x0213 0 0]
      (fun s =>
        let i := slot.getD 0
        match kind with
        | 1 | 2 => placeTime q i kind edgeA (if kind = 1 then edgeB else 0) a b s
        | 3 => placeDigit q i a buf s
        | 4 =>
          match s.freeUnit uWm 16 (dieOf (uindex a)) with
          | none => finish q 0x0214 0x0B [] s
          | some k => placeMeas q i ⟨4, 0, a, 0, [uWm k], [], [], none, 0⟩ s
        | _ => placeSource q i (uindex a) s)) s) s)

/-- A unit of a measurement is in use: a channel filling, capturing, armed, measuring, waiting or playing, a guarded monitor
(R138; DEDUCED, log entry 40). -/
def State.unitRuns (s : State) (u : Nat) : Bool :=
  match uclass u with
  | 0x08 => s.awState (uindex u) = 2 || s.awState (uindex u) = 3
  | 0x09 => s.aqLive (uindex u)
  | 0x0A => s.tuLive (uindex u)
  | 0x0B => s.guarded (uindex u)
  | _ => false

/-- MEAS_RELEASE: the units are free, exactly the enable bits the placement set are cleared (R133, R138). -/
def execMeasRelease (q : Nat) (s : State) : Out :=
  .next (hostCmd q 0x0121 (fun _ _ => [uPlace]) (fun c s =>
    let h := (c.w 4).toNat
    let busy := ((s.meas? h).bind (fun m => m.units.find? s.unitRuns))
    checked q [lenIs c 1, (s.handleStatus h [4] ≠ 0, s.handleStatus h [4], 4)]
      (checkedU q [chkU busy.isSome 0x0310 0 (busy.getD 0)] (fun s =>
        match s.meas? h with
        | none => ok q [] s
        | some m =>
          let s := forAll m.links (fun l => setJoin l.1 l.2 false) s
          let s := forAll m.lines (fun l => wr (A.PR_CCFG l) F.PR_CCFG.HELD 0) s
          let s := match m.slot with
            | some x => setReg (A.ME_SLOT x) 0 (wr (A.ME_QUEUE x) F.ME_QUEUE.FILL 0 { s with results := kdel s.results x })
            | none => s
          let s := modBuf m.buffer (fun b => { b with boundTo := 0 }) s
          ok q [] (unbind h (modPlace (fun p => { p with meas := freeSlot p.meas (hIndex h) }) s)))) s) s)

end Sys2Proof.Machine
end

