-- ==== Sys2Proof/Machine/Hmac.lean ====
section
/-! DEFINITION. HMAC-SHA-256 as FIPS 198-1 and FIPS 180-4 define it, over lists of bytes: the keyed check of R102, the key check
value of a slot, the binding tag of a signer (R188) and the digests of R187 are computed with it. -/

namespace Sys2Proof.Machine

/-- Word `i` of a row of eight 32-bit words held in one number, the first in its top bits. -/
def rowWord (row i : Nat) : Word := word (row / 2 ^ (224 - 32 * i))

/-- The 64 round constants of SHA-256, eight to a row. -/
def shaRows : List Nat := [
  0x428a2f9871374491b5c0fbcfe9b5dba53956c25b59f111f1923f82a4ab1c5ed5,
  0xd807aa9812835b01243185be550c7dc372be5d7480deb1fe9bdc06a7c19bf174,
  0xe49b69c1efbe47860fc19dc6240ca1cc2de92c6f4a7484aa5cb0a9dc76f988da,
  0x983e5152a831c66db00327c8bf597fc7c6e00bf3d5a7914706ca635114292967,
  0x27b70a852e1b21384d2c6dfc53380d13650a7354766a0abb81c2c92e92722c85,
  0xa2bfe8a1a81a664bc24b8b70c76c51a3d192e819d6990624f40e3585106aa070,
  0x19a4c1161e376c082748774c34b0bcb5391c0cb34ed8aa4a5b9cca4f682e6ff3,
  0x748f82ee78a5636f84c878148cc7020890befffaa4506cebbef9a3f7c67178f2]

/-- The eight working words of SHA-256. -/
structure Sha where
  a : Word
  b : Word
  c : Word
  d : Word
  e : Word
  f : Word
  g : Word
  h : Word
  deriving DecidableEq, Repr

/-- Eight words of a row as working words. -/
def Sha.ofRow (row : Nat) : Sha :=
  let x := rowWord row
  ⟨x 0, x 1, x 2, x 3, x 4, x 5, x 6, x 7⟩

/-- The initial hash value of SHA-256. -/
def Sha.start : Sha := Sha.ofRow 0x6a09e667bb67ae853c6ef372a54ff53a510e527f9b05688c1f83d9ab5be0cd19

/-- The words in order. -/
def Sha.toList (x : Sha) : List Word := [x.a, x.b, x.c, x.d, x.e, x.f, x.g, x.h]

/-- Word by word sums. -/
def Sha.add (x y : Sha) : Sha := ⟨x.a + y.a, x.b + y.b, x.c + y.c, x.d + y.d, x.e + y.e, x.f + y.f, x.g + y.g, x.h + y.h⟩

/-- The exclusive or of three rotations to the right. -/
def spin (w : Word) (i j k : Nat) : Word := w.rotateRight i ^^^ w.rotateRight j ^^^ w.rotateRight k

/-- The exclusive or of two rotations and a shift to the right. -/
def slide (w : Word) (i j k : Nat) : Word := w.rotateRight i ^^^ w.rotateRight j ^^^ (w >>> k)

/-- One round, which mixes in `m`: a message word with its round constant. -/
def Sha.round (x : Sha) (m : Word) : Sha :=
  let pick := (x.e &&& x.f) ||| (x.g &&& ~~~ x.e)
  let most := (x.a &&& (x.b ||| x.c)) ||| (x.b &&& x.c)
  let t := m + pick + spin x.e 6 11 25 + x.h
  ⟨most + spin x.a 2 13 22 + t, x.a, x.b, x.c, t + x.d, x.e, x.f, x.g⟩

/-- A round on the window of the next sixteen message words: its first word goes in, the seventeenth comes on behind. -/
def shaRound (p : Sha × List Word) (k : Word) : Sha × List Word :=
  let w := wd p.2
  (p.1.round (w 0 + k), p.2.drop 1 ++ [slide (w 14) 17 19 10 + slide (w 1) 7 18 3 + w 9 + w 0])

/-- One block of sixteen words added to the hash value. -/
def Sha.block (x : Sha) (m : List Word) : Sha :=
  let ks := shaRows.flatMap (fun r => (List.range 8).map (rowWord r))
  x.add (ks.foldl shaRound (x, m)).1

/-- Blocks of sixteen words, one after another. -/
def Sha.blocks : Nat → List Word → Sha → Sha
  | 0, _, x => x
  | n + 1, m, x => Sha.blocks n (m.drop 16) (x.block (m.take 16))

/-- A number as `n` bytes, most significant first. -/
def beBytes (n v : Nat) : List Byte := (List.range n).map (fun i => BitVec.ofNat 8 (v / 256 ^ (n - 1 - i)))

/-- A number as `n` bytes, least significant first. -/
def leBytes (n v : Nat) : List Byte := (List.range n).map (fun i => BitVec.ofNat 8 (v / 256 ^ i))

/-- The number that bytes spell, most significant first. -/
def beNat (l : List Byte) : Nat := l.foldl (fun a b => 256 * a + b.toNat) 0

/-- SHA-256 of a message: it is padded with a one bit, zeros and its length in bits to whole blocks of big-endian words. -/
def sha256 (m : List Byte) : List Byte :=
  let fill := (119 - m.length % 64) % 64
  let p := m ++ 0x80#8 :: (List.replicate fill 0 ++ beBytes 8 (8 * m.length))
  let ws := (List.range (p.length / 4)).map (fun i => word (beNat ((p.drop (4 * i)).take 4)))
  (Sha.blocks (ws.length / 16) ws Sha.start).toList.flatMap (fun w => beBytes 4 w.toNat)

/-- HMAC-SHA-256 of a message under a key of at most 64 bytes. -/
def hmacSha256 (key m : List Byte) : List Byte :=
  let pad (x : Byte) : List Byte := (List.range 64).map (fun i => key.getD i 0 ^^^ x)
  sha256 (pad 0x5c ++ sha256 (pad 0x36 ++ m))

end Sys2Proof.Machine
end

