-- ==== Sys2Proof/Machine/Ecdsa.lean ====
section
/-! DEFINITION. Verification of an ECDSA signature over the curve P-256 with SHA-256, as FIPS 186-4 defines it (R187), in whole
numbers. -/

namespace Sys2Proof.Machine.P256

/-- The field prime, the order of the base point, and the coefficient b of the curve y² = x³ − 3x + b. -/
def prime : Nat := 0xffffffff00000001000000000000000000000000ffffffffffffffffffffffff
def order : Nat := 0xffffffff00000000ffffffffffffffffbce6faada7179e84f3b9cac2fc632551
def coeff : Nat := 0x5ac635d8aa3a93e7b3ebbd55769886bc651d06b0cc53b0f63bce3c3e27d2604b

/-- `b` raised to a 256-bit power, modulo `m`. -/
def power (m b e : Nat) : Nat :=
  ((List.range 256).foldl (fun a i => (if nbit e i then a.1 * a.2 % m else a.1, a.2 * a.2 % m)) (1, b % m)).1

/-- The inverse modulo a prime. -/
def inverse (m v : Nat) : Nat := power m v (m - 2)

/-- A point in projective form: (x/z², y/z³), the point at infinity where z is 0. -/
structure Point where
  x : Nat
  y : Nat
  z : Nat
  deriving DecidableEq, Repr

/-- The base point. -/
def base : Point where
  x := 0x6b17d1f2e12c4247f8bce6e563a440f277037d812deb33a0f4a13945d898c296
  y := 0x4fe342e2fe1a7f9b8ee7eb4a7c0f9e162bce33576b315ececbb6406837bf51f5
  z := 1

/-- `a - b` in the field. -/
def less (a b : Nat) : Nat := (a + (prime - b % prime)) % prime

/-- A point added to itself. -/
def Point.twice (p : Point) : Point :=
  let yy := p.y * p.y % prime
  let zz := p.z * p.z % prime
  let s := 4 * p.x * yy % prime
  let m := 3 * less p.x zz * (p.x + zz) % prime
  let x := less (m * m) (2 * s)
  ⟨x, less (m * less s x) (8 * yy * yy), 2 * p.y * p.z % prime⟩

/-- The sum of two points. -/
def Point.plus (p q : Point) : Point :=
  if p.z = 0 then q
  else if q.z = 0 then p
  else
    let pz := p.z * p.z % prime
    let qz := q.z * q.z % prime
    let u := p.x * qz % prime
    let v := p.y * qz * q.z % prime
    let h := less (q.x * pz) u
    let r := less (q.y * pz * p.z) v
    if h = 0 then (if r = 0 then p.twice else ⟨1, 1, 0⟩)
    else
      let hh := h * h % prime
      let hu := hh * u % prime
      let x := less (r * r) (hh * h + 2 * hu)
      ⟨x, less (r * less hu x) (v * hh * h), h * p.z * q.z % prime⟩

/-- A point times a 256-bit number. -/
def Point.times (p : Point) (k : Nat) : Point :=
  ((List.range 256).foldl (fun a i => (if nbit k i then a.1.plus a.2 else a.1, a.2.twice)) ((⟨1, 1, 0⟩ : Point), p)).1

/-- The two numbers are the coordinates of a point of the curve. -/
def onCurve (x y : Nat) : Bool :=
  x < prime && y < prime && y * y % prime = (x * x * x + (prime - 3) * x + coeff) % prime

/-- The signature (r, s) of a message digest verifies under the public key (x, y). -/
def verifies (x y r s digest : Nat) : Bool :=
  let w := inverse order s
  let p := (base.times (digest * w % order)).plus (Point.times ⟨x, y, 1⟩ (r * w % order))
  let v := inverse prime p.z
  onCurve x y && 1 ≤ r && r < order && 1 ≤ s && s < order && p.z ≠ 0 && p.x * (v * v) % prime % order = r

end Sys2Proof.Machine.P256
end

