-- ==== Sys2Proof/Machine/Link.lean ====
section
/-! DEFINITION. The host link: doorbells, ring pairs, fetching, starting and completing commands, authentication,
host-link reset and the link's own events (R73 to R113). -/

namespace Sys2Proof.Machine

/-! ## Ring pairs -/

/-- The number of entries of a ring (R79). -/
def State.ringSize (s : State) (q : Nat) : Nat := 2 ^ s.rd (A.HL_RING_CFG q) F.HL_RING_CFG.SIZE_LOG2

/-- A ring pair is enabled and not stopped. -/
def State.ringLive (s : State) (q : Nat) : Bool :=
  s.flag (A.HL_RING_CFG q) F.HL_RING_CFG.ENABLE && !s.flag (A.HL_RING_STATUS q) F.HL_RING_STATUS.STOPPED

/-- A ring error stops its pair, sets ERR and signals vector 9 (R94); a further error of a stopped pair does so again with its own code
(DESIGN CHOICE, log entry 78). -/
def ringError (q err : Nat) (s : State) : State :=
  signal 9 (wr (A.HL_RING_STATUS q) F.HL_RING_STATUS.ERR err
    (wr (A.HL_RING_STATUS q) F.HL_RING_STATUS.STOPPED 1 s))

/-- A write of a doorbell's value reaches its ring: BAR4 is reachable while the link is up (R74); of a disabled pair it is discarded
and counted, and a value at or above the ring's size is a ring error (R85). -/
def doorbell (q : Nat) (v : Word) (f : State → State) (s : State) : State :=
  if !s.link.up then s
  else if !s.flag (A.HL_RING_CFG q) F.HL_RING_CFG.ENABLE then discard s
  else if s.ringSize q ≤ v.toNat then ringError q 1 s
  else f s

/-- The two doorbells of a ring pair (R84): the tail of its submission ring and the head of its completion ring. -/
def tailDoorbell (q : Nat) (v : Word) : State → State := doorbell q v (modRing q (fun r => { r with tail := v.toNat }))
def headDoorbell (q : Nat) (v : Word) : State → State := doorbell q v (modRing q (fun r => { r with cqHead := v.toNat }))

/-- SQ tail doorbell (R84, R85). -/
def execSqTailDoorbell (q : Nat) (v : Word) (s : State) : Out := .next (tailDoorbell q v s)

/-- CQ head doorbell (R84, R86). -/
def execCqHeadDoorbell (q : Nat) (v : Word) (s : State) : Out := .next (headDoorbell q v s)

/-- The configuration fields of HL_RING_CFG take their written values; a field of an invalid value keeps its own and the
write is counted (R95, R111). They are ignored unless ENABLE is 0 and STOPPED is 1. -/
def writeRingCfg (q : Nat) (w : Word) (s : State) : State :=
  if s.flag (A.HL_RING_CFG q) F.HL_RING_CFG.ENABLE || !s.flag (A.HL_RING_STATUS q) F.HL_RING_STATUS.STOPPED then s
  else
    let set (f : Fld) (valid : Bool) (s : State) : State :=
      if valid then wr (A.HL_RING_CFG q) f (fget w f) s else s
    let good : Bool := fget w F.HL_RING_CFG.IRQ_COUNT ≠ 0 && fget w F.HL_RING_CFG.VECTOR < 8
      && 4 ≤ fget w F.HL_RING_CFG.SIZE_LOG2 && fget w F.HL_RING_CFG.SIZE_LOG2 ≤ 12
    when (!good) discard s |> set F.HL_RING_CFG.IRQ_TIME true
      |> set F.HL_RING_CFG.IRQ_COUNT (fget w F.HL_RING_CFG.IRQ_COUNT ≠ 0)
      |> set F.HL_RING_CFG.VECTOR (fget w F.HL_RING_CFG.VECTOR < 8)
      |> set F.HL_RING_CFG.PRIO true
      |> set F.HL_RING_CFG.SIZE_LOG2 (4 ≤ fget w F.HL_RING_CFG.SIZE_LOG2 ∧ fget w F.HL_RING_CFG.SIZE_LOG2 ≤ 12)

/-- Whether ring pairs can be enabled: FW_READY, umbra mode or host-boot wait (R451). -/
def State.ringsAllowed (s : State) : Bool :=
  s.flag A.HL_STATUS F.HL_STATUS.FW_READY || s.flag A.HL_STATUS F.HL_STATUS.UMBRA || s.flag A.HL_STATUS F.HL_STATUS.BOOT_WAIT

/-- A pair disabled while a command of it executes: the command is finished and its completion written before the pair is stopped
(R95). A command that a host-link reset met has no completion to wait for (R113). -/
def State.draining (s : State) (q : Nat) : Bool :=
  !s.flag (A.HL_RING_CFG q) F.HL_RING_CFG.ENABLE && ((s.ring q).run.map (fun c => !c.orphan)).getD false

/-- Write of ENABLE 1: SQ head, CQ tail and ERR become 0, the phase 1, and the pair runs (R83, R95); before the device
can serve rings the write is discarded (R451). While the link is down no write arrives (R74), and while the executing command of a
disabled pair is not completed the write has no effect (DESIGN CHOICE, log entry 78). -/
def execRingEnable (q : Nat) (w : Word) (s : State) : Out :=
  .next (
    if !s.link.up then s
    else if !s.ringsAllowed then discard s
    else if s.flag (A.HL_RING_CFG q) F.HL_RING_CFG.ENABLE || s.draining q then s
    else
      writeRingCfg q w s
      |> wr (A.HL_RING_CFG q) F.HL_RING_CFG.ENABLE 1
      |> wr (A.HL_RING_STATUS q) F.HL_RING_STATUS.SQ_HEAD 0
      |> wr (A.HL_RING_STATUS q) F.HL_RING_STATUS.CQ_TAIL 0
      |> wr (A.HL_RING_STATUS q) F.HL_RING_STATUS.ERR 0
      |> wr (A.HL_RING_STATUS q) F.HL_RING_STATUS.PHASE 1
      |> wr (A.HL_RING_STATUS q) F.HL_RING_STATUS.STOPPED 0
      |> modRing q (fun r => { r with tail := 0, cqHead := 0, unsignalled := 0, owed := false }))

/-- A disabled pair is stopped once its executing command has been completed; vector 9 is signalled (R92, R95). -/
def stopRing (q : Nat) (s : State) : State :=
  if s.flag (A.HL_RING_CFG q) F.HL_RING_CFG.ENABLE || s.flag (A.HL_RING_STATUS q) F.HL_RING_STATUS.STOPPED || s.draining q then s
  else signal 9 (wr (A.HL_RING_STATUS q) F.HL_RING_STATUS.STOPPED 1 s)

/-- Write of ENABLE 0: fetched commands are discarded; the executing command is finished and its completion written, and then the
pair is stopped (R95). The other fields of the write count only where the pair was already disabled. -/
def execRingDisable (q : Nat) (w : Word) (s : State) : Out :=
  .next (
    if !s.link.up then s
    else if !s.flag (A.HL_RING_CFG q) F.HL_RING_CFG.ENABLE then writeRingCfg q w s
    else
      wr (A.HL_RING_CFG q) F.HL_RING_CFG.ENABLE 0 s
      |> modRing q (fun r => { r with fetched := [] })
      |> stopRing q)

/-! ## Fetching (R80, R85) -/

/-- A submission entry breaks R94's code 4: a reserved field is not 0, or an address is misaligned. -/
def badEntry (e : List Word) : Bool :=
  bits (wd e 2) 31 16 ≠ 0 || wd e 3 ≠ 0 || wd e 7 ≠ 0 || bits (wd e 0) 1 0 ≠ 0 || bits (wd e 4) 3 0 ≠ 0

/-- The DMA fetch of the entry at SQ head and of its packet completes. `entry` is none when the entry's read failed,
`packet` none when the packet's read failed. -/
def execCommandFetch (q : Nat) (entry packet : Option (List Word)) (s : State) : Out :=
  .next (
    if !s.ringLive q || !s.dma || s.rd (A.HL_RING_STATUS q) F.HL_RING_STATUS.SQ_HEAD = (s.ring q).tail then s
    else match entry with
      | none => ringError q 2 s
      | some e =>
        if badEntry e then ringError q 4 s
        else
          let s := wr (A.HL_RING_STATUS q) F.HL_RING_STATUS.SQ_HEAD
            ((s.rd (A.HL_RING_STATUS q) F.HL_RING_STATUS.SQ_HEAD + 1) % s.ringSize q) s
          let n := s.link.nextOrder
          modRing q (fun r => { r with fetched := r.fetched ++ [⟨n, e, packet⟩] })
            { s with link := { s.link with nextOrder := n + 1 } })

/-! ## Starting (R87, R88, R90, R100 to R108) -/

/-- Every opcode the device defines (R96). -/
def opcodes : List Nat := [
  0x0000, 0x0001, 0x0101, 0x0102, 0x0103, 0x0110, 0x0111, 0x0120, 0x0121, 0x0130, 0x0140,
  0x0201, 0x0202, 0x0203, 0x0204, 0x0205, 0x0206, 0x0207, 0x0208, 0x0210, 0x0211,
  0x0301, 0x0302, 0x0303, 0x0304,
  0x0401, 0x0402, 0x0410, 0x0411, 0x0412, 0x0413, 0x0414, 0x0415, 0x0418, 0x0420, 0x0421, 0x0422,
  0x0430, 0x0431, 0x0432, 0x0440,
  0x0501, 0x0502, 0x0503, 0x0504, 0x0505, 0x0506, 0x0510, 0x0511, 0x0512, 0x0513, 0x0514, 0x0520,
  0x0530, 0x0531, 0x0532, 0x0533, 0x0534, 0x0540, 0x0541, 0x0542, 0x0543, 0x0544, 0x0548,
  0x0601, 0x0602, 0x0603, 0x0604, 0x0605, 0x0606, 0x0701, 0x0702, 0x0703, 0x0704,
  0x0801, 0x0810, 0x0811, 0x0820, 0x0821, 0x0830, 0x0901, 0x0902, 0x0903, 0x0904, 0x0905,
  0x0A01, 0x0A02, 0x0A03, 0x0A04, 0x0B01, 0x0B02, 0x0B10, 0x0B11, 0x0B20]

/-- The commands accepted in umbra mode and in host-boot wait (R108). LENS_ACK is no log-reading command (R409). -/
def umbraOk (op : Nat) : Bool :=
  op / 256 = 0 || op = 0x0901 || op = 0x0902 || op = 0x0905 || op / 256 = 8 || (op / 256 = 0x0B && op ≠ 0x0B02)

/-- The device is in the bootstrap state: no slot is provisioned (R106). -/
def State.bootstrap (s : State) : Bool := (List.range 4).all (fun k => (s.keySlot k).state ≠ .provisioned)

/-- A command that must carry a counter and a keyed check (R101, R442, R238). In the bootstrap state KEY_PROVISION and
FW_LOAD need none (R106). `p` is the packet. -/
def State.criticalOp (s : State) (op : Nat) (p : List Word) : Bool :=
  match op with
  | 0x0903 => !s.bootstrap
  | 0x0810 => !s.bootstrap
  | 0x0904 | 0x0208 | 0x0811 | 0x0420 | 0x0421 | 0x0604 | 0x0820 | 0x0821 | 0x0440 => true
  | 0x0701 => 96000 < bits (wd p 4) 19 0
  | _ => false

/-- The keyed check of a packet: the leftmost 16 bytes of HMAC-SHA-256 over the nonce and the words before the check
(R102). -/
def keyedCheck (key : List Byte) (nonce : Nat) (p : List Word) (len : Nat) : List Byte :=
  (hmacSha256 key (leBytes 8 nonce ++ (p.take (len - 4)).flatMap wordBytes)).take 16

/-- An authentication failure counts; the eighth in a row closes the session (R104). -/
def authFail (q : Nat) (s : State) : State :=
  let n := s.rd (A.HL_RING_SEC q) F.HL_RING_SEC.FAIL_COUNT
  if n = 7 then
    signal 9 (raise (A.HL_RING_SEC q) F.HL_RING_SEC.CLOSED_FAIL (closeSession q s))
  else wr (A.HL_RING_SEC q) F.HL_RING_SEC.FAIL_COUNT (n + 1) s

/-- The outcome of the packet checks of R100 and the authentication of R103: the status and DETAIL of the first failure,
and the state with the session's counter and failure count brought up to date. -/
def packetCheck (q : Nat) (entry p : List Word) (s : State) : Option (Nat × Nat) × State :=
  let w0 := wd p 0
  let len := bits (wd p 1) 31 16
  let op := bits w0 15 0
  let crit := bit w0 16
  let ctr := (wd p 2).toNat + 2 ^ 32 * (wd p 3).toNat
  if bits w0 31 24 ≠ 1 then (some (0x0102, 0), s)
  else if bits w0 23 19 ≠ 0 then (some (0x0101, 0), s)
  else if len < 4 || len ≠ bits (wd entry 2) 15 0 then (some (0x0104, 1), s)
  else if !crit && ctr ≠ 0 then (some (0x0105, if wd p 2 ≠ 0 then 2 else 3), s)
  else if !opcodes.contains op then (some (0x0103, 0), s)
  else if (s.flag A.HL_STATUS F.HL_STATUS.UMBRA || s.flag A.HL_STATUS F.HL_STATUS.BOOT_WAIT) && !umbraOk op then
    (some (0x0301, 0), s)
  else if !(crit || s.criticalOp op p) then (none, s)
  else match (s.ring q).session with
    | none => (some (0x0401, 0), s)
    | some e =>
      if !crit then (some (0x0405, 0), s)
      else if len < 8 then (some (0x0104, 1), s)
      else if ctr ≤ e.counter then (some (0x0403, 0), authFail q s)
      else if keyedCheck (s.keySlot e.slot).key e.nonce p len ≠ ((p.drop (len - 4)).take 4).flatMap wordBytes then
        (some (0x0402, 0), authFail q s)
      else (none, wr (A.HL_RING_SEC q) F.HL_RING_SEC.FAIL_COUNT 0
        (modRing q (fun r => { r with session := some { e with counter := ctr } }) s))

/-- The command at the head of a ring's fetched queue is a BARRIER command. PROFILE_SET is handled as one (R379). -/
def Fetched.barrier (f : Fetched) : Bool :=
  match f.packet with
  | some p => bit (wd p 0) 18 || bits (wd p 0) 15 0 = 0x0440
  | none => false

/-- A running command is a BARRIER command. -/
def Cmd.barrier (c : Cmd) : Bool := bit (c.w 0) 18 || c.opcode = 0x0440

/-- The commands fetched and not completed, with whether each is a BARRIER command. -/
def State.outstanding (s : State) : List (Nat × Bool) :=
  (List.range 8).flatMap (fun q =>
    (s.ring q).fetched.map (fun f => (f.order, f.barrier)) ++
      ((s.ring q).run.map (fun c => (c.order, c.barrier))).toList)

/-- The order rules of R90 let a fetched command start. -/
def State.barrierOk (s : State) (f : Fetched) : Bool :=
  s.outstanding.all (fun o => if o.1 < f.order then !o.2 && !f.barrier else true)

/-- The completion ring is full (R86). -/
def State.cqFull (s : State) (q : Nat) : Bool :=
  (s.rd (A.HL_RING_STATUS q) F.HL_RING_STATUS.CQ_TAIL + 1) % s.ringSize q = (s.ring q).cqHead

/-- The next command of a ring may start: the pair is live, none of its commands runs, its completion ring has room
(R86, R87, R94). -/
def State.startable (s : State) (q : Nat) : Bool :=
  s.ringLive q && (s.ring q).run.isNone && !s.cqFull q &&
    (match (s.ring q).fetched with
     | [] => false
     | f :: _ => s.barrierOk f)

/-- The ring a free core takes from: round robin over the startable rings of PRIO 1, then of PRIO 0 (R88). -/
def State.nextRing (s : State) : Option Nat :=
  let pick (last : Nat) (prio : Bool) : Option Nat :=
    ((List.range 8).map (fun i => (last + 1 + i) % 8)).find?
      (fun q => s.startable q && (s.flag (A.HL_RING_CFG q) F.HL_RING_CFG.PRIO == prio))
  match pick s.link.rrHigh true with
  | some q => some q
  | none => pick s.link.rrLow false

/-- The lowest free command core: four with firmware, CC0 alone under the boot-ROM program (R88, R458, R459). -/
def State.freeCore (s : State) : Option Nat :=
  let cores := if s.flag A.HL_STATUS F.HL_STATUS.FW_READY then 4 else if s.ringsAllowed then 1 else 0
  (List.range cores).find? (fun c =>
    !s.link.coresDown.contains c &&
      (List.range 8).all (fun q => ((s.ring q).run.map (fun r => r.core ≠ c || r.reply.isSome)).getD true))

/-- What a command keeps of its start: FAIL_READ the number of records that were then complete in its tile's store (R262). -/
def State.startData (s : State) (packet : List Word) : List Int :=
  if bits (wd packet 0) 15 0 = 0x0B10 then [((kget (fun _ => {}) s.tiles (bits (wd packet 4) 3 0)).store.length : Int)] else []

/-- A free command core takes the next command and examines its packet (R88, R100). -/
def execCommandStart (s : State) : Out :=
  .next (
    match s.freeCore, s.nextRing with
    | some core, some q =>
      match (s.ring q).fetched with
      | [] => s
      | f :: rest =>
        let s := if s.flag (A.HL_RING_CFG q) F.HL_RING_CFG.PRIO then { s with link := { s.link with rrHigh := q } }
          else { s with link := { s.link with rrLow := q } }
        let s := modRing q (fun r => { r with
          fetched := rest, run := some {
            order := f.order, entry := f.entry, packet := f.packet.getD [], core := core, data := s.startData (f.packet.getD []) } }) s
        match f.packet with
        | none => finish q 0x0602 0 [] s
        | some p =>
          match packetCheck q f.entry p s with
          | (some (st, d), s) => finish q st d [] s
          | (none, s) => s
    | _, _ => s)

/-! ## Completion (R81 to R83, R92, R93) -/

/-- The four header words of a reply (R97). -/
def replyHeader (tag : Nat) (r : Reply) : List Word :=
  [word (tag * 2 ^ 16 + r.status), word r.stamp, word (r.stamp / 2 ^ 32),
   word (r.detail % 2 ^ 16 * 2 ^ 16 + r.results.length % 2 ^ 16)]

/-- The words of a reply that a buffer of `len` words receives (R80, R82). -/
def replyWritten (tag : Nat) (r : Reply) (len : Nat) : List Word :=
  if min len 65539 < 4 then [] else (replyHeader tag r ++ r.results).take (min len 65539)

/-- The completion entry (R81). -/
def completionEntry (q sqHead tag : Nat) (r : Reply) (len phase : Nat) : List Word :=
  let written := (replyWritten tag r len).length - 4
  replyHeader tag r ++ [word (q * 2 ^ 16 + sqHead), word written,
    word (b2n (written < r.results.length)), word phase]

/-- A completion ring's message is due: its vector is signalled and the count starts anew; while MSI-X is not enabled the ring owes
it (R93). -/
def signalRing (q : Nat) (s : State) : State :=
  if s.link.msix then
    modRing q (fun r => { r with unsignalled := 0, owed := false }) (signal (s.rd (A.HL_RING_CFG q) F.HL_RING_CFG.VECTOR) s)
  else modRing q (fun r => { r with owed := true }) s

/-- Completions written since the last message, and the message when the count or NOTIFY asks for it (R93). -/
def countCompletion (q : Nat) (notify : Bool) (s : State) : State :=
  let r := s.ring q
  let n := r.unsignalled + 1
  let s := modRing q (fun r => { r with unsignalled := n, oldest := if r.unsignalled = 0 then s.now else r.oldest }) s
  if notify || s.rd (A.HL_RING_CFG q) F.HL_RING_CFG.IRQ_COUNT ≤ n then signalRing q s else s

/-- The reply and the completion entry of a ring's finished command are written; `written` is whether the host-memory
writes succeed (R81, R94). -/
def execCompletionWrite (q : Nat) (written : Bool) (s : State) : Out :=
  .next (
    match (s.ring q).run with
    | none => s
    | some c =>
      match c.reply with
      | none => s
      | some r =>
        if !s.dma || s.cqFull q then s
        else
          let s := setLast q c.tag r.status s
          let tail := s.rd (A.HL_RING_STATUS q) F.HL_RING_STATUS.CQ_TAIL
          let phase := s.rd (A.HL_RING_STATUS q) F.HL_RING_STATUS.PHASE
          let len := (wd c.entry 6).toNat
          let reply := replyWritten c.tag r len
          let s := if !written then ringError q 3 s else
            let s := when (!reply.isEmpty) (emit (.hostWrite ((wd c.entry 4).toNat + 2 ^ 32 * (wd c.entry 5).toNat) reply)) s
            let s := emit (.hostWrite (s.pair (A.HL_RING_CQ_LO q) (A.HL_RING_CQ_HI q) + 32 * tail)
              (completionEntry q (s.rd (A.HL_RING_STATUS q) F.HL_RING_STATUS.SQ_HEAD) c.tag r len phase)) s
            let s := wr (A.HL_RING_STATUS q) F.HL_RING_STATUS.CQ_TAIL ((tail + 1) % s.ringSize q) s
            let s := when (tail + 1 = s.ringSize q) (wr (A.HL_RING_STATUS q) F.HL_RING_STATUS.PHASE (1 - phase)) s
            countCompletion q c.notify s
          stopRing q (doAfter q c.after (modRing q (fun r => { r with run := none }) s)))

/-- The oldest unsignalled completion is IRQ_TIME microseconds old (R93). -/
def execCqIrqTimeout (q : Nat) (s : State) : Out :=
  .next (
    let t := s.rd (A.HL_RING_CFG q) F.HL_RING_CFG.IRQ_TIME
    if t = 0 || (s.ring q).unsignalled = 0 || s.now < (s.ring q).oldest + us t then s
    else signalRing q s)

/-! ## The link and its resets (R58, R74 to R76, R113) -/

/-- A host-link reset (R113): ring pairs disabled and their configuration reset, sessions closed, the window read-only,
fetched commands discarded, outcomes of running commands kept in HL_RING_LAST only. -/
def hostLinkReset (s : State) : State :=
  forAll (List.range 8) (fun q s =>
    match (s.ring q).run with
    | some c =>
      match c.reply with
      | some r => doAfter q c.after (modRing q (fun _ => {}) (setLast q c.tag r.status s))
      | none => modRing q (fun _ => { run := some { c with orphan := true } }) s
    | none => modRing q (fun _ => {}) s)
    (resetRegs 0 (fun a => 0x10000 ≤ a && a < 0x20000) { s with link := { s.link with msix := false, msixMask := false } })

/-- PERST_N asserted: the host-link block is reset and held, the link is down (R58, R74). -/
def execPerstAssert (s : State) : Out :=
  .next (
    hostLinkReset { s with link := { s.link with perst := true, up := false, busMaster := false } }
    |> wr A.HL_STATUS F.HL_STATUS.LINK_SPEED 0 |> wr A.HL_STATUS F.HL_STATUS.LINK_WIDTH 0
    |> wr A.HL_STATUS F.HL_STATUS.D3HOT 0
    |> wr (A.CLK_MON 6) F.CLK_MON.ACTIVE 0)

/-- PERST_N released: the block leaves reset and training may start (R74). -/
def execPerstRelease (s : State) : Out := .next { s with link := { s.link with perst := false } }

/-- Initiate Function Level Reset: as PERST_N, with the link up (R74). -/
def execFunctionLevelReset (s : State) : Out :=
  .next (
    if s.link.perst || !s.link.up then s
    else wr A.HL_STATUS F.HL_STATUS.D3HOT 0 (hostLinkReset { s with link := { s.link with busMaster := false } }))

/-- Entry to D3hot (R75). -/
def execD3hotEnter (s : State) : Out := .next (if s.link.up then wr A.HL_STATUS F.HL_STATUS.D3HOT 1 s else s)

/-- Return to D0: fetching resumes, ring configuration and sessions are kept (R75). -/
def execD0Return (s : State) : Out := .next (flushMsix (wr A.HL_STATUS F.HL_STATUS.D3HOT 0 s))

/-- Bus Master Enable cleared (R76). -/
def execBusMasterDisable (s : State) : Out := .next { s with link := { s.link with busMaster := false } }

/-- Bus Master Enable set (R76). -/
def execBusMasterEnable (s : State) : Out :=
  .next (if s.link.up then flushMsix { s with link := { s.link with busMaster := true } } else s)

/-- The vectors whose condition is still pending (R93): rings that owe a message, unacknowledged incidents,
ring errors and failed sessions, run status bits, host consumers. -/
def State.pendingVectors (s : State) : List Nat :=
  ((List.range 8).filter (fun q => (s.ring q).owed)).map (fun q => s.rd (A.HL_RING_CFG q) F.HL_RING_CFG.VECTOR)
  ++ (if s.rd A.LENS_STATUS F.LENS_STATUS.HELD ≠ 0 then [8] else [])
  ++ (if (List.range 8).any (fun q => s.rd (A.HL_RING_STATUS q) F.HL_RING_STATUS.ERR ≠ 0 ||
        s.flag (A.HL_RING_SEC q) F.HL_RING_SEC.CLOSED_FAIL) then [9] else [])
  ++ ((List.range 16).filter (fun i => s.rd (A.SEQ_IRQ i) F.SEQ_IRQ.PEND &&& s.rd (A.SEQ_IRQ i) F.SEQ_IRQ.EN ≠ 0)).map (10 + ·)
  ++ ((List.range 32).filter (fun h => bit (s.reg A.PR_HOST_PEND) h && bit (s.reg A.PR_HOST_EN) h)).map (26 + ·)

/-- MSI-X Enable is written 1 with Function Mask as given. On enabling, each source whose condition is pending signals once (R93); with
the mask cleared, pending messages go out, as the PCI Express Base Specification has it. -/
def execMsixEnable (mask : Bool) (s : State) : Out :=
  .next (
    if !s.link.up then s
    else
      let t := { s with link := { s.link with msix := true, msixMask := mask } }
      if s.link.msix then flushMsix t
      else
        forAll ((List.range 8).filter (fun q => (s.ring q).owed))
          (fun q => modRing q (fun r => { r with unsignalled := 0, owed := false }))
          (forAll s.pendingVectors.eraseDups signal t))

/-- Link training completes (R73, R74): BAR0 can be reached. `speed` 1 to 4, `width` 1, 2, 4 or 8. -/
def execPcieLinkUp (speed width : Nat) (s : State) : Out :=
  .next (
    if s.link.perst || !s.link.trainable || s.link.up || 2 ≤ kget (fun _ => 0) s.clocks.badWindows 7 then s
    else wr A.HL_STATUS F.HL_STATUS.LINK_SPEED speed
      (wr A.HL_STATUS F.HL_STATUS.LINK_WIDTH width { s with link := { s.link with up := true } }))

end Sys2Proof.Machine
end

