-- ==== Sys2Proof/Machine/Security.lean ====
section
/-! DEFINITION. The identity and security commands (R101 to R107, R495). -/

namespace Sys2Proof.Machine

/-- NOP: echoes its payload (R100, identity table). -/
def execNop (q : Nat) (s : State) : Out :=
  .next (simpleCmd q 0x0000 (fun c => ok q (c.words 4 c.payload)) s)

/-- STRAP_BOOT reads 0b01: firmware from the host (R64). -/
def State.hostBoot (s : State) : Bool := s.rd A.ID_STRAP F.ID_STRAP.BOOT = 1

/-- ID_DEVICE with the grade that the fuses hold (R4). -/
def State.deviceId (s : State) : Word := fset (s.reg A.ID_DEVICE) F.ID_DEVICE.GRADE s.fuses.grade

/-- The ten result words of IDENTIFY (R495). -/
def identifyWords (s : State) : List Word :=
  let r0 := fget (s.reg (A.UC_REGION 0)) F.UC_REGION.VALID
  [s.deviceId,
   word (8 * b2n s.bootstrap + 4 * s.rd A.HL_STATUS F.HL_STATUS.UMBRA + 2 * b2n (s.hostBoot && s.svc.hostFw)
     + s.rd A.IL_PROFILE F.IL_PROFILE.MIRROR),
   word s.svc.fwVersion,
   if r0 = 1 then s.reg (A.UC_REGION_VER 0) else 0]
  ++ (List.range 5).map (fun i => word (s.fuses.serials.getD i 0))
  ++ [word (256 - s.rd A.SVC_STATUS F.SVC_STATUS.RETIRED)]

/-- IDENTIFY (R495). -/
def execIdentify (q : Nat) (s : State) : Out :=
  .next (simpleCmd q 0x0001 (fun c s => checked q [lenIs c 0] (ok q (identifyWords s)) s) s)

/-- A nonce from the random source; it is never 0 (R101). -/
def nonceOf (n : Nat) : Nat := 1 + Config.random n % (2 ^ 64 - 1)

/-- SESSION_OPEN (R101, R105). -/
def execSessionOpen (q : Nat) (s : State) : Out :=
  .next (simpleCmd q 0x0901 (fun c s =>
    checked q [lenIs c 1, resv c 4 31 2, ((s.keySlot (bits (c.w 4) 1 0)).state ≠ .provisioned, 0x0404, 0)] (fun s =>
      let n := nonceOf s.fresh
      let k := bits (c.w 4) 1 0
      nextFresh s
      |> modRing q (fun r => { r with session := some ⟨n, k, 0⟩ })
      |> wr (A.HL_RING_SEC q) F.HL_RING_SEC.OPEN 1
      |> wr (A.HL_RING_SEC q) F.HL_RING_SEC.SLOT k
      |> wr (A.HL_RING_SEC q) F.HL_RING_SEC.FAIL_COUNT 0
      |> ok q [word n, word (n / 2 ^ 32)]) s) s)

/-- SESSION_CLOSE (R105). -/
def execSessionClose (q : Nat) (s : State) : Out :=
  .next (simpleCmd q 0x0902 (fun c s =>
    checked q [lenIs c 0] (fun s =>
      if (s.ring q).session.isSome then ok q [] (closeSession q s) else finish q 0x0001 1 [] s) s) s)

/-- The key check value of a key: the first four bytes of the HMAC of 32 zero bytes, little-endian. -/
def keyCheckValue (key : List Byte) : Word :=
  let h := hmacSha256 key (List.replicate 32 0)
  bytesWord (h.getD 0 0) (h.getD 1 0) (h.getD 2 0) (h.getD 3 0)

/-- The bootstrap flag of HL_STATUS follows the slots (R106). -/
def refreshBootstrap (s : State) : State := wr A.HL_STATUS F.HL_STATUS.BOOTSTRAP (b2n s.bootstrap) s

/-- Every valid signer entry bound to a slot that is not provisioned loses its validity (R188): UC_SIGNER follows. -/
def refreshSigners (s : State) : State :=
  forAll (List.range 4) (fun e s =>
    let ok := match kget (fun _ => none) s.flash.signers e with
      | some g => (s.keySlot g.slot).state = .provisioned &&
          g.tag = (hmacSha256 (s.keySlot g.slot).key (beBytes 32 g.fingerprint ++ [BitVec.ofNat 8 e])).take 16
      | none => false
    match kget (fun _ => none) s.flash.signers e with
    | some g =>
      wr (A.UC_SIGNER e) F.UC_SIGNER.VALID (b2n ok)
        (wr (A.UC_SIGNER e) F.UC_SIGNER.SLOT g.slot (wr (A.UC_SIGNER e) F.UC_SIGNER.FPR
          (((beBytes 32 g.fingerprint).getD 0 0).toNat + 256 * ((beBytes 32 g.fingerprint).getD 1 0).toNat
            + 65536 * ((beBytes 32 g.fingerprint).getD 2 0).toNat) s))
    | none => setReg (A.UC_SIGNER e) 0 s) s

/-- KEY_PROVISION; `burned` is whether the fuses programmed (R106, R107). -/
def execKeyProvision (q : Nat) (burned : Bool) (s : State) : Out :=
  .next (simpleCmd q 0x0903 (fun c s =>
    let k := bits (c.w 4) 1 0
    checked q [lenIs c 9, resv c 4 31 2, ((s.keySlot k).state ≠ .blank, 0x0303, 0)] (fun s =>
      let key := (c.words 5 8).flatMap wordBytes
      if burned then ok q [keyCheckValue key] (refreshSigners (refreshBootstrap (setKey k ⟨.provisioned, key⟩ s)))
      else finish q 0x0603 k [] (setKey k ⟨.revoked, []⟩ s)) s) s)

/-- KEY_REVOKE; `burned` is whether the revoke fuse programmed. Sessions on the slot close once the reply is written. -/
def execKeyRevoke (q : Nat) (burned : Bool) (s : State) : Out :=
  .next (simpleCmd q 0x0904 (fun c s =>
    let k := bits (c.w 4) 1 0
    let last := (List.range 4).all (fun j => j = k || (s.keySlot j).state ≠ .provisioned)
    checked q [lenIs c 1, resv c 4 31 2, ((s.keySlot k).state ≠ .provisioned || last, 0x0303, 0)] (fun s =>
      if burned then
        ok q [] (refreshSigners (setKey k { s.keySlot k with state := .revoked } (modCmd q (fun c => { c with after := .closeSlot k }) s)))
      else finish q 0x0603 0 [] s) s) s)

/-- The number KEY_STATUS gives a slot's state. -/
def KeyState.code : KeyState → Nat
  | .blank => 0 | .provisioned => 1 | .revoked => 2

/-- KEY_STATUS. -/
def execKeyStatus (q : Nat) (s : State) : Out :=
  .next (simpleCmd q 0x0905 (fun c s =>
    checked q [lenIs c 0] (fun s =>
      ok q (word (((List.range 4).map (fun k => (s.keySlot k).state.code * 4 ^ k)).sum)
        :: (List.range 4).map (fun k =>
          if (s.keySlot k).state = .provisioned then keyCheckValue (s.keySlot k).key else 0)) s) s) s)

end Sys2Proof.Machine
end

