-- ==== Sys2Proof/Machine/Ucode.lean ====
section
/-! DEFINITION. Miram images: their checks, their load into the control store, persistence and enrolment (R185 to R194), the
microcode commands (R193), and the control-store windows (R196). -/

namespace Sys2Proof.Machine

/-! ## Images (R185) -/

def imgRegion (m : List Word) : Nat := bits (wd m 1) 23 16
def imgForm (m : List Word) : Nat := bits (wd m 1) 31 24
def imgRecords (m : List Word) : Nat := bits (wd m 4) 31 16
def imgWords (m : List Word) : Nat := bits (wd m 4) 15 0
def imgBase (m : List Word) : Nat := bits (wd m 5) 12 0

/-- Words a microword takes in an image's form. -/
def wordStride (form : Nat) : Nat := if form = 2 then 6 else 5

/-- The dispatch records of an image: (opcode word, entry). -/
def imgDispatch (m : List Word) : List (Word × Word) :=
  (List.range (imgRecords m)).map (fun k => (wd m (8 + 2 * k), wd m (9 + 2 * k)))

/-- The microwords of an image, with the parity word in mirror form. -/
def imgCode (m : List Word) : List (List Word) :=
  let n := wordStride (imgForm m)
  (List.range (imgWords m)).map (fun k => (m.drop (8 + 2 * imgRecords m + n * k)).take n)

/-- The number of words an image of its form and counts has. -/
def imgLength (m : List Word) : Nat :=
  8 + 2 * imgRecords m + wordStride (imgForm m) * imgWords m + (if imgForm m = 2 then 1 else 32)

/-- First address, size and last address of a region (R171). -/
def regionFirst (r : Nat) : Nat := if r = 0 then 0 else if r = 1 then 4096 else 7168
def regionSize (r : Nat) : Nat := if r = 0 then 4096 else if r = 1 then 3072 else 1024

/-- A control-store address lies in a region its image may reach (R186). -/
def reachable (region a : Nat) : Bool := if region = 1 then regionOf a = 1 else regionOf a ≠ 1

/-- The bits of a number below `n` that are set, counted. -/
def ones (n v : Nat) : Nat := ((List.range n).filter (fun i => nbit v i)).length

/-- A microword keeps its parity byte: each 20 bits with their parity bit are even (R185). -/
def wordParity (ws : List Word) : Bool :=
  let m := mwNumber ws
  (List.range 8).all (fun i => (ones 20 (m / 2 ^ (20 * i)) + b2n (bit (wd ws 5) i)) % 2 = 0)

/-- A dispatch entry is of even parity (R178). -/
def entryParity (e : Word) : Bool := ones 32 e.toNat % 2 = 0

/-- CRC-32 of a byte, bit by bit, on the running value (IEEE 802.3 polynomial, reflected). -/
def crcByte (c : Word) (b : Byte) : Word :=
  (List.range 8).foldl (fun c _ => if bit c 0 then (c >>> 1) ^^^ 0xEDB88320 else c >>> 1) (c ^^^ b.setWidth 32)

/-- CRC-32 of words, least significant byte first. -/
def crc32 (ws : List Word) : Word := ~~~ ((ws.flatMap wordBytes).foldl crcByte 0xFFFFFFFF)

/-! ## Checks (R186, R187, R189, R194) -/

/-- A dispatch record of an image is invalid (R186). -/
def badRecord (region form : Nat) (l : List (Word × Word)) (k : Nat) : Bool :=
  match l[k]? with
  | none => false
  | some (o, e) =>
    let op := o.toNat
    256 ≤ op || (if region = 1 then op < 0xC0 else 0xC0 ≤ op) || (l.take k).any (fun p => p.1 = o)
      || bit e 30 || (form = 1 && bit e 29)
      || (bit e 31 && (bits e 5 0 = 0 || !reachable region (bits e 28 16))) || (region = 1 && 2 < bits e 8 6)

/-- A microword holds a reserved bit or encoding (R172, R173). -/
def reservedMW (m : Nat) : Bool :=
  let w := decodeMW m
  mwf m 89 64 ≠ 0 || mwf m 31 0 ≠ 0 || 5 < w.nac || 9 < w.cond || 5 < w.flow || 5 < w.cyop || 2 < w.tsop || 2 < w.lcop
    || 3 < w.fmop || 3 < w.wait || 1 < w.strm || 4 < w.ssrc
    || !(w.sdst ≤ 8 || [0x20, 0x21, 0x22].contains w.sdst) || (w.cyop = 2 && w.imm % 2 ^ 18 = 0)

/-- A microword of an image at an address is invalid (R186). -/
def badWord (region form a : Nat) (ws : List Word) : Bool :=
  let m := mwNumber ws
  let w := decodeMW m
  reservedMW m || (form = 2 && bits (wd ws 5) 31 8 ≠ 0)
    || ([1, 2, 3].contains w.nac && !reachable region w.na)
    || (a + 1 = regionFirst region + regionSize region && [0, 2, 3].contains w.nac)
    || (region = 1 && (w.lcop ≠ 0 || w.strm ≠ 0 || w.runc ≠ 0 || 1 < w.flow || (w.fmop ≠ 0 && w.fmop ≠ 3) || w.tsop = 1
        || 8 < w.sdst))

/-- The first violation of R186 in an image: result words that give the record and the microword index, all ones where it lies
in neither. -/
def contentViolation (m : List Word) : Option (List Word) :=
  let region := imgRegion m
  let form := imgForm m
  let none32 := word 0xFFFFFFFF
  if bits (wd m 1) 15 0 ≠ 0 || 2 < region || bits (wd m 5) 31 13 ≠ 0 || wd m 7 ≠ 0 || (region ≠ 2 && wd m 3 ≠ 0)
      || imgBase m < regionFirst region || regionFirst region + regionSize region < imgBase m + imgWords m then
    some [none32, none32]
  else
    let d := imgDispatch m
    match (List.range d.length).find? (badRecord region form d) with
    | some k => some [word k, none32]
    | none =>
      match ((imgCode m).zipIdx.find? (fun p => badWord region form (imgBase m + p.2) p.1)).map (·.2) with
      | some k => some [none32, word k]
      | none => none

/-- Bytes of words from `i` on, `n` words, each word least significant byte first (R187). -/
def imgBytes (m : List Word) (i n : Nat) : List Byte := ((m.drop i).take n).flatMap wordBytes

/-- A signed image or package ends in KEY_X, KEY_Y, SIG_R and SIG_S, eight words each: the signature verifies over all words before
(R187, R461). -/
def signatureValid (m : List Word) : Bool :=
  let n := m.length - 32
  let part (k : Nat) : Nat := beNat (imgBytes m (n + 8 * k) 8)
  32 ≤ m.length && P256.verifies (part 0) (part 1) (part 2) (part 3) (beNat (sha256 (imgBytes m 0 n)))

/-- The signer fingerprint of a signed image or package, as a number: SHA-256 of KEY_X and KEY_Y (R187). -/
def fingerprint (m : List Word) : Nat := beNat (sha256 (imgBytes m (m.length - 32) 16))

/-- The signer of an image is trusted (R187, R188); `enroll` takes the signer of an open image as its own. -/
def State.trusted (s : State) (m : List Word) (enroll : Bool) : Bool :=
  if imgRegion m = 1 then
    enroll || (List.range 4).any (fun e => s.flag (A.UC_SIGNER e) F.UC_SIGNER.VALID
      && (kget (fun _ => none) s.flash.signers e).map (·.fingerprint) = some (fingerprint m))
  else fingerprint m = Config.bootRomFingerprint

/-- The checks of an image that UC_LOAD and bring-up make: status, DETAIL, result words of the first failure. -/
def State.imageFault (s : State) (m : List Word) (size : Nat) (enroll : Bool) : Option (Nat × Nat × List Word) :=
  let region := imgRegion m
  if wd m 0 ≠ 0x4D495241 then some (0x0130, 0, [])
  else if (wd m 6).toNat ≠ size || m.length < size then some (0x0130, 6, [])
  else if imgForm m ≠ (if s.mirror then 2 else 1) then some (0x0131, 0, [])
  else if 256 < imgRecords m || imgWords m = 0 || (region ≤ 2 && regionSize region < imgWords m) || imgLength m ≠ size then
    some (0x0130, 4, [])
  else match contentViolation m with
    | some r => some (0x0132, 0, r)
    | none =>
      if imgForm m = 2 && (crc32 (m.take (size - 1)) ≠ wd m (size - 1) || (imgCode m).any (fun w => !wordParity w)
          || (imgDispatch m).any (fun d => !entryParity d.2)) then some (0x0134, 0, [])
      else if region = 2 && !(s.regionValid 0 && wd m 3 = s.reg (A.UC_REGION_VER 0)) then some (0x0135, 0, [])
      else if imgForm m = 1 && !signatureValid m then some (0x0406, 0, [])
      else if imgForm m = 1 && !s.trusted m enroll then some (0x0407, 0, [])
      else none

/-! ## Regions -/

/-- A region's registers and contents. -/
def setRegion (r : Nat) (g : Region) (valid dormant : Bool) (s : State) : State :=
  { s with micro := { s.micro with regions := kset (fun _ => {}) s.micro.regions r g } }
  |> wr (A.UC_REGION r) F.UC_REGION.WORDS g.words.length
  |> wr (A.UC_REGION r) F.UC_REGION.ENTRIES g.records.length
  |> wr (A.UC_REGION r) F.UC_REGION.FORM g.form
  |> wr (A.UC_REGION r) F.UC_REGION.LOAD_ERR (b2n g.loadErr)
  |> wr (A.UC_REGION r) F.UC_REGION.DORMANT (b2n dormant)
  |> wr (A.UC_REGION r) F.UC_REGION.VALID (b2n valid)
  |> setReg (A.UC_REGION_VER r) (word g.version)
  |> setReg (A.UC_REGION_KEY r) (word g.keyId)

/-- PERSISTED shows whether flash holds a valid image of the region in the form in force (UC_REGION). -/
def State.imageKey (s : State) (r : Nat) : Nat := 2 * r + b2n s.mirror
def State.storedOk (s : State) (r : Nat) : Bool :=
  let m := kget (fun _ => []) s.flash.images (s.imageKey r)
  !m.isEmpty && imgRegion m = r && (s.imageFault m m.length false).isNone
def refreshPersisted (s : State) : State :=
  forAll (List.range 3) (fun r s => wr (A.UC_REGION r) F.UC_REGION.PERSISTED (b2n (s.storedOk r)) s) s

/-- Change the flash. -/
def modFlash (f : Flash → Flash) (s : State) : State := { s with flash := f s.flash }

/-- Store an image of a region in flash, or erase it with the empty list. -/
def storeImage (key : Nat) (m : List Word) : State → State :=
  modFlash (fun f => { f with images := kset (fun _ => []) f.images key m })

/-- The region an image describes. -/
def imageRegion (m : List Word) : Region where
  form := imgForm m
  base := imgBase m
  version := (wd m 2).toNat
  keyId := if imgForm m = 1 then
      let b := beBytes 32 (fingerprint m)
      (bytesWord (b.getD 0 0) (b.getD 1 0) (b.getD 2 0) (b.getD 3 0)).toNat
    else 0
  words := imgCode m
  records := (imgDispatch m).map (fun d => (d.1.toNat, d.2))

/-- A region is emptied. -/
def emptyRegion (r : Nat) (err : Bool) : State → State := setRegion r { loadErr := err } false false

/-- An image is loaded into its region; a load of the Lenmas region empties the patch region (R194). -/
def loadImage (m : List Word) (s : State) : State :=
  let s := setRegion (imgRegion m) (imageRegion m) true false s
  refreshPersisted (if imgRegion m = 0 then emptyRegion 2 false s else s)

/-- The opcodes a pattern object holds. -/
def PatObj.opcodes (o : PatObj) (decl : Nat → Option Decl) : List Nat := ((o.instrs decl).map (·.op)).eraseDups

/-- The INDEX of a live object that holds an opcode whose dispatch entry differs in a new state (R193). -/
def entryClash (s t : State) : Option Nat :=
  let f (s : State) (op : Nat) : Option Word := (s.entry op).filter s.usable
  ((s.objects.find? (fun p => (p.2.opcodes s.decl).any (fun op => f s op ≠ f t op))).map (fun p => hIndex p.1))

/-- A site runs, is paused or is armed. -/
def State.anyReserved (s : State) : Option Nat := (List.range 16).find? s.reserved

/-- The physical tiles, all addressed by a microcode command (R193). A unit map names a physical tile by its physical number 0 to 16 as
the INDEX of class 0x02, for which R40 gives logical indices 0 to 15 (DESIGN CHOICE, log entry 83). -/
def allTiles : List Nat := (List.range 17).map uTile

/-- The signer of an open image is enrolled into an entry, bound to a slot (R188). -/
def enrolSigner (e slot fpr : Nat) (s : State) : State :=
  let tag := (hmacSha256 (s.keySlot slot).key (beBytes 32 fpr ++ [BitVec.ofNat 8 e])).take 16
  refreshSigners (modFlash (fun f => { f with signers := kset (fun _ => none) f.signers e (some ⟨fpr, slot, tag⟩) }) s)

/-- UC_LOAD (R185 to R194). `data` is the image as read (none: the read failed), `signerOk` whether the flash write of the signer entry
succeeds, `kept` how many words of the image the flash has taken where its write fails (none: it succeeds). -/
def execUcLoad (q : Nat) (data : Option (List Word)) (signerOk : Bool) (kept : Option Nat) (env : CommitEnv) (s : State) : Out :=
  .next (hostCmd q 0x0420 (fun _ _ => allTiles) (fun c s =>
    let enroll := bit (c.w 4) 7
    let persist := bit (c.w 4) 4
    let m := (data.getD []).take (c.w 7).toNat
    let busy := s.anyReserved
    let slot := (((s.ring q).session).map (·.slot)).getD 0
    checked q [lenIs c 4, (bits (c.w 4) 31 8 ≠ 0 || bits (c.w 4) 3 0 ≠ 0, 0x0101, 4), resv c 5 1 0]
      (checkedU q [chkU busy.isSome 0x0316 0 (uSite (busy.getD 0))] (fun s =>
        if s.dmaWaits then s
        else if data.isNone then refuseMap q 0x0602 none allTiles s
        else match s.imageFault m (c.w 7).toNat enroll with
          | some (st, d, r) => finish q st d r s
          | none =>
            let t := loadImage m s
            let clash := entryClash s t
            if imgRegion m ≠ 1 && enroll || imgRegion m = 0 && persist then finish q 0x0135 0 [] s
            else if clash.isSome then finish q 0x0317 (clash.getD 0) [] s
            else if enroll && !signerOk then refuseMap q 0x0604 none allTiles s
            else
              let s := when enroll (enrolSigner (bits (c.w 4) 6 5) slot (fingerprint m)) s
              twoPhase q allTiles env (fun p => if allTiles.all p then loadImage m else id)
                (fun s =>
                  let key := s.imageKey (imgRegion m)
                  let s := when persist (refreshPersisted ∘ storeImage key (m.take (kept.getD m.length))) s
                  let note := b2n (persist && kept.isSome) + 2 * b2n (imgRegion m = 0)
                  let res := [wd m 2, word (imgWords m * 2 ^ 16 + imgRecords m)]
                  if note = 0 then ok q res s else finish q 0x0001 note res s) s)) s) s)

/-- UC_CLEAR (R193, R194). -/
def execUcClear (q : Nat) (env : CommitEnv) (s : State) : Out :=
  .next (hostCmd q 0x0421 (fun _ _ => allTiles) (fun c s =>
    let r := bits (c.w 4) 1 0
    let busy := s.anyReserved
    let t := emptyRegion r false s
    let clash := entryClash s t
    checked q [lenIs c 1, resv c 4 31 3, (r = 0 || r = 3, 0x0135, 4)]
      (checkedU q [chkU busy.isSome 0x0316 0 (uSite (busy.getD 0)), chkU clash.isSome 0x0317 (clash.getD 0) 0]
        (twoPhase q allTiles env (fun p => if allTiles.all p then emptyRegion r false else id)
          (fun s => ok q [] (refreshPersisted
            (when (bit (c.w 4) 2) (storeImage (2 * r) [] ∘ storeImage (2 * r + 1) []) s))))) s) s)

/-- UC_STATUS (R191). -/
def execUcStatus (q : Nat) (s : State) : Out :=
  .next (hostCmd q 0x0422 (fun _ _ => []) (fun c s =>
    checked q [lenIs c 0] (fun s =>
      ok q ((List.range 3).flatMap (fun r => [s.reg (A.UC_REGION r), s.reg (A.UC_REGION_VER r), s.reg (A.UC_REGION_KEY r)])
        ++ (List.range 3).map (fun e => s.reg (A.UC_SIGNER e))) s) s) s)

/-! ## Bring-up and profile switches (R190, R191) -/

/-- A region takes the stored image of the form in force where it verifies; a stored image that fails leaves it empty with
LOAD_ERR and a report (R191). -/
def bringRegion (r : Nat) (s : State) : State :=
  let m := kget (fun _ => []) s.flash.images (s.imageKey r)
  if m.isEmpty then emptyRegion r false s
  else if (s.imageFault m m.length false).isNone && imgRegion m = r then loadImage m s
  else report (uCore 0) 0x0B keyUnit (emptyRegion r true s)

/-! ## Control-store windows (R196) -/

/-- A read of the control-store and dispatch-table views: Lenmas and patch microwords read 0. -/
def State.storeRead (s : State) (a : Nat) : Option Word :=
  if 0xB10000 ≤ a ∧ a < 0xB10000 + 0x40000 * 17 then
    let ad := (a - 0xB10000) % 0x40000 / 0x20
    let j := (a - 0xB10000) % 0x20 / 4
    some (if regionOf ad ≠ 1 || 6 ≤ j then 0
      else if j = 5 && s.rd (A.UC_REGION 1) F.UC_REGION.FORM ≠ 2 then 0
      else wd (s.storeWord ad) j)
  else if 0xF80000 ≤ a ∧ a < 0xF80000 + 0x400 * 17 then
    some ((s.entry ((a - 0xF80000) % 0x400 / 4)).getD 0)
  else none

end Sys2Proof.Machine
end

