-- ==== Sys2Proof/Machine/Modes.lean ====
section
/-! DEFINITION. The profile: the profile record and the switch between the native and the mirror profile (R377 to R380). -/

namespace Sys2Proof.Machine

/-! ## PROFILE_SET (R379, R380) -/

/-- The sites that a profile forbids (R377, R140). -/
def State.forbidden (s : State) (mirror : Bool) : List Nat :=
  (List.range 16).filter (fun i => s.formed i && mirror && (s.width i ≠ 4 || s.lead i % 4 ≠ 0))

/-- A two-word value at `a` of a table, rounded to the mirror grid, in one copy of the registers; with `hi` the bits of its
high word. -/
def roundEntry (d : Nat → Word) (m : KMap Word) (a hi : Nat) : KMap Word :=
  let h := kget d m (a + 4)
  let v := roundMirror ((kget d m a).toNat + 2 ^ 32 * bits h (hi - 1) 0)
  kset d (kset d m a (word v)) (a + 4) (fset h ⟨0, hi⟩ (v / 2 ^ 32))

/-- The entries of timing sets: the address of each one's low word and the width of its high field. -/
def timingEntries : List (Nat × Nat) :=
  ((List.range 16).flatMap (fun k => (List.range 64).map (fun t => (A.TSET_PERIOD_LO k t, 4))))
  ++ (List.range 256).flatMap (fun n => (List.range 64).flatMap (fun t => (List.range 8).map (fun e => (A.TSET_EDGE_LO n t e, 6))))

/-- An entry that the mirror grid changes in one copy. -/
def offGrid (d : Nat → Word) (m : KMap Word) (a : Nat) : Bool := (kget d m a).toNat % 4 ≠ 0

/-- Every period and offset rounded, live and shadow (R380). -/
def roundAll (s : State) : State :=
  let l (m : KMap Word) : List (Nat × Nat) := timingEntries.filter (fun e => offGrid resetWord m e.1)
  { s with
    regs := (l s.regs).foldl (fun m e => roundEntry resetWord m e.1 e.2) s.regs
    shadow := (l s.shadow).foldl (fun m e => roundEntry resetWord m e.1 e.2) s.shadow
    shadow0 := (l s.shadow0).foldl (fun m e => roundEntry resetWord m e.1 e.2) s.shadow0 }

/-- Entries that rounding changes: an entry that differs in both copies counts once. -/
def State.roundCount (s : State) : Nat :=
  (timingEntries.filter (fun e => offGrid resetWord s.regs e.1 || offGrid resetWord s.shadow e.1)).length

/-- The configuration as it stands after a switch, but for MIRROR and the microcode (R380). -/
def switched (mirror : Bool) (s : State) : State :=
  let s := forAll (s.forbidden mirror) dissolveSite s
  let s := forAll s.objects (fun o => modObj o.1 (fun p => { p with bound := false })) s
  if mirror then roundAll s else s

/-- The first enabled edge at or beyond four governing periods, live or shadow: pin, set, edge (R203, R379). -/
def edgeBeyond (s : State) : Option (Nat × Nat × Nat) :=
  (List.range 256).findSome? (fun n => (List.range 64).findSome? (fun t => (List.range 8).findSome? (fun e =>
    if s.beyond n t e || (s.edgeEn n t e && 4 * s.govPeriod n t ≤ s.offset n t e) then some (n, t, e) else none)))

/-- A region becomes valid or dormant with the profile (R190). -/
def remarkRegion (r : Nat) (s : State) : State :=
  let g := s.region r
  let held := !g.words.isEmpty
  let fits := g.form = (if s.mirror then 2 else 1)
  wr (A.UC_REGION r) F.UC_REGION.VALID (b2n (held && fits))
    (wr (A.UC_REGION r) F.UC_REGION.DORMANT (b2n (held && !fits)) s)

/-- The commit of a profile switch (R380). -/
def switchProfile (mirror : Bool) (s : State) : State :=
  forAll (List.range 3) remarkRegion (wr A.IL_PROFILE F.IL_PROFILE.MIRROR (b2n mirror) (switched mirror s))

/-- The units of a profile switch: every physical tile and every front-end die. -/
def profileUnits : List Nat := allTiles ++ (List.range 4).map uDie

/-- PROFILE_SET (R379, R380). `recordOk` is whether the flash write of the profile record succeeds. -/
def execProfileSet (q : Nat) (recordOk : Bool) (env : CommitEnv) (s : State) : Out :=
  .next (hostCmd q 0x0440 (fun _ _ => profileUnits) (fun c s =>
    let mirror := bit (c.w 4) 0
    checked q [lenIs c 1, resv c 4 31 1] (fun s =>
      if mirror = s.mirror then finish q 0x0001 1 [] s
      else
        let busy := (List.range 16).find? (fun i => s.formed i && s.reserved i)
        let t := switched mirror s
        match busy, edgeBeyond t, gradeClash t (List.range 16) t.govTile with
        | some i, _, _ => finishU q 0x0390 i [] (uSite i) s
        | none, some (n, ts, e), _ => finishU q 0x0392 n [word (n * 2 ^ 16 + ts * 2 ^ 10 + e * 2 ^ 7)] (uPin n) s
        | none, none, some n => finishU q 0x0142 n [] 0 s
        | none, none, none =>
          let prepared := profileUnits.all (fun u => (prepFault env u).isNone)
          if prepared && !recordOk then refuseMap q 0x0605 none profileUnits s
          else
            let s := wr A.IL_PROFILE F.IL_PROFILE.SWITCHING 1 (if prepared then writeProf mirror s else s)
            let res : List Int := [(bitsOf (s.forbidden mirror) : Nat),
              ((s.objects.filter (·.2.bound)).length : Nat), ((if mirror then min 0xFFFF s.roundCount else 0) : Nat)]
            endSwitch q (twoPhase q profileUnits env
              (fun p => if profileUnits.all p then switchProfile mirror else id)
              (modCmd q (fun c => { c with stage := 1, data := res })) s)) s) s)

/-- The regions have been reloaded after a profile switch: its reply is written (R190, R380). -/
def execProfileReloadDone (s : State) : Out :=
  .next (
    match (List.range 8).find? (fun q => ((s.running q).map (fun c => c.opcode = 0x0440 && c.stage = 1)).getD false) with
    | none => s
    | some q =>
      let res := ((s.running q).map (fun c => c.data.map (·.toNat))).getD []
      let s := forAll [0, 2, 1] bringRegion s
      let s := wr A.IL_PROFILE F.IL_PROFILE.SWITCHING 0 s
      let ws := [word (res.getD 0 0), word (res.getD 1 0 * 2 ^ 16 + res.getD 2 0),
        word (bitsOf ((List.range 3).filter s.regionValid))]
      if s.regionValid 0 then ok q ws s else finish q 0x0001 2 ws s)

end Sys2Proof.Machine
end

