-- ==== Sys2Proof/Machine/Calibrate.lean ====
section
/-! DEFINITION. Calibration: the working set, sequences, banks, the calibration bus (R410 to R427), and the ring delays that
are part of the working set (R348). -/

namespace Sys2Proof.Machine

/-! ## Entries (R411) -/

/-- The number of units of a class that has calibration items. -/
def calUnits (cls : Nat) : Nat :=
  match cls with
  | 0x01 => 256 | 0x08 | 0x09 | 0x0A => 32 | 0x0B => 64 | 0x0D => 4 | 0x15 => 1 | _ => 0

/-- A combination of unit, ITEM and ENTRY that the table of R411 lists. -/
def definedEntry (u item e : Nat) : Bool :=
  isUnit u (uclass u) (calUnits (uclass u)) && (itemsOf (uclass u)).contains item && e < itemEntries item

/-- A value fits the format of its entry (R411). -/
def fitsFormat (item e : Nat) (w : Word) : Bool :=
  let v := w.toInt
  let within (lo hi : Int) : Bool := lo ≤ v && v ≤ hi
  let gainOfs : Bool := if e % 2 = 0 then within (-4194304) 4194304 else within (-8388608) 8388608
  match item with
  | 0x01 => if e < 6 then within (-8192) 8191 else true
  | 0x02 => if e = 0 then within (-1250) 1249 else true
  | 0x03 | 0x05 | 0x06 => gainOfs
  | 0x04 | 0x09 => within (-511) 511
  | 0x07 => if e < 6 then gainOfs else within 0 65535
  | 0x08 | 0x0B => within 0 16777215
  | _ => true

/-- The registers that show entries of an item of a unit follow the working set (R410, R411). -/
def showItem (u item : Nat) (s : State) : State :=
  let v (e : Nat) : Int := s.calVal u item e
  let i := uindex u
  match item with
  | 0x01 =>
    s |> wr (A.TSET_DESKEW_F i) F.TSET_DESKEW_F.DRV (toTwos 16 (v 0)) |> wr (A.TSET_DESKEW_F i) F.TSET_DESKEW_F.CMP (toTwos 16 (v 1))
      |> wr (A.TSET_DESKEW_H i) F.TSET_DESKEW_H.DRV (toTwos 16 (v 3)) |> wr (A.TSET_DESKEW_H i) F.TSET_DESKEW_H.CMP (toTwos 16 (v 4))
      |> wr (A.TSET_DESKEW_E i) F.TSET_DESKEW_E.ENA_F (toTwos 16 (v 2)) |> wr (A.TSET_DESKEW_E i) F.TSET_DESKEW_E.ENA_H (toTwos 16 (v 5))
  | 0x02 => wr (A.TSET_DIE_ALIGN i) F.TSET_DIE_ALIGN.ALIGN (toTwos 16 (v 0)) s
  | 0x07 => refreshSkew i s
  | 0x08 => refreshTuSkew i s
  | 0x0B => forAll (List.range 32) (fun p s =>
      wr (A.XR_SEG p) F.XR_SEG.DELAY (v p).toNat (wr (A.XR_BYP p) F.XR_BYP.DELAY (v (32 + p)).toNat s)) s
  | _ => s

def modCal (f : Cal → Cal) (s : State) : State := { s with cal := f s.cal }

/-- An entry of a unit with a calibration state. -/
def hasState (u : Nat) : Bool := uclass u ≠ 0x15

/-- MARKED shows whether some entry of the unit is marked stale (R414, R427). -/
def refreshMarked (u : Nat) (s : State) : State :=
  if hasState u then
    wr (A.CAL_UNIT_STATE (calIndex u)) F.CAL_UNIT_STATE.MARKED (b2n (s.cal.marked.any (fun k => k / 65536 = u))) s
  else s

/-- An entry is set in the working set, with its TEMP (R410, R414, R416). -/
def setEntry (u item e : Nat) (v : Word) (temp : Nat) (s : State) : State :=
  let k := calKey u item e
  let s := modCal (fun c => { c with
    entries := kset (fun _ => none) c.entries k (some ⟨v, temp⟩), marked := c.marked.filter (· ≠ k)
    drifted := c.drifted.filter (· ≠ k) }) s
  refreshMarked u (when (hasState u) (wr (A.CAL_UNIT_STATE (calIndex u)) F.CAL_UNIT_STATE.TEMP temp) s)

/-- An entry is marked stale (R427). -/
def markEntry (u item e : Nat) (s : State) : State :=
  refreshMarked u (modCal (fun c => { c with marked := c.marked.filter (· ≠ calKey u item e) ++ [calKey u item e] }) s)

/-- Entries (unit, item, entry, value) are set at this moment: the working set differs from the bank in use (R413, R425). -/
def setEntries (l : List (Nat × Nat × Nat × Word)) (s : State) : State :=
  let s := forAll l (fun e s =>
    setEntry e.1 e.2.1 e.2.2.1 e.2.2.2 (if e.2.1 = 0x0B then 0 else s.dieTemp (unitDie e.1)) s) s
  let s := forAll ((l.map (fun e => (e.1, e.2.1))).eraseDups) (fun p => showItem p.1 p.2) s
  when (!l.isEmpty) (wr A.CAL_STATUS F.CAL_STATUS.DIRTY 1) s

/-! ## Sequences (R415 to R419) -/

/-- Units a group takes, and its time in milliseconds, by KIND (R415). -/
def groupSize (kind : Nat) : Nat := match kind with | 0 | 1 | 4 => 8 | 2 | 5 => 16 | _ => 1
def groupTime (kind : Nat) : Nat := ms (match kind with | 0 => 6 | 1 => 24 | 2 => 2 | 3 => 5 | 4 => 3 | 5 => 2 | _ => 1)

/-- The unit of a KIND with an index, and the indices there are on a die. -/
def kindUnit (kind i : Nat) : Nat :=
  match kind with | 0 | 1 | 2 => uPin i | 3 => uAw i | 4 => uAq i | 5 => uWm i | _ => uDie i
def kindPerDie (kind : Nat) : Nat := match kind with | 0 | 1 | 2 => 64 | 3 | 4 => 8 | 5 => 16 | _ => 1

/-- A list cut into pieces of at most `n`. -/
def chunks (n : Nat) : Nat → List Nat → List (List Nat)
  | 0, _ => []
  | _, [] => []
  | fuel + 1, l => l.take n :: chunks n fuel (l.drop n)

/-- The indices CAL_RUN names (words 5 to 12). -/
def calMask (c : Cmd) : List Nat := (List.range 8).flatMap (fun w => (bitList 32 (c.w (5 + w)).toNat).map (32 * w + ·))

/-- A pin may be calibrated (R417). -/
def State.pinFree (s : State) (n : Nat) : Bool := (s.siteHolds n).isNone && (s.pinHeld n).isNone

/-- The condition of R417 on a named unit. -/
def State.calReady (s : State) (kind i : Nat) : Bool :=
  match kind with
  | 0 | 1 | 2 => s.pinFree i
  | 3 => s.awState i ≤ 1
  | 4 => !s.aqLive i
  | 5 => !s.guarded i
  | _ => (pinsOfDie i).all s.pinFree && ((List.range 8).map (8 * i + ·)).all (fun j => !s.pgLive j)

def setJob (d : Nat) (j : Option CalJob) : State → State :=
  modCal (fun c => { c with jobs := kset (fun _ => none) c.jobs d j })
def State.calJob (s : State) (d : Nat) : Option CalJob := kget (fun _ => none) s.cal.jobs d

/-- A group starts: its units are under calibration, monitors among them inactive (R419). -/
def startGroup (d : Nat) (j : CalJob) (s : State) : State :=
  let units := j.groups.headD []
  let s := setJob d (some { j with since := s.now, opened := false, conn := [] }) s
  let s := forAll units (fun i => wr (A.CAL_UNIT_STATE (calIndex (kindUnit j.kind i))) F.CAL_UNIT_STATE.CAL_BUSY 1) s
  when (j.kind = 5) (forAll units (fun k => refreshOut k s.unow)) s

/-- From 0.5 µs after the start of its group the isolation switch of a pin or source channel is open (R419). -/
def openGroup (d : Nat) (s : State) : State :=
  match s.calJob d with
  | none => s
  | some j =>
    if j.opened || 3 < j.kind || s.now < j.since + 1600 then s
    else
      let units := j.groups.headD []
      let conn := units.filter (fun i =>
        if j.kind = 3 then s.flag (A.AW_STATUS i) F.AW_STATUS.DRV_CONN || (s.awOf i).closeAt.isSome
        else s.pinConn i || (s.pin i).closeAt.isSome)
      forAll units (if j.kind = 3 then openAw else openPin) (setJob d (some { j with opened := true, conn := conn }) s)

/-- The new entries of a unit, or none where one lies outside its range: with ANCHOR 1 the baselines alone, K stays as it was set
(R416; DEDUCED, log entry 77). -/
def State.newEntries (s : State) (j : CalJob) (i : Nat) (r : CalResult) : Option (List (Nat × Nat × Nat × Word)) :=
  let u := kindUnit j.kind i
  let w (v : Int) : Word := word (toTwos 32 v)
  let m (e : Nat) : Int := r.values.getD e 0
  let held (item e n : Nat) : List (Nat × Nat × Nat × Int) := if j.anchor then [] else
    (List.range n).map (fun i => (u, item, e + i, s.calVal u item (e + i) - (m (e + i) - s.calVal u item (e + n + i))))
  let plain (item a n : Nat) : List (Nat × Nat × Nat × Int) := (List.range n).map (fun e => (u, item, e, m (a + e)))
  let l := match j.kind with
    | 0 => plain 0x03 0 36 ++ plain 0x04 36 4
    | 1 => plain 0x05 0 28
    | 2 => held 0x01 0 6 ++ (List.range 6).map (fun e => (u, 0x01, 6 + e, m e))
    | 3 => plain 0x06 0 4
    | 4 => plain 0x07 0 6
    | 5 => plain 0x09 0 4
    | _ => held 0x02 0 1 ++ [(u, 0x02, 1, m 0)]
  if r.settled && l.all (fun e => -2147483648 ≤ e.2.2.2 && e.2.2.2 ≤ 2147483647 && fitsFormat e.2.1 e.2.2.1 (w e.2.2.2)) then
    some (l.map (fun e => (e.1, e.2.1, e.2.2.1, w e.2.2.2)))
  else none

/-- A load of a strobe belongs to a pin or source channel. -/
def Load.ofUnit (l : Load) (u : Nat) : Bool :=
  match l with
  | .level n _ _ => uPin n = u
  | .idle k _ _ => uAw k = u
  | _ => false

/-- Units leave calibration: held strobes apply, switches close again 2.0 µs later, monitors resolve (R419). -/
def leaveGroup (j : CalJob) (units : List Nat) (s : State) : State :=
  let us := units.map (kindUnit j.kind)
  let mine := s.levels.calHeld.filter (fun l => us.any (l.ofUnit ·))
  let s := { s with levels := { s.levels with calHeld := s.levels.calHeld.filter (fun l => !us.any (l.ofUnit ·)) } }
  let s := forAll us (fun u => wr (A.CAL_UNIT_STATE (calIndex u)) F.CAL_UNIT_STATE.CAL_BUSY 0) s
  let s := updateDacs [] ⟨s.unow, mine⟩ s
  let again (i : Nat) (s : State) : State :=
    if j.kind = 3 then
      if s.awReady i && (s.awOf i).closeAt.isNone then modAw i (fun a => { a with closeAt := some (s.unow + 8000000) }) s else s
    else if s.pinReady i && (s.pin i).closeAt.isNone then
      modPin i (fun p => { p with closeAt := some (s.unow + 8000000) }) s
    else s
  let s := when (j.kind ≤ 3) (forAll (units.filter j.conn.contains) again) s
  when (j.kind = 5) (forAll units (fun k s =>
    compareNow k s.unow (modWm k (fun m => { m with resolving := true, loaded := true }) s))) s

/-- A CAL_RUN whose sequences have all ended is answered (R418): those of pins and source channels end when their switches have
closed again, 2.0 µs after the last group (R419; DEDUCED, log entry 77). -/
def endCalRun (q : Nat) (s : State) : State :=
  let mine := (List.range 4).filterMap (fun d => (s.calJob d).bind (fun j => if j.ring = q then some (d, j) else none))
  if mine.any (fun p => !p.2.groups.isEmpty || (p.2.kind ≤ 3 && s.now < p.2.since + us 2)) then s
  else
    let failed := mine.flatMap (fun p => p.2.failed.map (kindUnit p.2.kind))
    let done := (mine.map (fun p => p.2.done)).sum
    let s := forAll (mine.map (·.1)) (fun d => setJob d none) s
    match s.running q with
    | some c =>
      if c.opcode ≠ 0x0601 || c.stage ≠ 1 then s
      else
        let ws := word (done * 2 ^ 16 + failed.length) :: failed.map word
        if failed.isEmpty then ok q ws s else finish q 0x0001 failed.length ws s
    | none => s

/-- The present group of a die has ended with units done and failed: the next starts, or the engine gives up its claim. -/
def nextGroup (d : Nat) (j : CalJob) (failed : List Nat) (s : State) : State :=
  let units := j.groups.headD []
  let s := forAll units (fun i =>
    wr (A.CAL_UNIT_STATE (calIndex (kindUnit j.kind i))) F.CAL_UNIT_STATE.FAIL (b2n (failed.contains i))) s
  let s := leaveGroup j units s
  let j := { j with groups := j.groups.tail, done := j.done + (units.length - failed.length), failed := j.failed ++ failed }
  if j.groups.isEmpty then endCalRun j.ring (release (uCal d) (setJob d (some { j with since := s.now }) s)) else startGroup d j s

/-- The group time of a die's sequence has passed: its units take their new entries or fail; after the last group the command is
answered once every sequence has ended (R415, R416, R418, R419). -/
def execCalGroupEnd (d : Nat) (results : List CalResult) (s : State) : Out :=
  .next (
    let s := openGroup d s
    match s.calJob d with
    | none => s
    | some j =>
      if j.groups.isEmpty then endCalRun j.ring s
      else if s.now < j.since + groupTime j.kind then s
      else
        let outcome (i : Nat) : Option (List (Nat × Nat × Nat × Word)) :=
          (results.find? (fun r => r.unit = i)).bind (s.newEntries j i)
        let units := j.groups.headD []
        nextGroup d j (units.filter (fun i => (outcome i).isNone))
          (setEntries (units.flatMap (fun i => (outcome i).getD [])) s))

/-- An isolated reset of a calibration engine: its sequence fails the units that remain (R454). -/
def failRest (d : Nat) (s : State) : State :=
  match s.calJob d with
  | none => s
  | some j =>
    if j.groups.isEmpty then s
    else nextGroup d { j with groups := [j.groups.flatten] } j.groups.flatten s

/-- CAL_RUN (R415 to R419). -/
def execCalRun (q : Nat) (env : CommitEnv) (s : State) : Out :=
  .next (hostCmd q 0x0601
    (fun c _ =>
      let kind := bits (c.w 4) 31 28
      let ix := calMask c
      ((List.range 4).filter (fun d => ix.any (fun i => i / kindPerDie kind = d))).map uCal ++ ix.map (kindUnit kind)) (fun c s =>
    let kind := bits (c.w 4) 31 28
    let anchor := bit (c.w 4) 27
    let ix := calMask c
    let dies := (List.range 4).filter (fun d => ix.any (fun i => i / kindPerDie kind = d))
    let stray := (List.range 256).find? (fun i => ix.contains i && 4 * kindPerDie kind ≤ i)
    checked q [lenIs c 9, resv c 4 26 0, chk (6 < kind || (anchor && kind ≠ 2 && kind ≠ 6)) 0x01D0 4,
        chk stray.isSome 0x01D0 (5 + stray.getD 0 / 32), chk ix.isEmpty 0x01D0 5]
      (checkedU q (ix.flatMap (fun i => [
        chkU (kind ≤ 2 && (s.retired i || s.mode i = 7)) 0x0334 0 (uPin i),
        chkU (!s.calReady kind i) 0x03B0 0 (kindUnit kind i)]))
      (fun s => claimPhase q (dies.map uCal) (dies.map (fun d => (uCal d, 1000, 0))) true env
        (fun p => forAll (dies.filter (fun d => p (uCal d))) (fun d =>
          let mine := ix.filter (fun i => i / kindPerDie kind = d)
          startGroup d {
            ring := q, kind := kind, anchor := anchor, groups := chunks (groupSize kind) mine.length mine, since := 0 }))
        (modCmd q (fun c => { c with stage := 1 })) s)) s) s)

/-! ## Writing and reading entries (R427) -/

/-- The record at packet word `i` of CAL_WRITE: unit, item, entry, value. -/
def calRec (c : Cmd) (i : Nat) : Nat × Nat × Nat × Word :=
  ((c.w i).toNat, bits (c.w (i + 1)) 31 24, bits (c.w (i + 1)) 23 16, c.w (i + 2))

/-- The tile of a pin, or the die, that an entry lies on. -/
def entryPlace (u : Nat) : Nat × Nat := if uclass u = 0x01 then (0, uindex u / 16) else if uclass u = 0x15 then (2, 0) else (1, unitDie u)

/-- CAL_WRITE (R427). -/
def execCalWrite (q : Nat) (env : CommitEnv) (s : State) : Out :=
  let recsOf (c : Cmd) : List (Nat × Nat × Nat × Nat × Word) :=
    (List.range (min 1024 (bits (c.w 4) 10 0))).map (fun i => (5 + 3 * i, calRec c (5 + 3 * i)))
  let unitsOf (c : Cmd) : List Nat := ((recsOf c).map (fun r => r.2.1)).eraseDups.mergeSort
  .next (hostCmd q 0x0602 (fun c _ => unitsOf c) (fun c s =>
    let n := bits (c.w 4) 10 0
    let stale := bit (c.w 4) 31
    let recs := recsOf c
    let units := unitsOf c
    let multi : Bool := 1 < ((units.map entryPlace).eraseDups).length
    let pin (r : Nat × Nat × Nat × Nat × Word) : Bool := uclass r.2.1 = 0x01
    checked q [chk (c.payload ≠ 1 + 3 * n) 0x0104 1, resv c 4 30 11, (n = 0 || 1024 < n, 0x01D1, 4)]
      (checkedU q (recs.flatMap (fun r => [
        chkU (!isUnit r.2.1 (uclass r.2.1) (calUnits (uclass r.2.1))) 0x01D1 r.1 0,
        chkU (!definedEntry r.2.1 r.2.2.1 r.2.2.2.1) 0x01D1 (r.1 + 1) 0,
        chkU (!fitsFormat r.2.2.1 r.2.2.2.1 r.2.2.2.2) 0x01D2 (r.1 + 2) 0,
        chkU (pin r && (s.retired (uindex r.2.1) || s.mode (uindex r.2.1) = 7)) 0x0334 0 r.2.1,
        chkU ((r.2.2.1 = 0x01 && (s.siteHolds (uindex r.2.1)).isSome)
          || (r.2.2.1 = 0x02 && !(pinsOfDie (uindex r.2.1)).all s.pinFree)) 0x03B0 0 r.2.1]))
      (fun s => twoPhase q units (if multi then env else {})
        (fun p => let mine := recs.filter (fun r => p r.2.1)
          if stale then forAll mine (fun r => markEntry r.2.1 r.2.2.1 r.2.2.2.1) else setEntries (mine.map (·.2)))
        (ok q []) s)) s) s)

/-- The record of an entry: unit, item with entry and TEMP, value (R423). An entry not set reads as 0. -/
def State.calRecord (s : State) (u item e : Nat) : List Word :=
  let v := (s.calEntry u item e).getD ⟨0, 0⟩
  [word u, word (item * 2 ^ 24 + e * 2 ^ 16 + v.temp), v.value]

/-- CAL_READ (R411). -/
def execCalRead (q : Nat) (s : State) : Out :=
  .next (hostCmd q 0x0603 (fun c _ => [(c.w 4).toNat]) (fun c s =>
    let u := (c.w 4).toNat
    let item := bits (c.w 5) 31 24
    let first := bits (c.w 5) 23 16
    let n := bits (c.w 5) 15 8
    checked q [lenIs c 2, resv c 5 7 0, chk (!isUnit u (uclass u) (calUnits (uclass u))) 0x01D1 4,
        chk (n = 0 || 64 < n || (List.range n).any (fun i => !definedEntry u item (first + i))) 0x01D1 5]
      (fun s => ok q ((List.range n).flatMap (fun i => s.calRecord u item (first + i))) s) s) s)

/-! ## Banks (R423 to R426) -/

/-- A word of a bank; erased flash reads all ones. -/
def bankWord (b : List Word) (i : Nat) : Word := b.getD i 0xFFFFFFFF

/-- The words a bank can hold: 1 MiB. -/
def bankWords : Nat := 262144

/-- The records of a bank as (unit, item, entry, temperature, value). -/
def bankRecords (b : List Word) : List (Nat × Nat × Nat × Nat × Word) :=
  (List.range (min (bankWord b 5).toNat 87378)).map (fun j =>
    let w := bankWord b (8 + 3 * j)
    ((bankWord b (7 + 3 * j)).toNat, bits w 31 24, bits w 23 16, bits w 15 0, bankWord b (9 + 3 * j)))

/-- The STATE of a bank (R424). -/
def State.bankState (s : State) (b : List Word) : Nat :=
  let len := (bankWord b 3).toNat
  if b.all (· = 0xFFFFFFFF) then 1
  else if bankWord b 0 ≠ 0x43414C42 || bits (bankWord b 1) 31 24 ≠ 1 || len ≠ 9 + 3 * (bankWord b 5).toNat || bankWords < len
      || (bankRecords b).any (fun r => !definedEntry r.1 r.2.1 r.2.2.1) then 2
  else if bankWord b (len - 1) ≠ 0xC0DE0A11 then 3
  else if crc32 ((List.range (len - 2)).map (bankWord b)) ≠ bankWord b (len - 2) then 4
  else if (bankWord b 4).toNat ≠ s.fuses.serials.getD 0 0 then 5
  else 0

/-- The SEQ of a bank's header, where readable (R425; DEDUCED, log entry 41). -/
def bankSeq (b : List Word) : Option Nat :=
  let n := (bankWord b 2).toNat
  if bankWord b 0 = 0x43414C42 && 1 ≤ n && n ≤ 0xFFFFFFFE then some n else none

def State.bank (s : State) (i : Nat) : List Word := kget (fun _ => []) s.flash.banks i

/-- CAL_BANK_STATE and CAL_BANK_SEQ follow the flash. -/
def refreshBanks (s : State) : State :=
  forAll [0, 1] (fun i s =>
    wr (A.CAL_BANK_STATE i) F.CAL_BANK_STATE.STATE (s.bankState (s.bank i))
      (setReg (A.CAL_BANK_SEQ i) (word ((bankSeq (s.bank i)).getD 0xFFFFFFFF)) s)) s

/-- The words of a bank that holds the working set: every entry that is set, by unit, item and entry (R423). -/
def State.bankImage (s : State) (seq : Nat) : List Word :=
  let recs := s.cal.entries.flatMap (fun p => s.calRecord (p.1 / 65536) (p.1 / 256 % 256) (p.1 % 256))
  let n := recs.length / 3
  let body := [0x43414C42, 0x01000000, word seq, word (9 + 3 * n), word (s.fuses.serials.getD 0 0), word n, 0] ++ recs
  body ++ [crc32 body, 0xC0DE0A11]

/-- CAL_STORE (R425). `left` is none where the store succeeds; else how many words the bank holds where the flash failed, none inside
where the flash is absent or its erase failed: the bank written is not valid then (DEDUCED, log entry 41). -/
def execCalStore (q : Nat) (left : Option (Option Nat)) (s : State) : Out :=
  .next (hostCmd q 0x0604 (fun _ _ => []) (fun c s =>
    let seqs := [0, 1].filterMap (fun i => bankSeq (s.bank i))
    let seq := (seqs.foldl max 0) + 1
    let target := if s.rd A.CAL_STATUS F.CAL_STATUS.BANK_USED = 1 then 1 else 0
    let put (ws : List Word) : State → State := refreshBanks ∘ modFlash (fun f => { f with banks := kset (fun _ => []) f.banks target ws })
    checked q [lenIs c 0, (0xFFFFFFFE < seq, 0x03B2, 0)] (fun s =>
      let img := s.bankImage seq
      match left with
      | some l => finish q 0x0630 0 [] (put (img.take (min (l.getD 0) (img.length - 1))) s)
      | none =>
        ok q [word seq, word ((img.length - 9) / 3)]
          (wr A.CAL_STATUS F.CAL_STATUS.BANK_USED (target + 1) (wr A.CAL_STATUS F.CAL_STATUS.DIRTY 0 (put img s)))) s) s)

/-- The bank taken at bring-up: the valid one with the higher SEQ (R426). -/
def State.bankTaken (s : State) : Option Nat :=
  let seqOf (i : Nat) : Nat := (bankSeq (s.bank i)).getD 0
  match (s.bankState (s.bank 0) = 0 : Bool), (s.bankState (s.bank 1) = 0 : Bool) with
  | true, true => if seqOf 0 < seqOf 1 then some 1 else some 0
  | true, false => some 0
  | false, true => some 1
  | false, false => none

/-- At bring-up the working set is loaded from the bank taken (R410, R426). -/
def loadBanks (s : State) : State :=
  let s := modCal (fun c => { c with entries := [], marked := [], drifted := [] }) s
  let taken := s.bankTaken
  let seqOf (i : Nat) : Nat := (bankSeq (s.bank i)).getD 0
  let s := forAll ((taken.map (fun i => bankRecords (s.bank i))).getD []) (fun r => setEntry r.1 r.2.1 r.2.2.1 r.2.2.2.2 r.2.2.2.1) s
  let other (i : Nat) : Bool := taken ≠ some i &&
    (!([0, 1].contains (s.bankState (s.bank i))) || ((taken.map (fun t => decide (seqOf t < seqOf i))).getD false))
  let fallback : Bool := taken.isSome && [0, 1].any other || taken.isNone && [0, 1].any (fun i => s.bankState (s.bank i) ≠ 1)
  let s := when fallback (raise A.CAL_STATUS F.CAL_STATUS.BANK_FALLBACK) s
  let s := wr A.CAL_STATUS F.CAL_STATUS.BANK_USED ((taken.map (· + 1)).getD 0) (wr A.CAL_STATUS F.CAL_STATUS.DIRTY 0 s)
  let s := forAll (List.range 256) (fun n => showItem (uPin n) 0x01) s
  let s := forAll (List.range 4) (fun d => showItem (uDie d) 0x02) s
  let s := forAll (List.range 32) (fun k s => showItem (uTu k) 0x08 (showItem (uAq k) 0x07 s)) s
  refreshBanks (showItem uGnomon 0x0B s)

/-- CAL_STATUS (R424). -/
def execCalStatus (q : Nat) (s : State) : Out :=
  .next (hostCmd q 0x0605 (fun _ _ => []) (fun c s =>
    checked q [lenIs c 0] (fun s => ok q (s.reg A.CAL_STATUS ::
      [0, 1].flatMap (fun b => [s.reg (A.CAL_BANK_STATE b), s.reg (A.CAL_BANK_SEQ b)])) s) s) s)

/-! ## The calibration bus (R420) -/

/-- The largest INDEX of a target TYPE. -/
def extTop (type : Nat) : Nat := match type with | 1 => 63 | 2 | 3 => 7 | 4 => 1 | _ => 0

/-- A connection of a die's calibration bus is changed: each disconnection and connection takes 1 ms, in that order. -/
def switchBus (d type index : Nat) (s : State) : State :=
  let now := match kget (fun _ => none) s.cal.settle d with
    | some p => max s.now p.1
    | none => s.now
  let steps := b2n (s.rd (A.CAL_EXT d) F.CAL_EXT.TYPE ≠ 0) + b2n (type ≠ 0)
  modCal (fun c => { c with settle := kset (fun _ => none) c.settle d (some (now + ms steps, type, index)) })
    (setReg (A.CAL_EXT d) 0 s)

/-- CAL_EXT (R420). -/
def execCalExt (q : Nat) (s : State) : Out :=
  .next (hostCmd q 0x0606 (fun c _ => [uDie (bits (c.w 4) 10 9)]) (fun c s =>
    let d := bits (c.w 4) 10 9
    let type := bits (c.w 4) 8 6
    let i := bits (c.w 4) 5 0
    let pin := 64 * d + i
    checked q [lenIs c 1, resv c 4 31 11, (4 < type || extTop type < i, 0x01D3, 4)]
      (checkedU q [chkU (type = 1 && (s.retired pin || s.mode pin = 7)) 0x0334 0 (uPin pin)] (fun s =>
        if s.rd (A.CAL_EXT d) F.CAL_EXT.TYPE = type && s.rd (A.CAL_EXT d) F.CAL_EXT.INDEX = i
            && (kget (fun _ => none) s.cal.settle d).isNone then ok q [] s
        else modCmd q (fun c => { c with stage := 1 }) (switchBus d type i s))) s) s)

/-- A connection of a die's calibration bus has settled: its command is answered (R420). -/
def execCalExtSettled (d : Nat) (s : State) : Out :=
  .next (
    match kget (fun _ => none) s.cal.settle d with
    | none => s
    | some p =>
      if s.now < p.1 then s
      else
        let s := modCal (fun c => { c with settle := kset (fun _ => none) c.settle d none }) s
        let s := wr (A.CAL_EXT d) F.CAL_EXT.TYPE p.2.1 (wr (A.CAL_EXT d) F.CAL_EXT.INDEX p.2.2 s)
        match (List.range 8).find? (fun q => ((s.running q).map (fun c =>
            c.opcode = 0x0606 && c.stage = 1 && bits (c.w 4) 10 9 = d)).getD false) with
        | some q => ok q [] s
        | none => s)

/-- 1,200 s have passed since a front-end die reached P0: its units are no longer warming for that (R414). -/
def execCalWarmExpire (d : Nat) (s : State) : Out :=
  .next (
    let t := kget (fun _ => 0) s.power.islandWarm d
    if t = 0 || s.now < t then s
    else { s with power := { s.power with islandWarm := kset (fun _ => 0) s.power.islandWarm d 0 } })

/-! ## Ring delays (R348) -/

/-- XR_DELAY_SET: SEG[0] to SEG[31], then BYP[0] to BYP[31] (R348, R411). -/
def execXrDelaySet (q : Nat) (s : State) : Out :=
  .next (hostCmd q 0x0548 (fun _ _ => [uGnomon]) (fun c s =>
    let bad := (List.range 64).find? (fun i => bits (c.w (4 + i)) 31 24 ≠ 0)
    checked q [lenIs c 64, chk bad.isSome 0x01B5 (4 + bad.getD 0)] (fun s =>
      ok q [] (setEntries ((List.range 64).map (fun i => (uGnomon, 0x0B, i, c.w (4 + i)))) s)) s) s)

/-! ## Time -/

/-- The edges of a site's driven cycles that are due are generated, while no cycle still to be taken starts before them (R205). -/
def settleDue (i : Nat) (s : State) : State :=
  let t := s.site i
  let coming := (t.align ++ t.queue).map (·.start) ++ (if s.runs i then [t.nextStart] else [])
  settleSite (min s.unow (((leastOf coming).map (· - 1)).getD s.unow)) i s

/-- One FAB cycle (2.5 ns, 8 ticks) passes in which no command comes. The switches of calibration groups open when their time has come
(R419), software events register (R399), edges that are due are generated (R205), records that are due are made (R261, R263) and host
reads that waited are served (R134). What the cycle changed is kept where a compare can ask for it, the copies that stand at the start of
a cycle are taken anew, and no field has yet been written by a command (R12, R13, R112; DESIGN CHOICE, log entry 2). -/
def passCycle (s : State) : State :=
  let s := keepPast s
  let s := { s with now := s.now + 8, regs0 := s.regs, shadow0 := s.shadow, fab := [] }
  let s := forAll (List.range 4) openGroup s
  serveReads (settleRecords (forAll (s.sites.map (·.1)) settleDue (registerDue s)))

end Sys2Proof.Machine
end

