-- ==== Sys2Proof/Machine/Arbiter.lean ====
section
/-! DEFINITION. Power states, the power-budget arbiter, running-block claims, thermal and rail monitors
(R434 to R446, R473, R381, R382). -/

namespace Sys2Proof.Machine

def modPower (f : Power → Power) (s : State) : State := { s with power := f s.power }

/-! ## Commands (R440, R442, R443) -/

/-- POWER_BUDGET_SET (R442). That it is critical above 96,000 mW is part of COMMAND_START's check (R103). -/
def execPowerBudgetSet (q : Nat) (s : State) : Out :=
  .next (hostCmd q 0x0701 (fun _ _ => [uArbiter]) (fun c s =>
    let mw := bits (c.w 4) 19 0
    let granted := s.rd A.PW_GRANTED F.PW_GRANTED.MW
    checked q [lenIs c 1, resv c 4 31 20, (mw < 58000 || 110000 < mw, 0x01E0, 4),
        chk (mw < granted) 0x0231 (shortDetail (granted - mw))]
      (fun s => ok q [] (wr A.PW_BUDGET F.PW_BUDGET.MW mw s)) s) s)

/-- POWER_FLOOR_SET (R437). -/
def execPowerFloorSet (q : Nat) (s : State) : Out :=
  .next (hostCmd q 0x0702 (fun _ _ => [uArbiter]) (fun c s =>
    let n := bits (c.w 4) 8 0
    let recs := (List.range (min n 254)).map (fun i => (5 + i, c.w (5 + i)))
    checked q ([chk (c.payload ≠ 1 + n) 0x0104 1, resv c 4 31 9, chk (n = 0 || 254 < n) 0x01E1 4]
      ++ recs.flatMap (fun r => [
        chk (bits r.2 31 16 ≠ 0 || bits r.2 7 3 ≠ 0) 0x0101 r.1,
        chk (253 < bits r.2 15 8 || 4 < bits r.2 2 0) 0x01E1 r.1]))
      (fun s => ok q [] (forAll recs (fun r => wr (A.PW_BLOCK (bits r.2 15 8)) F.PW_BLOCK.FLOOR (bits r.2 2 0)) s)) s) s)

/-- POWER_STATUS: the arbiter's registers in one FAB cycle; the read clears PW_REFUSED (R439). -/
def execPowerStatus (q : Nat) (s : State) : Out :=
  .next (hostCmd q 0x0703 (fun _ _ => [uArbiter]) (fun c s =>
    checked q [lenIs c 0] (fun s =>
      ok q ([A.PW_BUDGET, A.PW_GRANTED, A.PW_BASE, A.PW_STATUS, A.PW_WAIT_HEAD].map s.reg
          ++ [word (s.rcValue A.PW_REFUSED F.PW_REFUSED.COUNT)])
        (rcClear A.PW_REFUSED F.PW_REFUSED.COUNT 0 s)) s) s)

/-- The default limits of a sensor (R443). -/
def critDefault (k : Nat) : Nat := ResetVal.value .limit [k]
def throttleDefault (k : Nat) : Nat := ResetVal.value .throttle [k]

/-- Limits that R443 allows for a sensor: each at or below its default, THROTTLE below CRIT. -/
def limitsOk (k crit throttle : Nat) : Bool :=
  sext 16 crit ≤ critDefault k && sext 16 throttle ≤ throttleDefault k && sext 16 throttle < sext 16 crit

/-- THERMAL_SET (R443). -/
def execThermalSet (q : Nat) (s : State) : Out :=
  .next (hostCmd q 0x0704 (fun _ _ => [uArbiter]) (fun c s =>
    let k := bits (c.w 4) 2 0
    checked q [lenIs c 2, resv c 4 31 3, chk (5 < k) 0x01E2 4,
        chk (!limitsOk k (bits (c.w 5) 31 16) (bits (c.w 5) 15 0)) 0x01E2 5]
      (fun s => ok q [] (setReg (A.TH_LIMIT k) (c.w 5) s)) s) s)

/-! ## Power states (R434 to R438, R382, R392) -/

/-- A die line of the die whose target mask covers one of these inputs is joined to some producer (R388, R389). -/
def State.lineTakes (s : State) (d : Nat) (mask : Nat) : Bool :=
  (List.range 31).any (fun l => s.target (31 * d + l) &&& mask ≠ 0
    && (List.range 8).any (fun w => s.reg (A.PR_EN (68 + 31 * d + l) w) ≠ 0))

/-- A SITE_IN consumer is joined to some producer. -/
def State.siteTakes (s : State) (i : Nat) : Bool := (List.range 8).any (fun w => s.reg (A.PR_EN i w) ≠ 0)

/-- The logical tiles that a physical tile serves, with its own lane engines or with a lane engine remapped to it (R463). -/
def State.servedBy (s : State) (p : Nat) : List Nat :=
  (List.range 16).filter (fun k => s.tileBlock k = p
    || (p = 16 && (List.range 8).any (fun j => 128 ≤ s.rd (A.LE_STATUS (8 * k + j)) F.LE_STATUS.PHYS)))

/-- The deepest state that the configuration held by a block other than a die island allows (R382, R392, R437). -/
def State.configLimit (s : State) (b : Nat) : Nat :=
  let tileLimit (k : Nat) : Nat :=
    match s.siteOfTile k with
    | none => 4
    | some i => if s.runs i then 0 else if s.reserved i || s.siteTakes i then 1 else 4
  if b < 17 then ((s.servedBy b).map tileLimit).foldl min 4
  else if b = 17 then
    if (List.range 16).any s.reserved || s.power.scrubActive
      || s.place.meas.any (fun m => (m.2.val.map (fun v => decide (v.buffer ≠ 0))).getD false)
      || (List.range 16).any (fun i => !(s.site i).log.queue.isEmpty) then 0 else 4
  else if b < 26 then 4
  else if b < 58 then
    let m := b - 26
    let pins := (List.range 8).map (8 * m + ·)
    min (s.powerState (s.tileBlock (m / 2))) (if pins.any s.pinConn then 1 else 4)
  else if b < 90 then
    let k := b - 58
    if s.awState k ≠ 0 || s.lineTakes (k / 8) (2 ^ (k % 8)) then 1 else 4
  else if b < 122 then
    let k := b - 90
    if s.aqLive k then 0 else if s.lineTakes (k / 8) (2 ^ (24 + k % 8)) then 1 else 4
  else if b < 154 then
    let k := b - 122
    if s.tuLive k then 0
    else if s.lineTakes (k / 8) (2 ^ (32 + k % 8) + 2 ^ (40 + k % 8) + 2 ^ (48 + k % 8)) then 1 else 4
  else if b < 218 then
    let k := b - 154
    if s.guarded k then 0 else if s.wmEnabled k then 2 else 4
  else if b < 250 then
    let j := b - 218
    if s.pgLive j then 0 else if s.lineTakes (j / 8) (2 ^ (8 + j % 8) + 2 ^ (16 + j % 8)) then 1 else 4
  else 4

/-- The blocks of a front-end die other than its island (R435). -/
def dieBlocks (d : Nat) : List Nat :=
  (List.range 8).flatMap (fun i => [26 + 8 * d + i, 58 + 8 * d + i, 90 + 8 * d + i, 122 + 8 * d + i, 218 + 8 * d + i])
    ++ (List.range 16).map (154 + 16 * d + ·)

/-- LIMIT of a block (R437). -/
def State.blockLimit (s : State) (b : Nat) : Nat :=
  if b < 250 then s.configLimit b
  else ((dieBlocks (b - 250)).map s.powerState).foldl min (if s.lineTakes (b - 250) (2 ^ 56) then 1 else 4)

/-- The lookahead horizon of a block in ticks; none where its schedule is empty (R436). -/
def State.horizon (s : State) (b : Nat) : Option Nat :=
  if b = 17 then some (s.power.scrubAt - s.now)
  else if 250 ≤ b then some (kget (fun _ => ms 1000) s.power.binCheck (b - 250) - s.now)
  else none

/-- The deepest state whose exit latency × 1.2 is not longer than the horizon (R437). -/
def horizonState (h : Option Nat) : Nat :=
  match h with
  | none => 4
  | some h => ([1, 2, 3, 4].filter (fun p => 12 * exitLatency p ≤ 10 * h)).foldl max 0

/-- The state selected for a block (R437). -/
def State.selected (s : State) (b : Nat) : Nat :=
  min (horizonState (s.horizon b)) (min (s.blockLimit b) (s.rd (A.PW_BLOCK b) F.PW_BLOCK.FLOOR))

/-- A command holds the block, or waits for it (R381, R89). -/
def State.blockHeld (s : State) (b : Nat) : Bool :=
  (List.range 8).any (fun q => match (s.ring q).run with
    | some c => ((c.held ++ c.want).flatMap s.blocksOf).contains b
    | none => false)

/-- A block's state is selected (R437, R438). -/
def execPowerStateEval (b : Nat) (s : State) : Out :=
  .next (
    if 253 < b then s
    else
      let s := wr (A.PW_BLOCK b) F.PW_BLOCK.LIMIT (s.blockLimit b) s
      let p := s.powerState b
      let q := s.selected b
      if (s.transition b).isSome || q = p then s
      else if q < p then wakeBlock b s
      else if s.blockHeld b then s
      else modPower (fun w => { w with moving := kins w.moving b ⟨q, s.now + (if q ≤ 2 then us 1 else us 20), true⟩ }) s)

/-- A block has entered a deeper state; where a command has come to wait for it, it starts its exit (R438). -/
def execPowerStateEnterDone (b : Nat) (s : State) : Out :=
  .next (
    match s.transition b with
    | none => s
    | some t =>
      if !t.deeper || s.now < t.due then s
      else
        let s := wr (A.PW_BLOCK b) F.PW_BLOCK.STATE t.target (modPower (fun w => { w with moving := kdel w.moving b }) s)
        when (s.blockHeld b) (wakeBlock b) s)

/-- A block operates as in P0 again; a die island that was in P3 or P4 leaves its units warming for 1,200 s (R434, R438,
R414). -/
def execPowerStateExitDone (b : Nat) (s : State) : Out :=
  .next (
    match s.transition b with
    | none => s
    | some t =>
      if t.deeper || s.now < t.due then s
      else
        let cold : Bool := 250 ≤ b && 3 ≤ s.powerState b
        let s := wr (A.PW_BLOCK b) F.PW_BLOCK.STATE t.target (modPower (fun w => { w with moving := kdel w.moving b }) s)
        when cold (modPower (fun w => { w with
          islandWarm := kset (fun _ => 0) w.islandWarm (b - 250) (s.now + ms 1200000) })) s)

/-! ## Running-block claims (R441) -/

/-- 337.5 s in ticks. -/
def scrubPeriod : Nat := 1080000000000

/-- A patrol-scrub step begins, its claim granted. -/
def beginScrub (s : State) : State :=
  setClaim uPlace 600 (wr A.PL_STATUS F.PL_STATUS.SCRUB 1 (modPower (fun w => { w with scrubActive := true }) s))

/-- A running-block claim at the head of the queue begins what it was made for. -/
def Waiting.begin_ (w : Waiting) (s : State) : State :=
  if w.unit = uPlace then beginScrub s else beginAuto (uindex w.unit) s

/-- Waiting claims that fit are granted from the head on. -/
def grantQueue : Nat → State → State
  | 0, s => s
  | n + 1, s =>
    match s.power.queue with
    | [] => s
    | w :: rest => if s.fits w.amount then grantQueue n (w.begin_ (setQueue rest s)) else s

/-- The queue of running-block claims is considered (R441). -/
def execClaimQueueGrant (s : State) : Out := .next (grantQueue s.power.queue.length s)

/-- A patrol-scrub step: it claims 600 mW and begins, or waits; while under way it ends, once no request of another level waits for the
controller (R134), having corrected `ce` words and found uncorrectable errors in the 64-byte units `ues` (R135, R441). -/
def execScrubStep (ce : Nat) (ues : List Nat) (s : State) : Out :=
  .next (
    if s.power.scrubActive && s.hbmWaits 6 then s
    else if s.power.scrubActive then
      let n := (s.power.scrubStep + 1) % 256
      let s := hbmCorrected ce s
      let s := forAll ues hbmError s
      release uPlace (wr A.PL_STATUS F.PL_STATUS.SCRUB (b2n (n ≠ 0)) (modPower (fun w => { w with scrubActive := false, scrubStep := n }) s))
    else if s.now < s.power.scrubAt || s.hbmStopped || s.power.queue.any (fun w => w.unit = uPlace) then s
    else
      let s := modPower (fun w => { w with scrubAt := w.scrubAt + scrubPeriod }) s
      if s.power.queue.isEmpty && s.fits 600 then beginScrub s
      else setQueue (s.power.queue ++ [⟨uPlace, 600⟩]) s)

/-! ## Thermal and rail monitors (R443 to R446, R473) -/

/-- The reporter and the root-cause key of a sensor (R401, R445). -/
def sensorUnit (k : Nat) : Nat := if 1 ≤ k && k ≤ 4 then uDie (k - 1) else uArbiter
def sensorKey (k : Nat) : Nat := if 1 ≤ k && k ≤ 4 then keyDie (k - 1) else keyCore

/-- A front-end die reaches its critical limit: its pulse engines stop, its pin and source switches open, and stay open until
TRIPPED is cleared and a strobe of their group comes (R445). -/
def tripDie (d : Nat) (s : State) : State :=
  let s := forAll ((List.range 8).map (8 * d + ·)) (fun j s =>
    when (s.pgState j ≠ 0) (modPg j (fun p => { p with stops := p.stops ++ [(s.now + t128, false)] })) s) s
  let pins := (pinsOfDie d).filter (fun n => [1, 2, 4].contains (s.mode n))
  let s := forAll pins (fun n s => openPin n (modPin n (fun p => { p with byVih := true }) s)) s
  let s := forAll ((List.range 8).map (8 * d + ·)) (fun k s => when (s.awState k ≠ 0) (openAw k) s) s
  match s.calJob d with
  | some j => if j.kind ≤ 3 then
      setJob d (some { j with conn := if j.kind = 3 then [] else j.conn.filter (fun n => !pins.contains n) }) s else s
  | none => s

/-- A limit is reached or left by a reading: whether it stands, and since when the readings have all been 5 °C below it
(0: not now) (R443). -/
def judge (now : Nat) (limit temp : Int) (stands : Bool) (cool : Nat) : Bool × Nat :=
  if limit ≤ temp then (true, 0)
  else if !stands || limit - 40 < temp then (stands, 0)
  else if cool = 0 then (true, now)
  else if cool + ms 10 ≤ now then (false, 0)
  else (true, cool)

/-- A sensor is read (R443 to R445). -/
def readSensor (k : Nat) (temp : Int) (s : State) : State :=
  let s := if 1 ≤ k && k ≤ 4 then noteDrift (k - 1) s else s
  let s := wr (A.TH_TEMP k) F.TH_TEMP.TEMP (toTwos 16 temp) s
  let lim (f : Fld) : Int := sext 16 (s.rd (A.TH_LIMIT k) f)
  let th := judge s.now (lim F.TH_LIMIT.THROTTLE) temp (s.flag (A.TH_TEMP k) F.TH_TEMP.THROTTLING) (kget (fun _ => 0) s.power.coolThrottle k)
  let was := s.flag (A.TH_TEMP k) F.TH_TEMP.CRIT
  let cr := judge s.now (lim F.TH_LIMIT.CRIT) temp was (kget (fun _ => 0) s.power.coolCritical k)
  let s := wr (A.TH_TEMP k) F.TH_TEMP.THROTTLING (b2n th.1) (wr (A.TH_TEMP k) F.TH_TEMP.CRIT (b2n cr.1)
    (modPower (fun w => { w with coolThrottle := kset (fun _ => 0) w.coolThrottle k th.2,
                                 coolCritical := kset (fun _ => 0) w.coolCritical k cr.2 }) s))
  if cr.1 && !was then
    let s := report (sensorUnit k) 0x11 (sensorKey k) (raise (A.TH_TEMP k) F.TH_TEMP.TRIPPED s)
    if 1 ≤ k && k ≤ 4 then tripDie (k - 1) s else s
  else s

/-- Every 100 µs the six sensors are read, `temps` in units of 0.125 °C (R443 to R445, R126). -/
def execTempRead (temps : List Int) (s : State) : Out :=
  .next (
    if s.now < s.power.tempAt + us 100 || s.rst.phase = .testHeld then s
    else
      let s := modPower (fun w => { w with tempAt := s.now }) s
      let s := forAll (List.range 6) (fun k => readSensor k (temps.getD k 0)) s
      let hot (k : Nat) : Bool := s.flag (A.TH_TEMP k) F.TH_TEMP.THROTTLING
      s |> wr A.PW_STATUS F.PW_STATUS.DERATED (b2n ((List.range 6).any hot))
        |> wr A.PL_STATUS F.PL_STATUS.THROTTLE (b2n (hot 0 || hot 5))
        |> wr A.PL_STATUS F.PL_STATUS.REFRESH_2X (b2n (680 < sext 16 (s.rd (A.TH_TEMP 5) F.TH_TEMP.TEMP))))

/-- Write of 1 to TRIPPED of a sensor: discarded while the reading is not 10 °C below the critical limit (R445). -/
def execTrippedClear (k : Nat) (s : State) : Out :=
  .next (
    if 5 < k then s
    else barWrite (.trippedClear k) (A.TH_TEMP k) (fun s =>
      if sext 16 (s.rd (A.TH_TEMP k) F.TH_TEMP.TEMP) + 80 ≤ sext 16 (s.rd (A.TH_LIMIT k) F.TH_LIMIT.CRIT) then
        clearBits (A.TH_TEMP k) F.TH_TEMP.TRIPPED 1 s
      else s) s)

/-- Every output of every die goes to its state at reset: switches open, drivers and loads off, pulse engines inactive (R69,
R473). -/
def outputsSafe (s : State) : State :=
  let s := forAll (List.range 256) (fun n s =>
    openPin n (modPin n (fun p => { p with en := false, load := 0, byVih := true }) s)) s
  let s := forAll (List.range 32) openAw s
  forAll (List.range 32) (fun j s => if s.pgActive j then endPulse j (1250 * s.now) s else s) s

/-- A die's shutdown comparator trips; `k` is the die's sensor (R473). -/
def execThermalShutdown (k : Nat) (s : State) : Out :=
  .next (
    if 5 < k then s
    else
      let s := modPower (fun w => { w with shutDown := [0, 1, 2, 3, 4], shutBy := w.shutBy.filter (· ≠ k) ++ [k] }) (outputsSafe s)
      report (sensorUnit k) 0x11 (sensorKey k) (raise (A.TH_TEMP k) F.TH_TEMP.TRIPPED s))

/-- A rail has stood outside nominal ±5 % for 10 µs (R446, R400, R401). -/
def execRailFault (rail : Nat) (s : State) : Out :=
  .next (if 39 < rail || (13 < rail && rail < 16) || s.rst.phase = .testHeld then s
    else report (if rail < 16 then uArbiter else uDie ((rail - 16) / 6)) 0x10 (keyRail rail) s)

end Sys2Proof.Machine
end

