-- ==== Sys2Proof/Machine/Clocks.lean ====
section
/-! DEFINITION. Reset sources, the reference and the clock monitors, WARMING, and the loss of a die link (R340 to R342, R428 to
R433, R447, R34). -/

namespace Sys2Proof.Machine

def modClk (f : Clocks → Clocks) (s : State) : State := { s with clocks := f s.clocks }
def modRst (f : ResetCtl → ResetCtl) (s : State) : State := { s with rst := f s.rst }

/-- TEST_EN read 1: only the test access port operates (R67). -/
def State.tapOnly (s : State) : Bool := s.rst.phase = .testHeld

/-! ## Reset sources (R447) -/

/-- The sources asserted at this moment: those not released, or released at a later tick. -/
def State.assertedNow (s : State) : List Nat :=
  (s.rst.asserted.filter (fun a => match a.2 with | none => true | some t => s.now < t)).map (·.1)

/-- RST_STATUS follows the reset controller. -/
def refreshRst (s : State) : State :=
  let p := s.rst.phase
  s |> wr A.RST_STATUS F.RST_STATUS.BRINGUP (b2n (p = .release || p = .hostBoot))
    |> wr A.RST_STATUS F.RST_STATUS.WAIT_CLK (b2n !s.rst.waiting.isEmpty)
    |> wr A.RST_STATUS F.RST_STATUS.ASSERTED (bitsOf s.assertedNow)
    |> wr A.RST_STATUS F.RST_STATUS.LATCHED (bitsOf (s.rst.latched.map (·.1)))
    |> wr A.RST_STATUS F.RST_STATUS.REACH s.rst.reach

/-- A source asserts until `till` (none: until released), with its SUB. The stamp of the earliest assertion since bring-up
last completed is kept (R450, R457). -/
def assertSource (n sub : Nat) (till : Option Nat) (s : State) : State :=
  let first : Bool := s.rst.latched.isEmpty && s.rst.asserted.isEmpty
  refreshRst (modRst (fun r => { r with
    news := r.news.filter (· ≠ n) ++ [n],
    asserted := r.asserted.filter (·.1 ≠ n) ++ [(n, till)],
    subs := kset (fun _ => 0) r.subs n sub,
    stamp := if first then s.coarseNow else r.stamp }) s)

/-- Sources 3, 4, 5 and 7 fire as pulses of 4 AON cycles (R447). -/
def fireSource (n sub : Nat) (s : State) : State := assertSource n sub (some (s.now + us 4)) s

/-- An asserted source is released now. -/
def dropSource (n : Nat) (s : State) : State :=
  refreshRst (modRst (fun r => { r with asserted := r.asserted.map (fun a => if a.1 = n then (n, some s.now) else a) }) s)

/-! ## WARMING (R342) -/

/-- WARMING and WARM_LEFT follow the oven ball, the 600 s and the lock. -/
def refreshWarming (s : State) : State :=
  let wired := s.flag A.ID_STRAP F.ID_STRAP.OVEN_WIRED
  let left := match s.clocks.warmUntil with
    | some t => if wired then 0 else (t - s.now + 3199999999) / 3200000000
    | none => 0
  let warm : Bool := (wired && !s.flag A.ID_STRAP F.ID_STRAP.OVEN_LEVEL) || left ≠ 0
    || !s.flag A.GN_STATUS F.GN_STATUS.LOCK
  wr A.GN_STATUS F.GN_STATUS.WARMING (b2n warm) (wr A.GN_STATUS F.GN_STATUS.WARM_LEFT left s)

/-- 600 s have passed since the MTC PLL gained lock (R342). -/
def execWarmExpire (s : State) : Out :=
  .next (match s.clocks.warmUntil with
    | some t => if s.now < t then s else refreshWarming (modClk (fun c => { c with warmUntil := none }) s)
    | none => s)

/-- The level of a wired OVEN_WARM changes (R342, R68). -/
def execOvenLevelChange (level : Bool) (s : State) : Out :=
  .next (
    if s.flag A.ID_STRAP F.ID_STRAP.OVEN_WIRED && !s.tapOnly then
      refreshWarming (wr A.ID_STRAP F.ID_STRAP.OVEN_LEVEL (b2n level) s)
    else s)

/-! ## The reference and the MTC PLL (R340, R341, R429, R431) -/

/-- Four REF periods in a row are not good: the MTC PLL holds its frequency (R341, R429). -/
def execRefMissing (s : State) : Out :=
  .next (
    if !s.flag A.CLK_STATUS F.CLK_STATUS.REF_PRESENT || s.tapOnly then s
    else
      modClk (fun c => { c with missingSince := some s.now }) s
      |> wr A.CLK_STATUS F.CLK_STATUS.REF_PRESENT 0 |> wr A.CLK_STATUS F.CLK_STATUS.MTC_LOCK 0
      |> wr A.GN_STATUS F.GN_STATUS.HOLDOVER 1 |> wr A.GN_STATUS F.GN_STATUS.LOCK 0
      |> refreshWarming)

/-- Sixty-four REF periods in a row are good: the PLL relocks by slewing (R341, R429). -/
def execRefPresent (s : State) : Out :=
  .next (if s.tapOnly then s else modClk (fun c => { c with missingSince := none }) s
    |> wr A.CLK_STATUS F.CLK_STATUS.REF_PRESENT 1 |> wr A.GN_STATUS F.GN_STATUS.HOLDOVER 0)

/-- REF has been missing for HOLD_MS, counted in WDT cycles: the clock-failure source fires, SUB 0 (R431, R428). -/
def execHoldoverExpire (s : State) : Out :=
  .next (
    let hold := s.rd A.CLK_HOLD F.CLK_HOLD.HOLD_MS
    match s.clocks.missingSince with
    | some t =>
      if hold = 0 || s.tapOnly || s.now < t + us (900 * hold) then s
      else fireSource 3 0 (modClk (fun c => { c with missingSince := none }) s)
    | none => s)

/-- The MTC PLL gains lock: after a reset of reach L3 or L4 the counter starts from 0; with OVEN_WARM unwired 600 s of warming
begin (R340, R342). -/
def execMtcPllLock (s : State) : Out :=
  .next (
    if !s.flag A.CLK_STATUS F.CLK_STATUS.REF_PRESENT || s.flag A.GN_STATUS F.GN_STATUS.LOCK || s.tapOnly then s
    else
      let s := if s.gn.running then s else { s with gn := { origin := s.now, running := true, latch := 0 } }
      let s := when (!s.flag A.ID_STRAP F.ID_STRAP.OVEN_WIRED) (modClk (fun c => { c with warmUntil := some (s.now + ms 600000) })) s
      s |> wr A.GN_STATUS F.GN_STATUS.LOCK 1 |> wr A.GN_STATUS F.GN_STATUS.HOLDOVER 0
        |> wr A.CLK_STATUS F.CLK_STATUS.MTC_LOCK 1 |> refreshWarming)

/-! ## Clock monitors (R428, R430, R431) -/

/-- The frequency of a domain that is checked against REF, in MHz. -/
def domainMHz (n : Nat) : Nat :=
  match n with
  | 2 => 3200 | 3 => 800 | 4 => 1000 | 5 => 400 | 6 => 1600 | 7 => 500 | 8 => 625 | 9 => 625
  | _ => if n < 14 then 1000 else if n < 18 then 3200 else 500

/-- The exact count of a domain's cycles in 64 REF periods (R430). -/
def State.expected (s : State) (n : Nat) : Nat :=
  domainMHz n * 64 / (if s.flag A.CLK_STATUS F.CLK_STATUS.REF_100 then 100 else 10)

/-- The die whose clock a domain is. -/
def domainDie (n : Nat) : Option Nat := if 10 ≤ n && n ≤ 21 then some ((n - 10) % 4) else none

/-- The domain is being checked: REF present for those checked against it, its block not in P4, its source not absent by design
(R430). -/
def State.checks (s : State) (n : Nat) : Bool :=
  if n = 22 || n = 23 then true
  else if n < 2 || 23 < n then false
  else s.flag A.CLK_STATUS F.CLK_STATUS.REF_PRESENT
    && !(n = 6 && s.powerState 17 = 4) && !(n = 7 && s.link.perst)
    && !(n = 8 && s.rd A.XR_STATUS F.XR_STATUS.MEMBERS = 1)
    && (match domainDie n with | some d => s.powerState (island d) ≠ 4 | none => true)

/-- Domains whose failure fires the clock-failure source (R428, R431). -/
def firesClock (n : Nat) : Bool := (2 ≤ n && n ≤ 6) || (10 ≤ n && n ≤ 22)

/-- The root-cause key of a ring segment that ends at the XI port, or starts at the XO port (R400). -/
def State.keyIn (s : State) : Nat := keyRing (s.rd A.XR_STATUS F.XR_STATUS.UP_POS)
def State.keyOut (s : State) : Nat := keyRing (s.rd A.XR_STATUS F.XR_STATUS.OWN_POS)

/-- A domain fails (R430, R431): FAIL and FAILCNT, a report, the clock-failure source, and what R428 names for PCIE, XRX and
XTX. -/
def failDomain (n : Nat) (s : State) : State :=
  let s := bump (A.CLK_MON (n - 1)) F.CLK_MON.FAILCNT (raise (A.CLK_MON (n - 1)) F.CLK_MON.FAIL s)
  let unit := match domainDie n with | some d => uDie d | none => uGnomon
  let key := match domainDie n with | some d => keyDie d | none => keyCore
  let s := { s with lens := { s.lens with
    reports := s.lens.reports ++ [⟨unit, 0x12, key, s.coarseNow, n, s.flag A.GN_STATUS F.GN_STATUS.WARMING⟩] } }
  let s := when (firesClock n) (fireSource 3 n) s
  let s := when (n = 7) (fun s => hostLinkReset { s with link := { s.link with up := false, busMaster := false } }) s
  let s := when (n = 8) (fun s => report (uXearn 0) 0x0F s.keyIn s) s
  when (n = 9) (fun s => report (uXearn 1) 0x0F s.keyOut s) s

/-- A monitor's window over a domain ends with a count of its cycles, or with its PLL's lock dropped; two failed windows in a row
make the domain fail (R430). For AON and WDT `lost` alone tells that the check failed. -/
def execClockWindowCheck (n count : Nat) (lost : Bool) (s : State) : Out :=
  .next (
    if n < 2 || 23 < n || s.tapOnly then s
    else if !s.checks n then wr (A.CLK_MON (n - 1)) F.CLK_MON.ACTIVE 0 s
    else
      let e := s.expected n
      let off := if count < e then e - count else count - e
      let bad : Bool := lost || (n < 22 && e < 200 * off)
      let k := kget (fun _ => 0) s.clocks.badWindows n
      let s := wr (A.CLK_MON (n - 1)) F.CLK_MON.ACTIVE 1
        (modClk (fun c => { c with badWindows := kset (fun _ => 0) c.badWindows n (if bad then min 2 (k + 1) else 0) }) s)
      when (bad && k = 1) (failDomain n) s)

/-! ## Die links (R34) -/

/-- A die link loses lane lock: a report, and every site with a tile on the die halts with its pins parked (R34, R166). It is down until
a reset that covers the die (R34). -/
def execLinkLaneLoss (d : Nat) (s : State) : Out :=
  .next (
    if 3 < d || s.tapOnly || s.clocks.linksDown.contains d then s
    else
      let on (i : Nat) : Bool := s.formed i && (s.tilesOf i).any (fun k => k / 4 = d)
      forAll ((List.range 16).filter on) (fun i s =>
        if s.active i then haltAt i 10 s.unow 0 s
        else if s.armed i then wr (A.SEQ_SITE_STATE i) F.SEQ_SITE_STATE.CAUSE 10 (disarm i s)
        else s)
        (report (uDie d) 0x04 (keyDie d) (modClk (fun c => { c with linksDown := c.linksDown.filter (· ≠ d) ++ [d] }) s)))

end Sys2Proof.Machine
end

