-- ==== Sys2Proof/Machine/Ring.lean ====
section
/-! DEFINITION. Time across the Xearn ring and ring membership (R346 to R353, R465, R466). -/

namespace Sys2Proof.Machine

def modXr (f : Xearn → Xearn) (s : State) : State := { s with xr := f s.xr }

/-- The state of the Xearn ports (R465): 0 out, 1 pass-through, 2 joining, 3 member. -/
def State.xrState (s : State) : Nat := s.rd A.XR_CTRL F.XR_CTRL.STATE

/-- The device's own position. -/
def State.ownPos (s : State) : Nat := s.rd A.XR_STATUS F.XR_STATUS.OWN_POS

def State.ringTime (s : State) : Bool := s.flag A.GN_STATUS F.GN_STATUS.RING_TIME

/-- The members, this device among them. -/
def State.ringMembers (s : State) : List Nat :=
  if s.xr.members.contains s.ownPos then s.xr.members else s.xr.members ++ [s.ownPos]

/-- The lowest position of a list. -/
def lowest (l : List Nat) : Nat := l.foldl min 31

/-- The ring master: the lowest position among members on ring time, or the lowest position where none is (R347). -/
def State.masterPos (s : State) : Nat :=
  let on := (s.xr.onTime.filter (fun p => s.xr.members.contains p && p ≠ s.ownPos)) ++ (if s.ringTime then [s.ownPos] else [])
  lowest (if on.isEmpty then s.ringMembers else on)

/-- No member is on ring time. -/
def State.newRing (s : State) : Bool :=
  !s.ringTime && !s.xr.onTime.any (fun p => s.xr.members.contains p && p ≠ s.ownPos)

/-- SYNC_VALID (R350). -/
def refreshSync (s : State) : State :=
  let recent : Bool := match s.xr.lastSync with | some t => s.now < t + ms 10 | none => false
  let v : Bool := s.ringTime && (s.flag A.GN_STATUS F.GN_STATUS.MASTER || (recent && s.xr.lastOffset.natAbs ≤ 3146))
  wr A.GN_STATUS F.GN_STATUS.SYNC_VALID (b2n v) s

/-- MASTER, MASTER_POS, MEMBERS and SYNC_VALID follow the membership. A device that is not a member is a ring of one and its
own master; a master at a formation where nobody is on ring time keeps the ring's time (R347; DEDUCED, log entry 44). -/
def refreshRing (s : State) : State :=
  if s.xrState = 3 then
    let m := s.masterPos
    let s := when (m = s.ownPos && s.newRing) (fun s =>
      wr A.GN_STATUS F.GN_STATUS.RING_TIME 1 (wr A.GN_STATUS F.GN_STATUS.JOIN_WAIT 0 (modXr (fun x => { x with stepWait := none }) s))) s
    s |> wr A.GN_STATUS F.GN_STATUS.MASTER (b2n (m = s.ownPos)) |> wr A.XR_STATUS F.XR_STATUS.MASTER_POS m
      |> wr A.XR_STATUS F.XR_STATUS.MEMBERS s.ringMembers.length |> refreshSync
  else
    s |> wr A.GN_STATUS F.GN_STATUS.MASTER 1 |> wr A.XR_STATUS F.XR_STATUS.MASTER_POS s.ownPos
      |> wr A.XR_STATUS F.XR_STATUS.MEMBERS 1 |> refreshSync

/-- A joining device becomes a member where no other member holds its position; else RING_DUP is set with a report (R347,
R465). -/
def tryJoin (s : State) : State :=
  if s.xrState ≠ 2 then s
  else if s.xr.members.contains s.ownPos then
    when (!s.flag A.GN_STATUS F.GN_STATUS.RING_DUP) (report uGnomon 0x0C s.keyIn) (wr A.GN_STATUS F.GN_STATUS.RING_DUP 1 s)
  else refreshRing (wr A.GN_STATUS F.GN_STATUS.RING_DUP 0 (wr A.XR_CTRL F.XR_CTRL.STATE 3 s))

/-- The ports begin to join (R465). -/
def beginJoin (s : State) : State := tryJoin (wr A.XR_CTRL F.XR_CTRL.STATE 2 s)

/-- The ports go to a state in which the device is no member: it is a ring of one and off ring time (R465; DEDUCED, log entry 44). -/
def leaveRing (st : Nat) (s : State) : State :=
  modXr (fun x => { x with absent := [], stepWait := none, lastOffset := 0 }) s
  |> wr A.XR_CTRL F.XR_CTRL.STATE st |> wr A.GN_STATUS F.GN_STATUS.JOIN_WAIT 0
  |> wr A.GN_STATUS F.GN_STATUS.RING_TIME 0 |> refreshRing

/-- RING_CTRL (R465). -/
def execRingCtrl (q : Nat) (s : State) : Out :=
  .next (hostCmd q 0x0830 (fun _ _ => [uXearn 0, uXearn 1]) (fun c s =>
    let join := bit (c.w 4) 0
    checked q [lenIs c 1, resv c 4 31 1, chk (s.flag A.HL_STATUS F.HL_STATUS.UMBRA) 0x03C5 0] (fun s =>
      if join && 2 ≤ s.xrState || !join && s.xrState ≤ 1 then finish q 0x0001 1 [] s
      else ok q [] (if join then beginJoin s else leaveRing 1 s)) s) s)

/-! ## Sync frames (R348 to R351) -/

/-- Timing units in fine units, rounded to the nearest, halves upward (R344; DEDUCED, log entry 43). -/
def fineOf (units : Nat) : Nat := (units * 65536 + 625) / 1250

def State.seg (s : State) (p : Nat) : Nat := s.rd (A.XR_SEG p) F.XR_SEG.DELAY
def State.byp (s : State) (p : Nat) : Nat := s.rd (A.XR_BYP p) F.XR_BYP.DELAY

/-- The positions strictly between `u` and `v` along the ring. -/
def between (u v : Nat) : List Nat := (List.range ((v + 31 - u) % 32)).map (fun i => (u + 1 + i) % 32)

/-- The path delay from the nearest live upstream member `u` (R348), in fine units. -/
def State.pathDelay (s : State) (residence u : Nat) : Nat :=
  residence + fineOf (s.seg u + ((between u s.ownPos).map (fun p => s.byp p + s.seg p)).sum)

/-- A full stamp of this moment, `frac` fine units into its tick (R344). -/
def State.fullNow (s : State) (frac : Nat) : Int := 65536 * (s.count : Int) + s.phase + (frac % 65536 : Nat)

/-- The members' map as this device sends it on: its own bit is set where it is a member. -/
def State.mapOut (s : State) (map : Nat) : Nat := if s.xrState = 3 then map ||| 2 ^ s.ownPos else map

/-- Every 1 ms the ring master sends a sync frame; it leaves its XO balls `frac` fine units into this tick (R348). -/
def execSyncFrameSend (frac : Nat) (s : State) : Out :=
  .next (
    if s.xrState ≠ 3 || !s.flag A.GN_STATUS F.GN_STATUS.MASTER || s.now < s.xr.sent + ms 1 then s
    else
      emit (.ringFrame [s.ownPos, (s.fullNow frac).toNat, 0, s.mapOut 0, if s.ringTime then 2 ^ s.ownPos else 0])
        (modXr (fun x => { x with sent := s.now }) s))

/-- Members come and go with the map of a frame: one absent from three consecutive frames is removed (R465, R352). -/
def takeMap (map onTime : Nat) (s : State) : State :=
  let own := s.ownPos
  let missed := s.xr.members.filter (fun p => !nbit map p && p ≠ own)
  let count (p : Nat) : Nat := kget (fun _ => 0) s.xr.absent p + 1
  let kept := missed.filter (fun p => count p < 3)
  let seen := bitList 32 map
  refreshRing (modXr (fun x => { x with
    members := (List.range 32).filter (fun p => seen.contains p || kept.contains p),
    onTime := bitList 32 onTime,
    absent := kept.mergeSort.map (fun p => (p, count p)) }) s)

/-- A master gets its own frame back: the loop check (R351). -/
def loopCheck (stamp : Int) (residence frac : Nat) (s : State) : State :=
  let loop := s.fullNow frac - stamp
  let out := (List.range 32).filter (fun p => !s.ringMembers.contains p)
  let want : Int := (residence + fineOf (((List.range 32).map s.seg).sum + (out.map s.byp).sum) : Nat)
  let s := setReg A.XR_LOOP (word ((roundDiv (loop * 1250) 65536).toNat)) s
  if 10486 < (loop - want).natAbs then
    report uGnomon 0x0E s.keyIn (raise A.GN_STATUS F.GN_STATUS.DELAY_MISMATCH s)
  else s

/-- A step is due: JOIN_WAIT is set until RING_STEP makes it (R349). -/
def wantStep (offset : Int) (s : State) : State :=
  wr A.GN_STATUS F.GN_STATUS.JOIN_WAIT 1 (modXr (fun x => { x with stepWait := some offset }) s)

/-- A follower's offset (R348 to R350). -/
def takeOffset (offset : Int) (s : State) : State :=
  let s := modXr (fun x => { x with lastSync := some s.now, lastOffset := offset }) (setReg A.XR_OFFSET (word (toTwos 32 offset)) s)
  refreshSync (
    if !s.ringTime then wantStep offset s
    else if 65536 < offset.natAbs then
      wantStep offset (report uGnomon 0x0D s.keyIn (wr A.GN_STATUS F.GN_STATUS.RING_TIME 0 s))
    else
      let c := max (-64) (min 64 offset)
      setReg A.GN_PHASE (word (toTwos 32 (s.phase + c))) (modXr (fun x => { x with lastOffset := offset - c }) s))

/-- A sync frame of the member at `origin` arrives, sent on by the nearest live upstream member `up`: the full stamp at which
it left, its residence so far, the maps of members and of members on ring time; it reached the XI balls `frac` fine units into
this tick and takes `through` fine units from XI balls to XO balls (R347 to R352, R465). -/
def execSyncFrameReceive (origin up : Nat) (stamp : Int) (residence map onTime frac through : Nat) (s : State) : Out :=
  .next (
    if s.xrState = 0 || 31 < up || 31 < origin then s
    else if s.xrState = 1 then
      emit (.ringFrame [origin, stamp.toNat, residence, map, onTime])
        (modXr (fun x => { x with members := bitList 32 map, onTime := bitList 32 onTime }) s)
    else if s.xrState = 3 && origin = s.ownPos then
      let s := takeMap map onTime (wr A.XR_STATUS F.XR_STATUS.UP_POS up (modXr (fun x => { x with lockLost := false }) s))
      loopCheck stamp residence frac s
    else
      let s := wr A.XR_STATUS F.XR_STATUS.UP_POS up (modXr (fun x => { x with lockLost := false }) s)
      let s := if s.xrState = 2 then tryJoin (modXr (fun x => { x with members := bitList 32 map, onTime := bitList 32 onTime }) s)
        else takeMap map onTime s
      let s := emit (.ringFrame [origin, stamp.toNat, residence + through, s.mapOut map,
        if s.ringTime then onTime ||| 2 ^ s.ownPos else onTime]) s
      if s.xrState ≠ 3 then s
      else
        let disorder : Bool := s.ownPos ≤ up && s.ringMembers.any (· < s.ownPos)
        let s := when (disorder && !s.flag A.GN_STATUS F.GN_STATUS.ORDER_ERR)
          (fun s => report uGnomon 0x0C s.keyIn (wr A.GN_STATUS F.GN_STATUS.ORDER_ERR 1 s)) s
        if s.flag A.GN_STATUS F.GN_STATUS.MASTER then s
        else takeOffset (stamp + (s.pathDelay residence up : Nat) - s.fullNow frac) s)

/-- Activity that a step waits for (R349). -/
def State.busyForStep (s : State) : Bool :=
  (List.range 16).any s.reserved || (List.range 32).any s.aqLive || (List.range 32).any s.tuLive
    || (List.range 32).any (fun k => s.awState k = 2 || s.awState k = 3) || (List.range 32).any s.pgLive

/-- A follower joins ring time by one step of its counter (R349): the whole ticks of the offset move the counter, the rest goes
to GN_PHASE, and GN_STEP takes the coarse stamp on the new scale. -/
def execRingStep (s : State) : Out :=
  .next (
    match s.xr.stepWait with
    | none => s
    | some o =>
      if s.busyForStep || s.xrState ≠ 3 then s
      else
        let s := { s with gn := { s.gn with origin := s.gn.origin - o.tdiv 65536 } }
        let s := modXr (fun x => { x with stepWait := none, lastOffset := 0 }) s
        let s := { s with prism := { s.prism with nextTick := s.ticksFrom } }
        let s := setReg A.GN_PHASE (word (toTwos 32 (o.tmod 65536))) s
        s |> wrPair A.GN_STEP_LO A.GN_STEP_HI s.coarseNow
          |> wr A.GN_STATUS F.GN_STATUS.RING_TIME 1 |> wr A.GN_STATUS F.GN_STATUS.JOIN_WAIT 0
          |> bump A.XR_STATUS F.XR_STATUS.STEPS |> refreshRing)

/-- The order of the records of several devices, each as its full stamp in fine units, its device's position and its unit: by stamp, then
by position, then by unit identifier (R353). -/
def recordBefore (a b : Nat × Nat × Nat) : Bool :=
  a.1 < b.1 || (a.1 = b.1 && (a.2.1 < b.2.1 || (a.2.1 = b.2.1 && a.2.2 < b.2.2)))

/-- No sync frame for 10 ms: SYNC_VALID clears, but at the master (R350, R352). -/
def execSyncTimeout (s : State) : Out :=
  .next (
    match s.xr.lastSync with
    | some t => if s.now < t + ms 10 then s else refreshSync (modXr (fun x => { x with lastSync := none }) s)
    | none => refreshSync s)

/-- A member's XI lock has been lost for 1 ms (R466). -/
def execXiLockLost (s : State) : Out :=
  .next (
    if s.xrState ≠ 3 || s.xr.lockLost then s
    else report (uXearn 0) 0x0F s.keyIn (modXr (fun x => { x with lockLost := true }) s))

end Sys2Proof.Machine
end

