-- ==== Sys2Proof/Machine/Reset.lean ====
section
/-! DEFINITION. The reset controller: sources, the reset they perform, cause records, isolated and site resets
(R447 to R457, R14). -/

namespace Sys2Proof.Machine

/-! ## The reach table (R447, R448) -/

/-- The row in force, 0 where no programmed row verifies, and its table. -/
def State.reachRow (s : State) : Nat × Nat :=
  match (s.fuses.reachRows.zipIdx 1).reverse.find? (·.1.isSome) with
  | some (t, i) => (i, t.getD 0x6926DC)
  | none => (0, 0x6926DC)

/-- The reach the row in force gives a source; the software source has the reach its command named. -/
def State.sourceReach (s : State) (n : Nat) : Nat :=
  if n = 7 then s.rst.softReach else s.reachRow.2 / 2 ^ (3 * n) % 8

/-- RST_REACH follows the fuses. -/
def refreshReach (s : State) : State :=
  wr A.RST_REACH F.RST_REACH.ROW s.reachRow.1 (wr A.RST_REACH F.RST_REACH.TABLE s.reachRow.2 s)

/-! ## Service settings (R462 to R464, R22) -/

/-- The physical unit that serves a logical one. -/
def State.physOf (s : State) (u own : Nat) : Nat := ((s.svc.remaps.filter (·.1 = u)).getLast?.map (·.2)).getD own

/-- The spare lane engines mapped in. -/
def State.lanesUsed (s : State) : List Nat :=
  ((List.range 128).map (fun j => s.physOf (uLane j) j)).filter (128 ≤ ·)

/-- The registers that show remaps and retirements follow the service record in force. -/
def refreshService (s : State) : State :=
  let s := forAll (List.range 16) (fun k s => wr (A.SEQ_TILE_STATUS k) F.SEQ_TILE_STATUS.PHYS (s.physOf (uTile k) k) s) s
  let s := forAll (List.range 128) (fun j s =>
    wr (A.LE_STATUS j) F.LE_STATUS.PHYS (s.physOf (uLane j) j)
      (wr (A.LE_STATUS j) F.LE_STATUS.SPARE (b2n (128 ≤ s.physOf (uLane j) j)) s)) s
  let s := forAll (List.range 32) (fun k s => wr (A.TU_STATUS k) F.TU_STATUS.PHYS (s.physOf (uTu k) (k % 8)) s) s
  let s := forAll (List.range 8) (fun w s =>
    setReg (A.SVC_RETIRED w) (word (bitsOf ((List.range 32).filter (fun b => s.retired (32 * w + b))))) s) s
  s |> wr A.SVC_STATUS F.SVC_STATUS.TILE_SPARE (b2n ((List.range 16).any (fun k => s.physOf (uTile k) k = 16)))
    |> wr A.SVC_STATUS F.SVC_STATUS.LE_SPARES s.lanesUsed.length
    |> wr A.SVC_STATUS F.SVC_STATUS.TU_SPARES (bitsOf ((List.range 4).filter (fun d =>
        (List.range 8).any (fun i => s.physOf (uTu (8 * d + i)) i = 8))))
    |> wr A.SVC_STATUS F.SVC_STATUS.RETIRED s.svc.retired.length

/-! ## What a reset does (R14, R69, R113, R115, R142, R244, R408, R449, R451) -/

/-- Every live slot of a handle table is freed. -/
def freeAll {α : Type} [DecidableEq α] (t : KMap (Slot α)) : KMap (Slot α) :=
  kmap (fun _ => {}) (fun _ v => if v.val.isSome then { gen := v.gen + 1, val := none } else v) t

/-- The sensors of the dies that tripped read 20 °C below the trip points of R472 (R473). -/
def State.cooled (s : State) : Bool :=
  s.power.shutBy.all (fun k => sext 16 (s.rd (A.TH_TEMP k) F.TH_TEMP.TEMP) ≤ (if k = 0 then 840 else if k < 5 then 960 else 720))

/-- The parts that a reset of reach L2 or greater resets. -/
def resetCore (n : Nat) (s : State) : State :=
  let busy := s.cal.jobs.flatMap (fun p => (p.2.map (fun j => (j.groups.headD []).map (kindUnit j.kind))).getD [])
  let s := forAll busy (fun u => wr (A.CAL_UNIT_STATE (calIndex u)) F.CAL_UNIT_STATE.CAL_BUSY 0) (resetRegs n (fun _ => true) s)
  let s := { s with
    rings := [], saves := [], prism := { nextTick := s.ticksFrom }, results := [], micro := {}
    link := { s.link with coresDown := [], rrHigh := 7, rrLow := 7 }
    place := { objs := freeAll s.place.objs, bufs := freeAll s.place.bufs, logs := freeAll s.place.logs,
               meas := freeAll s.place.meas, reserve := [] }
    tiles := [], sites := [], pins := [], levels := {}, aw := [], pg := [], aq := []
    wm := kmap (fun _ => {}) (fun _ v => { input := v.input }) s.wm
    tu := kmap (fun _ => {}) (fun _ v => { bins := v.bins }) s.tu
    cal := { s.cal with jobs := [], settle := [] }
    gn := { s.gn with latch := 0 }
    power := { s.power with claims := [], queue := [], moving := [], scrubActive := false }
    clocks := { s.clocks with linksDown := [] }
    rst := { s.rst with iso := [], software := none, waiting := [], fwUp := false, fabric := [] } }
  wr A.HL_STATUS F.HL_STATUS.FW_READY 0 (wr A.HL_STATUS F.HL_STATUS.BOOT_WAIT 0 s)

/-- What a reset of reach L3 or greater resets beside. -/
def resetAll (s : State) : State :=
  { s with
    link := { perst := s.link.perst, nextOrder := s.link.nextOrder }
    prism := {}, lens := {}, tu := [], cal := {}, gn := {}, xr := {}, svc := {}
    clocks := { missingSince := s.clocks.missingSince, ovenFirst := s.clocks.ovenFirst, ovenDown := s.clocks.ovenDown
                sfdpMin := s.clocks.sfdpMin }
    power := { s.power with
      coolThrottle := [], coolCritical := [], binCheck := [] }
    rst := { s.rst with ready := false, sysRst := true } }
  |> wr A.HL_STATUS F.HL_STATUS.LINK_SPEED 0 |> wr A.HL_STATUS F.HL_STATUS.LINK_WIDTH 0
  |> wr A.HL_STATUS F.HL_STATUS.D3HOT 0
  |> wr A.CLK_STATUS F.CLK_STATUS.MTC_LOCK 0 |> wr A.CLK_STATUS F.CLK_STATUS.SYS_LOCK 0
  |> wr A.CLK_STATUS F.CLK_STATUS.FE_LOCK 0

/-- The registers that show state held elsewhere follow it after a reset. -/
def refreshAll (s : State) : State :=
  s |> refreshService |> refreshReach |> refreshSigners |> refreshBootstrap |> refreshWarming |> refreshRing |> refreshRst
    |> refreshLens

/-- What a reset of reach L2 or L3 leaves of the commands that were executing: their tags and statuses in HL_RING_LAST; a command whose
core the reset stops ends with 0x0601 (R113, R454; DEDUCED, log entry 24). -/
def State.outcomes (s : State) : List (Nat × Nat × Nat) :=
  (List.range 8).filterMap (fun q => (s.running q).map (fun c => (q, c.tag, (c.reply.map (·.status)).getD 0x0601)))

/-- A reset of reach `n`, 2 to 4: outputs go safe first, then everything within reach is reset and held (R449, R451). GEN of every handle
slot goes on rising (R114; DEDUCED, log entry 91). -/
def performReset (n : Nat) (s : State) : State :=
  let ended := if n < 4 then s.outcomes else []
  let deep := (List.range 4).filter (fun d => 3 ≤ s.powerState (island d))
  let cool := s.cooled
  let s := resetCore n (outputsSafe s)
  let s := if n < 3 then s else when cool (modPower (fun w => { w with shutDown := [], shutBy := [] })) (resetAll s)
  let s := forAll ended (fun o => setLast o.1 o.2.1 o.2.2) s
  let s := forAll deep (fun d => modPower (fun w => { w with islandWarm := kset (fun _ => 0) w.islandWarm d (s.now + ms 1200000) })) s
  refreshAll (if n < 4 then s else
    { s with tap := {}, clocks := { s.clocks with ovenFirst := none, ovenDown := false }, rst := { s.rst with testEn := false } })

/-! ## Cause records (R457) -/

/-- Word 0 of a cause record. -/
def causeWord (reach cause : Nat) (forced umbra : Bool) (sources fails sub : Nat) : Word :=
  word (reach * 2 ^ 29 + cause * 2 ^ 26 + b2n forced * 2 ^ 25 + b2n umbra * 2 ^ 24 + sources % 256 * 2 ^ 16
    + fails * 2 ^ 12 + sub % 256)

/-- A cause record is written: it is the last one and the newest of the history. -/
def recordCause (w0 unit : Word) (stamp : Nat) (s : State) : State :=
  let ws := [w0, unit, word stamp, word (stamp / 2 ^ 32)]
  let n := s.rd A.RST_HIST_HEAD F.RST_HIST_HEAD.COUNT
  let slot := if n = 0 then 0 else (s.rd A.RST_HIST_HEAD F.RST_HIST_HEAD.NEWEST + 1) % 16
  let s := forAll (List.range 4) (fun i s => setReg (A.RST_CAUSE i) (wd ws i) (setReg (A.RST_HIST slot i) (wd ws i) s)) s
  wr A.RST_HIST_HEAD F.RST_HIST_HEAD.NEWEST slot (wr A.RST_HIST_HEAD F.RST_HIST_HEAD.COUNT (min 16 (n + 1)) s)

def State.fails (s : State) : Nat := s.rd A.RST_STATUS F.RST_STATUS.FAILS
def State.umbra (s : State) : Bool := s.flag A.HL_STATUS F.HL_STATUS.UMBRA

/-! ## Sources (R447, R456) -/

/-- A rail or VDD_AON lies below its power-on threshold; the source stays until all rails have been valid for 1 ms after the
last such moment (R447). -/
def execPowerOn (s : State) : Out := .next (assertSource 0 0 (some (s.now + ms 1)) s)

/-- A rail has been below 90 % for 2 µs (R447); SUB is its number. -/
def execBrownOut (rail : Nat) (s : State) : Out := .next (assertSource 1 rail (some (s.now + ms 1)) s)

/-- NRST_IN has read low on three AON cycles (R59, R447). -/
def execNrstInLow (s : State) : Out := .next (if s.assertedNow.contains 2 then s else assertSource 2 0 none s)

/-- NRST_IN has read high on three AON cycles (R447). -/
def execNrstInHigh (s : State) : Out := .next (if s.assertedNow.contains 2 then dropSource 2 s else s)

/-- A running command core has not serviced its watchdog for 100 ms (R456). -/
def execFwWatchdogExpire (core : Nat) (s : State) : Out :=
  .next (if 3 < core || !s.rst.fwUp || s.link.coresDown.contains core then s else fireSource 4 core s)

/-- The host has not kicked the enabled host watchdog within TIMEOUT_MS, counted in WDT cycles (R456, R428). -/
def execHostWatchdogExpire (s : State) : Out :=
  .next (
    if !s.flag A.WD_CTRL F.WD_CTRL.ENABLE || s.now < s.rst.kickAt + us (900 * s.rd A.WD_CTRL F.WD_CTRL.TIMEOUT_MS) then s
    else fireSource 4 4 s)

/-- A write of WD_KICK (R456). -/
def execWdKick (key : Nat) (s : State) : Out :=
  .next (barWrite (.wdKick key) A.WD_KICK (fun s => if key % 256 = 0xA5 then modRst (fun r => { r with kickAt := s.now }) s else discard s) s)

/-- A command core takes an exception while it handles one (R456). -/
def execDoubleException (core : Nat) (s : State) : Out :=
  .next (if 3 < core || s.link.coresDown.contains core then s else fireSource 5 core s)

/-- A register-fabric transaction has stayed unanswered for 1 ms (R456). -/
def execFabricTimeout (s : State) : Out := .next (fireSource 5 8 s)

/-- A start has not completed 2 s after tR, counted in WDT cycles (R456, R428). -/
def execStartTimeout (s : State) : Out :=
  .next (if s.rst.phase ≠ .release || s.now < s.rst.since + ms 1800 then s else fireSource 5 0x10 s)

/-- The domain whose clock a waiting block lacks: 0 for REF (R447, R452). -/
def State.lackedDomain (s : State) (u : Nat) : Nat :=
  if !s.flag A.CLK_STATUS F.CLK_STATUS.REF_PRESENT then 0
  else if uclass u = 0x0D then 14 + uindex u
  else if !s.flag A.CLK_STATUS F.CLK_STATUS.MTC_LOCK then 2 else 4

/-- A block has been held in WAIT_CLK for 2 ms, counted in WDT cycles: the clock-failure source fires (R452). -/
def execWaitClkTimeout (u : Nat) (s : State) : Out :=
  .next (
    match s.rst.waiting.find? (·.1 = u) with
    | some (_, t) => if s.now < t + us 1800 then s else
        fireSource 3 (s.lackedDomain u) (modRst (fun r => { r with waiting := r.waiting.filter (·.1 ≠ u) }) s)
    | none => s)

/-- 100 µs after the completion of RESET or of FW_LOAD with ACTIVATE (R447, R461). -/
def execSoftwareSourceAssert (s : State) : Out :=
  .next (
    match s.rst.software with
    | some (due, reach, q) =>
      if s.now < due then s
      else fireSource 7 q (modRst (fun r => { r with software := none, softReach := reach }) s)
    | none => s)

/-- The algorithm of R450 takes the sources asserted: they are latched, the reach rises, a start under way fails (R458), and
every block within reach is reset and held. -/
def execResetSourceAssert (s : State) : Out :=
  .next (
    if s.rst.news.isEmpty then s
    else
      let started : Bool := s.rst.phase = .release || s.rst.phase = .hostBoot
      let s := modRst (fun r => { r with
        latched := (r.latched.filter (fun l => !r.news.contains l.1)) ++ r.news.map (fun n =>
          (n, max (s.sourceReach n) (((r.latched.find? (·.1 = n)).map (·.2)).getD 0))),
        news := [] }) s
      let reach := (s.rst.latched.map (·.2)).foldl max 0
      let fails := if started && !s.rst.counted && !s.umbra then min 15 (s.fails + 1) else s.fails
      let s := modRst (fun r => { r with reach := reach, phase := .held, counted := r.counted || started }) s
      if reach < 2 then refreshRst s
      else refreshRst (wr A.RST_STATUS F.RST_STATUS.FAILS (if reach = 4 then 0 else fails) (performReset reach s)))

/-! ## Straps (R65 to R68) -/

/-- Every source has been released, the last of them at this tick (R450). -/
def State.released (s : State) : Option Nat :=
  if !s.rst.news.isEmpty || s.rst.latched.isEmpty || s.rst.asserted.any (·.2.isNone) then none
  else some ((s.rst.asserted.filterMap (·.2)).foldl max 0)

/-- tP: the release of the power-on source; in a reset of reach L4 that it did not bring about, the release of the last asserted source
(R65, R449). -/
def State.tP (s : State) : Option Nat :=
  match s.rst.asserted.find? (·.1 = 0) with
  | some p => if s.rst.news.contains 0 then none else p.2
  | none => s.released

/-- `t` µs have passed since tP in a reset of reach L4. -/
def State.sinceP (s : State) (t : Nat) : Bool :=
  s.rst.reach = 4 && (match s.tP with | some p => p + us t ≤ s.now | none => false)

/-- The device is held in a reset of reach L4 and `t` µs have passed since tP. -/
def State.sampling (s : State) (t : Nat) : Bool := s.rst.phase = .held && s.sinceP t

/-- The internal pull of OVEN_WARM: up from tP to the first sample, then down, and down for good or none once the second sample has
decided (R65, R66). -/
inductive Pull where
  | none | up | down
  deriving DecidableEq, Repr

def State.ovenPull (s : State) : Pull :=
  if s.clocks.ovenDown then .down else if s.sampling 0 then .up else .none

/-- tP + 16 µs: OVEN_WARM is sampled under the pull-up, and the pull-down takes its place (R65). -/
def execOvenSampleFirst (level : Bool) (s : State) : Out :=
  .next (if s.sampling 16 && s.clocks.ovenFirst.isNone then modClk (fun c => { c with ovenFirst := some level, ovenDown := true }) s else s)

/-- tP + 32 µs: OVEN_WARM is sampled under the pull-down; 1 then 0 means unwired, and the pull-down stays; it goes where the ball is
wired (R65, R66). -/
def execOvenSampleSecond (level : Bool) (s : State) : Out :=
  .next (
    match s.clocks.ovenFirst with
    | some a =>
      if !s.sampling 32 then s
      else
        let wired : Bool := !(a && !level)
        refreshWarming (wr A.ID_STRAP F.ID_STRAP.OVEN_WIRED (b2n wired) (wr A.ID_STRAP F.ID_STRAP.OVEN_LEVEL (b2n (wired && level))
          (modClk (fun c => { c with ovenDown := !wired }) (modRst (fun r => { r with phase := .straps }) s))))
    | none => s)

/-- tP + 64 µs: the straps and TEST_EN are sampled; with TEST_EN high the device stays in reset (R64, R65, R67). -/
def execStrapSample (boot ring smba : Nat) (ref100 testEn : Bool) (s : State) : Out :=
  .next (
    if s.rst.phase ≠ .straps || !s.sinceP 64 then s
    else
      s |> wr A.ID_STRAP F.ID_STRAP.BOOT boot |> wr A.ID_STRAP F.ID_STRAP.RING_HINT ring
        |> wr A.ID_STRAP F.ID_STRAP.SMBA smba |> wr A.ID_STRAP F.ID_STRAP.REF_SEL (b2n ref100)
        |> wr A.CLK_STATUS F.CLK_STATUS.REF_100 (b2n ref100) |> wr A.XR_STATUS F.XR_STATUS.OWN_POS ring
        |> modRst (fun r => { r with testEn := testEn, phase := if testEn then .testHeld else .sampled })
        |> refreshRing)

/-! ## Release (R450, R452, R457, R459) -/

/-- The source recorded as the cause: of greatest reach, then of lowest number (R450). -/
def State.causeSource (s : State) : Nat :=
  let top := (s.rst.latched.map (·.2)).foldl max 0
  ((s.rst.latched.filter (·.2 = top)).map (·.1)).foldl min 7

/-- The blocks that release sequencing releases, by their clocks: the core die and the front-end dies (R451, R452). -/
def releaseBlocks : List Nat := [uGnomon, uDie 0, uDie 1, uDie 2, uDie 3]

/-- All sources are released: the cause is recorded and release sequencing starts at the latched reach, in umbra mode where four
starts have failed (R450, R457, R459). -/
def execResetReleaseStart (s : State) : Out :=
  .next (
    let ready : Bool := match s.released with | some p => p ≤ s.now | none => false
    let held : Bool := if s.rst.reach = 4 then s.rst.phase = .sampled else s.rst.phase = .held
    if !ready || !held then s
    else
      let cause := s.causeSource
      let umbra : Bool := 4 ≤ s.fails
      let s := recordCause (causeWord s.rst.reach cause false umbra (bitsOf (s.rst.latched.map (·.1))) s.fails
        (kget (fun _ => 0) s.rst.subs cause)) 0 s.rst.stamp s
      let s := modRst (fun r => { r with
        asserted := [], phase := .release, since := s.now, counted := false
        waiting := if umbra then [] else releaseBlocks.map (fun u => (u, s.now)) }) s
      let s := wr A.HL_STATUS F.HL_STATUS.UMBRA (b2n umbra) (wr A.RST_STATUS F.RST_STATUS.UMBRA (b2n umbra) s)
      let s := when (umbra && 3 ≤ s.rst.reach) (modRst (fun r => { r with sysRst := false })) s
      let s := when umbra (fun s => { (leaveRing 0 (wr A.CLK_SPI F.CLK_SPI.DIV 8 (modRst (fun r => { r with ready := false }) s))) with
        link := { s.link with trainable := true } }) s
      refreshLens (refreshRst s))

/-! ## Isolated and site resets (R453 to R455) -/

/-- The classes that an isolated reset takes, with the number of units of each (R454). -/
def isoUnits (cls : Nat) : Nat :=
  match cls with
  | 0x01 => 256 | 0x02 => 16 | 0x03 => 128 | 0x04 => 16 | 0x05 => 8 | 0x06 => 4 | 0x07 => 4 | 0x08 => 32 | 0x09 => 32
  | 0x0A => 32 | 0x0B => 64 | 0x0C => 32 | 0x0F => 16 | 0x11 => 1 | 0x12 => 1 | 0x13 => 1 | 0x14 => 2 | _ => 0

/-- A site halts with cause RESET before it is reset; an armed one is disarmed (R142, R166). -/
def resetHalt (i : Nat) (s : State) : State :=
  if s.active i then haltAt i 11 s.unow 0 s
  else if s.armed i then wr (A.SEQ_SITE_STATE i) F.SEQ_SITE_STATE.CAUSE 11 (disarm i s) else s

/-- The sites that a reset of a unit halts (R454, R455). -/
def State.haltedBy (s : State) (u : Nat) : List Nat :=
  match uclass u with
  | 0x02 => (s.siteOfTile (uindex u)).toList
  | 0x03 => (s.siteOfTile (uindex u / 8)).toList
  | 0x0E => [uindex u]
  | 0x13 => (List.range 16).filter s.reserved
  | _ => []

/-- The idle request: a command core takes no new command; sites that the reset covers halt (R453 to R455). -/
def askIdle (u : Nat) (s : State) : State :=
  let s := forAll (s.haltedBy u) resetHalt s
  when (uclass u = 0x06) (fun s => { s with link := { s.link with coresDown := s.link.coresDown ++ [uindex u] } }) s

/-- RESET (R453 to R455, R459). -/
def execReset (q : Nat) (s : State) : Out :=
  .next (hostCmd q 0x0801
    (fun c s =>
      let reach := bits (c.w 4) 2 0
      let u := (c.w 5).toNat
      if reach = 0 then [u] else if reach = 1 then u :: (s.tilesOf (uindex u)).map uTile else []) (fun c s =>
    let retry := bit (c.w 4) 31
    let reach := bits (c.w 4) 2 0
    let u := (c.w 5).toNat
    let unitOk : Bool := if reach = 0 then isUnit u (uclass u) (isoUnits (uclass u))
      else if reach = 1 then isUnit u 0x0E 16 else u = 0
    checked q [lenIs c 2, resv c 4 30 3, chk (3 < reach) 0x01F1 4, chk (!unitOk) 0x01F1 5,
        chk (s.reachRow.2 / 2 ^ 21 % 8 < reach) 0x01F4 4]
      (checkedU q [chkU (reach = 1 && !s.formed (uindex u)) 0x0311 0 u] (fun s =>
        let s := when retry (wr A.RST_STATUS F.RST_STATUS.FAILS 0) s
        if reach ≤ 1 then
          askIdle u (modRst (fun r => { r with iso := r.iso ++ [{ ring := q, unit := u, since := s.now, stamp := s.coarseNow }] })
            (modCmd q (fun c => { c with stage := 1 }) s))
        else ok q [0] (modCmd q (fun c => { c with after := .software reach }) s))) s) s)

/-- A register belongs to a site, its tiles or their pins (R455). -/
def State.siteRegs (s : State) (i : Nat) (a : Nat) : Bool :=
  let tiles := s.tilesOf i
  (0x300000 + 0x100 * i ≤ a && a < 0x300100 + 0x100 * i)
    || (0x80400 + 0x20 * i ≤ a && a < 0x80420 + 0x20 * i)
    || (0x330400 + 0x20 * i ≤ a && a < 0x330420 + 0x20 * i)
    || tiles.any (fun k => a = A.PL_TILE_PF (s.tileBlock k)
      || (0x100000 + 0x10000 * k ≤ a && a < 0x110000 + 0x10000 * k) || (0x400000 + 0x10000 * k ≤ a && a < 0x410000 + 0x10000 * k))

/-- The reset of a site and its tiles (R455). -/
def resetSite (i : Nat) (s : State) : State :=
  let s := resetRegs 1 (s.siteRegs i) s
  let s := forAll (s.tilesOf i) (fun k => modTile k (fun _ => {})) s
  modSite i (fun _ => {}) s

/-- A command executing on a command core ends with 0x0601 (R454, R99). A profile switch past its commit has its regions reloaded all the
same (R380). -/
def endOnCore (core : Nat) (s : State) : State :=
  let hit := (List.range 8).filter (fun q => ((s.running q).map (fun c => decide (c.core = core))).getD false)
  let reload := hit.any (fun q => ((s.running q).map (fun c => c.opcode = 0x0440 && c.stage = 1)).getD false)
  let s := when reload (forAll [0, 2, 1] bringRegion) (forAll hit coreFault s)
  when (!hit.isEmpty) (report (uCore core) 0x0A keyUnit) s

/-- What an isolated reset does to its block at the reset (R454, R455). -/
def resetUnit (u : Nat) (s : State) : State :=
  let i := uindex u
  match uclass u with
  | 0x01 => openPin i (modPin i (fun p => { p with en := false }) s)
  | 0x04 => forAll (((List.range 16).map (16 * i + ·)).filter (fun n => s.mode n = 2)) (fun n s => openPin n s) s
  | 0x05 => forAll ((List.range 8).map (8 * i + ·)) (fun x s =>
      let n := (kget (fun _ => []) s.results x).length
      bumpBy (A.ME_QUEUE x) F.ME_QUEUE.RES_LOST n (wr (A.ME_QUEUE x) F.ME_QUEUE.FILL 0 { s with results := kdel s.results x })) s
  | 0x06 => endOnCore i s
  | 0x07 => failRest i s
  | 0x08 => if s.awState i = 0 then s else
      modAw i (fun a => { a with start := none, stopAt := [] })
        (stopSeq i 1 (openAw i (when (s.awState i = 3) (countPlayed i s.unow) s)))
  | 0x09 => if s.aqLive i then stopChannel i 2 s.unow s else s
  | 0x0A => if s.tuLive i then modTu i (fun t => { t with stopAt := some s.now }) s else s
  | 0x0B => forAll ((List.range 32).filter (fun k => s.tuLive k && s.tuRouted k i)) loseSource
      (refreshOut i s.unow (modWm i (fun m => { m with held := true }) (monitorLost i s)))
  | 0x0C => if s.pgState i = 0 then s else
      let s := modPg i (fun p => { p with stops := [(s.now, true)] }) s
      stopEngine i (setReg (A.PG_CFG i) (s.reg (A.PG_CFG i) &&& ~~~ (word (2 ^ 26))) s)
  | 0x0E => resetSite i s
  | 0x0F => { s with prism := { s.prism with tioPulse := kdel s.prism.tioPulse i } }
  | 0x14 => if s.xrState = 0 then s else leaveRing 0 s
  | _ => s

/-- A block with an idle request outstanding. -/
def State.isoOf (s : State) (u : Nat) : Option IsoReset := s.rst.iso.find? (fun x => x.unit = u && x.resetAt.isNone)

/-- The block is reset: RST_ISO_LAST, RST_ISO_UNIT, a cause record and a history entry (R453, R457). -/
def isoReset (x : IsoReset) (forced : Bool) (kinds count : Nat) (s : State) : State :=
  let s := resetUnit x.unit s
  let s := s |> wr A.RST_ISO_LAST F.RST_ISO_LAST.FORCED (b2n forced) |> wr A.RST_ISO_LAST F.RST_ISO_LAST.KIND kinds
    |> wr A.RST_ISO_LAST F.RST_ISO_LAST.COUNT (min 0xFFFF count) |> setReg A.RST_ISO_UNIT (word x.unit)
  let reach := if uclass x.unit = 0x0E then 1 else 0
  let s := recordCause (causeWord reach 7 forced false 0 s.fails x.ring) (word x.unit) x.stamp s
  refreshRst (modRst (fun r => { r with
    reach := if r.latched.isEmpty then reach else r.reach
    iso := r.iso.map (fun y => if y = x then { y with resetAt := some s.now } else y) }) s)

/-- The sites that must halt before the reset have halted. -/
def State.quiet (s : State) (u : Nat) : Bool := !(s.haltedBy u).any s.active

/-- A command core still executes a command: it is not idle (R454). -/
def State.coreBusy (s : State) (u : Nat) : Bool :=
  uclass u = 0x06 && (List.range 8).any (fun q => ((s.running q).map (fun c => decide (c.core = uindex u))).getD false)

/-- A block under isolated reset reports idle: it is reset (R453). -/
def execIsoResetIdle (u : Nat) (s : State) : Out :=
  .next (match s.isoOf u with
    | some x => if s.quiet u && !s.coreBusy u then isoReset x false 0 0 s else s
    | none => s)

/-- A block is not idle within TIMEOUT: it is reset all the same, FORCED, with the discarded traffic recorded (R453). -/
def execIsoResetTimeout (u count kinds : Nat) (s : State) : Out :=
  .next (match s.isoOf u with
    | some x => if s.quiet u && x.since + us (s.rd A.RST_ISO_CFG F.RST_ISO_CFG.TIMEOUT) ≤ s.now then isoReset x true kinds count s else s
    | none => s)

/-- The front-end die of a unit that lies on one. -/
def frontDie (u : Nat) : Nat :=
  match uclass u with
  | 0x01 => uindex u / 64
  | 0x04 => uindex u / 4
  | 0x07 => uindex u
  | 0x0B => uindex u / 16
  | _ => uindex u / 8

/-- A block's clock is there: REF present, and the PLL it takes its clock from locked (R452). -/
def State.clocked (s : State) (u : Nat) : Bool :=
  s.flag A.CLK_STATUS F.CLK_STATUS.REF_PRESENT && s.flag A.CLK_STATUS F.CLK_STATUS.MTC_LOCK
    && (if [0x01, 0x04, 0x07, 0x08, 0x09, 0x0A, 0x0B, 0x0C].contains (uclass u) then
          nbit (s.rd A.CLK_STATUS F.CLK_STATUS.FE_LOCK) (frontDie u)
        else s.flag A.CLK_STATUS F.CLK_STATUS.SYS_LOCK)

/-- After an isolated reset the block is released (R454): it serves again. -/
def releaseUnit (u : Nat) (s : State) : State :=
  let i := uindex u
  match uclass u with
  | 0x06 => { s with link := { s.link with coresDown := s.link.coresDown.filter (· ≠ i) } }
  | 0x0B => compareNow i s.unow (modWm i (fun m => { m with held := false, resolving := true }) s)
  | 0x11 => { s with prism := { s.prism with flight := s.prism.flight.filter (fun e => s.now ≤ e.ready) } }
  | 0x14 =>
    let s := when (s.xrState = 0) (wr A.XR_CTRL F.XR_CTRL.STATE 1) s
    when (s.flag A.XR_CTRL F.XR_CTRL.AUTO_JOIN) beginJoin s
  | _ => s

/-- A block leaves reset (R452). Of a device-wide release: the core die once REF is present and the MTC PLL locked, with the
system PLL; a front-end die with its timing PLL. Releasing the core die ends SYS_RST_OUT, lets the PCI Express link train and
puts the Xearn ports into pass-through (R451, R465). Of an isolated reset: 16 FAB cycles after it; the command is answered. -/
def execBlockRelease (u : Nat) (s : State) : Out :=
  .next (
    match s.rst.iso.find? (fun x => x.unit = u && x.resetAt.isSome) with
    | some x =>
      if s.now < x.resetAt.getD 0 + 128 then s
      else if !s.clocked u then
        if s.rst.waiting.any (·.1 = u) then s
        else refreshRst (modRst (fun r => { r with waiting := r.waiting ++ [(u, s.now)] }) s)
      else
        let s := releaseUnit u (modRst (fun r => { r with
          iso := r.iso.filter (· ≠ x), waiting := r.waiting.filter (·.1 ≠ u) }) s)
        refreshRst (ok x.ring [s.reg A.RST_ISO_LAST] s)
    | none =>
      let ref := s.flag A.CLK_STATUS F.CLK_STATUS.REF_PRESENT && s.flag A.CLK_STATUS F.CLK_STATUS.MTC_LOCK
      if s.rst.phase ≠ .release || !s.rst.waiting.any (·.1 = u) || !ref then s
      else
        let s := modRst (fun r => { r with waiting := r.waiting.filter (·.1 ≠ u) }) s
        refreshRst (
          if u = uGnomon then
            let s := { modRst (fun r => { r with sysRst := false }) s with link := { s.link with trainable := true } }
            when (s.xrState = 0) (wr A.XR_CTRL F.XR_CTRL.STATE 1) (wr A.CLK_STATUS F.CLK_STATUS.SYS_LOCK 1 s)
          else
            let d := uindex u % 4
            let s := when (s.rst.reach = 4) (modPower (fun w => { w with
              islandWarm := kset (fun _ => 0) w.islandWarm d (s.now + ms 1200000) })) s
            wr A.CLK_STATUS F.CLK_STATUS.FE_LOCK (s.rd A.CLK_STATUS F.CLK_STATUS.FE_LOCK ||| 2 ^ d) s))

end Sys2Proof.Machine
end

