-- ==== Sys2Proof/Machine/Service.lean ====
section
/-! DEFINITION. Firmware, bring-up, the service record, remapping and retirement, the reset log and its SMBus read-out (R433,
R448, R451, R457 to R464). -/

namespace Sys2Proof.Machine

/-! ## Records in flash (R461, R462) -/

/-- The valid copy of the service record with the higher sequence number. -/
def State.svcRecord (s : State) : Option SvcRecord :=
  let copy (i : Nat) : Option SvcRecord := (kget (fun _ => none) s.flash.service i).filter (·.valid)
  match copy 0, copy 1 with
  | some a, some b => if a.seq < b.seq then some b else some a
  | some a, none => some a
  | none, b => b

/-- The settings in force are written over the older copy of the service record. -/
def writeService (s : State) : State :=
  let seqOf (i : Nat) : Nat := (((kget (fun _ => none) s.flash.service i).filter (·.valid)).map (·.seq + 1)).getD 0
  let i := if seqOf 0 ≤ seqOf 1 then 0 else 1
  let r : SvcRecord := { seq := max (seqOf 0) (seqOf 1), remaps := s.svc.remaps, retired := s.svc.retired, valid := true }
  wr A.SVC_STATUS F.SVC_STATUS.RECORD_VALID 1
    (modFlash (fun f => { f with service := kset (fun _ => none) f.service i (some r) }) s)

def modSvc (f : Service → Service) (s : State) : State := { s with svc := f s.svc }

/-- The service record is applied at bring-up after a reset of reach L3 or greater (R462). -/
def applyService (s : State) : State :=
  refreshService (match s.svcRecord with
    | some r => wr A.SVC_STATUS F.SVC_STATUS.RECORD_VALID 1
        (modSvc (fun v => { v with remaps := r.remaps, retired := r.retired }) s)
    | none => wr A.SVC_STATUS F.SVC_STATUS.RECORD_VALID 0 (modSvc (fun v => { v with remaps := [], retired := [] }) s))

def State.fwSlot (s : State) (i : Nat) : Option FwSlot := kget (fun _ => none) s.flash.fw i

/-- The slot taken at bring-up: of those that verify, the one with the higher SEQ (R461). -/
def State.fwTaken (s : State) : Option Nat :=
  let seqOf (i : Nat) : Nat := (((s.fwSlot i).filter (·.valid)).map (·.seq + 1)).getD 0
  if seqOf 0 = 0 && seqOf 1 = 0 then none else if seqOf 0 < seqOf 1 then some 1 else some 0

/-- The other slot had the higher SEQ and does not verify. -/
def State.fwFallback (s : State) (i : Nat) : Bool :=
  match s.fwSlot i, s.fwSlot (1 - i) with
  | some a, some b => a.seq < b.seq && !b.valid
  | _, _ => false

/-! ## Bring-up (R433, R451, R458, R461) -/

/-- The firmware runs: FW_READY after a reset of reach L2; after a deeper one every channel calibrates its bins (R359, R451). -/
def startFirmware (s : State) : State :=
  let s := modRst (fun r => { r with fwUp := true }) s
  if s.rst.reach = 2 then wr A.HL_STATUS F.HL_STATUS.FW_READY 1 s else forAll (List.range 32) startBincal s

/-- The row "firmware" of R451: the service record is applied, retired pins return to mode 7, and the slot taken runs; with
STRAP_BOOT 0b01 host-boot wait begins (R458); without a valid slot the lock-up source fires (R456). -/
def execBringupFirmwareReady (s : State) : Out :=
  .next (
    if s.rst.phase ≠ .release || !s.rst.waiting.isEmpty || s.rst.fwUp then s
    else if s.umbra then modRst (fun r => { r with fwUp := true }) s
    else
      let s := if 3 ≤ s.rst.reach then applyService s else s
      let s := forAll s.svc.retired (fun n => wr (A.PIN_MODE n) F.PIN_MODE.MODE 7) s
      let s := wr A.PL_STATUS F.PL_STATUS.HBM_READY 1 s
      if s.hostBoot then
        refreshRst (wr A.HL_STATUS F.HL_STATUS.BOOT_WAIT 1 (modRst (fun r => { r with phase := .hostBoot }) s))
      else
        match s.fwTaken with
        | none => fireSource 5 0x11 s
        | some i =>
          let f := (s.fwSlot i).getD { seq := 0, version := 0, native := [], mirror := [], valid := false }
          let s := wr A.FW_SLOT F.FW_SLOT.SLOT_USED (i + 1) s
          let s := when (s.fwFallback i) (raise A.FW_SLOT F.FW_SLOT.FALLBACK) s
          startFirmware (storeImage 1 f.mirror (storeImage 0 f.native
            (modSvc (fun v => { v with fwVersion := f.version, hostFw := false }) s))))

/-- The profile record is read (R378). -/
def loadProfile (s : State) : State :=
  wr A.IL_PROFILE F.IL_PROFILE.RECORD_VALID (b2n s.profRecord.isSome)
    (wr A.IL_PROFILE F.IL_PROFILE.MIRROR (b2n (((s.profRecord.map (·.mirror))).getD false)) s)

/-- The microcode is loaded: Lenmas, patch, open; none with STRAP_BOOT 0b01 (R191). -/
def loadMicrocode (s : State) : State :=
  refreshPersisted (if s.hostBoot then forAll [0, 2, 1] (fun r => emptyRegion r false) s else forAll [0, 2, 1] bringRegion s)

/-- A Lenmas image of the form in force is stored and does not verify (R191). -/
def State.lenmasBad (s : State) : Bool :=
  let m := kget (fun _ => []) s.flash.images (s.imageKey 0)
  !s.hostBoot && !m.isEmpty && !((s.imageFault m m.length false).isNone && imgRegion m = 0)

/-- Bring-up completes: banks, profile record and microcode are loaded; `sfdp` is the smallest CLK_SPI DIV that the flash's SFDP
data allows (R433). A stored Lenmas image that does not verify keeps it from completing (R191). READY rises, also after umbra mode
left it low (R69; DESIGN CHOICE, log entry 92). -/
def execBringupComplete (sfdp : Nat) (s : State) : Out :=
  .next (
    let busy : Bool := (List.range 32).any (fun k => s.flag (A.TU_STATUS k) F.TU_STATUS.BINCAL_BUSY)
    if s.rst.phase ≠ .release || !s.rst.fwUp || busy then s
    else
      let done (s : State) : State := modRst (fun r => { r with latched := [], phase := .running, counted := false }) s
      if s.umbra then refreshLens (refreshRst (done s))
      else
        let deep : Bool := 3 ≤ s.rst.reach
        let fresh : Bool := !s.rst.ready
        let s := when deep loadBanks s
        let s := when deep (fun s => wr A.CLK_SPI F.CLK_SPI.DIV (min 15 (max 2 sfdp)) (modClk (fun c => { c with sfdpMin := sfdp }) s)) s
        let t := loadProfile s
        if t.lenmasBad then s
        else
          let s := loadMicrocode t
          let s := wr A.HL_STATUS F.HL_STATUS.FW_READY 1 s
          let s := when (fresh && s.flag A.XR_CTRL F.XR_CTRL.AUTO_JOIN && s.xrState = 1) beginJoin s
          let s := modRst (fun r => { r with ready := true }) s
          refreshLens (refreshRst (wr A.RST_STATUS F.RST_STATUS.FAILS 0 (done s))))

/-! ## FW_LOAD and REACH_SET (R448, R461) -/

/-- FW_LOAD: `pkg` is the package read from host memory (none: the read failed), `storeOk` whether the flash write succeeds
(R461, R458). -/
def execFwLoad (q : Nat) (pkg : Option FwPackage) (storeOk : Bool) (s : State) : Out :=
  .next (hostCmd q 0x0810 (fun _ _ => []) (fun c s =>
    let run := bit (c.w 4) 2
    let activate := bit (c.w 4) 1
    let store := bit (c.w 4) 0
    let size := (c.w 7).toNat
    let p := pkg.getD { words := [], headerOk := false, version := 0, native := [], mirror := [] }
    checked q [lenIs c 4, resv c 4 31 3, resv c 5 1 0,
        chk ((run && (!s.hostBoot || s.rst.fwUp)) || (activate && !store)) 0x03C6 0]
      (fun s => if s.dmaWaits then s else checked q [
        chk (pkg.isNone || p.words.length < size) 0x0602 0, chk (!p.headerOk) 0x01F2 0,
        chk (!signatureValid (p.words.take size)) 0x0406 0,
        chk (fingerprint (p.words.take size) ≠ Config.bootRomFingerprint) 0x0407 0]
      (fun s =>
        let i := if s.rd A.FW_SLOT F.FW_SLOT.SLOT_USED = 1 then 1 else 0
        let seq := ([0, 1].map (fun i => ((s.fwSlot i).map (·.seq)).getD 0)).foldl max 0 + 1
        let put (v : Option FwSlot) : State → State := modFlash (fun f => { f with fw := kset (fun _ => none) f.fw i v })
        if store && !storeOk then finish q 0x0640 0 [] (put none s)
        else
          let s := when store (wr A.FW_SLOT F.FW_SLOT.SLOT_USED (i + 1) ∘ modSvc (fun v => { v with fwVersion := p.version })
            ∘ put (some ⟨seq, p.version, p.native, p.mirror, true, p.subVendor, p.subsystem⟩)) s
          let s := wr A.RST_STATUS F.RST_STATUS.FAILS 0 s
          let s := when activate (modCmd q (fun c => { c with after := .software 3 })) s
          let s := when run (fun s => startFirmware (wr A.HL_STATUS F.HL_STATUS.BOOT_WAIT 0
            (modSvc (fun v => { v with fwVersion := p.version, hostFw := true })
              (modRst (fun r => { r with phase := .release, since := s.now }) s)))) s
          ok q [word (if store then seq else 0)] (refreshRst s)) s) s) s)

/-- The reach that the fuse may set for a source (R447). -/
def reachAllowed (n r : Nat) : Bool :=
  match n with
  | 0 => r = 4
  | 1 => r = 3 || r = 4
  | 7 => 1 ≤ r && r ≤ 3
  | _ => 2 ≤ r && r ≤ 4

/-- REACH_SET: `burnOk` is whether the fuses program (R448). -/
def execReachSet (q : Nat) (burnOk : Bool) (s : State) : Out :=
  .next (hostCmd q 0x0811 (fun _ _ => []) (fun c s =>
    let t := bits (c.w 4) 23 0
    checked q [lenIs c 1, resv c 4 31 24,
        chk ((List.range 8).any (fun n => !reachAllowed n (t / 2 ^ (3 * n) % 8))) 0x01F0 4,
        chk (7 ≤ s.fuses.reachRows.length) 0x03C4 0]
      (fun s =>
        let s := { s with fuses := { s.fuses with reachRows := s.fuses.reachRows ++ [if burnOk then some t else none] } }
        if burnOk then ok q [] (refreshReach s) else finish q 0x0603 0 [] s) s) s)

/-! ## REMAP (R462, R463) -/

/-- The free spares of a unit, lowest first (R463). -/
def State.spares (s : State) (u : Nat) : List Nat :=
  let taken (l : List Nat) (p : Nat) : Bool := s.svc.remaps.any (fun r => l.contains r.1 && r.2 = p)
  match uclass u with
  | 0x02 => [16].filter (fun p => !taken ((List.range 16).map uTile) p)
  | 0x03 => ((List.range 8).map (128 + ·)).filter (fun p => !taken ((List.range 128).map uLane) p)
  | _ => [8].filter (fun p => !taken ((List.range 8).map (fun i => uTu (8 * (uindex u / 8) + i))) p)

/-- A unit may be remapped now (R463, R269). -/
def State.remapReady (s : State) (u : Nat) : Bool :=
  let free (k : Nat) : Bool := match s.siteOfTile k with | some i => !s.reserved i | none => true
  match uclass u with
  | 0x02 => free (uindex u)
  | 0x03 => free (uindex u / 8)
  | _ => !s.tuLive (uindex u) && !s.flag (A.TU_STATUS (uindex u)) F.TU_STATUS.BINCAL_BUSY

/-- A remap or its undoing takes effect (R463): a tile's first-fail store starts empty, a time-interval section brings its bin
table and skew. -/
def remapUnit (u : Nat) (phys : Option Nat) (hits : List Nat) (s : State) : State :=
  let s := modSvc (fun v => { v with remaps := match phys with
    | some p => v.remaps ++ [(u, p)]
    | none => v.remaps.filter (·.1 ≠ u) }) s
  let i := uindex u
  let s := refreshService (writeService s)
  match uclass u with
  | 0x02 => wr (A.FF_STATUS i) F.FF_STATUS.COUNT 0 (wr (A.FF_STATUS i) F.FF_STATUS.FULL 0 (setReg (A.FF_OVER i) 0
      (modTile i (fun t => { t with store := [] }) s)))
  | 0x0A => refreshTuSkew i (takeBins i hits s)
  | _ => s

/-- REMAP: `hits` are the hits of the bin calibration of a time-interval section that takes over, `recordOk` whether the flash write of
the service record succeeds (R463); the copy of the local segments into the tile that takes over waits for the HBM3 controller (R134), `ce`
words are corrected in it, and `ue` is the 64-byte unit of HBM in which it meets an uncorrectable error (R123, R135). -/
def execRemap (q ce : Nat) (hits : List Nat) (recordOk : Bool) (ue : Option Nat) (env : CommitEnv) (s : State) : Out :=
  .next (hostCmd q 0x0820 (fun c _ => [uid (bits (c.w 4) 23 16) (bits (c.w 4) 15 0)]) (fun c s =>
    let undo := bit (c.w 4) 31
    let cls := bits (c.w 4) 23 16
    let i := bits (c.w 4) 15 0
    let u := uid cls i
    let top := match cls with | 0x02 => 16 | 0x03 => 128 | 0x0A => 32 | _ => 0
    let own := if cls = 0x0A then i % 8 else i
    let mapped : Bool := s.svc.remaps.any (·.1 = u)
    checked q [lenIs c 1, resv c 4 30 24, chk (top ≤ i) 0x01F3 4]
      (checkedU q [chkU s.umbra 0x03C5 0 u, chkU (undo && !mapped) 0x03C3 0 u, chkU (!s.remapReady u) 0x03C0 0 u,
          chkU (!undo && (s.spares u).isEmpty) 0x0260 cls u,
          chkU (cls = 0x0A && hits.any (8192 < ·)) 0x0641 0 u, chkU (!recordOk) 0x0640 0 u]
        (fun s =>
          let phys := if undo then none else (s.spares u).head?
          let copies : Bool := cls = 2
          if copies && s.hbmWaits 5 then s else
          let s := when copies (hbmCorrected ce) s
          match (if copies then ue else none) with
          | some addr => refuseMap q 0x0610 none [u] (hbmError addr s)
          | none =>
            twoPhase q [u] env (fun p => if p u then remapUnit u phys hits else id) (ok q [word (phys.getD own)]) s)) s) s)

/-! ## RETIRE (R462, R464) -/

/-- What senses a pin loses it before the pin is retired: engines that hold its monitors fault, channels stop (R306, R319, R323,
R361). -/
def loseSenses (n : Nat) (s : State) : State :=
  let d := n / 64
  let s := forAll (((List.range 16).map (16 * d + ·)).filter (fun k => s.wmSenses k n)) monitorLost s
  let s := forAll ((List.range 32).filter (fun k => s.aqLive k && s.aqSamples k n)) (fun k s =>
    stopChannel k 3 s.unow (raise (A.AQ_STATUS k) F.AQ_STATUS.SRC_LOST s)) s
  let wms := ((List.range 16).map (16 * d + ·)).filter (fun k => s.wmSenses k n)
  forAll ((List.range 32).filter (fun k => s.tuTakes k n || wms.any (s.tuRouted k))) loseSource s

/-- The pin is retired at this moment (R464). -/
def retirePin (n : Nat) (s : State) : State :=
  let d := n / 64
  let s := loseSenses n s
  let s := changeMode n 7 s
  let s := refreshService (writeService (modSvc (fun v => { v with retired := (v.retired ++ [n]).mergeSort }) s))
  let s := forAll (((List.range 16).map (16 * d + ·)).filter (fun k => s.wmSenses k n)) (fun k s =>
    refreshOut k s.unow (raise (A.WM_STATUS k) F.WM_STATUS.SRC_LOST
      (modWm k (fun m => { m with resolving := true, lost := true }) s))) s
  let here : Bool := (s.rd (A.CAL_EXT d) F.CAL_EXT.TYPE = 1 && s.rd (A.CAL_EXT d) F.CAL_EXT.INDEX = n % 64)
    || (match kget (fun _ => none) s.cal.settle d with | some p => p.2.1 = 1 && p.2.2 = n % 64 | none => false)
  when here (switchBus d 0 0) s

/-- The pin returns to service: mode 0 in the state of R244. -/
def unretirePin (n : Nat) (s : State) : State :=
  let s := refreshService (writeService (modSvc (fun v => { v with retired := v.retired.filter (· ≠ n) }) s))
  let mine (a : Nat) : Bool := a = A.PIN_MODE n || a = A.PIN_STATUS n || (List.range 10).any (fun i => a = A.PIN_LEVEL n i)
  let s := resetRegs 2 mine (wrBoth (A.PIN_DRV n) F.PIN_DRV.PARK 0 s)
  openPin n (modPin n (fun _ => {}) s)

/-- RETIRE: `recordOk` is whether the flash write of the service record succeeds. With HALT set a site that runs is halted
first, and the command goes on once it has halted (R464). -/
def execRetire (q : Nat) (recordOk : Bool) (s : State) : Out :=
  .next (hostCmd q 0x0821 (fun c _ => [uPin (bits (c.w 4) 7 0)]) (fun c s =>
    let undo := bit (c.w 4) 31
    let halt := bit (c.w 4) 30
    let n := bits (c.w 4) 7 0
    let held := s.siteHolds n
    checked q [lenIs c 1, resv c 4 29 8]
      (checkedU q [chkU s.umbra 0x03C5 0 (uPin n)] (fun s =>
        if s.retired n != undo then finish q 0x0001 1 [] s
        else checkedU q [chkU (!undo && (s.gangMember n || s.gangLeader n)) 0x03C2 0 (uPin n),
            chkU (held.isSome && (undo || !halt)) 0x03C1 0 (uSite (held.getD 0))]
          (fun s =>
            match held with
            | some i => hostHalt i s
            | none =>
              if !recordOk then finish q 0x0640 0 [] s
              else ok q [] (if undo then unretirePin n s else retirePin n s)) s)) s) s)

/-! ## The log (R457, R460) -/

/-- History entry `i`, counted back from the newest; zeros where none was written. -/
def State.history (s : State) (i : Nat) : List Word :=
  if s.rd A.RST_HIST_HEAD F.RST_HIST_HEAD.COUNT ≤ i then [0, 0, 0, 0]
  else (List.range 4).map (fun w => s.reg (A.RST_HIST ((s.rd A.RST_HIST_HEAD F.RST_HIST_HEAD.NEWEST + 16 - i) % 16) w))

/-- RST_LOG_READ (R457). -/
def execRstLogRead (q : Nat) (s : State) : Out :=
  .next (hostCmd q 0x0B20 (fun _ _ => []) (fun c s =>
    let n := s.rd A.RST_HIST_HEAD F.RST_HIST_HEAD.COUNT
    checked q [lenIs c 0] (fun s => ok q (word n :: (List.range n).flatMap s.history) s) s) s)

/-- The SMBus target answers but in a reset of reach L3 or L4 and in umbra mode, where R69 releases it (R460). -/
def State.smbusUp (s : State) : Bool :=
  !s.umbra && !(3 ≤ s.rst.reach && [Phase.held, .straps, .sampled, .testHeld].contains s.rst.phase)

/-- The target answers the SMBus address 0x58 + STRAP_SMBA (R64). -/
def State.smbusAnswers (s : State) (target : Nat) : Bool := s.smbusUp && target = 0x58 + s.rd A.ID_STRAP F.ID_STRAP.SMBA

/-- SMBus block read 0x40: the last cause record (R460). -/
def execSmbCauseRead (target : Nat) (s : State) : Out :=
  .next (if s.smbusAnswers target then emit (.smbusBlock ((List.range 4).map (fun w => s.reg (A.RST_CAUSE w)))) s else s)

/-- SMBus block read 0x41 + i: history entry i (R460). -/
def execSmbHistoryRead (target i : Nat) (s : State) : Out :=
  .next (if s.smbusAnswers target && i < 16 then emit (.smbusBlock (s.history i)) s else s)

end Sys2Proof.Machine
end

