-- ==== Sys2Proof/Machine/ConfigSpace.lean ====
section
/-! DEFINITION. The configuration space of the endpoint function (R73, R75, R77). The places of the fields are those of the PCI Express
Base Specification 4.0, which R73 names (PRESUMED, log entry 88); what neither gives is a free value of Config. -/

namespace Sys2Proof.Machine

/-- Put `n` bits of a value at bit `lo` of a word. -/
def putBits (lo n v : Nat) (w : Word) : Word := fset w ⟨lo, n⟩ v

/-- The Subsystem Vendor ID and Subsystem ID: those of the image header of the firmware slot in use; zeros with STRAP_BOOT 0b01 (R73). -/
def State.subsystemIds (s : State) : Nat × Nat :=
  if s.hostBoot then (0, 0)
  else
    let n := s.rd A.FW_SLOT F.FW_SLOT.SLOT_USED
    match (if n = 0 then none else s.fwSlot (n - 1)) with
    | some f => (f.subVendor, f.subsystem)
    | none => (0, 0)

/-- The words of the type 0 header (R73): identity, class, the three 64-bit BARs, the Subsystem IDs, no interrupt pin. `free` is what
the host has written or the spec leaves open. -/
def State.headerWord (s : State) (a : Nat) (free : Word) : Word :=
  match a with
  | 0x00 => word 0x25601D2B
  | 0x04 => putBits 2 1 (b2n s.link.busMaster) (putBits 20 1 1 free)
  | 0x08 => word (0x118000 * 2 ^ 8 + s.rd A.ID_DEVICE F.ID_DEVICE.STEPPING)
  | 0x0C => putBits 16 8 0 free
  | 0x10 => putBits 0 26 4 free
  | 0x18 => putBits 0 28 0xC free
  | 0x20 => putBits 0 12 4 free
  | 0x2C => word (s.subsystemIds.2 * 2 ^ 16 + s.subsystemIds.1)
  | 0x3C => putBits 8 8 0 free
  | _ => free

/-- The words of a capability at an offset from its first (R73, R75, R77): 0 Power Management, 1 MSI-X, 2 PCI Express, 3 Advanced
Error Reporting, 4 Device Serial Number. -/
def State.capabilityWord (s : State) (cap ofs : Nat) (free : Word) : Word :=
  match cap, ofs with
  | 0, 0 => putBits 0 8 1 (putBits 25 2 0 free)
  | 0, 4 => putBits 0 2 (3 * s.rd A.HL_STATUS F.HL_STATUS.D3HOT) (putBits 3 1 1 free)
  | 1, 0 => putBits 0 8 0x11 (putBits 16 11 63 (putBits 30 1 (b2n s.link.msixMask) (putBits 31 1 (b2n s.link.msix) free)))
  | 1, 4 => word 0x18000
  | 1, 8 => word 0x19000
  | 2, 0 => putBits 0 8 0x10 free
  | 2, 4 => putBits 0 3 2 (putBits 28 1 1 free)
  | 2, 0xC => putBits 0 4 4 (putBits 4 6 8 (putBits 10 2 2 free))
  | 2, 0x10 => putBits 16 4 (s.rd A.HL_STATUS F.HL_STATUS.LINK_SPEED) (putBits 20 6 (s.rd A.HL_STATUS F.HL_STATUS.LINK_WIDTH) free)
  | 3, 0 => putBits 0 16 1 free
  | 4, 0 => putBits 0 16 3 free
  | _, _ => free

/-- The number of bytes of a capability that R73 speaks of. -/
def capabilityBytes (cap : Nat) : Nat := match cap with | 0 => 8 | 1 => 12 | 2 => 0x3C | 3 => 0x48 | _ => 12

/-- A word of configuration space. Where each capability lies is left open (DESIGN CHOICE, log entry 93). -/
def State.configWord (s : State) (a : Nat) : Word :=
  let free := Config.configBits a
  if a % 4 ≠ 0 || 4096 ≤ a then 0
  else if a < 0x40 then s.headerWord a free
  else
    match (List.range 5).find? (fun k => Config.capability k ≤ a && a < Config.capability k + capabilityBytes k) with
    | some k => s.capabilityWord k (a - Config.capability k) free
    | none => free

end Sys2Proof.Machine
end

