-- ==== Sys2Proof/Machine/Deliver.lean ====
section
/-! DEFINITION. Delivery of events by the prism: what every consumer does with an event it takes (R387, R388, R391 to R399). -/

namespace Sys2Proof.Machine

/-- A consumer met an event while busy (R396). -/
def overrun (c : Nat) (s : State) : State := raise (A.PR_CSTAT c) F.PR_CSTAT.OVERRUN s

/-- What a list of events that one consumer takes in one FAB cycle becomes: the event and the number merged away (R395). -/
def State.coalesced (s : State) (c : Nat) (es : List Event) : Option (Event × Nat) :=
  let mine := es.filter (s.takes c)
  (merge mine).map (fun e => (e, mine.length - 1))

/-! ## Sites (R159, R163) -/

/-- A START event at an armed site whose stream is primed: it runs, and its cycle 0 starts 640 MTC ticks later (R162, R163). -/
def startByEvent (i : Nat) (e : Event) (s : State) : State :=
  wr (A.SEQ_SITE_STATE i) F.SEQ_SITE_STATE.ARMED 0 <| beginRun i (s.now + 640) <|
    modSite i (fun x => { x with startDue := some (s.now + 640), runGen := e.gen + 1 }) s

/-- An event reaches SITE_IN: the first action that ACT enables and the site's state allows (R159). ACT numbers them FLAG 0,
START 1, RESUME 2, HALT 3, PAUSE 4 (SEQ_EVT_CFG). While the event flag is
set the consumer is busy. -/
def siteIn (i : Nat) (e : Event) (s : State) : State :=
  let act (b : Nat) : Bool := nbit (s.rd (A.SEQ_EVT_CFG i) F.SEQ_EVT_CFG.ACT) b
  if s.evFlag i then overrun i s
  else if act 1 && s.armed i && !(s.site i).priming && (s.site i).startDue.isNone then startByEvent i e s
  else if act 3 && s.active i then haltAt i 4 s.unow (e.gen + 1) s
  else if act 4 && s.runs i then pauseRequest i (e.gen + 1) s
  else if act 2 && s.resumable i then resume i none s
  else if act 0 && s.active i then setEvFlag i true s
  else s

/-! ## Host, TIO and ring consumers (R391, R396 to R399) -/

/-- A host consumer takes an event (R399): its stamp is latched, its pending bit set, and the vector signalled when that bit
becomes set while enabled. -/
def hostIn (h : Nat) (e : Event) (s : State) : State :=
  let p := s.rd A.PR_HOST_PEND F.PR_HOST_PEND.PEND
  let t := wrPair (A.PR_HOST_STAMP_LO h) (A.PR_HOST_STAMP_HI h) e.stamp.coarse
    (raiseBits A.PR_HOST_PEND F.PR_HOST_PEND.PEND (2 ^ h) s)
  if !nbit p h && nbit (s.rd A.PR_HOST_EN F.PR_HOST_EN.EN) h then signal (26 + h) t else t

/-- The output pulse of a TIO pin has not ended (R387). -/
def State.tioBusy (s : State) (n : Nat) : Bool := s.prism.tioPulse.any (fun p => p.1 = n && s.now < p.2.2)

/-- A TIO output rises 10.0 ns (32 ticks) after the delivering FAB cycle and stays high for WIDTH FAB cycles; an input pin
discards (R391, R396, R398). -/
def tioIn (n : Nat) (s : State) : State :=
  if !s.flag (A.PR_TIO n) F.PR_TIO.OUT then s
  else if s.tioBusy n then overrun (48 + n) s
  else
    { s with prism := { s.prism with
        tioPulse := kset (fun _ => (0, 0)) s.prism.tioPulse n
          (s.now + 32, s.now + 32 + 8 * s.rd (A.PR_TIO n) F.PR_TIO.WIDTH) } }

/-- RING_OUT sends an event around the ring with its stamp and generation and is busy for 100 ns (320 ticks); a device that
is not a member sends nothing (R387, R397, R465). -/
def ringOut (n : Nat) (e : Event) (s : State) : State :=
  if s.rd A.XR_CTRL F.XR_CTRL.STATE ≠ 3 then s
  else if s.now < kget (fun _ => 0) s.prism.ringOutFree n then overrun (64 + n) s
  else
    emit (.ringFrame [s.ownPos, n, e.gen, e.stamp.coarse, e.stamp.frac, b2n e.stamp.hasFrac])
      { s with prism := { s.prism with ringOutFree := kset (fun _ => 0) s.prism.ringOutFree n (s.now + 320) } }

/-! ## Inputs of the front-end dies (R388) -/

/-- An event reaches PG_TRIG of an engine: t_go is 128 ns later (R310). -/
def pgTrigIn (j : Nat) (e : Event) (s : State) : State :=
  match s.pgState j with
  | 2 => if (s.pgOf j).go.isSome then s else modPg j (fun p => { p with go := some (s.unow + 512000, e.gen + 1) }) s
  | 3 => inputOverrun (j / 8) (8 + j % 8) s
  | _ => s

/-- An event reaches TU_GATE of a channel: it starts an armed channel, opens a later gate of a frequency measurement, and
meets a busy input while a gate is open (R361, R365). -/
def tuGateIn (k : Nat) (e : Event) (s : State) : State :=
  let s := startBy k s.now s
  let s := closeGates k s.coarseNow (s.gatesBy k s.coarseNow) s
  let t := s.tuOf k
  let gated : Bool := s.tuCtrl k 30 30 = 1
  match s.tuState k with
  | 1 =>
    if gated && t.start.isNone then modTu k (fun t => { t with start := some (s.now + t128), startGen := e.gen + 1 }) s
    else s
  | 2 =>
    if !s.tuFreq k then s
    else if t.gate.isSome || !gated then inputOverrun (k / 8) (48 + k % 8) s
    else if t.openAt.isNone then modTu k (fun t => { t with openAt := some (s.now + t128, e.gen + 1) }) s
    else s
  | _ => s

/-- An event reaches LVL_STROBE_IN of a die: it strobes the groups of LVL_EVT_MASK; the input is busy while a strobe it caused is
held (R240, R241). -/
def strobeIn (d : Nat) (s : State) : State :=
  if kget (fun _ => 0) s.levels.byEvent d ≠ 0 then
    inputOverrun d 56 s
  else strobe true (groupsIn d (s.rd (A.LVL_EVT_MASK d) F.LVL_EVT_MASK.MASK)) s

/-- An event reaches unit input `b` of die `d`, numbered as the bits of TARGET (R388).
TU_IN_A and TU_IN_B give edges only to an input whose source is the prism (R354). -/
def dieInput (d b : Nat) (e : Event) (s : State) : State :=
  let k := 8 * d + b % 8
  let later : Arrival := ⟨s.unow + 512000, e.gen, e.stamp⟩
  match b / 8 with
  | 0 => modAw k (fun a => { a with trigs := a.trigs ++ [later] }) s
  | 1 => pgTrigIn k e s
  | 2 => modPg k (fun p => { p with kills := p.kills ++ [later] }) s
  | 3 => modAq k (fun a => { a with events := a.events ++ [later] }) s
  | 4 => when (bits (s.tuIn k 0) 31 29 = 6)
      (modTu k (fun t => { t with inA := { t.inA with events := t.inA.events ++ [⟨s.unow, e.gen, e.stamp⟩] } })) s
  | 5 => when (bits (s.tuIn k 1) 31 29 = 6)
      (modTu k (fun t => { t with inB := { t.inB with events := t.inB.events ++ [⟨s.unow, e.gen, e.stamp⟩] } })) s
  | 6 => tuGateIn k e s
  | _ => strobeIn d s

/-- The unit that has input `b` of die `d`; the strobe input is the die's own. -/
def inputUnit (d b : Nat) : Nat :=
  let k := 8 * d + b % 8
  match b / 8 with
  | 0 => uAw k
  | 1 | 2 => uPg k
  | 3 => uAq k
  | 4 | 5 | 6 => uTu k
  | _ => uDie d

/-- The events that reach the inputs of a die in one FAB cycle. A unit in an isolated reset discards them uncounted (R453). Those that
reach one input through several lines become one, and PR_DIN_COAL counts those merged away (R388, R395). -/
def dieDeliver (d : Nat) (lines : List (Nat × Event)) (s : State) : State :=
  forAll (List.range 57) (fun b s =>
    let mine := (lines.filter (fun l => nbit (s.target0 (31 * d + l.1)) b)).map (·.2)
    match merge mine with
    | none => s
    | some e =>
      if s.inReset (inputUnit d b) then s
      else dieInput d b e (when (1 < mine.length)
        (bumpBy (A.PR_DIN_COAL d) F.PR_DIN_COAL.VALUE (mine.length - 1)) s)) s

/-! ## One delivering FAB cycle -/

/-- Consumer `c`, below 68, takes the events of this FAB cycle. -/
def consumerIn (c : Nat) (e : Event) (s : State) : State :=
  if c < 16 then siteIn c e s
  else if c < 48 then hostIn (c - 16) e s
  else if c < 64 then tioIn (c - 48) s
  else ringOut (c - 64) e s

/-- Whether this device's TIO consumer discards because its pin is an input: nothing is counted (R396). -/
def State.tioInput (s : State) (c : Nat) : Bool := 48 ≤ c && c < 64 && !s.flag (A.PR_TIO (c - 48)) F.PR_TIO.OUT

/-- A consumer whose unit is in an isolated reset discards its events, and nothing is counted (R453). -/
def State.consumerReset (s : State) (c : Nat) : Bool :=
  if c < 16 then s.inReset (uSite c) else 48 ≤ c && c < 64 && s.inReset (uTio (c - 48))

/-- COALESCE of a consumer counts the events merged away (R395). -/
def countMerged (c n : Nat) (s : State) : State :=
  when (n ≠ 0 && !s.tioInput c) (bumpBy (A.PR_CSTAT c) F.PR_CSTAT.COALESCE n) s

/-- All consumers take their events of one FAB cycle, in ascending order. -/
def deliver (es : List Event) (s : State) : State :=
  let s := forAll (List.range 68) (fun c t =>
    match s.coalesced c es with
    | some (e, n) => if t.consumerReset c then t else consumerIn c e (countMerged c n t)
    | none => t) s
  forAll (List.range 4) (fun d t =>
    let lines := (List.range 31).filterMap (fun l => (s.coalesced (68 + 31 * d + l) es).map (fun x => (l, x)))
    dieDeliver d (lines.map (fun l => (l.1, l.2.1)))
      (forAll lines (fun l t => countMerged (68 + 31 * d + l.1) l.2.2 t) t)) s

/-- The first `n` events that are due, and the others (R391). -/
def splitDue (now : Nat) : Nat → List Event → List Event × List Event
  | _, [] => ([], [])
  | 0, l => ([], l)
  | n + 1, e :: l =>
    if e.ready ≤ now then
      let r := splitDue now n l
      (e :: r.1, r.2)
    else
      let r := splitDue now (n + 1) l
      (r.1, e :: r.2)

/-- The prism delivers in this FAB cycle the first `n` registered events whose delivering FAB cycle may start (R391); in an
isolated reset of the prism they are lost uncounted (R408). -/
def execPrismDeliver (n : Nat) (s : State) : Out :=
  .next (
    let r := splitDue s.now n s.prism.flight
    let t := { s with prism := { s.prism with flight := r.2 } }
    if r.1.isEmpty then s else if s.inReset uPrism then t else deliver r.1 t)

end Sys2Proof.Machine
end

