-- ==== Sys2Proof/Machine/Units.lean ====
section
/-! DEFINITION. Commands that wait: for units held by others (R45, R89) and for the acknowledgements of a commit (R43). -/

namespace Sys2Proof.Machine

/-- The state that a step goes on in. -/
def out (o : Out) : State → State := fun s => match o with | .next t => t | _ => s

/-- A waiting command acquires the units it waited for, in ascending order, as far as no other command holds them; once it has
them all its own row continues it (R45, R89). -/
def execUnitAcquire (q : Nat) (s : State) : Out :=
  .next (
    match s.running q with
    | none => s
    | some c =>
      if c.want.isEmpty then s
      else if (s.conflict q c.want).isSome then modCmd q (fun c => { c with held := s.acquired q c.want }) s
      else modCmd q (fun c => { c with held := c.want, want := [], waitSince := none }) s)

/-- A command that has waited 10 ms for held units ends with 0x0302; a two-phase one over several units carries its unit map,
every unit unchanged (R44, R45). -/
def execUnitWaitTimeout (q : Nat) (s : State) : Out :=
  .next (
    match s.running q with
    | none => s
    | some c =>
      match c.waitSince, s.conflict q c.want with
      | some t, some u =>
        if s.now < t + ms 10 then s
        else
          let units := s.phaseUnits c c.want
          finishU q 0x0302 units.length (units.map (mapWord 0)) u s
      | _, _ => s)

/-- 2 µs after the commit: units that have not acknowledged it have failed at commit, and the request ends (R43). -/
def execCommitAckTimeout (q : Nat) (s : State) : Out :=
  .next (
    match s.running q with
    | none => s
    | some c => if c.ack.isNone || s.now < c.due then s else endCommit q none s)

end Sys2Proof.Machine
end

