-- ==== Sys2Proof/Machine/Access.lean ====
section
/-! DEFINITION. BAR0 writes and reads of registers that have no command of their own (R10 to R13, R109 to R111, R137, R196,
R345). -/

namespace Sys2Proof.Machine

/-! ## Validity of written values (R111) -/

/-- A written DDR format that R229 or R230 refuses. -/
def State.ddrBad (s : State) (n t : Nat) : Bool :=
  s.mode n = 1 || s.mode n = 4 || (s.gradeB && s.periodS (s.govTile (n / 16)) t < 2500) || !s.covers n

/-- TH_HI and TH_LO of a monitor are in range and, where COND uses both, in order (R297, R298). -/
def State.thBad (s : State) (k : Nat) (f : Fld) (w : Word) : Bool :=
  let cfg := s.reg (A.WM_CFG k)
  wmTop (bits cfg 22 22) < fget w f
    || (2 ≤ bits cfg 13 12 && fget w F.WM_TH.TH_HI ≤ fget w F.WM_TH.TH_LO)

/-- The Meaning column of field `f` of register type `r`, instance `i`, marks the value that `w` gives it as invalid. -/
def State.invalid (s : State) (r : RegRow) (i : List Nat) (f : Fld) (w : Word) : Bool :=
  let b := r.base
  let n := i.headD 0
  let m := i.getD 1 0
  let v := fget w f
  if b = A.CLK_SPI then v ≤ 1 || v < s.clocks.sfdpMin
  else if b = A.RST_ISO_CFG then v = 0
  else if b = A.WD_CTRL then f = F.WD_CTRL.TIMEOUT_MS && v = 0
  else if b = A.PW_BLOCK 0 then 4 < v
  else if b = A.TH_LIMIT 0 then
    let critBad : Bool := (critDefault n : Int) < sext 16 (fget w F.TH_LIMIT.CRIT)
    let crit := if critBad then s.rd (A.TH_LIMIT n) F.TH_LIMIT.CRIT else fget w F.TH_LIMIT.CRIT
    if f = F.TH_LIMIT.CRIT then critBad else (throttleDefault n : Int) < sext 16 v || sext 16 crit ≤ sext 16 v
  else if b = A.PR_TIO 0 then f = F.PR_TIO.WIDTH && v = 0 && fget w F.PR_TIO.OUT = 1
  else if b = A.PL_WIN 0 then
    let h := (s.reg (A.PL_WIN_HANDLE n)).toNat
    h ≠ 0 && s.dataBytes h ≤ v * 2 ^ 24
  else if b = A.LVL_PARK 0 then 64000 < v
  else if b = A.FAIL_CFG 0 then
    (f = F.FAIL_CFG.FL_MODE && v = 3) || (s.reserved n && v ≠ s.rd (A.FAIL_CFG n) f)
  else if b = A.PIN_STATE_MAP 0 then badMap v
  else if b = A.PIN_DRV 0 then
    (f = F.PIN_DRV.DWELL && 4 ≤ v) || (f = F.PIN_DRV.SLEW && (v = 0 || 50 < v))
  else if b = A.PIN_LEVEL 0 0 then f = F.PIN_LEVEL.CODE && (!s.codeOk n m v || s.overCeil n m v)
  else if b = A.PIN_FORMAT 0 0 then f = F.PIN_FORMAT.FMT && (6 ≤ v || (v = 5 && s.ddrBad n m))
  else if b = A.CMP_CFG 0 then f ≠ F.CMP_CFG.MASK && s.pinBusy n && v ≠ s.rd (A.CMP_CFG n) f
  else if b = A.AW_CFG 0 then f = F.AW_CFG.DWELL && 4 ≤ v
  else if b = A.AW_IDLE 0 then 32000 < (sext 16 v).natAbs
  else if b = A.WM_TH 0 then s.thBad n f w
  else false

/-! ## Writes -/

/-- Registers whose every written field has a command of its own. -/
def ownRow (b : Nat) : Bool :=
  [A.HL_RING_CFG 0, A.WD_KICK, A.TH_TEMP 0, A.PR_SWFIRE, A.LENS_ACKSEQ, A.PL_WIN_HANDLE 0, A.TSET_PERIOD_LO 0 0,
    A.TSET_PERIOD_HI 0 0, A.TSET_EDGE_LO 0 0 0, A.TSET_EDGE_HI 0 0 0, A.SEQ_SITE_CTRL 0, A.TSET_CTRL 0, A.LVL_STROBE 0,
    A.PG_PER_HI 0, A.PG_WID_HI 0, A.PG_DLY_HI 0].contains b

/-- A two-phase command that waits with its units prepared holds the unit of a register: the ring it runs on (R46). -/
def State.preparer (s : State) (a : Nat) : Option Nat :=
  (List.range 8).find? (fun q => ((s.running q).map (fun c =>
    c.ack.isNone && (s.phaseUnits c c.held).any (fun u => owns u a))).getD false)

/-- A shadow-banked field takes a written value; a command that holds its unit prepared applies or discards it with its own (R46). -/
def writeShadow (a : Nat) (f : Fld) (v : Nat) (s : State) : State :=
  let keep (q : Nat) : State → State := modCmd q (fun c => { c with late := c.late ++ [(a, f, v, s.rdS a f)] })
  wrS a f v (match s.preparer a with
    | some q => keep q s
    | none => s)

/-- One field takes its part of a written word by its access code (R11, R12). A value that a command has written in this FAB cycle
stands (R112). -/
def writeField (a : Nat) (f : FieldRow) (w : Word) (s : State) : State :=
  match f.acc with
  | .rw => if s.commandWrote 0 a f.fld then s else wr a f.fld (fget w f.fld) s
  | .sb => if s.commandWrote 1 a f.fld then s else writeShadow a f.fld (fget w f.fld) s
  | .w1c => clearBits a f.fld (fget w f.fld) s
  | _ => s

/-- The fields of a register take a written word; those of an invalid value keep theirs, and the write is counted (R111). -/
def writeFields (a : Nat) (r : RegRow) (i : List Nat) (w : Word) (s : State) : State :=
  let bad (f : FieldRow) : Bool := (f.acc = .rw || f.acc = .sb) && s.invalid r i f.fld w
  let s' := forAll (r.fields.filter (fun f => !bad f)) (fun f => writeField a f w) s
  when (r.fields.any bad) discard s'

/-- What else a write does: the base registers of a pair are written only while it is stopped (R95); the watchdog counts from its enabling
(R456); messages go out when a vector is unmasked (R93); XR_SEG and XR_BYP write the working set (R411); a TIO pulse ends when OUT is
cleared (R398); FAULT_N follows FN_MASK (R407); a LO word of a pulse engine waits in the write latch (R313); state maps, formats and mask
sets wait in the tile's timing bank (R231, R255); the shadow copy keeps GROUP of PIN_LEVEL and AW_CFG as the live one has it, so that a
strobe sees it as it stood when the FAB cycle began (R240). -/
def writeReg (a : Nat) (r : RegRow) (i : List Nat) (w : Word) (s : State) : State :=
  let b := r.base
  let n := i.headD 0
  let plain := writeFields a r i w
  if ownRow b then s
  else if [A.HL_RING_SQ_LO 0, A.HL_RING_SQ_HI 0, A.HL_RING_CQ_LO 0, A.HL_RING_CQ_HI 0].contains b then
    if s.flag (A.HL_RING_CFG n) F.HL_RING_CFG.ENABLE || !s.flag (A.HL_RING_STATUS n) F.HL_RING_STATUS.STOPPED then s
    else plain s
  else if b = A.WD_CTRL then
    let on := !s.flag A.WD_CTRL F.WD_CTRL.ENABLE && fget w F.WD_CTRL.ENABLE = 1
    when on (fun s => { s with rst := { s.rst with kickAt := s.now } }) (plain s)
  else if b = A.MSIX_CTRL 0 then flushMsix (plain s)
  else if b = A.XR_SEG 0 then setEntries [(uGnomon, 0x0B, n, word (fget w F.XR_SEG.DELAY))] s
  else if b = A.XR_BYP 0 then setEntries [(uGnomon, 0x0B, 32 + n, word (fget w F.XR_BYP.DELAY))] s
  else if b = A.PR_TIO 0 then
    let s := plain s
    if s.flag (A.PR_TIO n) F.PR_TIO.OUT then s
    else { s with prism := { s.prism with tioPulse := kdel s.prism.tioPulse n } }
  else if b = A.LENS_CFG then refreshLens (plain s)
  else if [A.PG_PER_LO 0, A.PG_WID_LO 0, A.PG_DLY_LO 0].contains b then modPg n (fun p => { p with latch := some (a, w) }) s
  else if b = A.PIN_LEVEL 0 0 then
    let s := plain s
    wrS a F.PIN_LEVEL.GROUP (s.rd a F.PIN_LEVEL.GROUP) s
  else if b = A.AW_CFG 0 then
    let s := plain s
    wrS a F.AW_CFG.GROUP (s.rd a F.AW_CFG.GROUP) s
  else if b = A.LE_MASKSET 0 0 then (if i.getD 1 0 = 0 then s else markBank n (plain s))
  else if b = A.PIN_STATE_MAP 0 || b = A.PIN_FORMAT 0 0 then
    when (r.fields.any (fun f => f.acc = .sb && !s.invalid r i f.fld w)) (markBank (n / 16)) (plain s)
  else plain s

/-- A write to BAR4 (R78, R84): of a doorbell; a reserved offset, another alignment and an address beyond the doorbells are discarded. -/
def pageWrite (a : Nat) (w : Word) (s : State) : State :=
  if !s.link.up then s
  else if 0x80 ≤ a then discard s
  else if a % 0x10 = 0 then tailDoorbell (a / 0x10) w s
  else if a % 0x10 = 4 then headDoorbell (a / 0x10) w s
  else discard s

/-- A write of the host that has no row of its own: to a register of BAR0 (R10, R109 to R111), where an address that holds no register
discards it; to the doorbell page, BAR4 (`bar` 4; R78, R84); to a window of BAR2, which is discarded (R137); or to the configuration
space (`bar` 7), whose writable fields that matter have rows of their own (R73). -/
def execRegWrite (bar a : Nat) (w : Word) (s : State) : Out :=
  .next (
    if bar = 4 then pageWrite a w s
    else if bar = 2 then (if s.link.up then discard s else s)
    else if bar = 0 then
      barWrite (.regWrite bar a w) a (fun s =>
        match findReg a with
        | some (r, i) => writeReg a r i w s
        | none => discard s) s
    else s)

/-! ## Reads -/

/-- The gnomon count is latched for GN_NOW_HI (R345). -/
def latchNow (s : State) : State := { s with gn := { s.gn with latch := s.count } }

/-- Read of GN_NOW_LO: the whole count is latched and its low word returned (R345). -/
def execGnNowLoRead (s : State) : Out :=
  .next (if s.link.up then emit (.readData A.GN_NOW_LO (word s.count)) (latchNow s) else s)

/-- What a register shows that mirrors live state which other fields keep. -/
def State.mirrored (s : State) (r : RegRow) (i : List Nat) : State :=
  let n := i.headD 0
  if r.base = A.ID_DEVICE then setReg A.ID_DEVICE s.deviceId s
  else if r.base = A.CAL_UNIT_STATE 0 then wr (A.CAL_UNIT_STATE n) F.CAL_UNIT_STATE.STATE (s.calState (calUnit n)) s
  else if r.base = A.TU_STATUS 0 then wr (A.TU_STATUS n) F.TU_STATUS.BIN_STALE (b2n (s.binStale n)) s
  else if r.base = A.GN_STATUS then refreshSync (refreshWarming s)
  else if r.base = A.RST_STATUS then refreshRst s
  else if r.base = A.GN_NOW_HI then setReg A.GN_NOW_HI (word (s.gn.latch / 2 ^ 32)) s
  else s

/-- The value of a field that a read returns: shadow-banked fields show the shadow copy, WO fields 0, and an RC field the
value before the updates of this FAB cycle (R11, R12). -/
def State.readField (s : State) (a : Nat) (f : FieldRow) : Nat :=
  match f.acc with
  | .sb => s.rdS a f.fld
  | .wo => 0
  | .rc => s.rcValue a f.fld
  | _ => s.rd a f.fld

/-- A read clears an RC field to its reset value and keeps the updates of this FAB cycle (R11, R12). -/
def clearField (a : Nat) (i : List Nat) (f : FieldRow) (s : State) : State :=
  if f.acc = .rc then rcClear a f.fld (f.rst.value i) s else s

/-- A read of BAR0 or BAR2 where no register is: a control-store window, a local-memory window, or 0 (R10, R137, R196). -/
def readMem (r : WinRead) (s : State) : State :=
  match (if r.bar = 0 then s.storeRead r.addr else none) with
  | some w => emit (.readData r.addr w) s
  | none => windowRead r s

/-- The register at an address is read; FAULT_N follows a LENS_LOST that is cleared (R407). -/
def readReg (a : Nat) (r : RegRow) (i : List Nat) (s : State) : State :=
  let t := s.mirrored r i
  let v := r.fields.foldl (fun w f => fset w f.fld (t.readField a f)) 0
  when (r.base = A.LENS_LOST) refreshLens (emit (.readData a v) (forAll r.fields (clearField a i) t))

/-- A read of the host: BAR0 (`bar` 0), a window of BAR2, BAR4, which reads 0 (R78), or the configuration space of the function
(`bar` 7; R73). RC fields are returned and cleared; every other register is returned (R10 to R12); the read of a block in reset waits
(R453). A window's read meets `ce` corrected
words and, with `ue`, an uncorrectable error in HBM (R135). -/
def execRegReadClear (bar a ce : Nat) (ue : Bool) (s : State) : Out :=
  .next (
    if !s.link.up then s
    else if bar = 7 then emit (.configData a (s.configWord a)) s
    else if bar = 4 then emit (.readData a 0) s
    else if bar = 0 && a = A.GN_NOW_LO then emit (.readData a (word s.count)) (latchNow s)
    else if bar = 0 && (s.fabricWait a).isSome then holdAccess ((s.fabricWait a).getD 0) (.regReadClear bar a ce ue) s
    else match (if bar = 0 then findReg a else none) with
      | some (r, i) => readReg a r i s
      | none => readMem ⟨bar, a, ce, ue⟩ s)

end Sys2Proof.Machine
end

