-- ==== Sys2Proof/Machine/Tap.lean ====
section
/-! DEFINITION. The test access port (R467, R447). -/

namespace Sys2Proof.Machine

/-- The scan cells by the signals of R57: how many balls a group has, whether IEEE 1149.6 covers them, and whether the device can drive
them. The cells stand in the table's order (DESIGN CHOICE, log entry 92). Pin channels, AWO, AWS, AIN, sense and CALB balls have none
(R467). -/
def scanGroups : List (String × Nat × Bool × Bool) := [
  ("PGO", 32, false, true), ("PERST_N", 1, false, false), ("XI", 10, true, false), ("XO", 10, true, true),
  ("REFIN", 2, true, false), ("REFOUT", 2, true, true), ("OVEN_WARM", 1, false, false), ("TIO", 16, false, true),
  ("SPI_SCK, SPI_CS_N", 2, false, true), ("SPI_IO", 4, false, true), ("SMB_SCL, SMB_SDA", 2, false, true),
  ("SMB_ALERT_N", 1, false, true), ("NRST_IN", 1, false, false), ("SYS_RST_OUT, READY", 2, false, true), ("FAULT_N", 1, false, true)]

/-- The cells one by one: (a PGO ball, under IEEE 1149.6, can be driven). -/
def scanCells : List (Bool × Bool × Bool) :=
  scanGroups.flatMap (fun g => List.replicate g.2.1 (decide (g.1 = "PGO"), g.2.2.1, g.2.2.2))

/-- A pattern for the boundary register: one bit for each cell. -/
def cellBits (l : List Bool) : List Bool := (List.range scanCells.length).map (fun i => (l[i]?).getD false)

/-- What a scan cell does to its ball: nothing, so that the device drives it; a level; or high impedance. -/
inductive BallDrive where
  | system | level (b : Bool) | highZ
  deriving DecidableEq, Repr

/-- What cell `i` does to its ball: HIGHZ leaves the PGO balls low (R467). -/
def State.ballDrive (s : State) (i : Nat) : BallDrive :=
  match scanCells[i]? with
  | some (pgo, _, drives) =>
    if !drives then .system
    else match s.tap.drive with
      | .system => .system
      | .cells => .level ((s.tap.cells[i]?).getD false)
      | .highZ => if pgo then .level false else .highZ
  | none => .system

/-- The cells whose balls a pulse or train test exercises: the AC-coupled pairs that the device drives (R61, R467). -/
def State.acTested (s : State) (i : Nat) : Bool :=
  s.tap.acTest && (match scanCells[i]? with | some (_, ac, drives) => ac && drives | none => false)

/-- An instruction is loaded: SYS_RESET, if it was there, no longer asserts the debug source (R447). -/
def tapLoad (ir : Nat) (f : Tap → Tap) (s : State) : State :=
  let s := if s.assertedNow.contains 6 then dropSource 6 s else s
  { s with tap := f { s.tap with ir := ir, acTest := false } }

/-- EXTEST: the boundary register drives the scanned balls and samples them as `seen`. -/
def execExtest (seen : List Bool) (s : State) : Out :=
  .next (tapLoad 0x00 (fun t => { t with dr := .boundary, drive := .cells, sampled := cellBits seen }) s)

/-- SAMPLE/PRELOAD: the scanned balls are sampled as `seen`, the cells preloaded, and nothing is driven. -/
def execSamplePreload (seen cells : List Bool) (s : State) : Out :=
  .next (tapLoad 0x01 (fun t => { t with dr := .boundary, drive := .system, sampled := cellBits seen, cells := cellBits cells }) s)

/-- The identification register of stepping B0. -/
def idcode : Nat := 0x2256098B

/-- IDCODE: the identification register is selected. -/
def execIdcode (s : State) : Out :=
  .next (emit (.tapData idcode) (tapLoad 0x02 (fun t => { t with dr := .ident, drive := .system }) s))

/-- CLAMP: the preloaded values are driven, the bypass register is selected. -/
def execClamp (s : State) : Out := .next (tapLoad 0x03 (fun t => { t with dr := .bypass, drive := .cells }) s)

/-- HIGHZ: the scanned outputs are high-impedance, the PGO balls low. -/
def execHighz (s : State) : Out := .next (tapLoad 0x04 (fun t => { t with dr := .bypass, drive := .highZ }) s)

/-- EXTEST_PULSE: the pulse test of IEEE 1149.6 on the AC-coupled pairs. -/
def execExtestPulse (seen : List Bool) (s : State) : Out :=
  .next (tapLoad 0x05 (fun t => { t with dr := .boundary, drive := .cells, acTest := true, sampled := cellBits seen }) s)

/-- EXTEST_TRAIN: the train test of IEEE 1149.6 on the AC-coupled pairs. -/
def execExtestTrain (seen : List Bool) (s : State) : Out :=
  .next (tapLoad 0x06 (fun t => { t with dr := .boundary, drive := .cells, acTest := true, sampled := cellBits seen }) s)

/-- SYS_RESET held in Run-Test/Idle asserts the debug source until another instruction is loaded (R447). -/
def execSysReset (s : State) : Out :=
  .next (
    let s := { s with tap := { s.tap with ir := 0x40, dr := .bypass, drive := .system, acTest := false } }
    if s.assertedNow.contains 6 then s else assertSource 6 0 none s)

/-- BYPASS, and every code that R467 does not list: the one-bit bypass register. -/
def execBypass (code : Nat) (s : State) : Out :=
  .next (
    if (code ≤ 0x06 || code = 0x40) && code ≠ 0xFF then s
    else tapLoad (code % 256) (fun t => { t with dr := .bypass, drive := .system }) s)

/-- The test access port is reset by TRST_N or by the TMS sequence; IDCODE is then the instruction, as IEEE 1149.1 has it. -/
def execTapReset (s : State) : Out := .next (tapLoad 0x02 (fun _ => { ir := 0x02, dr := .ident }) s)

end Sys2Proof.Machine
end

