-- ==== Sys2Proof/Machine/Dispatch.lean ====
section
/-! DEFINITION. The dispatch: one arm for each command, one direct call of its meaning. -/

namespace Sys2Proof.Machine

def exec (i : Instr) (s : State) : Host.Outcome State Fault Refusal :=
  match i with
  | .nop q => Sys2Proof.Machine.execNop q s
  | .identify q => Sys2Proof.Machine.execIdentify q s
  | .sessionOpen q => Sys2Proof.Machine.execSessionOpen q s
  | .sessionClose q => Sys2Proof.Machine.execSessionClose q s
  | .keyProvision q burned => Sys2Proof.Machine.execKeyProvision q burned s
  | .keyRevoke q burned => Sys2Proof.Machine.execKeyRevoke q burned s
  | .keyStatus q => Sys2Proof.Machine.execKeyStatus q s
  | .patternLoad q ce data ue env => Sys2Proof.Machine.execPatternLoad q ce data ue env s
  | .patternFree q => Sys2Proof.Machine.execPatternFree q s
  | .placeReport q => Sys2Proof.Machine.execPlaceReport q s
  | .bufferAlloc q => Sys2Proof.Machine.execBufferAlloc q s
  | .bufferFree q => Sys2Proof.Machine.execBufferFree q s
  | .measPlace q => Sys2Proof.Machine.execMeasPlace q s
  | .measRelease q => Sys2Proof.Machine.execMeasRelease q s
  | .windowBind q => Sys2Proof.Machine.execWindowBind q s
  | .ledgerRead q => Sys2Proof.Machine.execLedgerRead q s
  | .siteForm q env => Sys2Proof.Machine.execSiteForm q env s
  | .siteDissolve q env => Sys2Proof.Machine.execSiteDissolve q env s
  | .runStart q env => Sys2Proof.Machine.execRunStart q env s
  | .runPause q env => Sys2Proof.Machine.execRunPause q env s
  | .runResume q env => Sys2Proof.Machine.execRunResume q env s
  | .runStep q => Sys2Proof.Machine.execRunStep q s
  | .runHalt q env => Sys2Proof.Machine.execRunHalt q env s
  | .runJump q => Sys2Proof.Machine.execRunJump q s
  | .runStatus q => Sys2Proof.Machine.execRunStatus q s
  | .ucLoad q data signerOk kept env => Sys2Proof.Machine.execUcLoad q data signerOk kept env s
  | .ucClear q env => Sys2Proof.Machine.execUcClear q env s
  | .ucStatus q => Sys2Proof.Machine.execUcStatus q s
  | .tsetPeriod q env => Sys2Proof.Machine.execTsetPeriod q env s
  | .tsetEdges q env => Sys2Proof.Machine.execTsetEdges q env s
  | .tsetRead q => Sys2Proof.Machine.execTsetRead q s
  | .tsetApply q env => Sys2Proof.Machine.execTsetApply q env s
  | .pinModeSet q env => Sys2Proof.Machine.execPinModeSet q env s
  | .levelSet q env => Sys2Proof.Machine.execLevelSet q env s
  | .levelStrobe q env => Sys2Proof.Machine.execLevelStrobe q env s
  | .levelRead q => Sys2Proof.Machine.execLevelRead q s
  | .formatSet q env => Sys2Proof.Machine.execFormatSet q env s
  | .pinMapSet q env => Sys2Proof.Machine.execPinMapSet q env s
  | .gangSet q => Sys2Proof.Machine.execGangSet q s
  | .hvLimitSet q env => Sys2Proof.Machine.execHvLimitSet q env s
  | .cmpCfgSet q env => Sys2Proof.Machine.execCmpCfgSet q env s
  | .maskSet q env => Sys2Proof.Machine.execMaskSet q env s
  | .failCfgSet q => Sys2Proof.Machine.execFailCfgSet q s
  | .failRead q bad => Sys2Proof.Machine.execFailRead q bad s
  | .failSummary q => Sys2Proof.Machine.execFailSummary q s
  | .pmuSet q env => Sys2Proof.Machine.execPmuSet q env s
  | .pmuMeasure q env => Sys2Proof.Machine.execPmuMeasure q env s
  | .awSet q env => Sys2Proof.Machine.execAwSet q env s
  | .awSegLoad q data => Sys2Proof.Machine.execAwSegLoad q data s
  | .awSeqLoad q => Sys2Proof.Machine.execAwSeqLoad q s
  | .awRun q env => Sys2Proof.Machine.execAwRun q env s
  | .awStop q env => Sys2Proof.Machine.execAwStop q env s
  | .awJump q => Sys2Proof.Machine.execAwJump q s
  | .wmSet q env => Sys2Proof.Machine.execWmSet q env s
  | .pgSet q => Sys2Proof.Machine.execPgSet q s
  | .pgListLoad q => Sys2Proof.Machine.execPgListLoad q s
  | .pgStart q env => Sys2Proof.Machine.execPgStart q env s
  | .pgStop q env => Sys2Proof.Machine.execPgStop q env s
  | .pgClear q env => Sys2Proof.Machine.execPgClear q env s
  | .aqSet q => Sys2Proof.Machine.execAqSet q s
  | .aqArm q env => Sys2Proof.Machine.execAqArm q env s
  | .aqForce q env => Sys2Proof.Machine.execAqForce q env s
  | .aqStop q env => Sys2Proof.Machine.execAqStop q env s
  | .aqRead q ce bad => Sys2Proof.Machine.execAqRead q ce bad s
  | .tuSet q => Sys2Proof.Machine.execTuSet q s
  | .tuArm q env => Sys2Proof.Machine.execTuArm q env s
  | .tuStop q env => Sys2Proof.Machine.execTuStop q env s
  | .tuRead q => Sys2Proof.Machine.execTuRead q s
  | .tuBincal q env => Sys2Proof.Machine.execTuBincal q env s
  | .xrDelaySet q => Sys2Proof.Machine.execXrDelaySet q s
  | .profileSet q recordOk env => Sys2Proof.Machine.execProfileSet q recordOk env s
  | .prismSet q => Sys2Proof.Machine.execPrismSet q s
  | .prismConsSet q => Sys2Proof.Machine.execPrismConsSet q s
  | .prismFire q => Sys2Proof.Machine.execPrismFire q s
  | .prismTioSet q => Sys2Proof.Machine.execPrismTioSet q s
  | .lensRead q => Sys2Proof.Machine.execLensRead q s
  | .lensAck q => Sys2Proof.Machine.execLensAck q s
  | .calRun q env => Sys2Proof.Machine.execCalRun q env s
  | .calWrite q env => Sys2Proof.Machine.execCalWrite q env s
  | .calRead q => Sys2Proof.Machine.execCalRead q s
  | .calStore q left => Sys2Proof.Machine.execCalStore q left s
  | .calStatus q => Sys2Proof.Machine.execCalStatus q s
  | .calExt q => Sys2Proof.Machine.execCalExt q s
  | .powerBudgetSet q => Sys2Proof.Machine.execPowerBudgetSet q s
  | .powerFloorSet q => Sys2Proof.Machine.execPowerFloorSet q s
  | .powerStatus q => Sys2Proof.Machine.execPowerStatus q s
  | .thermalSet q => Sys2Proof.Machine.execThermalSet q s
  | .reset q => Sys2Proof.Machine.execReset q s
  | .fwLoad q pkg storeOk => Sys2Proof.Machine.execFwLoad q pkg storeOk s
  | .reachSet q burnOk => Sys2Proof.Machine.execReachSet q burnOk s
  | .remap q ce hits recordOk ue env => Sys2Proof.Machine.execRemap q ce hits recordOk ue env s
  | .retire q recordOk => Sys2Proof.Machine.execRetire q recordOk s
  | .ringCtrl q => Sys2Proof.Machine.execRingCtrl q s
  | .rstLogRead q => Sys2Proof.Machine.execRstLogRead q s
  | .smbHistoryRead target x => Sys2Proof.Machine.execSmbHistoryRead target x s
  | .extest seen => Sys2Proof.Machine.execExtest seen s
  | .samplePreload seen cells => Sys2Proof.Machine.execSamplePreload seen cells s
  | .extestPulse seen => Sys2Proof.Machine.execExtestPulse seen s
  | .extestTrain seen => Sys2Proof.Machine.execExtestTrain seen s
  | .bypass code => Sys2Proof.Machine.execBypass code s
  | .sqTailDoorbell q v => Sys2Proof.Machine.execSqTailDoorbell q v s
  | .cqHeadDoorbell q v => Sys2Proof.Machine.execCqHeadDoorbell q v s
  | .ringEnable q w => Sys2Proof.Machine.execRingEnable q w s
  | .ringDisable q w => Sys2Proof.Machine.execRingDisable q w s
  | .siteCtrlPause x => Sys2Proof.Machine.execSiteCtrlPause x s
  | .siteCtrlResume x => Sys2Proof.Machine.execSiteCtrlResume x s
  | .siteCtrlHalt x => Sys2Proof.Machine.execSiteCtrlHalt x s
  | .siteCtrlStep x => Sys2Proof.Machine.execSiteCtrlStep x s
  | .evSet x => Sys2Proof.Machine.execEvSet x s
  | .seqJumpReq x seg => Sys2Proof.Machine.execSeqJumpReq x seg s
  | .tsetCtrlApply k => Sys2Proof.Machine.execTsetCtrlApply k s
  | .tsetEntryLoWrite a w => Sys2Proof.Machine.execTsetEntryLoWrite a w s
  | .tsetEntryHiWrite a w => Sys2Proof.Machine.execTsetEntryHiWrite a w s
  | .pgTimingHiWrite j w v => Sys2Proof.Machine.execPgTimingHiWrite j w v s
  | .lvlStrobeGo d mask => Sys2Proof.Machine.execLvlStrobeGo d mask s
  | .plWinWrite w v => Sys2Proof.Machine.execPlWinWrite w v s
  | .prSwfireWrite w => Sys2Proof.Machine.execPrSwfireWrite w s
  | .lensAckseqWrite w => Sys2Proof.Machine.execLensAckseqWrite w s
  | .wdKick key => Sys2Proof.Machine.execWdKick key s
  | .trippedClear k => Sys2Proof.Machine.execTrippedClear k s
  | .regReadClear bar a ce ue => Sys2Proof.Machine.execRegReadClear bar a ce ue s
  | .regWrite bar a w => Sys2Proof.Machine.execRegWrite bar a w s
  | .commandFetch q entry packet => Sys2Proof.Machine.execCommandFetch q entry packet s
  | .unitAcquire q => Sys2Proof.Machine.execUnitAcquire q s
  | .unitWaitTimeout q => Sys2Proof.Machine.execUnitWaitTimeout q s
  | .commitAckTimeout q => Sys2Proof.Machine.execCommitAckTimeout q s
  | .completionWrite q written => Sys2Proof.Machine.execCompletionWrite q written s
  | .cqIrqTimeout q => Sys2Proof.Machine.execCqIrqTimeout q s
  | .streamPrimeDone q ce ues => Sys2Proof.Machine.execStreamPrimeDone q ce ues s
  | .armedStart x => Sys2Proof.Machine.execArmedStart x s
  | .resumeStart x => Sys2Proof.Machine.execResumeStart x s
  | .refillRequest k ctrl => Sys2Proof.Machine.execRefillRequest k ctrl s
  | .refillComplete k ctrl err ofs addr => Sys2Proof.Machine.execRefillComplete k ctrl err ofs addr s
  | .scrubStep ce ues => Sys2Proof.Machine.execScrubStep ce ues s
  | .routineDispatch x parityOk => Sys2Proof.Machine.execRoutineDispatch x parityOk s
  | .microwordExec x parityOk => Sys2Proof.Machine.execMicrowordExec x parityOk s
  | .microWatchdog x => Sys2Proof.Machine.execMicroWatchdog x s
  | .cycleRead x lm => Sys2Proof.Machine.execCycleRead x lm s
  | .cycleTake x => Sys2Proof.Machine.execCycleTake x s
  | .compareOutcome x l faults => Sys2Proof.Machine.execCompareOutcome x l faults s
  | .failLogWrite x => Sys2Proof.Machine.execFailLogWrite x s
  | .failLogHeader x => Sys2Proof.Machine.execFailLogHeader x s
  | .sitePark x => Sys2Proof.Machine.execSitePark x s
  | .prismDeliver n => Sys2Proof.Machine.execPrismDeliver n s
  | .ringEventReceive origin n gen coarse frac hasFrac => Sys2Proof.Machine.execRingEventReceive origin n gen coarse frac hasFrac s
  | .tioInputEdge n rising => Sys2Proof.Machine.execTioInputEdge n rising s
  | .tioPulseEnd n => Sys2Proof.Machine.execTioPulseEnd n s
  | .tickFire k => Sys2Proof.Machine.execTickFire k s
  | .levelDacUpdate close => Sys2Proof.Machine.execLevelDacUpdate close s
  | .switchClose u => Sys2Proof.Machine.execSwitchClose u s
  | .pinModeDisconnect n => Sys2Proof.Machine.execPinModeDisconnect n s
  | .modeBusyClear n => Sys2Proof.Machine.execModeBusyClear n s
  | .rangeBreakOpen u => Sys2Proof.Machine.execRangeBreakOpen u s
  | .rangeBusyClear u => Sys2Proof.Machine.execRangeBusyClear u s
  | .currentLimitOnset u => Sys2Proof.Machine.execCurrentLimitOnset u s
  | .pinDwellExpire n => Sys2Proof.Machine.execPinDwellExpire n s
  | .pmuDwellExpire n => Sys2Proof.Machine.execPmuDwellExpire n s
  | .awDwellExpire k => Sys2Proof.Machine.execAwDwellExpire k s
  | .senseOpenDetect u => Sys2Proof.Machine.execSenseOpenDetect u s
  | .pmuServoTick n sensed => Sys2Proof.Machine.execPmuServoTick n sensed s
  | .pmuSample q samples => Sys2Proof.Machine.execPmuSample q samples s
  | .pmuMeasureDone q => Sys2Proof.Machine.execPmuMeasureDone q s
  | .awBoundary k => Sys2Proof.Machine.execAwBoundary k s
  | .awTrigPresent k => Sys2Proof.Machine.execAwTrigPresent k s
  | .awJumpPresent k => Sys2Proof.Machine.execAwJumpPresent k s
  | .wmInputCrossing k v => Sys2Proof.Machine.execWmInputCrossing k v s
  | .wmSettleExpire k => Sys2Proof.Machine.execWmSettleExpire k s
  | .eclipseClose k => Sys2Proof.Machine.execEclipseClose k s
  | .wmTapUpdate k mean => Sys2Proof.Machine.execWmTapUpdate k mean s
  | .pgGo j => Sys2Proof.Machine.execPgGo j s
  | .pgLeadingEdge j => Sys2Proof.Machine.execPgLeadingEdge j s
  | .pgTrailingEdge j => Sys2Proof.Machine.execPgTrailingEdge j s
  | .pgTrip j => Sys2Proof.Machine.execPgTrip j s
  | .pgFault j => Sys2Proof.Machine.execPgFault j s
  | .pgKill j => Sys2Proof.Machine.execPgKill j s
  | .pgServoTick j => Sys2Proof.Machine.execPgServoTick j s
  | .aqTrigger k => Sys2Proof.Machine.execAqTrigger k s
  | .aqRecordComplete k => Sys2Proof.Machine.execAqRecordComplete k s
  | .aqForceAct k => Sys2Proof.Machine.execAqForceAct k s
  | .aqTrigEvent k => Sys2Proof.Machine.execAqTrigEvent k s
  | .tuMeasureStart k => Sys2Proof.Machine.execTuMeasureStart k s
  | .tuEdge k b rising tick bin => Sys2Proof.Machine.execTuEdge k b rising tick bin s
  | .tuWindowClose k => Sys2Proof.Machine.execTuWindowClose k s
  | .tuGateClose k => Sys2Proof.Machine.execTuGateClose k s
  | .bincalAuto d => Sys2Proof.Machine.execBincalAuto d s
  | .bincalDone k hits => Sys2Proof.Machine.execBincalDone k hits s
  | .syncFrameSend frac => Sys2Proof.Machine.execSyncFrameSend frac s
  | .syncFrameReceive origin up stamp residence map onTime frac through => Sys2Proof.Machine.execSyncFrameReceive origin up stamp residence map onTime frac through s
  | .ovenLevelChange level => Sys2Proof.Machine.execOvenLevelChange level s
  | .clockWindowCheck n count lost => Sys2Proof.Machine.execClockWindowCheck n count lost s
  | .linkLaneLoss d => Sys2Proof.Machine.execLinkLaneLoss d s
  | .lensRemoteIncident words => Sys2Proof.Machine.execLensRemoteIncident words s
  | .powerStateEval b => Sys2Proof.Machine.execPowerStateEval b s
  | .powerStateEnterDone b => Sys2Proof.Machine.execPowerStateEnterDone b s
  | .powerStateExitDone b => Sys2Proof.Machine.execPowerStateExitDone b s
  | .tempRead temps => Sys2Proof.Machine.execTempRead temps s
  | .thermalShutdown k => Sys2Proof.Machine.execThermalShutdown k s
  | .railFault rail => Sys2Proof.Machine.execRailFault rail s
  | .calGroupEnd d results => Sys2Proof.Machine.execCalGroupEnd d results s
  | .calWarmExpire d => Sys2Proof.Machine.execCalWarmExpire d s
  | .isoResetIdle u => Sys2Proof.Machine.execIsoResetIdle u s
  | .isoResetTimeout u count kinds => Sys2Proof.Machine.execIsoResetTimeout u count kinds s
  | .brownOut rail => Sys2Proof.Machine.execBrownOut rail s
  | .fwWatchdogExpire core => Sys2Proof.Machine.execFwWatchdogExpire core s
  | .doubleException core => Sys2Proof.Machine.execDoubleException core s
  | .waitClkTimeout u => Sys2Proof.Machine.execWaitClkTimeout u s
  | .ovenSampleFirst level => Sys2Proof.Machine.execOvenSampleFirst level s
  | .ovenSampleSecond level => Sys2Proof.Machine.execOvenSampleSecond level s
  | .strapSample boot ring smba ref100 testEn => Sys2Proof.Machine.execStrapSample boot ring smba ref100 testEn s
  | .blockRelease u => Sys2Proof.Machine.execBlockRelease u s
  | .bringupComplete sfdp => Sys2Proof.Machine.execBringupComplete sfdp s
  | .digitizerSample k raws => Sys2Proof.Machine.execDigitizerSample k raws s
  | .tuGateOpen k => Sys2Proof.Machine.execTuGateOpen k s
  | .currentLimitEnd u => Sys2Proof.Machine.execCurrentLimitEnd u s
  | .calExtSettled d => Sys2Proof.Machine.execCalExtSettled d s
  | .pcieLinkUp speed width => Sys2Proof.Machine.execPcieLinkUp speed width s
  | .smbCauseRead target => Sys2Proof.Machine.execSmbCauseRead target s
  | .idcode => Sys2Proof.Machine.execIdcode s
  | .clamp => Sys2Proof.Machine.execClamp s
  | .highz => Sys2Proof.Machine.execHighz s
  | .sysReset => Sys2Proof.Machine.execSysReset s
  | .tapReset => Sys2Proof.Machine.execTapReset s
  | .gnNowLoRead => Sys2Proof.Machine.execGnNowLoRead s
  | .windowWrite => Sys2Proof.Machine.execWindowWrite s
  | .perstAssert => Sys2Proof.Machine.execPerstAssert s
  | .perstRelease => Sys2Proof.Machine.execPerstRelease s
  | .functionLevelReset => Sys2Proof.Machine.execFunctionLevelReset s
  | .d3hotEnter => Sys2Proof.Machine.execD3hotEnter s
  | .d0Return => Sys2Proof.Machine.execD0Return s
  | .busMasterDisable => Sys2Proof.Machine.execBusMasterDisable s
  | .busMasterEnable => Sys2Proof.Machine.execBusMasterEnable s
  | .msixEnable mask => Sys2Proof.Machine.execMsixEnable mask s
  | .commandStart => Sys2Proof.Machine.execCommandStart s
  | .strobeHeldRelease => Sys2Proof.Machine.execStrobeHeldRelease s
  | .awRunStart => Sys2Proof.Machine.execAwRunStart s
  | .awStopAct => Sys2Proof.Machine.execAwStopAct s
  | .pgStopAct => Sys2Proof.Machine.execPgStopAct s
  | .aqStopAct => Sys2Proof.Machine.execAqStopAct s
  | .tuStopAct => Sys2Proof.Machine.execTuStopAct s
  | .ringStep => Sys2Proof.Machine.execRingStep s
  | .syncTimeout => Sys2Proof.Machine.execSyncTimeout s
  | .xiLockLost => Sys2Proof.Machine.execXiLockLost s
  | .warmExpire => Sys2Proof.Machine.execWarmExpire s
  | .refMissing => Sys2Proof.Machine.execRefMissing s
  | .refPresent => Sys2Proof.Machine.execRefPresent s
  | .holdoverExpire => Sys2Proof.Machine.execHoldoverExpire s
  | .mtcPllLock => Sys2Proof.Machine.execMtcPllLock s
  | .lensReportProcess => Sys2Proof.Machine.execLensReportProcess s
  | .lensIncidentClose => Sys2Proof.Machine.execLensIncidentClose s
  | .claimQueueGrant => Sys2Proof.Machine.execClaimQueueGrant s
  | .profileReloadDone => Sys2Proof.Machine.execProfileReloadDone s
  | .softwareSourceAssert => Sys2Proof.Machine.execSoftwareSourceAssert s
  | .powerOn => Sys2Proof.Machine.execPowerOn s
  | .nrstInLow => Sys2Proof.Machine.execNrstInLow s
  | .nrstInHigh => Sys2Proof.Machine.execNrstInHigh s
  | .hostWatchdogExpire => Sys2Proof.Machine.execHostWatchdogExpire s
  | .fabricTimeout => Sys2Proof.Machine.execFabricTimeout s
  | .startTimeout => Sys2Proof.Machine.execStartTimeout s
  | .resetSourceAssert => Sys2Proof.Machine.execResetSourceAssert s
  | .resetReleaseStart => Sys2Proof.Machine.execResetReleaseStart s
  | .bringupFirmwareReady => Sys2Proof.Machine.execBringupFirmwareReady s

end Sys2Proof.Machine
end

