-- ==== Sys2Proof/Machine/Fabric.lean ====
section
/-! DEFINITION. Register accesses that waited in the fabric for a block in reset (R453). -/

namespace Sys2Proof.Machine

/-- What a command answers, where it answers a next state. -/
def run (c : Instr) (s : State) : State :=
  match exec c s with
  | .next t => t
  | _ => s

/-- An access that waited is made: it has passed the host link and the register window already (R453). -/
def replay (s : State) (c : Instr) : State :=
  let t := run c (wr A.HL_CTRL F.HL_CTRL.WINDOW_RW 1 { s with link := { s.link with up := true } })
  setReg A.HL_CTRL (s.reg A.HL_CTRL) { t with link := { t.link with up := s.link.up } }

/-- After the release of their block the accesses that waited for it are made in their order (R453). -/
def serveFabric (s : State) : State :=
  let (wait, free) := s.rst.fabric.partition (fun x => s.resetUnits.any (fun u => u = x.1))
  free.foldl (fun s x => replay s x.2) { s with rst := { s.rst with fabric := wait } }

end Sys2Proof.Machine
end

