-- ==== Sys2Proof/Machine/Step.lean ====
section
/-! DEFINITION. One step of the device: the command at the front of the queue takes effect; with no command waiting, one FAB cycle
passes. -/

namespace Sys2Proof.Machine

/-- One step (DESIGN CHOICE, log entry 1). With an empty queue accesses that waited in the fabric are made, and the clock advances by one
FAB cycle (R453; DESIGN CHOICE, log entry 2). -/
def step (s : State) : Host.Outcome State Fault Refusal :=
  match s.pending with
  | [] => .next (passCycle (serveFabric s))
  | c :: rest => exec c { s with pending := rest }

/-- The command table gives its rows no bits, so no word spells a command and the queue stays as it is. -/
def State.withFetchWord (s : State) (nbits w : Nat) : State :=
  match decodeTableWord nbits w with
  | some c => { s with pending := c :: s.pending }
  | none => s

end Sys2Proof.Machine
end

