-- ==== Sys2Proof/Safety.lean ====
section
/-! DEFINITION. The vocabulary of the claims: a ring that runs a command, units that are free and awake, a reply, and what an
outcome leaves unchanged. -/

namespace Sys2Proof.Machine

/-- Ring `q` runs the command `c` with opcode `op`, at its first stage; it has no reply yet, it waits for no acknowledgement, so that
it has no unit prepared in which the host could write, and no host-link reset has met it (R46, R87, R96, R113). -/
abbrev State.serves (s : State) (q op : Nat) (c : Cmd) : Prop :=
  (s.ring q).run = some c ∧ c.reply = none ∧ c.opcode = op ∧ c.ack = none ∧ c.stage = 0 ∧ c.orphan = false ∧ c.late = []

/-- No other command holds one of the units, and every power-managed block they need operates (R89, R381). -/
abbrev State.ready (s : State) (q : Nat) (us : List Nat) : Prop :=
  s.conflict q us = none ∧ ∀ b ∈ us.flatMap s.blocksOf, s.asleep b = false

/-- From `s` to `t` the command `c` of ring `q` has ended: it has its reply and holds nothing; the rest of the ring pair
and every other ring pair are unchanged (R97). -/
abbrev State.replies (s t : State) (q : Nat) (c : Cmd) (status detail : Nat) (results : List Word) : Prop :=
  t.ring q = { s.ring q with run := some { c with
    held := [], want := [], waitSince := none, reply := some ⟨status, detail, t.coarseNow, results⟩ } }
  ∧ ∀ r, r ≠ q → t.ring r = s.ring r

/-- What a check refuses with, if it refuses. -/
def refusal {α β : Type} : Except α β → Option α
  | .error e => some e
  | .ok _ => none

/-- Every live register outside the list reads the same in `t` as in `s`. -/
abbrev State.keepsRegs (s t : State) (l : List Nat) : Prop := ∀ a, a ∉ l → t.reg a = s.reg a

/-- From `s` to `t` reset source `n` has been asserted with a SUB until `till` (none: until it is released); the reset
controller has not yet taken it (R447, R450). -/
abbrev State.raises (s t : State) (n sub : Nat) (till : Option Nat) : Prop :=
  t.rst.asserted = s.rst.asserted.filter (·.1 ≠ n) ++ [(n, till)] ∧ t.rst.news = s.rst.news.filter (· ≠ n) ++ [n]
  ∧ kget (fun _ => 0) t.rst.subs n = sub ∧ nbit (t.rd A.RST_STATUS F.RST_STATUS.ASSERTED) n = true
  ∧ ∀ a, a ≠ A.RST_STATUS → t.reg a = s.reg a

/-- No timing bank that a site has captured holds an entry that equals what an unlisted address reads as (R209). -/
abbrev Site.Tabled (x : Site) : Prop := ∀ b ∈ x.banks, ∀ p ∈ b, p.2 ≠ resetWord p.1

/-- The register tables are in canonical form: addresses rise, no entry equals what an unlisted address reads as, and so it is with the
timing banks that sites have captured, also where a commit that waits for acknowledgements would put a site back (R10 to R13, R43,
R209). -/
def State.Tabled (s : State) : Prop :=
  KWf resetWord s.regs ∧ KWf resetWord s.shadow ∧ KWf resetWord s.regs0 ∧ KWf resetWord s.shadow0
  ∧ (∀ v ∈ s.saves, ∀ x ∈ v.2.sites, x.2.Tabled) ∧ ∀ i, (s.site i).Tabled

/-- Every event in flight has a generation from 0 to 7 (R394). -/
def State.Calm (s : State) : Prop := ∀ e ∈ s.prism.flight, e.gen ≤ 7

/-- The environment of a two-phase request in which every unit prepares and acknowledges its commit (R42, R43). -/
abbrev allWell : CommitEnv := {}

end Sys2Proof.Machine
end

