-- ==== Sys2Proof/Certificates/Slice0/Obligations.lean ====
section
/-! DEFINITION. The statements for the provers: what each command and event does from every state that meets its conditions, what it leaves
unchanged, and what holds of the whole machine. -/

open Sys2Proof Sys2Proof.Machine

/-- A step takes the command at the front of the queue and runs it with the queue's rest (log entry 1). -/
def Obligations.StepRunsFront : Prop :=
  ∀ (c : Instr) (rest : List Instr) (s : State),
    step { s with pending := c :: rest } = exec c { s with pending := rest }

/-- NOP echoes its payload and changes nothing else; IDENTIFY answers ten words: the grade in word 0, MIRROR in bit 0 of word 1, the
firmware version in word 2, the serial numbers in words 4 to 8 and the pins in service in word 9; KEY_STATUS answers the slots' states,
two bits each, and a key check value of 0 for a slot that is not provisioned. None of the three changes anything but its ring. -/
def Obligations.IdentityCommandsReply : Prop :=
  (∀ (s : State) (q : Nat) (c : Cmd), s.serves q 0x0000 c →
    ∃ (t : State), exec (.nop q) s = .next t ∧ s.replies t q c 0 0 (c.words 4 c.payload) ∧ { t with rings := s.rings } = s)
  ∧ (∀ (s : State) (q : Nat) (c : Cmd), s.serves q 0x0001 c → c.payload = 0 → s.fuses.serials.length = 5 →
    ∃ (t : State) (res : List Word), exec (.identify q) s = .next t ∧ s.replies t q c 0 0 res ∧ { t with rings := s.rings } = s
      ∧ res.length = 10 ∧ fget (wd res 0) F.ID_DEVICE.GRADE = s.fuses.grade % 256
      ∧ (wd res 1).toNat % 2 = s.rd A.IL_PROFILE F.IL_PROFILE.MIRROR
      ∧ wd res 2 = word s.svc.fwVersion ∧ (res.drop 4).take 5 = s.fuses.serials.map word
      ∧ wd res 9 = word (256 - s.rd A.SVC_STATUS F.SVC_STATUS.RETIRED))
  ∧ (∀ (s : State) (q : Nat) (c : Cmd), s.serves q 0x0905 c → c.payload = 0 →
    ∃ (t : State) (res : List Word), exec (.keyStatus q) s = .next t ∧ s.replies t q c 0 0 res ∧ { t with rings := s.rings } = s
        ∧ res.length = 5
      ∧ ∀ (k : Nat), k < 4 → bits (wd res 0) (2 * k + 1) (2 * k) = (s.keySlot k).state.code
        ∧ ((s.keySlot k).state ≠ .provisioned → wd res (1 + k) = 0))

/-- SESSION_OPEN opens a session on its ring for a provisioned slot: a nonce that is not 0, a last accepted counter of 0, the slot shown
by HL_RING_SEC with OPEN 1 and FAIL_COUNT 0, the nonce in the two result words. SESSION_CLOSE closes an open one (status 0x0000), and
answers 0x0001 with DETAIL 1 where none is open. Keys, other rings' sessions and every other register are unchanged. -/
def Obligations.SessionCommands : Prop :=
  (∀ (s : State) (q : Nat) (c : Cmd), q < 8 → s.serves q 0x0901 c → c.payload = 1 → bits (c.w 4) 31 2 = 0 →
    (s.keySlot (bits (c.w 4) 1 0)).state = .provisioned →
    ∃ (t : State) (nonce : Nat), exec (.sessionOpen q) s = .next t ∧ 0 < nonce ∧ nonce < 2 ^ 64
      ∧ (t.ring q).session = some ⟨nonce, bits (c.w 4) 1 0, 0⟩
      ∧ ((t.ring q).run.bind (·.reply)) = some ⟨0, 0, t.coarseNow, [word nonce, word (nonce / 2 ^ 32)]⟩
      ∧ t.rd (A.HL_RING_SEC q) F.HL_RING_SEC.OPEN = 1 ∧ t.rd (A.HL_RING_SEC q) F.HL_RING_SEC.SLOT = bits (c.w 4) 1 0
      ∧ t.rd (A.HL_RING_SEC q) F.HL_RING_SEC.FAIL_COUNT = 0
      ∧ { t with rings := s.rings, regs := s.regs, fab := s.fab, fresh := s.fresh } = s
      ∧ s.keepsRegs t [A.HL_RING_SEC q] ∧ ∀ (r : Nat), r < 8 → r ≠ q → t.ring r = s.ring r)
  ∧ (∀ (s : State) (q : Nat) (c : Cmd), q < 8 → s.serves q 0x0902 c → c.payload = 0 → (s.ring q).session.isSome →
    ∃ (t : State), exec (.sessionClose q) s = .next t ∧ (t.ring q).session = none
      ∧ ((t.ring q).run.bind (·.reply)) = some ⟨0, 0, t.coarseNow, []⟩
      ∧ t.rd (A.HL_RING_SEC q) F.HL_RING_SEC.OPEN = 0
      ∧ { t with rings := s.rings, regs := s.regs, fab := s.fab } = s
      ∧ s.keepsRegs t [A.HL_RING_SEC q] ∧ ∀ (r : Nat), r < 8 → r ≠ q → t.ring r = s.ring r)
  ∧ (∀ (s : State) (q : Nat) (c : Cmd), s.serves q 0x0902 c → c.payload = 0 → (s.ring q).session = none →
    ∃ (t : State), exec (.sessionClose q) s = .next t ∧ s.replies t q c 0x0001 1 [] ∧ { t with rings := s.rings } = s)

/-- KEY_PROVISION writes the key into a blank slot, which is then provisioned, and answers the key check value; where the fuses fail the
slot is revoked and the answer is 0x0603 with the slot number (R107). KEY_REVOKE revokes a provisioned slot, where another one is
provisioned; the key goes, and the sessions on the slot close, once the reply is written. Every other slot is unchanged. -/
def Obligations.KeyCommands : Prop :=
  (∀ (s : State) (q : Nat) (c : Cmd) (k : Nat), s.serves q 0x0903 c → c.payload = 9 → c.w 4 = word k → k < 4 →
      (s.keySlot k).state = .blank →
    ∃ (t : State), exec (.keyProvision q true) s = .next t
      ∧ t.keySlot k = ⟨.provisioned, (c.words 5 8).flatMap wordBytes⟩
      ∧ (∀ (j : Nat), j < 4 → j ≠ k → t.keySlot j = s.keySlot j)
      ∧ s.replies t q c 0 0 [keyCheckValue ((c.words 5 8).flatMap wordBytes)]
      ∧ t.rd A.HL_STATUS F.HL_STATUS.BOOTSTRAP = 0
      ∧ { t with rings := s.rings, regs := s.regs, fab := s.fab, keys := s.keys } = s
      ∧ s.keepsRegs t [A.HL_STATUS, A.UC_SIGNER 0, A.UC_SIGNER 1, A.UC_SIGNER 2, A.UC_SIGNER 3])
  ∧ (∀ (s : State) (q : Nat) (c : Cmd) (k : Nat), s.serves q 0x0903 c → c.payload = 9 → c.w 4 = word k → k < 4 →
      (s.keySlot k).state = .blank →
    ∃ (t : State), exec (.keyProvision q false) s = .next t ∧ t.keySlot k = ⟨.revoked, []⟩
      ∧ (∀ (j : Nat), j < 4 → j ≠ k → t.keySlot j = s.keySlot j)
      ∧ s.replies t q c 0x0603 k [] ∧ { t with rings := s.rings, keys := s.keys } = s)
  ∧ (∀ (s : State) (q : Nat) (c : Cmd) (k : Nat), s.serves q 0x0904 c → c.payload = 1 → c.w 4 = word k → k < 4 →
      (s.keySlot k).state = .provisioned →
    (∃ (j : Nat), j < 4 ∧ j ≠ k ∧ (s.keySlot j).state = .provisioned) →
    ∃ (t : State), exec (.keyRevoke q true) s = .next t ∧ t.keySlot k = ⟨.revoked, (s.keySlot k).key⟩
      ∧ (∀ (j : Nat), j < 4 → j ≠ k → t.keySlot j = s.keySlot j)
      ∧ s.replies t q { c with after := .closeSlot k } 0 0 []
      ∧ { t with rings := s.rings, regs := s.regs, fab := s.fab, keys := s.keys } = s
      ∧ s.keepsRegs t [A.UC_SIGNER 0, A.UC_SIGNER 1, A.UC_SIGNER 2, A.UC_SIGNER 3])

/-- PRISM_SET gives every enable bit the value of the last record that names it; every other enable bit, and everything else, is
unchanged. PRISM_CONS_SET gives KMASK, and for a die line the target mask, the values of the last record that names the consumer;
nothing else changes. -/
def Obligations.PrismSettings : Prop :=
  (∀ (s : State) (q : Nat) (c : Cmd) (n : Nat), q < 8 → s.serves q 0x0A01 c → s.ready q [uPrism] → c.w 4 = word n → 0 < n → n ≤ 4096 →
      c.payload = 1 + n →
    (∀ (i : Nat), i < n → bits (c.w (5 + i)) 30 24 = 0 ∧ bits (c.w (5 + i)) 15 8 = 0 ∧ bits (c.w (5 + i)) 7 0 < 192
      ∧ (s.bitHeld (bits (c.w (5 + i)) 23 16) (bits (c.w (5 + i)) 7 0) = true →
          s.joined (bits (c.w (5 + i)) 23 16) (bits (c.w (5 + i)) 7 0) = bit (c.w (5 + i)) 31)) →
    ∃ (t : State), exec (.prismSet q) s = .next t ∧ s.replies t q c 0 0 []
      ∧ (∀ (p : Nat), p < 256 → ∀ (k : Nat), k < 192 → t.joined p k = (List.range n).foldl (fun b i =>
          if bits (c.w (5 + i)) 23 16 = p ∧ bits (c.w (5 + i)) 7 0 = k then bit (c.w (5 + i)) 31 else b) (s.joined p k))
      ∧ { t with rings := s.rings, regs := s.regs, fab := s.fab } = s
      ∧ ∀ (a : Nat), (∀ (k j : Nat), k < 192 → j < 8 → a ≠ A.PR_EN k j) → t.reg a = s.reg a)
  ∧ (∀ (s : State) (q : Nat) (c : Cmd) (n : Nat), q < 8 → s.serves q 0x0A02 c → s.ready q [uPrism] → c.w 4 = word n → 0 < n → n ≤ 192 →
      c.payload = 1 + 3 * n →
    (∀ (i : Nat), i < n → bits (c.w (5 + 3 * i)) 31 16 = 0 ∧ bits (c.w (5 + 3 * i)) 11 8 = 0 ∧ bits (c.w (7 + 3 * i)) 31 25 = 0
      ∧ bits (c.w (5 + 3 * i)) 7 0 < 192
      ∧ (bits (c.w (5 + 3 * i)) 7 0 < 68 → c.w (6 + 3 * i) = 0 ∧ c.w (7 + 3 * i) = 0)
      ∧ (s.flag (A.PR_CCFG (bits (c.w (5 + 3 * i)) 7 0)) F.PR_CCFG.HELD = true →
        s.rd (A.PR_CCFG (bits (c.w (5 + 3 * i)) 7 0)) F.PR_CCFG.KMASK = bits (c.w (5 + 3 * i)) 15 12
        ∧ (68 ≤ bits (c.w (5 + 3 * i)) 7 0 → s.target (bits (c.w (5 + 3 * i)) 7 0 - 68)
            = (c.w (6 + 3 * i)).toNat + 2 ^ 32 * (c.w (7 + 3 * i)).toNat))) →
    ∃ (t : State), exec (.prismConsSet q) s = .next t ∧ s.replies t q c 0 0 []
      ∧ (∀ (k : Nat), k < 192 → t.rd (A.PR_CCFG k) F.PR_CCFG.KMASK = (List.range n).foldl (fun b i =>
          if bits (c.w (5 + 3 * i)) 7 0 = k then bits (c.w (5 + 3 * i)) 15 12 else b) (s.rd (A.PR_CCFG k) F.PR_CCFG.KMASK))
      ∧ (∀ (x : Nat), x < 124 → t.target x = (List.range n).foldl (fun b i =>
          if bits (c.w (5 + 3 * i)) 7 0 = 68 + x then (c.w (6 + 3 * i)).toNat + 2 ^ 32 * (c.w (7 + 3 * i)).toNat else b)
          (s.target x))
      ∧ { t with rings := s.rings, regs := s.regs, fab := s.fab } = s)

/-- Software events (R399). PRISM_FIRE sets the masked producers to fire in the next FAB cycle where AT is 0, and in the first FAB cycle
at or after AT where that is to come; nothing but its ring and this setting changes. When its cycle has come a producer registers its
event, with that cycle's stamp, as does a write of PR_SWFIRE in its own; either is delivered no earlier than one FAB cycle after, FIRED
counts, and generation and kind are 0. A write of PR_SWFIRE acts where BAR0 takes it: the link up, the window writable, the prism in no
isolated reset (R74, R109, R453). -/
def Obligations.SoftwareEventsFire : Prop :=
  (∀ (s : State) (q : Nat) (c : Cmd) (m : Nat), q < 8 → s.serves q 0x0A03 c → s.ready q [uPrism] → c.payload = 3 → c.w 4 = word m →
      0 < m → m < 256 → c.w 5 = 0 → c.w 6 = 0 →
    (∀ x ∈ s.prism.later, s.now < x.1) →
    ∃ (t : State), exec (.prismFire q) s = .next t ∧ s.replies t q c 0 0 []
      ∧ t.prism = { s.prism with later := s.prism.later ++ (bitList 8 m).map (fun n => (s.now + 8, 240 + n)) }
      ∧ { t with rings := s.rings, prism := s.prism } = s)
  ∧ (∀ (s : State) (q : Nat) (c : Cmd) (m at_ : Nat), q < 8 → s.serves q 0x0A03 c → s.ready q [uPrism] → c.payload = 3 → c.w 4 = word m →
      0 < m → m < 256 →
    (c.w 5).toNat + 2 ^ 32 * (c.w 6).toNat = at_ → s.coarseNow < at_ → (∀ x ∈ s.prism.later, s.now < x.1) →
    ∃ (t : State), exec (.prismFire q) s = .next t ∧ s.replies t q c 0 0 []
      ∧ t.prism = { s.prism with
          later := s.prism.later ++ (bitList 8 m).map (fun n => ((s.now + (at_ - s.coarseNow) + 7) / 8 * 8, 240 + n)) }
      ∧ { t with rings := s.rings, prism := s.prism } = s)
  ∧ (∀ (s : State) (r n : Nat), s.prism.later = [(r, 240 + n)] → n < 8 → r ≤ s.now →
    (registerDue s).prism = { s.prism with
        later := [], flight := s.prism.flight ++ [⟨240 + n, 0, 0, { coarse := s.coarseOf r }, r + 8⟩] }
      ∧ (registerDue s).rd (A.PR_PSTAT (240 + n)) F.PR_PSTAT.FIRED
        = min (2 ^ F.PR_PSTAT.FIRED.width - 1) (s.rd (A.PR_PSTAT (240 + n)) F.PR_PSTAT.FIRED + 1)
      ∧ { registerDue s with regs := s.regs, prism := s.prism } = s ∧ s.keepsRegs (registerDue s) [A.PR_PSTAT (240 + n)])
  ∧ (∀ (s : State) (w : Word), s.link.up = true → s.flag A.HL_CTRL F.HL_CTRL.WINDOW_RW = true → s.fabricWait A.PR_SWFIRE = none →
    ∃ (t : State), exec (.prSwfireWrite w) s = .next t
      ∧ t.prism.flight = s.prism.flight ++
          (bitList 8 (bits w 7 0)).map (fun n => ⟨240 + n, 0, 0, { coarse := s.coarseNow }, s.now + 8⟩)
      ∧ { t.prism with flight := s.prism.flight } = s.prism
      ∧ { t with regs := s.regs, prism := s.prism } = s
      ∧ s.keepsRegs t ((List.range 8).map (fun n => A.PR_PSTAT (240 + n))))

/-- PRISM_TIO_SET gives each named pin its settings, and a pin whose OUT is cleared loses its pulse in progress; an edge selected by
EDGE fires the pin's producer, delivered no earlier than three FAB cycles later; a pulse that has ended frees the output. Other
producers: a TICK fires once for each multiple of its period, in order, registered at that count and stamped with it; a ring event of
another member fires its RING producer with the sender's stamp and the next generation, and one that has reached generation 8 is dropped
and marks a loop (R386, R394, R397). -/
def Obligations.EventProducers : Prop :=
  (∀ (s : State) (q : Nat) (c : Cmd) (n : Nat), q < 8 → s.serves q 0x0A04 c → c.w 4 = word n → 0 < n → n ≤ 16 → c.payload = 1 + n →
    s.ready q ((List.range n).map (fun i => uTio (bits (c.w (5 + i)) 31 28))) →
    (∀ (i : Nat), i < n → bits (c.w (5 + i)) 27 18 = 0 ∧ bits (c.w (5 + i)) 7 1 = 0
        ∧ (bit (c.w (5 + i)) 0 = true → bits (c.w (5 + i)) 15 8 ≠ 0)) →
    ∃ (t : State), exec (.prismTioSet q) s = .next t ∧ s.replies t q c 0 0 []
      ∧ (∀ (k : Nat), k < 16 →
        t.rd (A.PR_TIO k) F.PR_TIO.EDGE = (List.range n).foldl (fun b i =>
          if bits (c.w (5 + i)) 31 28 = k then bits (c.w (5 + i)) 17 16 else b) (s.rd (A.PR_TIO k) F.PR_TIO.EDGE)
        ∧ t.rd (A.PR_TIO k) F.PR_TIO.WIDTH = (List.range n).foldl (fun b i =>
          if bits (c.w (5 + i)) 31 28 = k then bits (c.w (5 + i)) 15 8 else b) (s.rd (A.PR_TIO k) F.PR_TIO.WIDTH)
        ∧ t.rd (A.PR_TIO k) F.PR_TIO.OUT = (List.range n).foldl (fun b i =>
          if bits (c.w (5 + i)) 31 28 = k then bits (c.w (5 + i)) 0 0 else b) (s.rd (A.PR_TIO k) F.PR_TIO.OUT))
      ∧ { t with rings := s.rings, regs := s.regs, fab := s.fab, prism := s.prism } = s
      ∧ s.keepsRegs t ((List.range 16).map A.PR_TIO))
  ∧ (∀ (s : State) (n : Nat) (rising : Bool), n < 16 → s.flag (A.PR_TIO n) F.PR_TIO.OUT = false →
    (s.rd (A.PR_TIO n) F.PR_TIO.EDGE = 3 ∨ (s.rd (A.PR_TIO n) F.PR_TIO.EDGE = 1 ∧ rising = true)
      ∨ (s.rd (A.PR_TIO n) F.PR_TIO.EDGE = 2 ∧ rising = false)) →
    ∃ (t : State), exec (.tioInputEdge n rising) s = .next t
      ∧ t.prism = { s.prism with flight := s.prism.flight ++ [⟨32 + n, 0, 0, { coarse := s.coarseNow }, s.now + 24⟩] }
      ∧ { t with regs := s.regs, prism := s.prism } = s ∧ s.keepsRegs t [A.PR_PSTAT (32 + n)])
  ∧ (∀ (s : State) (n rise due : Nat), s.prism.tioPulse.find? (·.1 = n) = some (n, rise, due) → due ≤ s.now →
    ∃ (t : State), exec (.tioPulseEnd n) s = .next t ∧ t.tioBusy n = false ∧ (∀ (m : Nat), m < 16 → m ≠ n → t.tioBusy m = s.tioBusy m)
      ∧ { t with prism := s.prism } = s)
  ∧ (∀ (s : State) (k m : Nat), k < 3 → s.gn.running = true → kget (fun _ => 0) s.prism.nextTick k = m → m * tickPeriod k ≤ s.count →
    ∃ (t : State), exec (.tickFire k) s = .next t
      ∧ t.prism.flight = s.prism.flight ++
          [⟨253 + k, 0, 0, { coarse := m * tickPeriod k }, s.now - (s.count - m * tickPeriod k) + 16⟩]
      ∧ kget (fun _ => 0) t.prism.nextTick k = m + 1
      ∧ { t with regs := s.regs, prism := s.prism } = s ∧ s.keepsRegs t [A.PR_PSTAT (253 + k)])
  ∧ (∀ (s : State) (o n gen coarse frac : Nat) (h : Bool), n < 4 → gen < 7 → s.rd A.XR_CTRL F.XR_CTRL.STATE = 3 →
      o ≠ s.rd A.XR_STATUS F.XR_STATUS.OWN_POS →
    ∃ (t : State), exec (.ringEventReceive o n gen coarse frac h) s = .next t
      ∧ t.prism = { s.prism with flight := s.prism.flight ++ [⟨248 + n, 0, gen + 1, ⟨coarse, frac, h⟩, s.now⟩] }
      ∧ t.out = s.out ++ [.ringFrame [o, n, gen, coarse, frac, b2n h]]
      ∧ t.rd (A.PR_PSTAT (248 + n)) F.PR_PSTAT.LASTGEN = gen + 1
      ∧ { t with regs := s.regs, prism := s.prism, out := s.out } = s ∧ s.keepsRegs t [A.PR_PSTAT (248 + n)])
  ∧ (∀ (s : State) (o n gen coarse frac : Nat) (h : Bool), n < 4 → 7 ≤ gen → s.rd A.XR_CTRL F.XR_CTRL.STATE = 3 →
      o ≠ s.rd A.XR_STATUS F.XR_STATUS.OWN_POS →
    ∃ (t : State), exec (.ringEventReceive o n gen coarse frac h) s = .next t
      ∧ t.rd (A.PR_PSTAT (248 + n)) F.PR_PSTAT.LOOP = 1
      ∧ { t with regs := s.regs, regs0 := s.regs0, out := s.out } = s ∧ s.keepsRegs t [A.PR_PSTAT (248 + n)])

/-- Delivery. An event that is due leaves the prism, and the one consumer that takes it acts: a host consumer latches the stamp and sets
its pending bit (R399); two events it takes in one FAB cycle become one, with the earlier stamp, and COALESCE counts (R395); a TIO
output rises 10 ns later for WIDTH FAB cycles (R398); RING_OUT of a member sends the event and is busy for 100 ns (R387, R397); START at
an armed site starts cycle 0 200 ns later, of the next generation (R163); an input of a front-end die meets it, by the target mask as it
stood at the start of the FAB cycle (R388, R389). In an isolated reset of the prism it is lost (R408). It rests on the model's readings:
log entries 48 to 51. -/
def Obligations.PrismDelivers : Prop :=
  (∀ (s : State) (e : Event) (n h : Nat), s.inReset uPrism = false → s.prism.flight = [e] → 0 < n → e.ready ≤ s.now → h < 32 →
      s.takes (16 + h) e = true →
    (∀ (k : Nat), k < 192 → k ≠ 16 + h → s.takes k e = false) →
    ∃ (t : State), exec (.prismDeliver n) s = .next t ∧ t.prism = { s.prism with flight := [] }
      ∧ t.rd A.PR_HOST_PEND F.PR_HOST_PEND.PEND = s.rd A.PR_HOST_PEND F.PR_HOST_PEND.PEND ||| 2 ^ h
      ∧ t.pair (A.PR_HOST_STAMP_LO h) (A.PR_HOST_STAMP_HI h) = e.stamp.coarse % 2 ^ 64
      ∧ { t with regs := s.regs, regs0 := s.regs0, prism := s.prism, out := s.out } = s)
  ∧ (∀ (s : State) (e f : Event) (n h : Nat), s.inReset uPrism = false → s.prism.flight = [e, f] → 1 < n → e.ready ≤ s.now →
      f.ready ≤ s.now → h < 32 →
    s.takes (16 + h) e = true → s.takes (16 + h) f = true →
    (∀ (k : Nat), k < 192 → k ≠ 16 + h → s.takes k e = false ∧ s.takes k f = false) →
    ∃ (t : State), exec (.prismDeliver n) s = .next t ∧ t.prism = { s.prism with flight := [] }
      ∧ t.rd A.PR_HOST_PEND F.PR_HOST_PEND.PEND = s.rd A.PR_HOST_PEND F.PR_HOST_PEND.PEND ||| 2 ^ h
      ∧ t.pair (A.PR_HOST_STAMP_LO h) (A.PR_HOST_STAMP_HI h) = min e.stamp.coarse f.stamp.coarse % 2 ^ 64
      ∧ t.rd (A.PR_CSTAT (16 + h)) F.PR_CSTAT.COALESCE = min (2 ^ F.PR_CSTAT.COALESCE.width - 1) (s.rd (A.PR_CSTAT (16 + h)) F.PR_CSTAT.COALESCE + 1)
      ∧ { t with regs := s.regs, regs0 := s.regs0, prism := s.prism, out := s.out } = s)
  ∧ (∀ (s : State) (e : Event) (n x : Nat), s.inReset uPrism = false → s.inReset (uTio x) = false → s.prism.flight = [e] → 0 < n →
      e.ready ≤ s.now → x < 16 → s.takes (48 + x) e = true →
    (∀ (k : Nat), k < 192 → k ≠ 48 + x → s.takes k e = false) → s.flag (A.PR_TIO x) F.PR_TIO.OUT = true → s.tioBusy x = false →
    ∃ (t : State), exec (.prismDeliver n) s = .next t ∧ t.prism.flight = []
      ∧ kget (fun _ => (0, 0)) t.prism.tioPulse x = (s.now + 32, s.now + 32 + 8 * s.rd (A.PR_TIO x) F.PR_TIO.WIDTH)
      ∧ { t with prism := s.prism } = s)
  ∧ (∀ (s : State) (e : Event) (n x : Nat), s.inReset uPrism = false → s.prism.flight = [e] → 0 < n → e.ready ≤ s.now → x < 4 →
      s.takes (64 + x) e = true →
    (∀ (k : Nat), k < 192 → k ≠ 64 + x → s.takes k e = false) → s.rd A.XR_CTRL F.XR_CTRL.STATE = 3 →
    kget (fun _ => 0) s.prism.ringOutFree x ≤ s.now →
    ∃ (t : State), exec (.prismDeliver n) s = .next t ∧ t.prism.flight = []
      ∧ kget (fun _ => 0) t.prism.ringOutFree x = s.now + 320
      ∧ t.out = s.out ++ [.ringFrame [s.rd A.XR_STATUS F.XR_STATUS.OWN_POS, x, e.gen, e.stamp.coarse, e.stamp.frac, b2n e.stamp.hasFrac]]
      ∧ { t with prism := s.prism, out := s.out } = s)
  ∧ (∀ (s : State) (e : Event) (n i : Nat), s.inReset uPrism = false → s.inReset (uSite i) = false → s.prism.flight = [e] → 0 < n →
      e.ready ≤ s.now → i < 16 → s.takes i e = true →
    (∀ (k : Nat), k < 192 → k ≠ i → s.takes k e = false) → s.flag (A.SEQ_EVT i) F.SEQ_EVT.EV_FLAG = false →
    nbit (s.rd (A.SEQ_EVT_CFG i) F.SEQ_EVT_CFG.ACT) 1 = true → s.armed i = true → (s.site i).priming = false →
    (s.site i).startDue = none →
    ∃ (t : State), exec (.prismDeliver n) s = .next t ∧ t.prism.flight = []
      ∧ (t.site i).startDue = some (s.now + 640) ∧ (t.site i).nextStart = 1250 * (s.now + 640) ∧ (t.site i).runGen = e.gen + 1
      ∧ t.armed i = false ∧ t.siteState i = s.kindOf i (s.site i).pos.1
      ∧ { t with prism := s.prism, regs := s.regs, sites := s.sites } = s ∧ s.keepsRegs t [A.SEQ_SITE_STATE i]
          ∧ ∀ (j : Nat), j < 16 → j ≠ i → t.site j = s.site j)
  ∧ (∀ (s : State) (e : Event) (n d x b : Nat), s.inReset uPrism = false → s.inReset (uAw (8 * d + b)) = false → s.prism.flight = [e] →
      0 < n → e.ready ≤ s.now → d < 4 → x < 31 → b < 8 → s.takes (68 + 31 * d + x) e = true →
    (∀ (k : Nat), k < 192 → k ≠ 68 + 31 * d + x → s.takes k e = false) → s.target0 (31 * d + x) = 2 ^ b →
    ∃ (t : State), exec (.prismDeliver n) s = .next t ∧ t.prism.flight = []
      ∧ (t.awOf (8 * d + b)).trigs = (s.awOf (8 * d + b)).trigs ++ [⟨1250 * s.now + 512000, e.gen, e.stamp⟩]
      ∧ { t with prism := s.prism, aw := s.aw } = s)
  ∧ (∀ (s : State) (e : Event) (n : Nat), s.inReset uPrism = true → s.prism.flight = [e] → 0 < n → e.ready ≤ s.now →
    ∃ (t : State), exec (.prismDeliver n) s = .next t ∧ t.prism = { s.prism with flight := [] } ∧ { t with prism := s.prism } = s)

/-- LENS_READ returns the held records from SEQ on, with NEXT and the number returned in word 0, and 0x0001 where fewer than asked are
held (R403); LENS_ACK and a write of LENS_ACKSEQ release every closed incident held up to a SEQ (R405). Incidents. 500 ns after its
stamp a report that joins no open incident opens one: it takes the next SEQ and a slot, its record stands there with OPEN set, and
INCIDENT fires (R402, R403); 2.5 µs after its first stamp an incident that no report still waiting joins closes, and its record shows it
closed; an incident of another member that meets no local one is recorded with REMOTE set and its own origin (R406). -/
def Obligations.LensRecords : Prop :=
  (∀ (s : State) (q : Nat) (c : Cmd) (n first : Nat), s.serves q 0x0B01 c → s.ready q [uLens] → c.payload = 1 →
      c.w 4 = word (n * 65536 + first) → first < 65536 →
    0 < n → n ≤ 64 → first ∈ s.lens.heldSeqs →
    ∃ (t : State), exec (.lensRead q) s = .next t ∧ { t with rings := s.rings } = s
      ∧ s.replies t q c
        (if n ≤ (s.lens.heldSeqs.dropWhile (· ≠ first)).length then 0 else 0x0001)
        (if n ≤ (s.lens.heldSeqs.dropWhile (· ≠ first)).length then 0 else (s.lens.heldSeqs.dropWhile (· ≠ first)).length)
        (word (s.rd A.LENS_NEXT F.LENS_NEXT.SEQ * 65536 + min n (s.lens.heldSeqs.dropWhile (· ≠ first)).length)
          :: ((s.lens.heldSeqs.dropWhile (· ≠ first)).take n).flatMap s.lensRecord))
  ∧ (∀ (s : State) (q : Nat) (c : Cmd) (m : Nat), q < 8 → s.serves q 0x0B02 c → s.ready q [uLens] → c.payload = 1 → c.w 4 = word m →
      m < 65536 →
    m ∈ s.lens.heldSeqs → s.lens.heldSeqs.length ≤ 64 → m ∉ s.openSeqs →
    ∃ (t : State), exec (.lensAck q) s = .next t ∧ s.replies t q c 0 0 []
      ∧ t.lens.heldSeqs = s.lens.heldSeqs.filter (fun x => !((s.lens.heldSeqs.takeWhile (· ≠ m) ++ [m]).contains x && !s.openSeqs.contains x))
      ∧ t.rd A.LENS_ACKSEQ F.LENS_ACKSEQ.SEQ = m ∧ t.rd A.LENS_STATUS F.LENS_STATUS.HELD = t.lens.heldSeqs.length
      ∧ { t with rings := s.rings, regs := s.regs, fab := s.fab, lens := s.lens } = s ∧ s.keepsRegs t [A.LENS_ACKSEQ, A.LENS_STATUS])
  ∧ (∀ (s : State) (w : Word), s.link.up = true → s.flag A.HL_CTRL F.HL_CTRL.WINDOW_RW = true → s.fabricWait A.LENS_ACKSEQ = none →
      bits w 15 0 ∈ s.lens.heldSeqs →
    s.lens.heldSeqs.length ≤ 64 → bits w 15 0 ∉ s.openSeqs →
    ∃ (t : State), exec (.lensAckseqWrite w) s = .next t
      ∧ t.lens.heldSeqs = s.lens.heldSeqs.filter (fun x =>
        !((s.lens.heldSeqs.takeWhile (· ≠ bits w 15 0) ++ [bits w 15 0]).contains x && !s.openSeqs.contains x))
      ∧ t.rd A.LENS_ACKSEQ F.LENS_ACKSEQ.SEQ = bits w 15 0 ∧ t.rd A.LENS_STATUS F.LENS_STATUS.HELD = t.lens.heldSeqs.length
      ∧ { t with regs := s.regs, lens := s.lens } = s ∧ s.keepsRegs t [A.LENS_ACKSEQ, A.LENS_STATUS])
  ∧ (∀ (s : State) (r : Report), s.inReset uLens = false → s.lens.reports = [r] → r.stamp + 1600 ≤ s.coarseNow →
      (∀ i ∈ s.lens.openInc, i.joins r = false) →
    s.lens.heldSeqs.length < 64 →
    ∃ (t : State), exec .lensReportProcess s = .next t ∧ t.lens.reports = []
      ∧ t.lens.heldSeqs = s.lens.heldSeqs ++ [s.rd A.LENS_NEXT F.LENS_NEXT.SEQ]
      ∧ t.rd A.LENS_NEXT F.LENS_NEXT.SEQ = (s.rd A.LENS_NEXT F.LENS_NEXT.SEQ + 1) % 65536
      ∧ t.lens.openInc.length = s.lens.openInc.length + 1
      ∧ bit (wd (t.lensRecord (s.rd A.LENS_NEXT F.LENS_NEXT.SEQ)) 0) 27 = true
      ∧ wd (t.lensRecord (s.rd A.LENS_NEXT F.LENS_NEXT.SEQ)) 2 = word r.unit
      ∧ wd (t.lensRecord (s.rd A.LENS_NEXT F.LENS_NEXT.SEQ)) 3 = word r.stamp
      ∧ t.prism.flight = s.prism.flight ++ [⟨252, 0, 0, { coarse := r.stamp }, s.now + 16⟩]
      ∧ { t with regs := s.regs, prism := s.prism, lens := s.lens } = s)
  ∧ (∀ (s : State) (i : Incident) (m : Nat), s.inReset uLens = false → s.lens.openInc = [i] → i.firstStamp + 8000 < s.coarseNow →
      i.seq = some m → m < 65536 → (∀ r ∈ s.lens.reports, i.joins r = false) →
    s.flag A.LENS_CFG F.LENS_CFG.REMOTE_EN = false →
    ∃ (t : State), exec .lensIncidentClose s = .next t ∧ t.lens.openInc = [] ∧ t.lens.heldSeqs = s.lens.heldSeqs
      ∧ t.lensRecord m = i.record false ∧ t.rd A.LENS_STATUS F.LENS_STATUS.OPEN = 0
      ∧ { t with regs := s.regs, lens := s.lens, out := s.out } = s)
  ∧ (∀ (s : State) (rec : List Word), s.flag A.LENS_CFG F.LENS_CFG.REMOTE_EN = true → s.rd A.XR_CTRL F.XR_CTRL.STATE = 3 →
    s.lens.heldSeqs = [] → s.lens.openInc = [] → bits (wd rec 12) 15 0 ≠ s.rd A.XR_STATUS F.XR_STATUS.OWN_POS →
    ∃ (t : State), exec (.lensRemoteIncident rec) s = .next t
      ∧ t.lens.heldSeqs = [s.rd A.LENS_NEXT F.LENS_NEXT.SEQ]
      ∧ t.rd A.LENS_NEXT F.LENS_NEXT.SEQ = (s.rd A.LENS_NEXT F.LENS_NEXT.SEQ + 1) % 65536
      ∧ bit (wd (t.lensRecord (s.rd A.LENS_NEXT F.LENS_NEXT.SEQ)) 0) 26 = true
      ∧ bits (wd (t.lensRecord (s.rd A.LENS_NEXT F.LENS_NEXT.SEQ)) 12) 15 0 = bits (wd rec 12) 15 0
      ∧ Output.ringFrame (rec.map (·.toNat)) ∈ t.out
      ∧ { t with regs := s.regs, lens := s.lens, out := s.out } = s)

/-- Doorbells and ring pairs. A doorbell of an enabled pair takes its value where that lies in the ring, and stops the pair with ERR 1
where it does not; a disabled pair discards it and HL_WIN_DISCARD counts (R84 to R86, R94). Enabling starts the pair from entry 0 with
phase 1 (R83, R95); disabling discards what has been fetched and stops the pair, at once where no command of it executes, and only after
that command's completion where one does (R95). While the link is down none of these writes arrives (R74). -/
def Obligations.RingPairs : Prop :=
  (∀ (s : State) (q : Nat) (v : Word), q < 8 → s.link.up = true → s.flag (A.HL_RING_CFG q) F.HL_RING_CFG.ENABLE = true →
      v.toNat < s.ringSize q →
    ∃ (t : State), exec (.sqTailDoorbell q v) s = .next t ∧ t.ring q = { s.ring q with tail := v.toNat }
      ∧ { t with rings := s.rings } = s ∧ ∀ (r : Nat), r < 8 → r ≠ q → t.ring r = s.ring r)
  ∧ (∀ (s : State) (q : Nat) (v : Word), q < 8 → s.link.up = true → s.flag (A.HL_RING_CFG q) F.HL_RING_CFG.ENABLE = true →
      v.toNat < s.ringSize q →
    ∃ (t : State), exec (.cqHeadDoorbell q v) s = .next t ∧ t.ring q = { s.ring q with cqHead := v.toNat }
      ∧ { t with rings := s.rings } = s ∧ ∀ (r : Nat), r < 8 → r ≠ q → t.ring r = s.ring r)
  ∧ (∀ (s : State) (q : Nat) (v : Word), q < 8 → s.link.up = true → s.flag (A.HL_RING_CFG q) F.HL_RING_CFG.ENABLE = true →
      s.ringSize q ≤ v.toNat →
    ∃ (t : State), exec (.sqTailDoorbell q v) s = .next t ∧ exec (.cqHeadDoorbell q v) s = .next t
      ∧ t.rd (A.HL_RING_STATUS q) F.HL_RING_STATUS.STOPPED = 1 ∧ t.rd (A.HL_RING_STATUS q) F.HL_RING_STATUS.ERR = 1
      ∧ { t with regs := s.regs, out := s.out } = s ∧ s.keepsRegs t [A.HL_RING_STATUS q, A.MSIX_PBA 0])
  ∧ (∀ (s : State) (q : Nat) (v : Word), q < 8 → s.link.up = true → s.flag (A.HL_RING_CFG q) F.HL_RING_CFG.ENABLE = false →
    ∃ (t : State), exec (.sqTailDoorbell q v) s = .next t ∧ exec (.cqHeadDoorbell q v) s = .next t
      ∧ t.rd A.HL_WIN_DISCARD F.HL_WIN_DISCARD.COUNT = min (2 ^ 32 - 1) (s.rd A.HL_WIN_DISCARD F.HL_WIN_DISCARD.COUNT + 1)
      ∧ { t with regs := s.regs } = s ∧ s.keepsRegs t [A.HL_WIN_DISCARD])
  ∧ (∀ (s : State) (q : Nat) (v w : Word), s.link.up = false →
    ∃ (t : State), exec (.sqTailDoorbell q v) s = .next t ∧ exec (.cqHeadDoorbell q v) s = .next t
      ∧ exec (.ringEnable q w) s = .next t ∧ exec (.ringDisable q w) s = .next t ∧ t = s)
  ∧ (∀ (s : State) (q : Nat) (w : Word), q < 8 → s.link.up = true → (∀ (c : Cmd), (s.ring q).run = some c → c.orphan = true) →
      s.ringsAllowed = true → s.flag (A.HL_RING_CFG q) F.HL_RING_CFG.ENABLE = false →
    s.flag (A.HL_RING_STATUS q) F.HL_RING_STATUS.STOPPED = true → fget w F.HL_RING_CFG.IRQ_COUNT ≠ 0 →
    fget w F.HL_RING_CFG.VECTOR < 8 → 4 ≤ fget w F.HL_RING_CFG.SIZE_LOG2 → fget w F.HL_RING_CFG.SIZE_LOG2 ≤ 12 →
    ∃ (t : State), exec (.ringEnable q w) s = .next t
      ∧ t.rd (A.HL_RING_CFG q) F.HL_RING_CFG.ENABLE = 1
      ∧ t.rd (A.HL_RING_CFG q) F.HL_RING_CFG.SIZE_LOG2 = fget w F.HL_RING_CFG.SIZE_LOG2
      ∧ t.rd (A.HL_RING_CFG q) F.HL_RING_CFG.VECTOR = fget w F.HL_RING_CFG.VECTOR
      ∧ t.rd (A.HL_RING_CFG q) F.HL_RING_CFG.PRIO = fget w F.HL_RING_CFG.PRIO
      ∧ t.rd (A.HL_RING_CFG q) F.HL_RING_CFG.IRQ_COUNT = fget w F.HL_RING_CFG.IRQ_COUNT
      ∧ t.rd (A.HL_RING_CFG q) F.HL_RING_CFG.IRQ_TIME = fget w F.HL_RING_CFG.IRQ_TIME
      ∧ t.rd (A.HL_RING_STATUS q) F.HL_RING_STATUS.STOPPED = 0 ∧ t.rd (A.HL_RING_STATUS q) F.HL_RING_STATUS.ERR = 0
      ∧ t.rd (A.HL_RING_STATUS q) F.HL_RING_STATUS.SQ_HEAD = 0 ∧ t.rd (A.HL_RING_STATUS q) F.HL_RING_STATUS.CQ_TAIL = 0
      ∧ t.rd (A.HL_RING_STATUS q) F.HL_RING_STATUS.PHASE = 1
      ∧ t.ring q = { s.ring q with tail := 0, cqHead := 0, unsignalled := 0, owed := false }
      ∧ (∀ (r : Nat), r < 8 → r ≠ q → t.ring r = s.ring r)
      ∧ { t with rings := s.rings, regs := s.regs } = s
      ∧ s.keepsRegs t [A.HL_RING_CFG q, A.HL_RING_STATUS q])
  ∧ (∀ (s : State) (q : Nat) (w : Word), q < 8 → s.link.up = true → (∀ (c : Cmd), (s.ring q).run = some c → c.orphan = true) →
      s.flag (A.HL_RING_CFG q) F.HL_RING_CFG.ENABLE = true →
    ∃ (t : State), exec (.ringDisable q w) s = .next t
      ∧ t.rd (A.HL_RING_CFG q) F.HL_RING_CFG.ENABLE = 0 ∧ t.rd (A.HL_RING_STATUS q) F.HL_RING_STATUS.STOPPED = 1
      ∧ t.ring q = { s.ring q with fetched := [] } ∧ (∀ (r : Nat), r < 8 → r ≠ q → t.ring r = s.ring r)
      ∧ { t with rings := s.rings, regs := s.regs, out := s.out } = s
      ∧ s.keepsRegs t [A.HL_RING_CFG q, A.HL_RING_STATUS q, A.MSIX_PBA 0])
  ∧ (∀ (s : State) (q : Nat) (w : Word) (c : Cmd), q < 8 → s.link.up = true → (s.ring q).run = some c → c.orphan = false →
      s.flag (A.HL_RING_CFG q) F.HL_RING_CFG.ENABLE = true →
    ∃ (t : State), exec (.ringDisable q w) s = .next t
      ∧ t.rd (A.HL_RING_CFG q) F.HL_RING_CFG.ENABLE = 0
      ∧ t.ring q = { s.ring q with fetched := [] } ∧ (∀ (r : Nat), r < 8 → r ≠ q → t.ring r = s.ring r)
      ∧ { t with rings := s.rings, regs := s.regs } = s ∧ s.keepsRegs t [A.HL_RING_CFG q])

/-- Fetching: a good entry at SQ head joins the fetched commands, and the head moves on around the ring (R80, R85); a failed read stops
the pair with ERR 2 and a malformed entry with ERR 4 (R94). -/
def Obligations.CommandFetching : Prop :=
  (∀ (s : State) (q : Nat) (e : List Word) (p : Option (List Word)), q < 8 → s.ringLive q = true → s.dma = true →
    s.rd (A.HL_RING_STATUS q) F.HL_RING_STATUS.SQ_HEAD ≠ (s.ring q).tail → badEntry e = false → s.ringSize q ≤ 4096 →
    ∃ (t : State), exec (.commandFetch q (some e) p) s = .next t
      ∧ t.ring q = { s.ring q with fetched := (s.ring q).fetched ++ [⟨s.link.nextOrder, e, p⟩] }
      ∧ t.rd (A.HL_RING_STATUS q) F.HL_RING_STATUS.SQ_HEAD
        = (s.rd (A.HL_RING_STATUS q) F.HL_RING_STATUS.SQ_HEAD + 1) % s.ringSize q
      ∧ t.link = { s.link with nextOrder := s.link.nextOrder + 1 }
      ∧ { t with rings := s.rings, regs := s.regs, link := s.link } = s ∧ s.keepsRegs t [A.HL_RING_STATUS q])
  ∧ (∀ (s : State) (q : Nat) (e p : Option (List Word)), q < 8 → s.ringLive q = true → s.dma = true →
    s.rd (A.HL_RING_STATUS q) F.HL_RING_STATUS.SQ_HEAD ≠ (s.ring q).tail → (∀ x ∈ e, badEntry x = true) →
    ∃ (t : State), exec (.commandFetch q e p) s = .next t
      ∧ t.rd (A.HL_RING_STATUS q) F.HL_RING_STATUS.STOPPED = 1
      ∧ t.rd (A.HL_RING_STATUS q) F.HL_RING_STATUS.ERR = (if e = none then 2 else 4)
      ∧ { t with regs := s.regs, out := s.out } = s ∧ s.keepsRegs t [A.HL_RING_STATUS q, A.MSIX_PBA 0])

/-- Starting: a free core takes the oldest fetched command of the next ring (R88). A well-formed command that needs no authentication
runs (R100); a packet of another format version answers 0x0102. A critical packet runs where a session is open, its counter is above the
last accepted one and its keyed check matches, and its counter becomes the last accepted one (R103); a counter that is not above it
answers 0x0403 and counts a failure (R104). -/
def Obligations.CommandStarting : Prop :=
  (∀ (s : State) (q core : Nat) (f : Fetched) (rest : List Fetched) (p : List Word), s.freeCore = some core → s.nextRing = some q →
      (s.ring q).fetched = f :: rest →
    f.packet = some p → bits (wd p 0) 31 24 = 1 → bits (wd p 0) 23 19 = 0 → bit (wd p 0) 16 = false →
    4 ≤ bits (wd p 1) 31 16 → bits (wd p 1) 31 16 = bits (wd f.entry 2) 15 0 → wd p 2 = 0 → wd p 3 = 0 →
    opcodes.contains (bits (wd p 0) 15 0) = true →
    s.flag A.HL_STATUS F.HL_STATUS.UMBRA = false → s.flag A.HL_STATUS F.HL_STATUS.BOOT_WAIT = false →
    s.criticalOp (bits (wd p 0) 15 0) p = false →
    ∃ (t : State), exec .commandStart s = .next t
      ∧ (t.ring q).run = some { order := f.order, entry := f.entry, packet := p, core := core, data := s.startData p }
          ∧ (t.ring q).fetched = rest
      ∧ { t.link with rrHigh := s.link.rrHigh, rrLow := s.link.rrLow } = s.link
      ∧ { t with rings := s.rings, link := s.link } = s ∧ ∀ (r : Nat), r < 8 → r ≠ q → t.ring r = s.ring r)
  ∧ (∀ (s : State) (q core : Nat) (f : Fetched) (rest : List Fetched) (p : List Word), s.freeCore = some core → s.nextRing = some q →
      (s.ring q).fetched = f :: rest →
    f.packet = some p → bits (wd p 0) 31 24 ≠ 1 →
    ∃ (t : State), exec .commandStart s = .next t
      ∧ ((t.ring q).run.bind (·.reply)) = some ⟨0x0102, 0, t.coarseNow, []⟩ ∧ (t.ring q).fetched = rest
      ∧ { t.link with rrHigh := s.link.rrHigh, rrLow := s.link.rrLow } = s.link
      ∧ { t with rings := s.rings, link := s.link } = s ∧ ∀ (r : Nat), r < 8 → r ≠ q → t.ring r = s.ring r)
  ∧ (∀ (s : State) (q core : Nat) (f : Fetched) (rest : List Fetched) (p : List Word) (e : Session), s.freeCore = some core →
      s.nextRing = some q → (s.ring q).fetched = f :: rest →
    f.packet = some p → bits (wd p 0) 31 24 = 1 → bits (wd p 0) 23 19 = 0 → bit (wd p 0) 16 = true →
    8 ≤ bits (wd p 1) 31 16 → bits (wd p 1) 31 16 = bits (wd f.entry 2) 15 0 →
    opcodes.contains (bits (wd p 0) 15 0) = true →
    s.flag A.HL_STATUS F.HL_STATUS.UMBRA = false → s.flag A.HL_STATUS F.HL_STATUS.BOOT_WAIT = false →
    (s.ring q).session = some e → e.counter < (wd p 2).toNat + 2 ^ 32 * (wd p 3).toNat →
    keyedCheck (s.keySlot e.slot).key e.nonce p (bits (wd p 1) 31 16)
      = ((p.drop (bits (wd p 1) 31 16 - 4)).take 4).flatMap wordBytes →
    ∃ (t : State), exec .commandStart s = .next t
      ∧ (t.ring q).run = some { order := f.order, entry := f.entry, packet := p, core := core, data := s.startData p }
          ∧ (t.ring q).fetched = rest
      ∧ (t.ring q).session = some { e with counter := (wd p 2).toNat + 2 ^ 32 * (wd p 3).toNat }
      ∧ t.rd (A.HL_RING_SEC q) F.HL_RING_SEC.FAIL_COUNT = 0
      ∧ { t.link with rrHigh := s.link.rrHigh, rrLow := s.link.rrLow } = s.link
      ∧ { t with rings := s.rings, link := s.link, regs := s.regs } = s ∧ s.keepsRegs t [A.HL_RING_SEC q]
      ∧ ∀ (r : Nat), r < 8 → r ≠ q → t.ring r = s.ring r)
  ∧ (∀ (s : State) (q core : Nat) (f : Fetched) (rest : List Fetched) (p : List Word) (e : Session), s.freeCore = some core →
      s.nextRing = some q → (s.ring q).fetched = f :: rest →
    f.packet = some p → bits (wd p 0) 31 24 = 1 → bits (wd p 0) 23 19 = 0 → bit (wd p 0) 16 = true →
    8 ≤ bits (wd p 1) 31 16 → bits (wd p 1) 31 16 = bits (wd f.entry 2) 15 0 →
    opcodes.contains (bits (wd p 0) 15 0) = true →
    s.flag A.HL_STATUS F.HL_STATUS.UMBRA = false → s.flag A.HL_STATUS F.HL_STATUS.BOOT_WAIT = false →
    (s.ring q).session = some e → (wd p 2).toNat + 2 ^ 32 * (wd p 3).toNat ≤ e.counter →
    s.rd (A.HL_RING_SEC q) F.HL_RING_SEC.FAIL_COUNT < 7 →
    ∃ (t : State), exec .commandStart s = .next t
      ∧ ((t.ring q).run.bind (·.reply)).map (·.status) = some 0x0403 ∧ (t.ring q).session = some e
      ∧ t.rd (A.HL_RING_SEC q) F.HL_RING_SEC.FAIL_COUNT = s.rd (A.HL_RING_SEC q) F.HL_RING_SEC.FAIL_COUNT + 1
      ∧ { t.link with rrHigh := s.link.rrHigh, rrLow := s.link.rrLow } = s.link
      ∧ { t with rings := s.rings, link := s.link, regs := s.regs } = s ∧ s.keepsRegs t [A.HL_RING_SEC q]
      ∧ ∀ (r : Nat), r < 8 → r ≠ q → t.ring r = s.ring r)

/-- Completing: the completion entry goes to the CQ tail, the tail moves on and the phase changes where it wraps, HL_RING_LAST keeps tag
and status, and the ring is free (R81 to R83, R113); a pair that was disabled meanwhile is now stopped (R95). A failed write stops the
pair with ERR 3 (R94). The oldest unsignalled completion of IRQ_TIME microseconds signals the pair's vector (R93). -/
def Obligations.CommandCompletion : Prop :=
  (∀ (s : State) (q : Nat) (c : Cmd) (r : Reply), q < 8 → s.flag (A.HL_RING_CFG q) F.HL_RING_CFG.ENABLE = true →
      (s.ring q).run = some c → c.reply = some r → c.after = .none → s.dma = true → s.cqFull q = false →
    s.ringSize q ≤ 4096 → s.rd (A.HL_RING_STATUS q) F.HL_RING_STATUS.CQ_TAIL < s.ringSize q → r.status < 65536 →
    ∃ (t : State), exec (.completionWrite q true) s = .next t ∧ (t.ring q).run = none
      ∧ t.rd (A.HL_RING_LAST q) F.HL_RING_LAST.TAG = c.tag ∧ t.rd (A.HL_RING_LAST q) F.HL_RING_LAST.STATUS = r.status
      ∧ t.rd (A.HL_RING_STATUS q) F.HL_RING_STATUS.CQ_TAIL = (s.rd (A.HL_RING_STATUS q) F.HL_RING_STATUS.CQ_TAIL + 1) % s.ringSize q
      ∧ t.rd (A.HL_RING_STATUS q) F.HL_RING_STATUS.PHASE
        = (if s.rd (A.HL_RING_STATUS q) F.HL_RING_STATUS.CQ_TAIL + 1 = s.ringSize q
           then 1 - s.rd (A.HL_RING_STATUS q) F.HL_RING_STATUS.PHASE else s.rd (A.HL_RING_STATUS q) F.HL_RING_STATUS.PHASE)
      ∧ (∃ (e : List Word), (.hostWrite (s.pair (A.HL_RING_CQ_LO q) (A.HL_RING_CQ_HI q) + 32 * s.rd (A.HL_RING_STATUS q) F.HL_RING_STATUS.CQ_TAIL) e) ∈ t.out
        ∧ e.length = 8 ∧ wd e 0 = word (c.tag * 65536 + r.status) ∧ wd e 1 = word r.stamp ∧ wd e 2 = word (r.stamp / 2 ^ 32)
        ∧ wd e 4 = word (q * 65536 + s.rd (A.HL_RING_STATUS q) F.HL_RING_STATUS.SQ_HEAD)
        ∧ wd e 7 = word (s.rd (A.HL_RING_STATUS q) F.HL_RING_STATUS.PHASE))
      ∧ t.rd (A.HL_RING_STATUS q) F.HL_RING_STATUS.STOPPED = s.rd (A.HL_RING_STATUS q) F.HL_RING_STATUS.STOPPED
      ∧ { t with rings := s.rings, regs := s.regs, out := s.out } = s
      ∧ s.keepsRegs t [A.HL_RING_STATUS q, A.HL_RING_LAST q, A.MSIX_PBA (s.rd (A.HL_RING_CFG q) F.HL_RING_CFG.VECTOR / 32)]
      ∧ ∀ (x : Nat), x < 8 → x ≠ q → t.ring x = s.ring x)
  ∧ (∀ (s : State) (q : Nat) (c : Cmd) (r : Reply), q < 8 → s.flag (A.HL_RING_CFG q) F.HL_RING_CFG.ENABLE = true →
      (s.ring q).run = some c → c.reply = some r → c.after = .none → s.dma = true → s.cqFull q = false →
    ∃ (t : State), exec (.completionWrite q false) s = .next t ∧ (t.ring q).run = none
      ∧ t.rd (A.HL_RING_STATUS q) F.HL_RING_STATUS.STOPPED = 1 ∧ t.rd (A.HL_RING_STATUS q) F.HL_RING_STATUS.ERR = 3
      ∧ t.rd (A.HL_RING_LAST q) F.HL_RING_LAST.TAG = c.tag ∧ { t with rings := s.rings, regs := s.regs, out := s.out } = s
      ∧ s.keepsRegs t [A.HL_RING_STATUS q, A.HL_RING_LAST q, A.MSIX_PBA 0] ∧ ∀ (x : Nat), x < 8 → x ≠ q → t.ring x = s.ring x)
  ∧ (∀ (s : State) (q : Nat) (c : Cmd) (r : Reply), q < 8 → s.flag (A.HL_RING_CFG q) F.HL_RING_CFG.ENABLE = false →
    s.flag (A.HL_RING_STATUS q) F.HL_RING_STATUS.STOPPED = false → (s.ring q).run = some c →
    c.reply = some r → c.after = .none → s.dma = true → s.cqFull q = false →
    ∃ (t : State), exec (.completionWrite q true) s = .next t ∧ (t.ring q).run = none
      ∧ t.rd (A.HL_RING_STATUS q) F.HL_RING_STATUS.STOPPED = 1
      ∧ t.rd (A.HL_RING_STATUS q) F.HL_RING_STATUS.ERR = s.rd (A.HL_RING_STATUS q) F.HL_RING_STATUS.ERR)
  ∧ (∀ (s : State) (q : Nat), q < 8 → 0 < s.rd (A.HL_RING_CFG q) F.HL_RING_CFG.IRQ_TIME → 0 < (s.ring q).unsignalled →
    (s.ring q).oldest + 3200 * s.rd (A.HL_RING_CFG q) F.HL_RING_CFG.IRQ_TIME ≤ s.now → s.link.msix = true → s.link.msixMask = false →
        s.dma = true →
    s.flag (A.MSIX_CTRL (s.rd (A.HL_RING_CFG q) F.HL_RING_CFG.VECTOR)) F.MSIX_CTRL.MASK = false →
    ∃ (t : State), exec (.cqIrqTimeout q) s = .next t ∧ t.ring q = { s.ring q with unsignalled := 0, owed := false }
      ∧ t.out = s.out ++ [.msix (s.rd (A.HL_RING_CFG q) F.HL_RING_CFG.VECTOR)]
      ∧ { t with rings := s.rings, out := s.out } = s)

/-- The link. PERST_N, and with the link up a function-level reset, close every session, discard what is fetched, stop every pair and
make the register window read-only; a command under way keeps running for HL_RING_LAST alone (R74, R113). D3hot and Bus Master Enable
stop what the block issues and change nothing else (R75, R76); enabling MSI-X with no condition pending sends nothing (R93). It rests on
the model's readings: log entries 24 and 67. -/
def Obligations.LinkEvents : Prop :=
  (∀ (s : State) (q : Nat), q < 8 →
    ∃ (t : State), exec .perstAssert s = .next t ∧ t.link.perst = true ∧ t.link.up = false ∧ t.link.busMaster = false
      ∧ (t.ring q).session = none ∧ (t.ring q).fetched = []
      ∧ t.rd (A.HL_RING_CFG q) F.HL_RING_CFG.ENABLE = 0 ∧ t.rd (A.HL_RING_STATUS q) F.HL_RING_STATUS.STOPPED = 1
      ∧ t.rd A.HL_CTRL F.HL_CTRL.WINDOW_RW = 0 ∧ t.rd A.HL_STATUS F.HL_STATUS.LINK_SPEED = 0
      ∧ t.link = { s.link with perst := true, up := false, busMaster := false, msix := false, msixMask := false }
      ∧ { t with rings := s.rings, regs := s.regs, shadow := s.shadow, link := s.link, rst := s.rst, keys := s.keys } = s
      ∧ ∀ (a : Nat), (a < 0x10000 ∨ 0x20000 ≤ a) → a ≠ A.HL_STATUS → a ≠ A.CLK_MON 6 → t.reg a = s.reg a)
  ∧ (∀ (s : State) (q : Nat), q < 8 → s.link.perst = false → s.link.up = true →
    ∃ (t : State), exec .functionLevelReset s = .next t ∧ t.link.up = true ∧ t.link.busMaster = false
      ∧ (t.ring q).session = none ∧ (t.ring q).fetched = []
      ∧ t.rd (A.HL_RING_CFG q) F.HL_RING_CFG.ENABLE = 0 ∧ t.rd (A.HL_RING_STATUS q) F.HL_RING_STATUS.STOPPED = 1
      ∧ t.rd A.HL_CTRL F.HL_CTRL.WINDOW_RW = 0
      ∧ t.link = { s.link with busMaster := false, msix := false, msixMask := false }
      ∧ { t with rings := s.rings, regs := s.regs, shadow := s.shadow, link := s.link, rst := s.rst, keys := s.keys } = s
      ∧ ∀ (a : Nat), (a < 0x10000 ∨ 0x20000 ≤ a) → a ≠ A.HL_STATUS → t.reg a = s.reg a)
  ∧ (∀ (s : State), ∃ (t : State), exec .perstRelease s = .next t ∧ t = { s with link := { s.link with perst := false } })
  ∧ (∀ (s : State), s.link.up = true → ∃ (t : State), exec .d3hotEnter s = .next t ∧ t.rd A.HL_STATUS F.HL_STATUS.D3HOT = 1
      ∧ { t with regs := s.regs } = s ∧ s.keepsRegs t [A.HL_STATUS])
  ∧ (∀ (s : State), ∃ (t : State), exec .d0Return s = .next t ∧ t.rd A.HL_STATUS F.HL_STATUS.D3HOT = 0
      ∧ { t with regs := s.regs, out := s.out } = s ∧ s.keepsRegs t [A.HL_STATUS, A.MSIX_PBA 0, A.MSIX_PBA 1])
  ∧ (∀ (s : State), ∃ (t : State), exec .busMasterDisable s = .next t ∧ t = { s with link := { s.link with busMaster := false } })
  ∧ (∀ (s : State), s.link.up = true → ∃ (t : State), exec .busMasterEnable s = .next t ∧ t.link = { s.link with busMaster := true }
      ∧ { t with link := s.link, regs := s.regs, out := s.out } = s ∧ s.keepsRegs t [A.MSIX_PBA 0, A.MSIX_PBA 1])
  ∧ (∀ (s : State) (b : Bool), s.link.up = true → s.link.msix = false → s.pendingVectors = [] →
    ∃ (t : State), exec (.msixEnable b) s = .next t ∧ t = { s with link := { s.link with msix := true, msixMask := b } })
  ∧ (∀ (s : State) (n m : Nat), s.link.perst = false → s.link.trainable = true → s.link.up = false →
      kget (fun _ => 0) s.clocks.badWindows 7 < 2 → n < 16 → m < 64 →
    ∃ (t : State), exec (.pcieLinkUp n m) s = .next t ∧ t.link = { s.link with up := true }
      ∧ t.rd A.HL_STATUS F.HL_STATUS.LINK_SPEED = n ∧ t.rd A.HL_STATUS F.HL_STATUS.LINK_WIDTH = m
      ∧ { t with link := s.link, regs := s.regs } = s ∧ s.keepsRegs t [A.HL_STATUS])

/-- Units. A host command whose unit another command holds waits for it (R45, R89); a waiting command acquires its units once no other
command holds them, and after 10 ms ends with 0x0302, which IL_LAST records (R45, R374). A commit that some units do not acknowledge
within 2 µs ends with 0x0501 and a unit map: outcome 3 for those units, 4 for the others, which are restored (R43, R44). It rests on the
model's readings: log entries 18 and 58. -/
def Obligations.UnitsAndWaiting : Prop :=
  (∀ (s : State) (q : Nat) (c : Cmd) (u : Nat), q < 8 → s.serves q 0x0A01 c → s.conflict q [uPrism] = some u →
    ∃ (t : State), exec (.prismSet q) s = .next t
      ∧ (t.ring q).run = some { c with
          held := s.acquired q [uPrism], want := [uPrism], waitSince := some (c.waitSince.getD s.now) }
      ∧ { t with rings := s.rings } = s)
  ∧ (∀ (s : State) (q : Nat) (c : Cmd), q < 8 → (s.ring q).run = some c → c.reply = none → c.want ≠ [] → s.conflict q c.want = none →
    ∃ (t : State), exec (.unitAcquire q) s = .next t
      ∧ (t.ring q).run = some { c with held := c.want, want := [], waitSince := none }
      ∧ { t with rings := s.rings } = s ∧ ∀ (r : Nat), r < 8 → r ≠ q → t.ring r = s.ring r)
  ∧ (∀ (s : State) (q : Nat) (c : Cmd) (u since : Nat), q < 8 → (s.ring q).run = some c → c.reply = none → c.orphan = false →
      c.want = [u] → c.waitSince = some since →
    s.conflict q [u] = some u → since + 32000000 ≤ s.now →
    ∃ (t : State), exec (.unitWaitTimeout q) s = .next t
      ∧ ((t.ring q).run.bind (·.reply)) = some ⟨0x0302, 0, t.coarseNow, []⟩
      ∧ t.rd A.IL_LAST F.IL_LAST.STATUS = 0x0302 ∧ t.rd A.IL_LAST F.IL_LAST.OPCODE = c.opcode ∧ t.reg A.IL_LAST_UNIT = word u
      ∧ { t with rings := s.rings, regs := s.regs } = s ∧ s.keepsRegs t [A.IL_LAST, A.IL_LAST_UNIT])
  ∧ (∀ (s : State) (q : Nat) (c : Cmd) (e : CommitEnv), q < 8 → (s.ring q).run = some c → c.reply = none → c.orphan = false →
      c.opcode = 0x0420 → c.before = [] →
    c.ack = some e → e.commit = [] → c.due ≤ s.now →
    ∃ (t : State), exec (.commitAckTimeout q) s = .next t
      ∧ ((t.ring q).run.bind (·.reply)) = some ⟨0x0501, c.ackUnits.length, t.coarseNow,
          c.ackUnits.map (fun u => word (u + (if e.silent.contains u then 3 else 4) * 2 ^ 20))⟩
      ∧ { t with rings := s.rings } = s)

/-- The register window (R10 to R13, R109). A write of a read-write register gives it the value; a 1 clears a write-1-to-clear bit that
stood at the start of the cycle; a value that a command has written in the same FAB cycle stands (R112); while the window is read-only,
and where no register stands, a write is discarded and counted, as are a write of a BAR2 window (R137) and one of BAR4 that reaches no
doorbell (R78, R84); a write of a block in reset waits in the fabric (R453). A read of BAR4 returns 0 (R78). A read of BAR0 returns the
register and changes nothing; a read-to-clear field that the cycle has not changed is returned and cleared; an address without a
register reads 0. It rests on the model's readings: log entries 21 to 23. -/
def Obligations.RegisterWindow : Prop :=
  (∀ (s : State) (w : Word), s.link.up = true → s.flag A.HL_CTRL F.HL_CTRL.WINDOW_RW = true → s.fabricWait A.PR_HOST_EN = none →
      s.commandWrote 0 A.PR_HOST_EN F.PR_HOST_EN.EN = false →
    ∃ (t : State), exec (.regWrite 0 A.PR_HOST_EN w) s = .next t ∧ t.reg A.PR_HOST_EN = w
      ∧ { t with regs := s.regs } = s ∧ s.keepsRegs t [A.PR_HOST_EN])
  ∧ (∀ (s : State) (w : Word), s.link.up = true → s.flag A.HL_CTRL F.HL_CTRL.WINDOW_RW = true → s.fabricWait A.PR_HOST_PEND = none →
      s.reg0 A.PR_HOST_PEND = s.reg A.PR_HOST_PEND →
    ∃ (t : State), exec (.regWrite 0 A.PR_HOST_PEND w) s = .next t ∧ t.reg A.PR_HOST_PEND = s.reg A.PR_HOST_PEND &&& ~~~ w
      ∧ { t with regs := s.regs } = s ∧ s.keepsRegs t [A.PR_HOST_PEND])
  ∧ (∀ (s : State) (a : Nat) (w : Word), s.link.up = true → s.flag A.HL_CTRL F.HL_CTRL.WINDOW_RW = false → (a < 0x10000 ∨ 0x20000 ≤ a) →
    ∃ (t : State), exec (.regWrite 0 a w) s = .next t
      ∧ t.rd A.HL_WIN_DISCARD F.HL_WIN_DISCARD.COUNT = min (2 ^ 32 - 1) (s.rd A.HL_WIN_DISCARD F.HL_WIN_DISCARD.COUNT + 1)
      ∧ { t with regs := s.regs } = s ∧ s.keepsRegs t [A.HL_WIN_DISCARD])
  ∧ (∀ (s : State) (a : Nat) (w : Word), s.link.up = true → s.flag A.HL_CTRL F.HL_CTRL.WINDOW_RW = true → s.fabricWait a = none →
      findReg a = none →
    ∃ (t : State), exec (.regWrite 0 a w) s = .next t
      ∧ t.rd A.HL_WIN_DISCARD F.HL_WIN_DISCARD.COUNT = min (2 ^ 32 - 1) (s.rd A.HL_WIN_DISCARD F.HL_WIN_DISCARD.COUNT + 1)
      ∧ { t with regs := s.regs } = s ∧ s.keepsRegs t [A.HL_WIN_DISCARD])
  ∧ (∀ (s : State) (w : Word), s.link.up = true → s.flag A.HL_CTRL F.HL_CTRL.WINDOW_RW = true → s.fabricWait A.PR_HOST_EN = none →
    s.commandWrote 0 A.PR_HOST_EN F.PR_HOST_EN.EN = true →
    ∃ (t : State), exec (.regWrite 0 A.PR_HOST_EN w) s = .next t ∧ t = s)
  ∧ (∀ (s : State) (a u : Nat) (w : Word), s.link.up = true → s.flag A.HL_CTRL F.HL_CTRL.WINDOW_RW = true → s.fabricWait a = some u →
    ∃ (t : State), exec (.regWrite 0 a w) s = .next t
      ∧ t = { s with rst := { s.rst with fabric := s.rst.fabric ++ [(u, .regWrite 0 a w)] } })
  ∧ (∀ (s : State) (a : Nat) (w : Word), s.link.up = true →
    ∃ (t : State), exec (.regWrite 2 a w) s = .next t
      ∧ t.rd A.HL_WIN_DISCARD F.HL_WIN_DISCARD.COUNT = min (2 ^ 32 - 1) (s.rd A.HL_WIN_DISCARD F.HL_WIN_DISCARD.COUNT + 1)
      ∧ { t with regs := s.regs } = s ∧ s.keepsRegs t [A.HL_WIN_DISCARD])
  ∧ (∀ (s : State) (a : Nat) (w : Word), s.link.up = true → (0x80 ≤ a ∨ (a % 0x10 ≠ 0 ∧ a % 0x10 ≠ 4)) →
    ∃ (t : State), exec (.regWrite 4 a w) s = .next t
      ∧ t.rd A.HL_WIN_DISCARD F.HL_WIN_DISCARD.COUNT = min (2 ^ 32 - 1) (s.rd A.HL_WIN_DISCARD F.HL_WIN_DISCARD.COUNT + 1)
      ∧ { t with regs := s.regs } = s ∧ s.keepsRegs t [A.HL_WIN_DISCARD])
  ∧ (∀ (s : State) (a : Nat), s.link.up = true →
    ∃ (t : State), exec (.regReadClear 4 a 0 false) s = .next t ∧ t = { s with out := s.out ++ [.readData a 0] })
  ∧ (∀ (s : State), s.link.up = true → s.fabricWait A.PR_HOST_EN = none →
    ∃ (t : State), exec (.regReadClear 0 A.PR_HOST_EN 0 false) s = .next t ∧ t.out = s.out ++ [.readData A.PR_HOST_EN (s.reg A.PR_HOST_EN)]
      ∧ { t with out := s.out } = s)
  ∧ (∀ (s : State) (p : Nat), p < 256 → s.link.up = true → s.fabricWait (A.PR_PSTAT p) = none →
      s.reg0 (A.PR_PSTAT p) = s.reg (A.PR_PSTAT p) →
    ∃ (t : State), exec (.regReadClear 0 (A.PR_PSTAT p) 0 false) s = .next t
      ∧ (∃ (x : Nat), t.out = s.out ++ [.readData (A.PR_PSTAT p) x] ∧ fget x F.PR_PSTAT.FIRED = s.rd (A.PR_PSTAT p) F.PR_PSTAT.FIRED)
      ∧ { t with regs := s.regs, regs0 := s.regs0, out := s.out } = s
      ∧ t.rd (A.PR_PSTAT p) F.PR_PSTAT.FIRED = 0 ∧ t.rd (A.PR_PSTAT p) F.PR_PSTAT.LASTGEN = s.rd (A.PR_PSTAT p) F.PR_PSTAT.LASTGEN
      ∧ s.keepsRegs t [A.PR_PSTAT p])
  ∧ (∀ (s : State) (a : Nat), s.link.up = true → s.fabricWait a = none → findReg a = none → s.storeRead a = none → ¬ (0x1000000 ≤ a
      ∧ a < 0x4000000) →
    ∃ (t : State), exec (.regReadClear 0 a 0 false) s = .next t ∧ t.out = s.out ++ [.readData a 0] ∧ { t with out := s.out } = s)

/-- PATTERN_LOAD makes a container that passes the checks of R117 and R138, and for which there is space, the object of the lowest free
handle, and answers the handle, the space taken, the numbers of local and streamed segments and the rate needed (R115, R117, R129);
nothing else changes but the count of corrected words (R135). A container that fails a check is refused with that check's code, words
and no effect. PATTERN_FREE frees the handle of an object that no site runs: its slot's generation rises, and no window stays bound to
it (R114, R115, R137). Each completes where the packet is well formed, its units are free and awake, and for PATTERN_LOAD the host
buffer and the HBM3 controller can be read. -/
def Obligations.PatternObjects : Prop :=
  (∀ (s : State) (q : Nat) (c : Cmd) (ce : Nat) (data : List Word) (i j : Nat) (o x : PatObj), q < 8 → s.serves q 0x0101 c →
      c.payload = 4 → c.w 4 = word i → i < 16 → bits (c.w 5) 1 0 = 0 →
    (c.w 7).toNat ≤ data.length → s.dmaWaits = false → s.hbmWaits 5 = false →
    s.ready q (uPlace :: (s.tilesOf i).map uTile) →
    (s.loadCheck i (data.take (c.w 7).toNat)).toOption = some o → (s.loadSpace (s.tilesOf i) o).toOption = some (j, x) →
    ∃ (t : State), exec (.patternLoad q ce (some data) none allWell) s = .next t
      ∧ s.replies t q c 0 0 [word (mkHandle 1 (kget (fun _ => {}) s.place.objs j).gen j), word (x.width * (x.vecUnits + x.ctlUnits)),
          word (64 * x.hbmBlocks), word ((x.segs.filter (!·.streamed)).length * 2 ^ 16 + (x.segs.filter (·.streamed)).length), word x.need]
      ∧ t.obj? (mkHandle 1 (kget (fun _ => {}) s.place.objs j).gen j) = some x
      ∧ (∀ (k : Nat), k < 1024 → k ≠ j → kget (fun _ => {}) t.place.objs k = kget (fun _ => {}) s.place.objs k)
      ∧ t.rd A.PL_HBM_ECC F.PL_HBM_ECC.CE = min (2 ^ F.PL_HBM_ECC.CE.width - 1) (s.rd A.PL_HBM_ECC F.PL_HBM_ECC.CE + ce)
      ∧ { t with rings := s.rings, place := s.place, regs := s.regs, fab := s.fab } = s ∧ { t.place with objs := s.place.objs } = s.place
      ∧ s.keepsRegs t [A.PL_HBM_ECC])
  ∧ (∀ (s : State) (q : Nat) (c : Cmd) (ce : Nat) (data r : List Word) (i st d : Nat), q < 8 → s.serves q 0x0101 c → c.payload = 4 →
      c.w 4 = word i → i < 16 → bits (c.w 5) 1 0 = 0 →
    (c.w 7).toNat ≤ data.length → s.dmaWaits = false → s.hbmWaits 5 = false →
    s.ready q (uPlace :: (s.tilesOf i).map uTile) → refusal (s.loadCheck i (data.take (c.w 7).toNat)) = some (st, d, r) →
    ∃ (t : State), exec (.patternLoad q ce (some data) none allWell) s = .next t ∧ s.replies t q c st d r
      ∧ { t with rings := s.rings, regs := s.regs, fab := s.fab } = s ∧ s.keepsRegs t [A.IL_LAST, A.IL_LAST_UNIT])
  ∧ (∀ (s : State) (q : Nat) (c : Cmd) (h : Nat), q < 8 → s.serves q 0x0102 c → s.ready q [uPlace] → c.payload = 1 → c.w 4 = word h →
      h < 2 ^ 32 →
    s.handleStatus h [1] = 0 → s.runnerOf h = none →
    ∃ (t : State), exec (.patternFree q) s = .next t ∧ s.replies t q c 0 0 []
      ∧ t.obj? h = none
      ∧ (kget (fun _ => {}) t.place.objs (hIndex h)).gen = (kget (fun _ => {}) s.place.objs (hIndex h)).gen + 1
      ∧ (∀ (k : Nat), k < 1024 → k ≠ hIndex h → kget (fun _ => {}) t.place.objs k = kget (fun _ => {}) s.place.objs k)
      ∧ { t.place with objs := s.place.objs } = s.place
      ∧ (∀ (y : Nat), y < 16 → t.reg (A.PL_WIN_HANDLE y) = if s.reg (A.PL_WIN_HANDLE y) = word h then 0 else s.reg (A.PL_WIN_HANDLE y))
      ∧ { t with rings := s.rings, place := s.place, regs := s.regs, fab := s.fab } = s
      ∧ s.keepsRegs t ((List.range 16).map A.PL_WIN_HANDLE))

/-- BUFFER_ALLOC reserves the rate of a capture buffer (kind 2) or of a site's fail log (kind 3) where the ledger admits it, and gives
it the lowest free handle and HBM of the asked size in whole blocks of 64 KiB (R129, R131); PL_LEDGER and the site's NO_LOG follow.
BUFFER_FREE frees a buffer that is not in use (R132). LEDGER_READ answers the rates held and the rate left (R129). PLACE_REPORT answers
where an object's segments lie, where a buffer lies, its size and rate, or the units and enable bits of a measurement (R118). Only the
first two change anything but their ring. All four complete wherever the packet is well formed, its unit is free and its handle or its
space is there. -/
def Obligations.BuffersAndLedger : Prop :=
  (∀ (s : State) (q : Nat) (c : Cmd) (kind site kib rate i a : Nat), q < 8 → s.serves q 0x0110 c → s.ready q [uPlace] → c.payload = 3 →
      c.w 4 = word (kind + 16 * site) →
    c.w 5 = word kib → c.w 6 = word rate → (kind = 2 ∧ site = 0) ∨ (kind = 3 ∧ site < 16 ∧ s.failLog site = none) →
    0 < kib → kib < 2 ^ 32 → 0 < rate → s.bufferRate + s.streamRate none + rate ≤ 600000 →
    (if kind = 2 then freeIndex s.place.bufs 1024 else freeIndex s.place.logs 16) = some i →
    lowFit s.hbmUsed hbmBlocks ((kib + 63) / 64) = some a →
    ∃ (t : State), exec (.bufferAlloc q) s = .next t
      ∧ s.replies t q c 0 0 [word (mkHandle kind (kget (fun _ => {}) (if kind = 2 then s.place.bufs else s.place.logs) i).gen i)]
      ∧ t.buf? (mkHandle kind (kget (fun _ => {}) (if kind = 2 then s.place.bufs else s.place.logs) i).gen i)
          = some ⟨kind, site, (kib + 63) / 64 * 64, rate, a, 0, []⟩
      ∧ t.rd A.PL_LEDGER F.PL_LEDGER.HELD = s.bufferRate + s.streamRate none + rate
      ∧ t.bufferRate = s.bufferRate + rate
      ∧ (kind = 3 → t.rd (A.FAIL_STAT site) F.FAIL_STAT.NO_LOG = 0)
      ∧ { t with rings := s.rings, regs := s.regs, fab := s.fab, place := s.place } = s
      ∧ { t.place with bufs := s.place.bufs, logs := s.place.logs } = s.place
      ∧ (if kind = 2 then t.place.logs = s.place.logs ∧ ∀ (k : Nat), k < 1024 → k ≠ i →
          kget (fun _ => {}) t.place.bufs k = kget (fun _ => {}) s.place.bufs k
        else t.place.bufs = s.place.bufs ∧ ∀ (k : Nat), k < 16 → k ≠ i →
            kget (fun _ => {}) t.place.logs k = kget (fun _ => {}) s.place.logs k)
      ∧ s.keepsRegs t [A.PL_LEDGER, A.FAIL_STAT site])
  ∧ (∀ (s : State) (q : Nat) (c : Cmd) (h : Nat) (b : Buffer), q < 8 → s.serves q 0x0111 c → s.ready q [uPlace] → c.payload = 1 →
      c.w 4 = word h → h < 2 ^ 32 →
    s.buf? h = some b → b.boundTo = 0 → (b.kind = 3 → s.reserved b.site = false) →
    ∃ (t : State), exec (.bufferFree q) s = .next t ∧ s.replies t q c 0 0 []
      ∧ t.buf? h = none
      ∧ (if hKind h = 2 then t.place.logs = s.place.logs ∧ ∀ (k : Nat), k < 1024 → k ≠ hIndex h →
          kget (fun _ => {}) t.place.bufs k = kget (fun _ => {}) s.place.bufs k
        else t.place.bufs = s.place.bufs ∧ ∀ (k : Nat), k < 16 → k ≠ hIndex h →
            kget (fun _ => {}) t.place.logs k = kget (fun _ => {}) s.place.logs k)
      ∧ t.rd A.PL_LEDGER F.PL_LEDGER.HELD = (t.bufferRate + t.streamRate none) % 2 ^ F.PL_LEDGER.HELD.width
      ∧ (∀ (y : Nat), y < 16 → t.reg (A.PL_WIN_HANDLE y) = if s.reg (A.PL_WIN_HANDLE y) = word h then 0 else s.reg (A.PL_WIN_HANDLE y))
      ∧ { t with rings := s.rings, place := s.place, regs := s.regs, fab := s.fab } = s
      ∧ { t.place with bufs := s.place.bufs, logs := s.place.logs } = s.place
      ∧ s.keepsRegs t ([A.PL_LEDGER, A.FAIL_STAT b.site] ++ (List.range 16).map A.PL_WIN_HANDLE))
  ∧ (∀ (s : State) (q : Nat) (c : Cmd), q < 8 → s.serves q 0x0140 c → c.payload = 0 →
    ∃ (t : State), exec (.ledgerRead q) s = .next t ∧ { t with rings := s.rings } = s
      ∧ s.replies t q c 0 0 [word s.bufferRate, word (s.streamRate none), word (600000 - (s.bufferRate + s.streamRate none))])
  ∧ (∀ (s : State) (q : Nat) (c : Cmd) (h : Nat) (b : Buffer), q < 8 → s.serves q 0x0103 c → s.ready q [uPlace] → s.hbmWaits 5 = false →
      c.payload = 1 → c.w 4 = word h → h < 2 ^ 32 →
    s.buf? h = some b →
    ∃ (t : State), exec (.placeReport q) s = .next t ∧ { t with rings := s.rings } = s
      ∧ s.replies t q c 0 0 [word (1024 * b.hbmAt), word b.kib, word b.rate, word (if b.kind = 2 then b.boundTo else b.site)])
  ∧ (∀ (s : State) (q : Nat) (c : Cmd) (h : Nat) (o : PatObj), q < 8 → s.serves q 0x0103 c → s.ready q [uPlace] → s.hbmWaits 5 = false →
      c.payload = 1 → c.w 4 = word h → h < 2 ^ 32 →
    s.obj? h = some o →
    ∃ (t : State), exec (.placeReport q) s = .next t ∧ { t with rings := s.rings } = s
      ∧ s.replies t q c 0 0 ([word h, word (o.segs.length * 2 ^ 16 + o.site)] ++ o.segs.zipIdx.flatMap (fun p =>
          [word ((if p.1.streamed then 2 ^ 30 else 0) + p.2),
           word (if p.1.streamed then (65536 * o.hbmAt + p.1.offset) / 64 else p.1.offset)])))
  ∧ (∀ (s : State) (q : Nat) (c : Cmd) (h : Nat) (m : Meas), q < 8 → s.serves q 0x0103 c → s.ready q [uPlace] → s.hbmWaits 5 = false →
      c.payload = 1 → c.w 4 = word h → h < 2 ^ 32 →
    s.meas? h = some m →
    ∃ (t : State), exec (.placeReport q) s = .next t ∧ { t with rings := s.rings } = s
      ∧ s.replies t q c 0 0 ([word m.units.length] ++ m.units.map word ++ [word m.links.length]
          ++ m.links.map (fun l => word (l.1 * 2 ^ 16 + l.2))))

/-- Windows. WINDOW_BIND binds a window to a handle at an offset inside its data, or unbinds it, and a write of a window's handle
register does so at the offset the window holds; a write to a window itself is discarded and counted (R137). -/
def Obligations.LocalMemoryWindows : Prop :=
  (∀ (s : State) (q : Nat) (c : Cmd) (x ofs h : Nat), q < 8 → s.serves q 0x0130 c → s.ready q [uPlace] → c.payload = 2 →
      c.w 4 = word (256 * x + ofs) → x < 16 → ofs < 256 →
    c.w 5 = word h → h < 2 ^ 32 → (h = 0 ∨ (s.handleStatus h [1, 2, 3] = 0 ∧ ofs * 2 ^ 24 < s.dataBytes h)) →
    ∃ (t : State), exec (.windowBind q) s = .next t ∧ s.replies t q c 0 0 []
      ∧ t.reg (A.PL_WIN_HANDLE x) = word h ∧ t.rd (A.PL_WIN x) F.PL_WIN.OFS16 = ofs
      ∧ { t with rings := s.rings, regs := s.regs, fab := s.fab } = s ∧ s.keepsRegs t [A.PL_WIN x, A.PL_WIN_HANDLE x])
  ∧ (∀ (s : State) (x : Nat) (v : Word), x < 16 → s.link.up = true → s.flag A.HL_CTRL F.HL_CTRL.WINDOW_RW = true →
      s.fabricWait (A.PL_WIN_HANDLE x) = none →
    (v = 0 ∨ (s.handleStatus v.toNat [1, 2, 3] = 0 ∧ s.rd (A.PL_WIN x) F.PL_WIN.OFS16 * 2 ^ 24 < s.dataBytes v.toNat)) →
    ∃ (t : State), exec (.plWinWrite x v) s = .next t ∧ t.reg (A.PL_WIN_HANDLE x) = v
      ∧ { t with regs := s.regs } = s ∧ s.keepsRegs t [A.PL_WIN_HANDLE x])
  ∧ (∀ (s : State), s.link.up = true → ∃ (t : State), exec .windowWrite s = .next t
      ∧ t.rd A.HL_WIN_DISCARD F.HL_WIN_DISCARD.COUNT = min (2 ^ 32 - 1) (s.rd A.HL_WIN_DISCARD F.HL_WIN_DISCARD.COUNT + 1)
      ∧ { t with regs := s.regs } = s ∧ s.keepsRegs t [A.HL_WIN_DISCARD])

/-- MEAS_PLACE takes the lowest free units of the source's die (R133): for one or two pins of a die a time-interval channel with a
measurement-engine slot, whose inputs are then the pins with the edges asked (KIND 1 and 2), a digitizer channel that samples the pin
into the capture buffer (KIND 3), a window monitor (KIND 4), or a source channel that the pin's PMU then forces from (KIND 5, R277); the
handle and the units are answered. A TIO pin, which is a source of no die, comes to the channel of die 0 over a die line that the
placement holds (R35, R390). MEAS_RELEASE frees the units and clears exactly the enable bits that the placement had set (R133, R390).
Both complete wherever the packet is well formed and the units are there. It rests on the model's readings: log entries 38, 39 and 80.
-/
def Obligations.PlacedMeasurements : Prop :=
  (∀ (s : State) (q : Nat) (c : Cmd) (n edge k x : Nat), q < 8 → s.serves q 0x0120 c → s.ready q [uPlace] → c.payload = 4 →
      c.w 4 = word (2 + 16 * edge) → 0 < edge → edge < 4 →
    c.w 5 = word (uPin n) → n < 256 → c.w 6 = 0 → c.w 7 = 0 → s.mode n ≠ 7 → s.retired n = false →
    (kget (fun _ => {}) s.place.meas 0).val = none → s.freeTu (n / 64) = some k → s.freeSlot? = some x →
    ∃ (t : State), exec (.measPlace q) s = .next t
      ∧ s.replies t q c 0 0 [word (mkHandle 4 (kget (fun _ => {}) s.place.meas 0).gen 0), 2, word (uMeas (x / 8)), word (uTu k)]
      ∧ (t.meas? (mkHandle 4 (kget (fun _ => {}) s.place.meas 0).gen 0)).map (·.units) = some [uMeas (x / 8), uTu k]
      ∧ t.reg (A.ME_SLOT x) = word (mkHandle 4 (kget (fun _ => {}) s.place.meas 0).gen 0)
      ∧ bits (t.reg (A.TU_IN_A k)) 31 29 = 0 ∧ bits (t.reg (A.TU_IN_A k)) 28 23 = n % 64
      ∧ bits (t.reg (A.TU_IN_A k)) 21 20 = edge ∧ t.reg (A.TU_CTRL k) = 4
      ∧ { t with rings := s.rings, place := s.place, regs := s.regs, fab := s.fab, tu := s.tu, results := s.results } = s
      ∧ s.keepsRegs t [A.ME_SLOT x, A.ME_QUEUE x, A.TU_IN_A k, A.TU_IN_B k, A.TU_CTRL k, A.TU_WOPEN k, A.TU_WCLOSE k, A.TU_COUNT k,
          A.TU_REPS k, A.TU_SKEW_A k, A.TU_SKEW_B k])
  ∧ (∀ (s : State) (q : Nat) (c : Cmd) (n m ea eb k x : Nat), q < 8 → s.serves q 0x0120 c → s.ready q [uPlace] → c.payload = 4 →
      c.w 4 = word (1 + 16 * ea + 64 * eb) →
    0 < ea → ea < 4 → 0 < eb → eb < 4 → c.w 5 = word (uPin n) → n < 256 → c.w 6 = word (uPin m) → m < 256 → m / 64 = n / 64 → c.w 7 = 0 →
    s.mode n ≠ 7 → s.retired n = false → s.mode m ≠ 7 → s.retired m = false →
    (kget (fun _ => {}) s.place.meas 0).val = none → s.freeTu (n / 64) = some k → s.freeSlot? = some x →
    ∃ (t : State), exec (.measPlace q) s = .next t
      ∧ s.replies t q c 0 0 [word (mkHandle 4 (kget (fun _ => {}) s.place.meas 0).gen 0), 2, word (uMeas (x / 8)), word (uTu k)]
      ∧ (t.meas? (mkHandle 4 (kget (fun _ => {}) s.place.meas 0).gen 0)).map (·.units) = some [uMeas (x / 8), uTu k]
      ∧ bits (t.reg (A.TU_IN_A k)) 28 23 = n % 64 ∧ bits (t.reg (A.TU_IN_A k)) 21 20 = ea
      ∧ bits (t.reg (A.TU_IN_B k)) 28 23 = m % 64 ∧ bits (t.reg (A.TU_IN_B k)) 21 20 = eb ∧ t.reg (A.TU_COUNT k) = 1
      ∧ { t with rings := s.rings, place := s.place, regs := s.regs, fab := s.fab, tu := s.tu, results := s.results } = s)
  ∧ (∀ (s : State) (q : Nat) (c : Cmd) (n edge k x l : Nat), q < 8 → s.serves q 0x0120 c → s.ready q [uPlace] → c.payload = 4 →
      c.w 4 = word (2 + 16 * edge) → 0 < edge → edge < 4 →
    c.w 5 = word (uTio n) → n < 16 → c.w 6 = 0 → c.w 7 = 0 →
    (kget (fun _ => {}) s.place.meas 0).val = none → s.freeTu 0 = some k → s.freeSlot? = some x → s.freeLine 0 [] = some l →
    ∃ (t : State), exec (.measPlace q) s = .next t
      ∧ s.replies t q c 0 0 [word (mkHandle 4 (kget (fun _ => {}) s.place.meas 0).gen 0), 2, word (uMeas (x / 8)), word (uTu k)]
      ∧ bits (t.reg (A.TU_IN_A k)) 31 29 = 6 ∧ t.joined (32 + n) l = true ∧ t.target (l - 68) = 2 ^ (32 + k % 8)
      ∧ t.flag (A.PR_CCFG l) F.PR_CCFG.HELD = true
      ∧ (∀ (p : Nat), p < 256 → ∀ (x : Nat), x < 192 → ¬ (p = 32 + n ∧ x = l) → t.joined p x = s.joined p x)
      ∧ { t with rings := s.rings, place := s.place, regs := s.regs, fab := s.fab, tu := s.tu, results := s.results } = s)
  ∧ (∀ (s : State) (q : Nat) (c : Cmd) (n h k : Nat), q < 8 → s.serves q 0x0120 c → s.ready q [uPlace] → c.payload = 4 → c.w 4 = 3 →
    c.w 5 = word (uPin n) → n < 256 → c.w 6 = 0 → c.w 7 = word h → h < 2 ^ 32 → s.handleStatus h [2] = 0 →
        (s.buf? h).map (·.boundTo) = some 0 →
    s.mode n ≠ 7 → s.retired n = false →
    (kget (fun _ => {}) s.place.meas 0).val = none → s.freeUnit uAq 8 (n / 64) = some k →
    ∃ (t : State), exec (.measPlace q) s = .next t
      ∧ s.replies t q c 0 0 [word (mkHandle 4 (kget (fun _ => {}) s.place.meas 0).gen 0), 1, word (uAq k)]
      ∧ (t.meas? (mkHandle 4 (kget (fun _ => {}) s.place.meas 0).gen 0)).map (·.units) = some [uAq k]
      ∧ (t.buf? h).map (·.boundTo) = some (mkHandle 4 (kget (fun _ => {}) s.place.meas 0).gen 0)
      ∧ t.reg (A.AQ_CFG k) = word (n % 64 * 2 ^ 23)
      ∧ { t with rings := s.rings, place := s.place, regs := s.regs, fab := s.fab } = s
      ∧ s.keepsRegs t ([A.AQ_CFG k, A.AQ_SKEW k] ++ (List.range 4).flatMap (fun j => [A.AQ_COND_A k j, A.AQ_COND_B k j])))
  ∧ (∀ (s : State) (q : Nat) (c : Cmd) (n k : Nat), q < 8 → s.serves q 0x0120 c → s.ready q [uPlace] → c.payload = 4 → c.w 4 = 4 →
    c.w 5 = word (uPin n) → n < 256 → c.w 6 = 0 → c.w 7 = 0 → s.mode n ≠ 7 → s.retired n = false →
    (kget (fun _ => {}) s.place.meas 0).val = none → s.freeUnit uWm 16 (n / 64) = some k →
    ∃ (t : State), exec (.measPlace q) s = .next t
      ∧ s.replies t q c 0 0 [word (mkHandle 4 (kget (fun _ => {}) s.place.meas 0).gen 0), 1, word (uWm k)]
      ∧ (t.meas? (mkHandle 4 (kget (fun _ => {}) s.place.meas 0).gen 0)).map (·.units) = some [uWm k]
      ∧ { t with rings := s.rings, place := s.place } = s ∧ { t.place with meas := s.place.meas } = s.place)
  ∧ (∀ (s : State) (q : Nat) (c : Cmd) (n k : Nat), q < 8 → s.serves q 0x0120 c → s.ready q [uPin n, uPlace] → c.payload = 4 → c.w 4 = 5 →
    c.w 5 = word (uPin n) → n < 256 → c.w 6 = 0 → c.w 7 = 0 → s.mode n ≠ 7 → s.retired n = false →
    s.rd (A.PMU_CFG n) F.PMU_CFG.FORCE = 0 → s.rd (A.PMU_CFG n) F.PMU_CFG.RANGE ≤ 5 →
    (kget (fun _ => {}) s.place.meas 0).val = none → s.freeUnit uAw 8 (n / 64) = some k →
    ∃ (t : State), exec (.measPlace q) s = .next t
      ∧ s.replies t q c 0 0 [word (mkHandle 4 (kget (fun _ => {}) s.place.meas 0).gen 0), 1, word (uAw k)]
      ∧ (t.meas? (mkHandle 4 (kget (fun _ => {}) s.place.meas 0).gen 0)).map (·.units) = some [uAw k]
      ∧ t.rd (A.PMU_CFG n) F.PMU_CFG.AWSRC = 1 ∧ t.rd (A.PMU_CFG n) F.PMU_CFG.AW_SEL = k % 8
      ∧ t.rd (A.PMU_CFG n) F.PMU_CFG.FORCE = 0
      ∧ { t with rings := s.rings, place := s.place, regs := s.regs, shadow := s.shadow, fab := s.fab, pins := s.pins } = s
      ∧ s.keepsRegs t [A.PMU_CFG n, A.PMU_STATUS n] ∧ ∀ (m : Nat), m < 256 → m ≠ n → t.pin m = s.pin m)
  ∧ (∀ (s : State) (q : Nat) (c : Cmd) (h : Nat) (m : Meas), q < 8 → s.serves q 0x0121 c → s.ready q [uPlace] → c.payload = 1 →
      c.w 4 = word h → h < 2 ^ 32 →
    s.meas? h = some m → m.units.find? s.unitRuns = none → (∀ l ∈ m.links, l.1 < 256 ∧ l.2 < 192) →
    (∀ l ∈ m.lines, l < 192) → (∀ x ∈ m.slot, x < 64) →
    ∃ (t : State), exec (.measRelease q) s = .next t ∧ s.replies t q c 0 0 []
      ∧ t.meas? h = none ∧ (∀ l ∈ m.links, t.joined l.1 l.2 = false)
      ∧ (∀ (p : Nat), p < 256 → ∀ (k : Nat), k < 192 → (p, k) ∉ m.links → t.joined p k = s.joined p k)
      ∧ (∀ l ∈ m.lines, t.flag (A.PR_CCFG l) F.PR_CCFG.HELD = false)
      ∧ (∀ x ∈ m.slot, t.reg (A.ME_SLOT x) = 0)
      ∧ { t with rings := s.rings, place := s.place, regs := s.regs, fab := s.fab, results := s.results } = s)

/-- SITE_FORM over free tiles makes them a site: SEQ_SITE_CFG shows the lead tile and the width, every tile shows the site, and the lead
tile alone shows LEAD (R139, R140). Where a tile fails to prepare, its status ends the command with the unit map, and nothing else
changes (R42, R44). SITE_DISSOLVE of a site that is not armed, running or paused undoes it, and its pattern objects are no longer bound
(R122, R141). It rests on the model's reading: log entry 69. -/
def Obligations.SitesFormAndDissolve : Prop :=
  (∀ (s : State) (q : Nat) (c : Cmd) (i a n : Nat), q < 8 → s.serves q 0x0401 c → c.payload = 1 →
      c.w 4 = word (256 * i + 16 * a + (n - 1)) → i < 16 → 0 < n → a + n ≤ 16 →
    s.ready q ((List.range n).map (fun j => uTile (a + j))) → s.formed i = false → (∀ (j : Nat), j < n → s.siteOfTile (a + j) = none) →
    (s.mirror = true → n = 4 ∧ a % 4 = 0) → gradeClash s ((List.range n).map (a + ·)) (fun _ => a) = none →
    ∃ (t : State), exec (.siteForm q allWell) s = .next t ∧ s.replies t q c 0 0 []
      ∧ t.formed i = true ∧ t.lead i = a ∧ t.width i = n ∧ (∀ (j : Nat), j < n → t.siteOfTile (a + j) = some i)
      ∧ (∀ (j : Nat), j < n → t.flag (A.SEQ_TILE_STATUS (a + j)) F.SEQ_TILE_STATUS.LEAD = decide (j = 0))
      ∧ { t with rings := s.rings, regs := s.regs, fab := s.fab } = s
      ∧ s.keepsRegs t (A.SEQ_SITE_CFG i :: (List.range n).map (fun j => A.SEQ_TILE_STATUS (a + j))))
  ∧ (∀ (s : State) (q : Nat) (c : Cmd) (i a n j st : Nat), q < 8 → s.serves q 0x0401 c → c.payload = 1 →
      c.w 4 = word (256 * i + 16 * a + (n - 1)) → i < 16 → 0 < n → a + n ≤ 16 →
    s.ready q ((List.range n).map (fun j => uTile (a + j))) → s.formed i = false → (∀ (j : Nat), j < n → s.siteOfTile (a + j) = none) →
    s.mirror = false → s.gradeB = false → j < n → st / 256 = 6 →
    ∃ (t : State), exec (.siteForm q { prepare := [(uTile (a + j), st)] }) s = .next t
      ∧ s.replies t q c st n ((List.range n).map (fun k => mapWord (if k = j then 2 else 0) (uTile (a + k))))
      ∧ { t with rings := s.rings, regs := s.regs, fab := s.fab } = s ∧ s.keepsRegs t [])
  ∧ (∀ (s : State) (q : Nat) (c : Cmd) (i h : Nat) (o : PatObj), q < 8 → s.serves q 0x0402 c → c.payload = 1 → c.w 4 = word i → i < 16 →
      s.ready q ((s.tilesOf i).map uTile) →
    s.formed i = true → s.reserved i = false → s.lead i + s.width i ≤ 16 → gradeClash s (s.tilesOf i) id = none →
    h < 2 ^ 32 → s.obj? h = some o → o.site = i →
    ∃ (t : State), exec (.siteDissolve q allWell) s = .next t ∧ s.replies t q c 0 0 []
      ∧ t.formed i = false ∧ (∀ k ∈ s.tilesOf i, t.siteOfTile k = none)
      ∧ t.obj? h = some { o with bound := false }
      ∧ { t with rings := s.rings, regs := s.regs, fab := s.fab, place := s.place } = s
      ∧ s.keepsRegs t (A.SEQ_SITE_CFG i :: (s.tilesOf i).map A.SEQ_TILE_STATUS))

/-- Run start. RUN_START of a site holds its stream reservation and its power claim, clears what a run start clears, names its pattern,
and lets it prime: running at once without ARM, armed with it (R129, R163, R439). Once the streams are primed the site without ARM
starts cycle 0 640 MTC ticks later and the command answers its reservation; an armed one waits (log entry 20). A site that its START
event or a resume has set running no longer waits once its cycle has started (R162 to R164). -/
def Obligations.RunsStart : Prop :=
  (∀ (s : State) (q : Nat) (c : Cmd) (i h r arm stop more : Nat), q < 8 → s.serves q 0x0410 c → c.payload = 2 → i < 16 → arm < 2 →
      stop < 2 →
    c.w 4 = word (2 ^ i + 2 ^ 16 * arm + 2 ^ 17 * stop) → c.w 5 = word h → h < 2 ^ 32 → s.ready q ((s.tilesOf i).map uTile) →
    (∀ n ∈ s.pinsOf i, uPin n ∉ s.inCalRun) →
    s.formed i = true → s.reserved i = false → s.lead i + s.width i ≤ 16 → s.handleStatus h [1] = 0 →
    (s.obj? h).map (fun o => (o.bound, o.site)) = some (true, i) → more < 2 →
    (runPlan s [(i, h)] []).toOption = some [(i, h, r, decide (more = 1))] →
    ∃ (t : State), exec (.runStart q allWell) s = .next t
      ∧ (t.site i).priming = true ∧ t.claimOf (uSite i) = 1000 * s.width i + (r + 119) / 120
      ∧ kget (fun _ => 0) t.place.reserve i = r
      ∧ t.siteState i = (if arm = 1 then 0 else 1) ∧ t.armed i = decide (arm = 1)
      ∧ t.rd (A.SEQ_SITE_STATE i) F.SEQ_SITE_STATE.VALID = 1 ∧ t.rd (A.SEQ_SITE_STATE i) F.SEQ_SITE_STATE.FAILED = 0
      ∧ t.rd (A.SEQ_SITE_STATE i) F.SEQ_SITE_STATE.STOP_ON_FAIL = stop
      ∧ t.rd (A.PL_STARVE i) F.PL_STARVE.OVERSUB = more
      ∧ t.reg (A.SEQ_HANDLE i) = word h ∧ t.pair (A.SEQ_CYCLE_LO i) (A.SEQ_CYCLE_HI i) = 0 ∧ t.evFlag i = false
      ∧ (∀ n ∈ s.pinsOf i, t.reg (A.CMP_FAILCNT n) = 0) ∧ (∀ k ∈ s.tilesOf i, (t.tile k).store = [])
      ∧ (t.ring q).run = some
        { c with held := (s.tilesOf i).map uTile, want := [], waitSince := none, stage := 1, data := [Int.ofNat (2 ^ i), Int.ofNat arm, Int.ofNat r] }
      ∧ (∀ (j : Nat), j < 16 → j ≠ i → t.site j = s.site j ∧ t.reg (A.SEQ_SITE_STATE j) = s.reg (A.SEQ_SITE_STATE j))
      ∧ (∀ (k : Nat), k < 16 → k ∉ s.tilesOf i → t.tile k = s.tile k)
      ∧ { t with rings := s.rings, regs := s.regs, fab := s.fab, sites := s.sites, tiles := s.tiles, place := s.place, power := s.power } = s
      ∧ { t.place with reserve := s.place.reserve } = s.place)
  ∧ (∀ (s : State) (q : Nat) (c : Cmd) (i r arm ce : Nat) (o : PatObj), q < 8 → (s.ring q).run = some c → c.reply = none →
      c.opcode = 0x0410 → c.stage = 1 → c.orphan = false → c.late = [] →
    i < 16 → arm < 2 → c.data = [Int.ofNat (2 ^ i), Int.ofNat arm, Int.ofNat r] → (s.site i).priming = true → (s.site i).block = none →
    s.runObj i = some o → s.lead i + s.width i ≤ 16 →
    ∃ (t : State), exec (.streamPrimeDone q ce []) s = .next t
      ∧ (t.ring q).run.bind (·.reply) = some ⟨0, 0, t.coarseNow, [word r]⟩
      ∧ (t.site i).priming = false ∧ (∀ k ∈ s.tilesOf i, (t.tile k).fill = min 65536 o.streamBytes)
      ∧ (t.tile (s.lead i)).ctrlFill = min 8192 o.streamCtrl
      ∧ (t.site i).nextStart = (if arm = 0 then 1250 * (s.now + 640) else (s.site i).nextStart)
      ∧ t.siteState i = (if arm = 0 then (if ((o.seg (s.site i).pos.1).map (·.streamed)).getD false then 2 else 1) else s.siteState i)
      ∧ t.rd A.PL_HBM_ECC F.PL_HBM_ECC.CE = min (2 ^ F.PL_HBM_ECC.CE.width - 1) (s.rd A.PL_HBM_ECC F.PL_HBM_ECC.CE + ce)
      ∧ (∀ (j : Nat), j < 16 → j ≠ i → t.site j = s.site j) ∧ (∀ (k : Nat), k < 16 → k ∉ s.tilesOf i → t.tile k = s.tile k)
      ∧ { t with rings := s.rings, regs := s.regs, sites := s.sites, tiles := s.tiles, place := s.place } = s
      ∧ { t.place with objs := s.place.objs } = s.place
      ∧ s.keepsRegs t ([A.PL_HBM_ECC, A.SEQ_SITE_STATE i]
          ++ (s.tilesOf i).map (fun k => A.PL_TILE_PF (s.rd (A.SEQ_TILE_STATUS k) F.SEQ_TILE_STATUS.PHYS))))
  ∧ (∀ (s : State) (i n : Nat), i < 16 → (s.site i).startDue = some n → n ≤ s.now →
    ∃ (t : State), exec (.armedStart i) s = .next t
      ∧ t.site i = { s.site i with startDue := none } ∧ (∀ (j : Nat), j < 16 → j ≠ i → t.site j = s.site j)
          ∧ { t with sites := s.sites } = s)
  ∧ (∀ (s : State) (i n : Nat), i < 16 → (s.site i).resumeDue = some n → n ≤ s.now →
    ∃ (t : State), exec (.resumeStart i) s = .next t
      ∧ t.site i = { s.site i with resumeDue := none } ∧ (∀ (j : Nat), j < 16 → j ≠ i → t.site j = s.site j)
      ∧ t.reg (A.SEQ_SITE_CTRL i) = s.reg (A.SEQ_SITE_CTRL i) &&& ~~~ (2 : Word)
      ∧ { t with regs := s.regs, sites := s.sites } = s ∧ s.keepsRegs t [A.SEQ_SITE_CTRL i])

/-- Run control of one site. RUN_PAUSE registers a pause at a running site (R164); RUN_RESUME and RUN_STEP set a paused site running,
its next cycle starting 640 MTC ticks later, RUN_STEP for COUNT instructions (R164, R165); RUN_HALT gives an active site a stop with
cause HOST_HALT, after which no cycle issued starts, disarms an armed one, which gives up its reservation and its claim, and reports one
that is neither with 0x0001 (R162, R166); RUN_JUMP makes a jump to a segment pending and reports one it replaces (R168); RUN_STATUS
answers twelve registers (R161). It rests on the model's reading: log entry 27. -/
def Obligations.RunControl : Prop :=
  (∀ (s : State) (q : Nat) (c : Cmd) (i : Nat), q < 8 → s.serves q 0x0411 c → c.payload = 1 → c.w 4 = word (2 ^ i) → i < 16 →
      s.ready q ((s.tilesOf i).map uTile) →
    s.formed i = true → s.runs i = true →
    ∃ (t : State), exec (.runPause q allWell) s = .next t ∧ s.replies t q c 0 0 []
      ∧ t.site i = { s.site i with pausePend := true, stopGen := 0, pauseAt := s.now } ∧ (∀ (j : Nat), j < 16 → j ≠ i → t.site j = s.site j)
      ∧ { t with rings := s.rings, sites := s.sites } = s)
  ∧ (∀ (s : State) (q : Nat) (c : Cmd) (i : Nat), q < 8 → s.serves q 0x0412 c → c.payload = 1 → c.w 4 = word (2 ^ i) → i < 16 →
      s.ready q ((s.tilesOf i).map uTile) →
    s.formed i = true → s.siteState i = 4 →
    ∃ (t : State), exec (.runResume q allWell) s = .next t ∧ s.replies t q c 0 0 []
      ∧ (t.site i).resumeDue = some (s.now + 640) ∧ (t.site i).nextStart = 1250 * (s.now + 640)
      ∧ (t.site i).pausePend = false ∧ (t.site i).steps = none ∧ (∀ (j : Nat), j < 16 → j ≠ i → t.site j = s.site j)
      ∧ t.siteState i = s.kindNow i
      ∧ { t with rings := s.rings, regs := s.regs, fab := s.fab, sites := s.sites } = s ∧ s.keepsRegs t [A.SEQ_SITE_STATE i])
  ∧ (∀ (s : State) (q : Nat) (c : Cmd) (i n : Nat), q < 8 → s.serves q 0x0413 c → c.payload = 1 → c.w 4 = word (65536 * n + i) → i < 16 →
      0 < n → n < 65536 →
    s.ready q ((s.tilesOf i).map uTile) → s.formed i = true → s.siteState i = 4 →
    ∃ (t : State), exec (.runStep q) s = .next t ∧ s.replies t q c 0 0 []
      ∧ (t.site i).resumeDue = some (s.now + 640) ∧ (t.site i).nextStart = 1250 * (s.now + 640)
      ∧ (t.site i).pausePend = false ∧ (t.site i).steps = some n ∧ (∀ (j : Nat), j < 16 → j ≠ i → t.site j = s.site j)
      ∧ t.siteState i = s.kindNow i
      ∧ { t with rings := s.rings, regs := s.regs, fab := s.fab, sites := s.sites } = s ∧ s.keepsRegs t [A.SEQ_SITE_STATE i])
  ∧ (∀ (s : State) (q : Nat) (c : Cmd) (i : Nat), q < 8 → s.serves q 0x0414 c → c.payload = 1 → c.w 4 = word (2 ^ i) → i < 16 →
      s.ready q ((s.tilesOf i).map uTile) →
    s.formed i = true → s.active i = true → (s.site i).stop = none →
    ∃ (t : State), exec (.runHalt q allWell) s = .next t ∧ s.replies t q c 0 0 []
      ∧ (t.site i).stop.map (·.cause) = some 2 ∧ (t.site i).stop.map (·.valid) = some (decide (s.siteState i = 4))
      ∧ (∀ x ∈ (t.site i).align ++ (t.site i).queue, x.start < (((t.site i).stop.map (·.at_)).getD 0))
      ∧ (∀ (j : Nat), j < 16 → j ≠ i → t.site j = s.site j)
      ∧ { t with rings := s.rings, sites := s.sites } = s)
  ∧ (∀ (s : State) (q : Nat) (c : Cmd) (i : Nat), q < 8 → s.serves q 0x0414 c → c.payload = 1 → c.w 4 = word (2 ^ i) → i < 16 →
      s.ready q ((s.tilesOf i).map uTile) →
    s.formed i = true → s.active i = false → s.armed i = true →
    ∃ (t : State), exec (.runHalt q allWell) s = .next t ∧ s.replies t q c 0 0 []
      ∧ t.armed i = false ∧ t.rd (A.SEQ_SITE_STATE i) F.SEQ_SITE_STATE.CAUSE = 2
      ∧ t.claimOf (uSite i) = 0 ∧ kget (fun _ => 0) t.place.reserve i = 0
      ∧ (t.site i).startDue = none ∧ (t.site i).priming = false ∧ t.jumpPending i = false
      ∧ (∀ (j : Nat), j < 16 → j ≠ i → t.site j = s.site j)
      ∧ { t with rings := s.rings, regs := s.regs, fab := s.fab, sites := s.sites, place := s.place, power := s.power } = s
      ∧ { t.place with reserve := s.place.reserve } = s.place)
  ∧ (∀ (s : State) (q : Nat) (c : Cmd) (i : Nat), q < 8 → s.serves q 0x0414 c → c.payload = 1 → c.w 4 = word (2 ^ i) → i < 16 →
      s.ready q ((s.tilesOf i).map uTile) →
    s.formed i = true → s.reserved i = false →
    ∃ (t : State), exec (.runHalt q allWell) s = .next t ∧ s.replies t q c 0x0001 (2 ^ i) [] ∧ { t with rings := s.rings } = s)
  ∧ (∀ (s : State) (q : Nat) (c : Cmd) (i n : Nat) (o : PatObj), q < 8 → s.serves q 0x0415 c → c.payload = 1 →
      c.w 4 = word (65536 * n + i) → i < 16 → n < 4096 →
    s.ready q ((s.tilesOf i).map uTile) → s.formed i = true → s.active i = true → s.runObj i = some o → n < o.segs.length →
    jumpBad o s.decl n = false →
    ∃ (t : State), exec (.runJump q) s = .next t
      ∧ s.replies t q c (if s.jumpPending i then 1 else 0) (if s.jumpPending i then 1 else 0) []
      ∧ t.rd (A.SEQ_JUMP i) F.SEQ_JUMP.REQ = 1 ∧ t.rd (A.SEQ_JUMP i) F.SEQ_JUMP.SEG = n ∧ t.jumpPending i = true
      ∧ t.site i = { s.site i with jumpId := (s.site i).jumpId + 1 }
      ∧ { t with rings := s.rings, regs := s.regs, fab := s.fab, sites := s.sites } = s
      ∧ s.keepsRegs t [A.SEQ_JUMP i, A.SEQ_SITE_STATE i])
  ∧ (∀ (s : State) (q : Nat) (c : Cmd) (i : Nat), q < 8 → s.serves q 0x0418 c → c.payload = 1 → c.w 4 = word i → i < 16 →
      s.formed i = true →
    ∃ (t : State), exec (.runStatus q) s = .next t ∧ { t with rings := s.rings } = s
      ∧ s.replies t q c 0 0 [s.reg (A.SEQ_SITE_STATE i), s.reg (A.SEQ_HANDLE i), s.reg (A.SEQ_CYCLE_LO i), s.reg (A.SEQ_CYCLE_HI i),
          s.reg (A.SEQ_RESULT_LO i), s.reg (A.SEQ_RESULT_HI i), s.reg (A.SEQ_TESTS_LO i), s.reg (A.SEQ_TESTS_HI i),
          s.reg (A.SEQ_START_LO i), s.reg (A.SEQ_START_HI i), s.reg (A.SEQ_STOP_LO i), s.reg (A.SEQ_STOP_HI i)])

/-- The same requests by register write. SEQ_SITE_CTRL registers PAUSE at a running site, RESUME and STEP at a paused one and HALT at an
active one, each bit of which stays set until its action completes (R11), and a request that the site's state does not allow is
discarded and counted (R162); EV_SET sets the event flag (R158); SEQ_JUMP makes a host jump that RUN_JUMP would accept pending (R168).
It rests on the model's reading: log entry 27. -/
def Obligations.SiteRegisterRequests : Prop :=
  (∀ (s : State) (i : Nat), i < 16 → s.link.up = true → s.flag A.HL_CTRL F.HL_CTRL.WINDOW_RW = true →
      s.fabricWait (A.SEQ_SITE_CTRL i) = none → s.runs i = true →
    ∃ (t : State), exec (.siteCtrlPause i) s = .next t ∧ t.site i = { s.site i with pausePend := true, stopGen := 0, pauseAt := s.now }
      ∧ (∀ (j : Nat), j < 16 → j ≠ i → t.site j = s.site j) 
      ∧ t.reg (A.SEQ_SITE_CTRL i) = s.reg (A.SEQ_SITE_CTRL i) ||| 1
      ∧ { t with regs := s.regs, sites := s.sites } = s ∧ s.keepsRegs t [A.SEQ_SITE_CTRL i])
  ∧ (∀ (s : State) (i : Nat), i < 16 → s.link.up = true → s.flag A.HL_CTRL F.HL_CTRL.WINDOW_RW = true →
      s.fabricWait (A.SEQ_SITE_CTRL i) = none → s.siteState i = 4 →
    ∃ (t : State), exec (.siteCtrlResume i) s = .next t ∧ (t.site i).resumeDue = some (s.now + 640)
      ∧ (t.site i).nextStart = 1250 * (s.now + 640) ∧ (t.site i).steps = none ∧ (t.site i).pausePend = false
      ∧ (∀ (j : Nat), j < 16 → j ≠ i → t.site j = s.site j) ∧ t.siteState i = s.kindNow i
      ∧ t.reg (A.SEQ_SITE_CTRL i) = s.reg (A.SEQ_SITE_CTRL i) ||| 2
      ∧ { t with regs := s.regs, sites := s.sites } = s ∧ s.keepsRegs t [A.SEQ_SITE_CTRL i, A.SEQ_SITE_STATE i])
  ∧ (∀ (s : State) (i : Nat), i < 16 → s.link.up = true → s.flag A.HL_CTRL F.HL_CTRL.WINDOW_RW = true →
      s.fabricWait (A.SEQ_SITE_CTRL i) = none → s.siteState i = 4 →
    ∃ (t : State), exec (.siteCtrlStep i) s = .next t ∧ (t.site i).resumeDue = some (s.now + 640)
      ∧ (t.site i).nextStart = 1250 * (s.now + 640) ∧ (t.site i).steps = some 1 ∧ (t.site i).pausePend = false
      ∧ (∀ (j : Nat), j < 16 → j ≠ i → t.site j = s.site j) ∧ t.siteState i = s.kindNow i
      ∧ t.reg (A.SEQ_SITE_CTRL i) = s.reg (A.SEQ_SITE_CTRL i) ||| 8
      ∧ { t with regs := s.regs, sites := s.sites } = s ∧ s.keepsRegs t [A.SEQ_SITE_CTRL i, A.SEQ_SITE_STATE i])
  ∧ (∀ (s : State) (i : Nat), i < 16 → s.link.up = true → s.flag A.HL_CTRL F.HL_CTRL.WINDOW_RW = true →
      s.fabricWait (A.SEQ_SITE_CTRL i) = none → s.siteState i = 4 → (s.site i).stop = none →
    ∃ (t : State), exec (.siteCtrlHalt i) s = .next t ∧ (t.site i).stop = some ⟨2, 1250 * s.now, true, 0⟩
      ∧ (∀ (j : Nat), j < 16 → j ≠ i → t.site j = s.site j) 
      ∧ t.reg (A.SEQ_SITE_CTRL i) = s.reg (A.SEQ_SITE_CTRL i) ||| 4
      ∧ { t with regs := s.regs, sites := s.sites } = s ∧ s.keepsRegs t [A.SEQ_SITE_CTRL i])
  ∧ (∀ (s : State) (i : Nat), i < 16 → s.link.up = true → s.flag A.HL_CTRL F.HL_CTRL.WINDOW_RW = true →
      s.fabricWait (A.SEQ_SITE_CTRL i) = none → s.active i = false →
    ∃ (t : State), exec (.siteCtrlHalt i) s = .next t ∧ exec (.siteCtrlPause i) s = .next t ∧ exec (.siteCtrlResume i) s = .next t
      ∧ exec (.siteCtrlStep i) s = .next t
      ∧ t.rd A.HL_WIN_DISCARD F.HL_WIN_DISCARD.COUNT = min (2 ^ 32 - 1) (s.rd A.HL_WIN_DISCARD F.HL_WIN_DISCARD.COUNT + 1)
      ∧ { t with regs := s.regs } = s ∧ s.keepsRegs t [A.HL_WIN_DISCARD])
  ∧ (∀ (s : State) (i : Nat), i < 16 → s.link.up = true → s.flag A.HL_CTRL F.HL_CTRL.WINDOW_RW = true → s.fabricWait (A.SEQ_EVT i) = none →
    ∃ (t : State), exec (.evSet i) s = .next t ∧ t.evFlag i = true ∧ { t with regs := s.regs } = s ∧ s.keepsRegs t [A.SEQ_EVT i])
  ∧ (∀ (s : State) (i n : Nat) (o : PatObj), i < 16 → s.link.up = true → s.flag A.HL_CTRL F.HL_CTRL.WINDOW_RW = true →
      s.fabricWait (A.SEQ_JUMP i) = none → s.formed i = true →
    s.active i = true → s.runObj i = some o → n < o.segs.length → n < 4096 → jumpBad o s.decl n = false →
    ∃ (t : State), exec (.seqJumpReq i n) s = .next t
      ∧ t.rd (A.SEQ_JUMP i) F.SEQ_JUMP.REQ = 1 ∧ t.rd (A.SEQ_JUMP i) F.SEQ_JUMP.SEG = n ∧ t.jumpPending i = true
      ∧ t.site i = { s.site i with jumpId := (s.site i).jumpId + 1 }
      ∧ { t with regs := s.regs, sites := s.sites } = s ∧ s.keepsRegs t [A.SEQ_JUMP i, A.SEQ_SITE_STATE i])

/-- The stream's way into a site's tiles. A buffer with room asks for its next burst (R124); a burst that arrives is held, and
PL_TILE_PF shows the fill; one in error is counted, its place kept, and reported (R135); it arrives in its turn, while no request of a
higher level waits at the HBM3 controller (R134). A patrol-scrub step claims 600 mW and begins where that fits; at its end the claim is
given back and the corrected words are counted (R135, R441). It rests on the model's reading: log entries 53 and 85. -/
def Obligations.StreamRefills : Prop :=
  (∀ (s : State) (k i : Nat) (o : PatObj), s.siteOfTile k = some i → s.reserved i = true → s.runObj i = some o → (s.tile k).burst = false →
    (s.tile k).fill + 2048 ≤ 65536 → (s.tile k).fetched < o.streamBytes →
    ∃ (t : State), exec (.refillRequest k false) s = .next t ∧ t.tile k = { s.tile k with burst := true }
      ∧ (∀ (j : Nat), j < 17 → j ≠ k → t.tile j = s.tile j) ∧ { t with tiles := s.tiles } = s)
  ∧ (∀ (s : State) (k i : Nat) (o : PatObj), s.siteOfTile k = some i → s.reserved i = true → s.runObj i = some o →
      (s.tile k).ctrlBurst = false →
    s.flag (A.SEQ_TILE_STATUS k) F.SEQ_TILE_STATUS.LEAD = true →
    (s.tile k).ctrlFill + 512 ≤ 8192 → (s.tile k).ctrlFetched < o.streamCtrl →
    ∃ (t : State), exec (.refillRequest k true) s = .next t ∧ t.tile k = { s.tile k with ctrlBurst := true }
      ∧ (∀ (j : Nat), j < 17 → j ≠ k → t.tile j = s.tile j) ∧ { t with tiles := s.tiles } = s)
  ∧ (∀ (s : State) (k i : Nat) (o : PatObj) (l ofs adr : Nat), s.siteOfTile k = some i → s.runObj i = some o →
      s.refillLevel k false = some l → s.hbmWaits l = false →
    s.hbmNext l ((s.refills.filter (·.1 = l)).map (·.2)) = some (2 * k) → s.place.reads = [] →
    (s.tile k).fill + 2048 ≤ 65536 →
    ∃ (t : State), exec (.refillComplete k false 0 ofs adr) s = .next t
      ∧ (t.tile k).burst = false ∧ (t.tile k).fill = (s.tile k).fill + min 2048 (o.streamBytes - (s.tile k).fetched)
      ∧ (t.tile k).fetched = (s.tile k).fetched + min 2048 (o.streamBytes - (s.tile k).fetched)
      ∧ t.rd (A.PL_TILE_PF (s.rd (A.SEQ_TILE_STATUS k) F.SEQ_TILE_STATUS.PHYS)) F.PL_TILE_PF.FILL = (t.tile k).fill / 64
      ∧ (∀ (j : Nat), j < 17 → j ≠ k → t.tile j = s.tile j)
      ∧ { t with tiles := s.tiles, regs := s.regs, place := s.place } = s ∧ { t.place with served := s.place.served } = s.place
      ∧ s.keepsRegs t [A.PL_TILE_PF (s.rd (A.SEQ_TILE_STATUS k) F.SEQ_TILE_STATUS.PHYS)])
  ∧ (∀ (s : State) (k i : Nat) (o : PatObj) (l ofs adr : Nat), s.siteOfTile k = some i → s.runObj i = some o →
      s.refillLevel k true = some l → s.hbmWaits l = false →
    s.hbmNext l ((s.refills.filter (·.1 = l)).map (·.2)) = some (2 * k + 1) → s.place.reads = [] →
    ∃ (t : State), exec (.refillComplete k true 2 ofs adr) s = .next t
      ∧ (t.tile k).ctrlFill = (s.tile k).ctrlFill + min 512 (o.streamCtrl - (s.tile k).ctrlFetched)
      ∧ (t.site i).ueCtl = some (min ((s.site i).ueCtl.getD (2 ^ 64)) ((s.tile k).ctrlFetched + ofs))
      ∧ t.rd A.PL_HBM_ECC F.PL_HBM_ECC.UE = min (2 ^ F.PL_HBM_ECC.UE.width - 1) (s.rd A.PL_HBM_ECC F.PL_HBM_ECC.UE + 1)
      ∧ t.reg A.PL_HBM_UE_ADDR = word adr
      ∧ t.lens.reports = s.lens.reports ++ [{ unit := uPlace, code := 6, key := keyUnit, stamp := s.coarseNow, warm := s.flag A.GN_STATUS F.GN_STATUS.WARMING }]
      ∧ (∀ (j : Nat), j < 17 → j ≠ k → t.tile j = s.tile j) ∧ (∀ (j : Nat), j < 16 → j ≠ i → t.site j = s.site j)
      ∧ { t with tiles := s.tiles, regs := s.regs, sites := s.sites, lens := s.lens, place := s.place } = s
      ∧ { t.place with served := s.place.served } = s.place
      ∧ s.keepsRegs t [A.PL_HBM_ECC, A.PL_HBM_UE_ADDR])
  ∧ (∀ (s : State) (n : Nat), s.power.scrubActive = false → s.power.scrubAt ≤ s.now → s.hbmStopped = false → s.power.queue = [] →
    s.rd A.PW_GRANTED F.PW_GRANTED.MW + 600 ≤ s.effBudget → s.claimOf uPlace = 0 →
    ∃ (t : State), exec (.scrubStep n []) s = .next t ∧ t.power.scrubActive = true ∧ t.claimOf uPlace = 600
      ∧ t.rd A.PW_GRANTED F.PW_GRANTED.MW = s.rd A.PW_GRANTED F.PW_GRANTED.MW + 600
      ∧ t.rd A.PL_STATUS F.PL_STATUS.SCRUB = 1 ∧ t.power.scrubAt = s.power.scrubAt + 1080000000000
      ∧ { t with power := s.power, regs := s.regs } = s ∧ s.keepsRegs t [A.PL_STATUS, A.PW_GRANTED])
  ∧ (∀ (s : State) (n : Nat), s.power.scrubActive = true → s.hbmWaits 6 = false →
    ∃ (t : State), exec (.scrubStep n []) s = .next t ∧ t.power.scrubActive = false ∧ t.claimOf uPlace = 0
      ∧ t.power.scrubStep = (s.power.scrubStep + 1) % 256
      ∧ t.rd A.PL_STATUS F.PL_STATUS.SCRUB = (if (s.power.scrubStep + 1) % 256 = 0 then 0 else 1)
      ∧ t.rd A.PL_HBM_ECC F.PL_HBM_ECC.CE = min (2 ^ F.PL_HBM_ECC.CE.width - 1) (s.rd A.PL_HBM_ECC F.PL_HBM_ECC.CE + n)
      ∧ { t with power := s.power, regs := s.regs } = s ∧ s.keepsRegs t [A.PL_STATUS, A.PW_GRANTED, A.PL_HBM_ECC])

/-- The lead tile. Once a routine has ended and its dispatch time has come, the instruction at the site's position is dispatched: its
routine starts and SEQ_PC shows it (R178); a pause takes effect there instead once the last cycle has ended (R164). A plain routine word
issues the instruction's N cycles, one governing period apart, and control goes on behind the instruction (R173, R175, R178);
PATTERN_HALT and END_PATTERN stop the run after their cycles (R148, R166). After 4,096 microcycles without a yield a routine ends in a
machine check, which UC_MCHK and the lens record (R182, R183). It rests on the model's reading: log entry 60. -/
def Obligations.SequencerRuns : Prop :=
  (∀ (s : State) (i ok : Nat) (p : PInstr), i < 16 → s.formed i = true → s.runs i = true → (s.site i).stop = none →
      (s.site i).priming = false →
    (s.site i).routine = none → s.dispatchAt i ≤ s.unow → (s.site i).boundary = false → s.pauses i = false → s.cutOff i = false →
    s.instrAt i (s.site i).pos = some p → s.mirror = false →
    ((s.runObj i).bind (fun o => (o.seg p.seg).map (fun g => g.streamed))) = some false →
    (∀ x ∈ (s.site i).queue, x.pad = false) → s.lead i + s.width i ≤ 16 → ok < 2 →
    ∃ (t : State), exec (.routineDispatch i (decide (ok = 1))) s = .next t
      ∧ (t.site i).routine.map (fun r => (r.opcode, r.ctl, r.ext, r.seg, r.ofs, r.dispatch)) = some (p.op, p.word, p.ext, p.seg, p.ofs,
          s.dispatchAt i)
      ∧ t.reg (A.SEQ_PC i) = word (p.seg * 2 ^ 20 + p.ofs)
      ∧ (t.site i).queue = (s.site i).queue ∧ (t.site i).nextStart = (s.site i).nextStart
      ∧ (∀ (j : Nat), j < 16 → j ≠ i → t.site j = s.site j)
      ∧ { t with regs := s.regs, sites := s.sites } = s)
  ∧ (∀ (s : State) (i : Nat), i < 16 → s.formed i = true → s.runs i = true → (s.site i).stop = none → (s.site i).priming = false →
    (s.site i).routine = none → s.cutOff i = false → s.drained i = true → (s.site i).boundary = false →
    s.pauses i = true → (s.site i).resumeThen = none →
    ∃ (t : State), exec (.routineDispatch i true) s = .next t ∧ t.siteState i = 4 ∧ (t.site i).pausePend = false ∧ (t.site i).steps = none
      ∧ nbit (t.rd (A.SEQ_IRQ i) F.SEQ_IRQ.PEND) 2 = true
      ∧ t.pair (A.SEQ_STOP_LO i) (A.SEQ_STOP_HI i) 
          = s.coarseOf ((if (s.site i).lastRun = 0 then s.unow else (s.site i).lastRun) / 1250) % 2 ^ 64
      ∧ (∀ (j : Nat), j < 16 → j ≠ i → t.site j = s.site j)
      ∧ (t.site i).queue = (s.site i).queue ∧ (t.site i).pos = (s.site i).pos)
  ∧ (∀ (s : State) (i : Nat) (r : Routine), i < 16 → (s.site i).routine = some r → r.opcode = 0x00 → s.record 2 0x00 = none →
      r.staged = [] → r.ustack = [] →
    r.repeating = false → r.executed = false → r.halting = false → r.pausing = false → r.dest = .next → r.runc = 0 →
    r.sinceYield < 4096 → r.time ≤ s.unow → s.siteState i ≠ 4 → (s.site i).stop = none → r.time + 250000 ≤ (s.site i).nextStart →
    s.mirror = false →
    ∃ (t : State), exec (.microwordExec i true) s = .next t ∧ (t.site i).routine = none ∧ (t.site i).pos = s.after i r
      ∧ (t.site i).routineEnd = r.time + 5000 ∧ (t.site i).stop = none
      ∧ (t.site i).queue.length = (s.site i).queue.length + s.routineN r
      ∧ (t.site i).nextNum = (s.site i).nextNum + s.routineN r
      ∧ (t.site i).nextStart = (s.site i).nextStart + s.routineN r * s.issuePeriod i (bits r.ctl 23 18)
      ∧ { t with regs := s.regs, sites := s.sites } = s ∧ s.keepsRegs t [A.SEQ_DEPTH i])
  ∧ (∀ (s : State) (i : Nat) (r : Routine), i < 16 → (s.site i).routine = some r → r.opcode = 0x3E ∨ r.opcode = 0x3F →
      s.record 2 r.opcode = none →
    r.staged = [] → r.ustack = [] → r.repeating = false → r.executed = false → r.halting = false → r.pausing = false →
    r.dest = .next → r.sinceYield < 4096 → r.time ≤ s.unow → s.siteState i ≠ 4 → (s.site i).stop = none →
    r.time + 250000 ≤ (s.site i).nextStart → s.mirror = false →
    ∃ (t : State), exec (.microwordExec i true) s = .next t ∧ (t.site i).routine = none
      ∧ (t.site i).stop = some ⟨if r.opcode = 0x3F then 1 else 3,
          (s.site i).nextStart + s.routineN r * s.issuePeriod i (bits r.ctl 23 18), true, 0⟩
      ∧ { t with regs := s.regs, sites := s.sites } = s ∧ s.keepsRegs t [A.SEQ_DEPTH i])
  ∧ (∀ (s : State) (i : Nat) (r : Routine), i < 16 → (s.site i).routine = some r → 4096 ≤ r.sinceYield → r.time ≤ s.unow →
    s.active i = true → (s.site i).stop = none → r.opcode < 256 → r.upc < 8192 →
    ∃ (t : State), exec (.microWatchdog i) s = .next t ∧ (t.site i).routine = none ∧ (t.site i).stop.map (·.cause) = some 9
      ∧ t.rd (A.UC_MCHK i) F.UC_MCHK.CODE = 3 ∧ t.rd (A.UC_MCHK i) F.UC_MCHK.OPCODE = r.opcode
      ∧ t.rd (A.UC_MCHK i) F.UC_MCHK.UADDR = r.upc
      ∧ t.lens.reports.map (fun r => (r.unit, r.code)) = s.lens.reports.map (fun r => (r.unit, r.code)) ++ [(uTile (s.lead i), 5)]
      ∧ { t with regs := s.regs, sites := s.sites, lens := s.lens } = s
      ∧ s.keepsRegs t [A.UC_MCHK i, A.UC_MCHK_STAMP_LO i, A.UC_MCHK_STAMP_HI i])

/-- Cycles on their way to the pins. 62.5 ns before its start a cycle of a local segment is read, and an uncorrectable error of local
memory halts the site with cause 8 and is counted and reported (R136, R176); a streamed one takes its bytes from every tile's buffer,
and where a buffer lacks them, the pattern does not pad and nothing guarantees the supply (R126), the site starves (R124, R127). 5 ns
before its start the timing generators take it: SEQ_CYCLE counts it, the first gives SEQ_START, and each used edge of a pin that lies
below four periods is held at the cycle's start plus its offset (R199, R203); a captured timing bank becomes live with it (R209). A stop
that is reached ends the run: the state, the cause, the interrupt, the power claim and the reservation follow (R129, R161, R166), and on
a halt the pins park (R243); on END they park once their edges are out (R205, R243). -/
def Obligations.CyclesReachPins : Prop :=
  (∀ (s : State) (i : Nat) (c : QCycle) (rest : List QCycle) (o : PatObj) (g : Seg), (s.site i).queue = c :: rest →
      c.start ≤ s.unow + 250000 → c.pad = false →
    s.runObj i = some o → o.seg c.seg = some g → g.streamed = false →
    ∃ (t : State), exec (.cycleRead i none) s = .next t
      ∧ t.site i = { s.site i with align := (s.site i).align ++ [c], queue := rest, padding := false }
      ∧ (∀ (j : Nat), j < 16 → j ≠ i → t.site j = s.site j) ∧ { t with sites := s.sites } = s)
  ∧ (∀ (s : State) (i k : Nat) (c : QCycle) (rest : List QCycle) (o : PatObj) (g : Seg), (s.site i).queue = c :: rest →
      c.start ≤ s.unow + 250000 → c.pad = false →
    s.runObj i = some o → o.seg c.seg = some g → g.streamed = false → (s.site i).stop = none →
    ∃ (t : State), exec (.cycleRead i (some (k, true))) s = .next t ∧ (t.site i).stop = some ⟨8, c.start, false, 0⟩
      ∧ t.rd A.PL_LM_ECC F.PL_LM_ECC.UE = min (2 ^ F.PL_LM_ECC.UE.width - 1) (s.rd A.PL_LM_ECC F.PL_LM_ECC.UE + 1)
      ∧ t.lens.reports = s.lens.reports ++ [{ unit := uTile k, code := 7, key := keyUnit, stamp := s.coarseNow, warm := s.flag A.GN_STATUS F.GN_STATUS.WARMING }]
      ∧ (∀ (j : Nat), j < 16 → j ≠ i → t.site j = s.site j)
      ∧ { t with regs := s.regs, sites := s.sites, lens := s.lens, place := s.place } = s ∧ s.keepsRegs t [A.PL_LM_ECC])
  ∧ (∀ (s : State) (i k : Nat) (c : QCycle) (rest : List QCycle) (o : PatObj) (g : Seg), (s.site i).queue = c :: rest →
      c.start ≤ s.unow + 250000 → c.pad = false →
    s.runObj i = some o → o.seg c.seg = some g → g.streamed = false →
    ∃ (t : State), exec (.cycleRead i (some (k, false))) s = .next t
      ∧ t.site i = { s.site i with align := (s.site i).align ++ [c], queue := rest, padding := false }
      ∧ t.rd A.PL_LM_ECC F.PL_LM_ECC.CE = min (2 ^ F.PL_LM_ECC.CE.width - 1) (s.rd A.PL_LM_ECC F.PL_LM_ECC.CE + 1)
      ∧ (∀ (j : Nat), j < 16 → j ≠ i → t.site j = s.site j) ∧ { t with regs := s.regs, sites := s.sites } = s ∧ s.keepsRegs t [A.PL_LM_ECC])
  ∧ (∀ (s : State) (i n : Nat) (c : QCycle) (rest : List QCycle) (o : PatObj) (g : Seg), (s.site i).queue = c :: rest →
      c.start ≤ s.unow + 250000 → c.pad = false →
    s.runObj i = some o → o.seg c.seg = some g → g.streamed = true → (s.site i).padding = false → (s.site i).ueAt = none →
    (s.site i).used + n = o.streamOfs c.seg + (c.line + 1) * g.lineBytes → (∀ k ∈ s.tilesOf i, n ≤ (s.tile k).fill) →
    ∃ (t : State), exec (.cycleRead i none) s = .next t
      ∧ (t.site i).align = (s.site i).align ++ [c] ∧ (t.site i).queue = rest ∧ (t.site i).used = (s.site i).used + n
      ∧ (∀ k ∈ s.tilesOf i, (t.tile k).fill = (s.tile k).fill - n)
      ∧ (∀ (j : Nat), j < 16 → j ≠ i → t.site j = s.site j) ∧ { t with regs := s.regs, sites := s.sites, tiles := s.tiles } = s
      ∧ s.keepsRegs t ((s.tilesOf i).map (fun k => A.PL_TILE_PF (s.rd (A.SEQ_TILE_STATUS k) F.SEQ_TILE_STATUS.PHYS))))
  ∧ (∀ (s : State) (i k : Nat) (c : QCycle) (rest : List QCycle) (o : PatObj) (g : Seg), i < 16 → (s.site i).queue = c :: rest →
      c.start ≤ s.unow + 250000 → c.pad = false →
    s.runObj i = some o → o.seg c.seg = some g → g.streamed = true → (s.site i).padding = false → (s.site i).ueAt = none →
    k ∈ s.tilesOf i → (s.site i).used + (s.tile k).fill < o.streamOfs c.seg + (c.line + 1) * g.lineBytes → o.pad = false →
    s.guaranteed i = false → (s.site i).stop = none →
    ∃ (t : State), exec (.cycleRead i none) s = .next t ∧ (t.site i).stop = some ⟨6, c.start, false, 0⟩
      ∧ t.rd (A.PL_STARVE i) F.PL_STARVE.UNDERRUN = 1
      ∧ (∀ (j : Nat), j < 16 → j ≠ i → t.site j = s.site j) ∧ { t with regs := s.regs, sites := s.sites } = s
      ∧ s.keepsRegs t [A.PL_STARVE i, A.PL_STARVE_CYC_LO i, A.PL_STARVE_CYC_HI i, A.PL_STARVE_STAMP_LO i, A.PL_STARVE_STAMP_HI i])
  ∧ (∀ (s : State) (i n : Nat) (c : QCycle) (rest : List QCycle), i < 16 → (s.site i).align = c :: rest → c.start ≤ s.unow + 20000 →
      c.pad = false → c.apply = false →
    s.lead i + s.width i ≤ 16 → (s.site i).taken = [] → n ∈ s.pinsOf i → s.gangMember n = false →
    ∃ (t : State), exec (.cycleTake i) s = .next t ∧ (t.site i).align = rest ∧ (t.site i).lastRun = c.start + c.per
      ∧ t.pair (A.SEQ_CYCLE_LO i) (A.SEQ_CYCLE_HI i) = (c.num + 1) % 2 ^ 64
      ∧ (c.num = 0 → t.pair (A.SEQ_START_LO i) (A.SEQ_START_HI i) = s.coarseOf (c.start / 1250) % 2 ^ 64)
      ∧ (∀ u ∈ s.usedEdges i n c, (streamsOf (s.mode n)).contains (streamOf u.1) = true → s.edgeEn n c.tset u.1 = true →
          s.offset n c.tset u.1 < 4 * s.govPeriod n c.tset →
          (⟨c.start + s.offset n c.tset u.1, c.start, c.num, c.tset, u.1, u.2⟩ : PinEdge) ∈ (t.pin n).edges))
  ∧ (∀ (s : State) (i k n : Nat) (v : Word) (c : QCycle) (rest : List QCycle), i < 16 → (s.site i).align = c :: rest →
      c.start ≤ s.unow + 20000 → c.apply = true →
    s.lead i + s.width i ≤ 16 → (s.site i).taken = [] → k ∈ s.tilesOf i → n < 64 →
    (s.site i).banks = [[(A.TSET_PERIOD_LO k n, v)]] →
    ∃ (t : State), exec (.cycleTake i) s = .next t ∧ (t.site i).banks = [] ∧ t.reg (A.TSET_PERIOD_LO k n) = v)
  ∧ (∀ (s : State) (i : Nat) (st : Stop), i < 16 → (s.site i).stop = some st → st.at_ ≤ s.unow → (s.site i).queue = [] →
      (s.site i).align = [] →
    st.cause = 1 →
    ∃ (t : State), exec (.sitePark i) s = .next t ∧ t.siteState i = 0 ∧ t.rd (A.SEQ_SITE_STATE i) F.SEQ_SITE_STATE.CAUSE = 1
      ∧ t.armed i = false ∧ t.claimOf (uSite i) = 0 ∧ kget (fun _ => 0) t.place.reserve i = 0
      ∧ (t.site i).stop = none ∧ (t.site i).parkDue = some st.at_ ∧ nbit (t.rd (A.SEQ_IRQ i) F.SEQ_IRQ.PEND) 0 = true
      ∧ t.pins = s.pins)
  ∧ (∀ (s : State) (i n : Nat) (st : Stop), i < 16 → (s.site i).stop = some st → st.at_ ≤ s.unow → (s.site i).queue = [] →
      (s.site i).align = [] →
    1 < st.cause → st.cause < 16 → s.lead i + s.width i ≤ 16 → n ∈ s.pinsOf i → [0, 1, 4].contains (s.mode n) = true →
    ∃ (t : State), exec (.sitePark i) s = .next t ∧ t.siteState i = 5 ∧ t.rd (A.SEQ_SITE_STATE i) F.SEQ_SITE_STATE.CAUSE = st.cause
      ∧ (st.valid = false → t.rd (A.SEQ_SITE_STATE i) F.SEQ_SITE_STATE.VALID = 0)
      ∧ t.armed i = false ∧ t.claimOf (uSite i) = 0 ∧ kget (fun _ => 0) t.place.reserve i = 0
      ∧ (t.site i).stop = none ∧ nbit (t.rd (A.SEQ_IRQ i) F.SEQ_IRQ.PEND) 1 = true
      ∧ t.rd (A.PIN_STATUS n) F.PIN_STATUS.PARKED = 1
      ∧ (t.pin n).en = (s.flag (A.PIN_STATUS n) F.PIN_STATUS.DRV_CONN && s.flag (A.PIN_DRV n) F.PIN_DRV.PARK))
  ∧ (∀ (s : State) (i n d : Nat), i < 16 → (s.site i).stop = none → (s.site i).parkDue = some d → s.lead i + s.width i ≤ 16 →
    (∀ m ∈ s.pinsOf i, ∀ e ∈ (s.pin m).edges, e.time ≤ s.unow) → n ∈ s.pinsOf i → [0, 1, 4].contains (s.mode n) = true →
    ∃ (t : State), exec (.sitePark i) s = .next t ∧ (t.site i).parkDue = none ∧ t.rd (A.PIN_STATUS n) F.PIN_STATUS.PARKED = 1
      ∧ (t.pin n).en = (s.flag (A.PIN_STATUS n) F.PIN_STATUS.DRV_CONN && s.flag (A.PIN_DRV n) F.PIN_DRV.PARK))

/-- Compares and the fail log. An unmasked compare that fails counts in CMP_FAILCNT, marks the pin and the site, gives the pin's first
fail and, 35.0 ns after its edge, enters its tile's first-fail store (R27, R256, R257, R260, R261); it is judged by the thresholds and
the mask as they held then (R246, R254); a masked one, or one that passes, does none of it (R254). A waiting record whose turn it is
goes to the next slot of the site's fail log where the write credit covers it, and is lost and covered by a GAP where it does not; a
full log under policy 0 loses it (R265, R266). The header is written once nothing is waiting (R264). It rests on the model's readings:
log entries 46, 63 and 86. -/
def Obligations.ComparesAndFailLog : Prop :=
  (∀ (s : State) (i : Nat) (u : Taken) (m : Cmp) (v : Int) (tm : Nat), i < 16 → (s.site i).taken = [u] → u.cmps = [m] →
      u.cyc.iter = none → u.faulty = [] →
    u.cyc.pad = false → u.cyc.num < 2 ^ 64 → m.window = false → m.exp < 5 → m.pin < 256 → m.obit < 2 →
        u.tiles = [{ tile := m.pin / 16, mask := 0 }] →
    (s.site i).align = [] → (s.site i).queue = [] → (∀ n ∈ s.pinsOf i, (s.pin n).edges = []) → (s.pin m.pin).missed = [] →
    m.ts + 120000 ≤ s.unow →
    fget (s.regAt (A.CMP_CFG m.pin) (m.ts + 100000)) F.CMP_CFG.MASK = 0 → s.retired m.pin = false →
        expFails m.exp (s.comparisons m.pin (m.ts, v)).1 (s.comparisons m.pin (m.ts, v)).2 = true →
    (s.tile (m.pin / 16)).store.length < 65536 →
    ∃ (t : State), exec (.compareOutcome i [⟨m.pin, m.obit, [(tm, v)]⟩] []) s = .next t
      ∧ t.rd (A.CMP_FAILCNT m.pin) F.CMP_FAILCNT.COUNT = min (2 ^ 32 - 1) (s.rd (A.CMP_FAILCNT m.pin) F.CMP_FAILCNT.COUNT + 1)
      ∧ t.rd (A.SEQ_SITE_STATE i) F.SEQ_SITE_STATE.FAILED = 1
      ∧ t.rd (A.FAIL_PINS (m.pin / 16)) F.FAIL_PINS.PINS = s.rd (A.FAIL_PINS (m.pin / 16)) F.FAIL_PINS.PINS ||| 2 ^ (m.pin % 16)
      ∧ t.rd (A.CMP_STAT m.pin) F.CMP_STAT.FIRST_VALID = 1
      ∧ (s.rd (A.CMP_STAT m.pin) F.CMP_STAT.FIRST_VALID = 0 →
          t.pair (A.CMP_FIRST_LO m.pin) (A.CMP_FIRST_HI m.pin) = u.cyc.num ∧ t.rd (A.CMP_STAT m.pin) F.CMP_STAT.FIRST_C1 = m.obit)
      ∧ ((s.site i).first = none → (t.site i).first = some (m.ts, m.pin, m.obit))
      ∧ (m.ts + 140000 ≤ s.unow →
          (t.tile (m.pin / 16)).store.length = (s.tile (m.pin / 16)).store.length + 1
          ∧ t.rd (A.FF_STATUS (m.pin / 16)) F.FF_STATUS.COUNT = (s.tile (m.pin / 16)).store.length + 1)
      ∧ (s.unow < m.ts + 140000 → (t.tile (m.pin / 16)).store = (s.tile (m.pin / 16)).store))
  ∧ (∀ (s : State) (i : Nat) (u : Taken) (m : Cmp) (v : Int) (tm : Nat), i < 16 → (s.site i).taken = [u] → u.cmps = [m] →
      u.cyc.iter = none → u.faulty = [] →
    m.window = false → m.exp < 5 → m.pin < 256 → m.obit < 2 → u.tiles = [{ tile := m.pin / 16, mask := 0 }] →
    (s.site i).align = [] → (s.site i).queue = [] → (∀ n ∈ s.pinsOf i, (s.pin n).edges = []) → (s.pin m.pin).missed = [] →
    m.ts + 120000 ≤ s.unow →
    fget (s.regAt (A.CMP_CFG m.pin) (m.ts + 100000)) F.CMP_CFG.MASK ≠ 0 ∨ expFails m.exp (s.comparisons m.pin (m.ts,
        v)).1 (s.comparisons m.pin (m.ts, v)).2 = false →
    ∃ (t : State), exec (.compareOutcome i [⟨m.pin, m.obit, [(tm, v)]⟩] []) s = .next t
      ∧ t.reg (A.CMP_FAILCNT m.pin) = s.reg (A.CMP_FAILCNT m.pin) ∧ t.reg (A.SEQ_SITE_STATE i) = s.reg (A.SEQ_SITE_STATE i)
      ∧ t.reg (A.FAIL_PINS (m.pin / 16)) = s.reg (A.FAIL_PINS (m.pin / 16)) ∧ t.reg (A.CMP_STAT m.pin) = s.reg (A.CMP_STAT m.pin)
      ∧ (t.site i).first = (s.site i).first ∧ (t.tile (m.pin / 16)).store = (s.tile (m.pin / 16)).store)
  ∧ (∀ (s : State) (i h : Nat) (r : List Word) (rest : List (List Word)) (b : Buffer), i < 16 → (s.site i).log.queue = r :: rest →
      s.failLog i = some h → s.buf? h = some b →
    s.hbmWaits 2 = false → s.hbmNext 2 s.logsWaiting = some i → s.place.reads = [] → (s.site i).log.gap = none → r.length = 8 →
        b.slots < 2 ^ 28 →
    32 * 3200 ≤ min (65536 * 3200) ((s.site i).log.credit + b.rate * (s.now - (s.site i).log.creditAt)) →
    s.rd (A.FAIL_STAT i) F.FAIL_STAT.NEXT < b.slots →
    ∃ (t : State), exec (.failLogWrite i) s = .next t ∧ (t.site i).log.queue = rest
      ∧ t.rd (A.FAIL_WRITTEN i) F.FAIL_WRITTEN.COUNT = min (2 ^ 32 - 1) (s.rd (A.FAIL_WRITTEN i) F.FAIL_WRITTEN.COUNT + 1)
      ∧ t.rd (A.FAIL_STAT i) F.FAIL_STAT.NEXT
        = (if s.rd (A.FAIL_STAT i) F.FAIL_STAT.NEXT + 1 = b.slots ∧ s.rd (A.FAIL_CFG i) F.FAIL_CFG.FULL_POLICY ≠ 0 then 0
           else s.rd (A.FAIL_STAT i) F.FAIL_STAT.NEXT + 1)
      ∧ (∀ (j : Nat), j < 8 → (t.buf? h).map (fun b => b.word (8 + 8 * s.rd (A.FAIL_STAT i) F.FAIL_STAT.NEXT + j)) = some (wd r j))
      ∧ (∀ (j : Nat), j < 16 → j ≠ i → t.site j = s.site j) ∧ { t with regs := s.regs, sites := s.sites, place := s.place } = s
      ∧ s.keepsRegs t [A.FAIL_WRITTEN i, A.FAIL_STAT i])
  ∧ (∀ (s : State) (i h : Nat) (r : List Word) (rest : List (List Word)) (b : Buffer), i < 16 → (s.site i).log.queue = r :: rest →
      s.failLog i = some h → s.buf? h = some b →
    s.hbmWaits 2 = false → s.hbmNext 2 s.logsWaiting = some i → s.place.reads = [] → (s.site i).log.gap = none →
        (s.site i).log.credit + b.rate * (s.now - (s.site i).log.creditAt) < 32 * 3200 →
    s.rd (A.FAIL_CFG i) F.FAIL_CFG.FULL_POLICY = 1 ∨ s.rd (A.FAIL_STAT i) F.FAIL_STAT.NEXT < b.slots →
    ∃ (t : State), exec (.failLogWrite i) s = .next t ∧ (t.site i).log.queue = rest
      ∧ t.rd (A.FAIL_LOST i) F.FAIL_LOST.COUNT = min (2 ^ 32 - 1) (s.rd (A.FAIL_LOST i) F.FAIL_LOST.COUNT + 1)
      ∧ t.rd (A.FAIL_STAT i) F.FAIL_STAT.GAP_PENDING = 1
      ∧ (t.site i).log.gap = some (recCycle r, (wd r 3).toNat + 2 ^ 32 * (wd r 4).toNat, 1)
      ∧ (∀ (j : Nat), j < 16 → j ≠ i → t.site j = s.site j)
      ∧ { t with regs := s.regs, sites := s.sites, place := s.place } = s
      ∧ { t.place with served := s.place.served } = s.place ∧ s.keepsRegs t [A.FAIL_LOST i, A.FAIL_STAT i])
  ∧ (∀ (s : State) (i h : Nat) (r : List Word) (rest : List (List Word)) (b : Buffer), i < 16 → (s.site i).log.queue = r :: rest →
      s.failLog i = some h → s.buf? h = some b →
    s.hbmWaits 2 = false → s.hbmNext 2 s.logsWaiting = some i → s.place.reads = [] → s.rd (A.FAIL_CFG i) F.FAIL_CFG.FULL_POLICY = 0 →
        b.slots ≤ s.rd (A.FAIL_STAT i) F.FAIL_STAT.NEXT →
    ∃ (t : State), exec (.failLogWrite i) s = .next t ∧ (t.site i).log.queue = rest
      ∧ t.rd (A.FAIL_LOST i) F.FAIL_LOST.COUNT = min (2 ^ 32 - 1) (s.rd (A.FAIL_LOST i) F.FAIL_LOST.COUNT + 1)
      ∧ t.rd (A.FAIL_STAT i) F.FAIL_STAT.FULL = 1 ∧ (∀ (j : Nat), j < 16 → j ≠ i → t.site j = s.site j)
      ∧ { t with regs := s.regs, sites := s.sites, place := s.place } = s
      ∧ { t.place with served := s.place.served } = s.place ∧ s.keepsRegs t [A.FAIL_LOST i, A.FAIL_STAT i])
  ∧ (∀ (s : State) (i h on : Nat) (b : Buffer), i < 16 → on < 2 → (s.site i).log.header = some (decide (on = 1)) → s.failLog i = some h →
      s.buf? h = some b →
    (s.site i).taken = [] → (s.site i).align = [] → (s.site i).log.runs = [] → (s.site i).log.queue = [] → (s.site i).log.gap = none →
        s.hbmWaits 2 = false →
    ∃ (t : State), exec (.failLogHeader i) s = .next t ∧ (t.site i).log.header = none
      ∧ (∀ (j : Nat), j < 8 → (t.buf? h).map (fun b => b.word j) = some (wd (s.headerRecord i (decide (on = 1))) j))
      ∧ { t with sites := s.sites, place := s.place } = s)

/-- Microcode. UC_LOAD of an image that passes its checks, with no site armed, running or paused and no live pattern whose instructions
would change meaning, makes the region valid with the image's form, version and words, and answers version, words and records; a load of
the Lenmas region notes with 0x0001 that the patch region was emptied (R185 to R194). UC_CLEAR empties the user or the patch region
(R193, R194). UC_STATUS answers the registers of the regions and of the signers (R191). -/
def Obligations.Microcode : Prop :=
  (∀ (s : State) (q : Nat) (c : Cmd) (m : List Word), q < 8 → s.serves q 0x0420 c → c.payload = 4 → c.w 4 = 0 → bits (c.w 5) 1 0 = 0 →
      s.ready q ((List.range 17).map uTile) →
    (∀ (i : Nat), i < 16 → s.reserved i = false) → s.dmaWaits = false → (c.w 7).toNat = m.length → s.imageFault m m.length false = none →
    entryClash s (loadImage m s) = none →
    ∃ (t : State), exec (.ucLoad q (some m) true none allWell) s = .next t
      ∧ s.replies t q c (if imgRegion m = 0 then 1 else 0) (if imgRegion m = 0 then 2 else 0)
          [wd m 2, word (imgWords m * 2 ^ 16 + imgRecords m)]
      ∧ t.rd (A.UC_REGION (imgRegion m)) F.UC_REGION.VALID = 1 ∧ t.rd (A.UC_REGION (imgRegion m)) F.UC_REGION.WORDS = imgWords m
      ∧ t.rd (A.UC_REGION (imgRegion m)) F.UC_REGION.FORM = imgForm m ∧ t.reg (A.UC_REGION_VER (imgRegion m)) = wd m 2
      ∧ (t.region (imgRegion m)).words = imgCode m
      ∧ (imgRegion m = 0 → t.rd (A.UC_REGION 2) F.UC_REGION.VALID = 0)
      ∧ { t with rings := s.rings, regs := s.regs, fab := s.fab, micro := s.micro } = s)
  ∧ (∀ (s : State) (q : Nat) (c : Cmd), q < 8 → s.serves q 0x0420 c → c.payload = 4 → c.w 4 = 0 → bits (c.w 5) 1 0 = 0 →
      s.ready q ((List.range 17).map uTile) →
    (∀ (i : Nat), i < 16 → s.reserved i = false) → s.dmaWaits = false →
    ∃ (t : State), exec (.ucLoad q none true none allWell) s = .next t
      ∧ s.replies t q c 0x0602 17 ((List.range 17).map (fun k => word (uTile k))) ∧ { t with rings := s.rings } = s)
  ∧ (∀ (s : State) (q : Nat) (c : Cmd) (r : Nat), q < 8 → s.serves q 0x0421 c → c.payload = 1 → c.w 4 = word r → r = 1 ∨ r = 2 →
      s.ready q ((List.range 17).map uTile) →
    (∀ (i : Nat), i < 16 → s.reserved i = false) → entryClash s (emptyRegion r false s) = none →
    ∃ (t : State), exec (.ucClear q allWell) s = .next t ∧ s.replies t q c 0 0 []
      ∧ t.rd (A.UC_REGION r) F.UC_REGION.VALID = 0 ∧ t.rd (A.UC_REGION r) F.UC_REGION.WORDS = 0 ∧ t.region r = {}
      ∧ { t with rings := s.rings, regs := s.regs, fab := s.fab, micro := s.micro } = s
      ∧ s.keepsRegs t [A.UC_REGION 0, A.UC_REGION 1, A.UC_REGION 2, A.UC_REGION_VER r, A.UC_REGION_KEY r])
  ∧ (∀ (s : State) (q : Nat) (c : Cmd), q < 8 → s.serves q 0x0422 c → c.payload = 0 →
    ∃ (t : State), exec (.ucStatus q) s = .next t ∧ { t with rings := s.rings } = s
      ∧ s.replies t q c 0 0 [s.reg (A.UC_REGION 0), s.reg (A.UC_REGION_VER 0), s.reg (A.UC_REGION_KEY 0),
          s.reg (A.UC_REGION 1), s.reg (A.UC_REGION_VER 1), s.reg (A.UC_REGION_KEY 1),
          s.reg (A.UC_REGION 2), s.reg (A.UC_REGION_VER 2), s.reg (A.UC_REGION_KEY 2),
          s.reg (A.UC_SIGNER 0), s.reg (A.UC_SIGNER 1), s.reg (A.UC_SIGNER 2)])

/-- Timing commands. TSET_PERIOD and TSET_EDGES write the shadow bank of the tile, rounded to the mirror grid under the mirror profile
(R211); the bank applies with the commit unless the tile is active or DEFER is set, and stays pending else (R209, R216); an apply that
would give a run too short a period is shut out by a hypothesis here (R130); the note tells what was rounded, what lies too close and
what could not apply (R216). TSET_READ answers the period and the eight edges of the live or the shadow copy; TSET_APPLY makes an
inactive tile's bank live (R209, R210). -/
def Obligations.TimingCommands : Prop :=
  (∀ (s : State) (q : Nat) (c : Cmd) (k n d wait note : Nat), q < 8 → s.serves q 0x0301 c → c.payload = 3 → k < 16 → n < 64 → wait < 2 →
    c.w 4 = word (2 ^ 31 * wait + 2 ^ 16 + 2 ^ k) → c.w 5 = word (n * 2 ^ 26 + d / 2 ^ 32) → c.w 6 = word d →
    1250 ≤ d → d ≤ 40000000000 → (s.mirror = true → d % 4 = 0) → s.ready q [uTile k] → KWf resetWord s.shadow0 →
    periodFault k n (setPeriodS k n d s) = none → (setPeriodS k n d s).applyShort (decide (wait = 1)) [k] = false →
    note = (if (s.governed k).any (fun p => (setPeriodS k n d s).tight p n) then 2 else 0) + (if wait = 0
        ∧ s.tileActive k = true then 4 else 0) →
    ∃ (t : State), exec (.tsetPeriod q allWell) s = .next t ∧ s.replies t q c (if note = 0 then 0 else 1) note []
      ∧ t.periodS k n = d ∧ t.period k n = (if wait = 0 ∧ s.tileActive k = false then d else s.period k n)
      ∧ (wait = 1 ∨ s.tileActive k = true → t.flag (A.TSET_CTRL k) F.TSET_CTRL.PENDING = true)
      ∧ { t with rings := s.rings, regs := s.regs, fab := s.fab, shadow := s.shadow, shadow0 := s.shadow0 } = s)
  ∧ (∀ (s : State) (q : Nat) (c : Cmd) (p n e on d wait note : Nat), q < 8 → s.serves q 0x0302 c → c.payload = 4 → p < 256 → n < 64 →
      e < 8 → on < 2 → wait < 2 →
    c.w 4 = word (2 ^ 31 * wait + 1) → c.w 5 = word (p * 2 ^ 16 + n * 2 ^ 10 + e * 2 ^ 7 + on) → c.w 6 = word d →
        c.w 7 = word (d / 2 ^ 32) →
    d < 2 ^ 38 → (s.mirror = true → d % 4 = 0) → s.ready q [uTile (p / 16)] → KWf resetWord s.shadow0 →
    (setEdgeS p n e on d s).beyond p n e = false → (setEdgeS p n e on d s).applyShort (decide (wait = 1)) [p / 16] = false →
    note = (if (setEdgeS p n e on d s).tight p n then 2 else 0) + (if wait = 0 ∧ s.tileActive (p / 16) = true then 4 else 0) →
    ∃ (t : State), exec (.tsetEdges q allWell) s = .next t ∧ s.replies t q c (if note = 0 then 0 else 1) note []
      ∧ t.offsetS p n e = d ∧ t.edgeEnS p n e = decide (on = 1)
      ∧ t.offset p n e = (if wait = 0 ∧ s.tileActive (p / 16) = false then d else s.offset p n e)
      ∧ t.edgeEn p n e = (if wait = 0 ∧ s.tileActive (p / 16) = false then decide (on = 1) else s.edgeEn p n e)
      ∧ (wait = 1 ∨ s.tileActive (p / 16) = true → t.flag (A.TSET_CTRL (p / 16)) F.TSET_CTRL.PENDING = true)
      ∧ { t with rings := s.rings, regs := s.regs, fab := s.fab, shadow := s.shadow, shadow0 := s.shadow0 } = s)
  ∧ (∀ (s : State) (q : Nat) (c : Cmd) (p n sh : Nat), q < 8 → s.serves q 0x0303 c → c.payload = 1 → p < 256 → n < 64 → sh < 2 →
      c.w 4 = word (2 ^ 31 * sh + p * 2 ^ 6 + n) →
    s.ready q [uTile (p / 16)] →
    ∃ (t : State) (res : List Word), exec (.tsetRead q) s = .next t ∧ s.replies t q c 0 0 res ∧ res.length = 18
        ∧ { t with rings := s.rings } = s
      ∧ (wd res 0).toNat + 2 ^ 32 * (wd res 1).toNat
        = (if sh = 1 then s.periodS (s.govTile (p / 16)) n else s.period (s.govTile (p / 16)) n)
      ∧ (∀ (e : Nat), e < 8 → (wd res (2 + 2 * e)).toNat + 2 ^ 32 * bits (wd res (3 + 2 * e)) 5 0
          = (if sh = 1 then s.offsetS p n e else s.offset p n e)
        ∧ bit (wd res (3 + 2 * e)) 31 = (if sh = 1 then s.edgeEnS p n e else s.edgeEn p n e)))
  ∧ (∀ (s : State) (q : Nat) (c : Cmd) (k x : Nat), q < 8 → s.serves q 0x0304 c → c.payload = 1 → k < 16 → c.w 4 = word (2 ^ k) →
      s.ready q [uTile k] → s.tileActive k = false → s.applyShort false [k] = false →
    KWf resetWord s.shadow0 → inBank k x = true →
    ∃ (t : State), exec (.tsetApply q allWell) s = .next t ∧ s.replies t q c 0 0 [] ∧ t.reg x = s.shd0 x
      ∧ { t with rings := s.rings, regs := s.regs, fab := s.fab } = s
      ∧ (∀ (a : Nat), inBank k a = false → a ≠ A.TSET_CTRL k → t.reg a = s.reg a))

/-- Timing by register write. APPLY in TSET_CTRL makes an inactive tile's bank live, and is discarded and counted at an active one, or
where it would give a run too short a period (R130, R209, R210). A LO word waits in the tile's write latch; the HI word writes the whole
entry of the shadow bank with the LO word of the same entry that waits, or with its present one, where the pair is valid; a pair that is
not changes nothing and is counted (R111, R210). It rests on the model's reading: log entry 68. -/
def Obligations.TimingRegisters : Prop :=
  (∀ (s : State) (k x : Nat), k < 16 → s.link.up = true → s.flag A.HL_CTRL F.HL_CTRL.WINDOW_RW = true →
      s.fabricWait (A.TSET_CTRL k) = none → s.tileActive k = false → s.applyShort false [k] = false →
    KWf resetWord s.shadow0 → inBank k x = true →
    ∃ (t : State), exec (.tsetCtrlApply k) s = .next t ∧ t.reg x = s.shd0 x ∧ { t with regs := s.regs } = s
      ∧ (∀ (a : Nat), inBank k a = false → a ≠ A.TSET_CTRL k → t.reg a = s.reg a))
  ∧ (∀ (s : State) (k : Nat), k < 16 → s.link.up = true → s.flag A.HL_CTRL F.HL_CTRL.WINDOW_RW = true →
      s.fabricWait (A.TSET_CTRL k) = none →
    s.tileActive k = true ∨ s.applyShort false [k] = true →
    ∃ (t : State), exec (.tsetCtrlApply k) s = .next t
      ∧ t.rd A.HL_WIN_DISCARD F.HL_WIN_DISCARD.COUNT = min (2 ^ 32 - 1) (s.rd A.HL_WIN_DISCARD F.HL_WIN_DISCARD.COUNT + 1)
      ∧ { t with regs := s.regs } = s ∧ s.keepsRegs t [A.HL_WIN_DISCARD])
  ∧ (∀ (s : State) (k n : Nat) (w : Word), k < 16 → n < 64 → s.link.up = true → s.flag A.HL_CTRL F.HL_CTRL.WINDOW_RW = true →
      s.fabricWait (A.TSET_PERIOD_LO k n) = none →
    ∃ (t : State), exec (.tsetEntryLoWrite (A.TSET_PERIOD_LO k n) w) s = .next t ∧ (t.tile k).latch = some (A.TSET_PERIOD_LO k n, w)
      ∧ (∀ (j : Nat), j < 17 → j ≠ k → t.tile j = s.tile j) ∧ { t with tiles := s.tiles } = s)
  ∧ (∀ (s : State) (p n e : Nat) (w : Word), p < 256 → n < 64 → e < 8 → s.link.up = true → s.flag A.HL_CTRL F.HL_CTRL.WINDOW_RW = true →
      s.fabricWait (A.TSET_EDGE_LO p n e) = none →
    ∃ (t : State), exec (.tsetEntryLoWrite (A.TSET_EDGE_LO p n e) w) s = .next t ∧ (t.tile (p / 16)).latch = some (A.TSET_EDGE_LO p n e, w)
      ∧ (∀ (j : Nat), j < 17 → j ≠ p / 16 → t.tile j = s.tile j) ∧ { t with tiles := s.tiles } = s)
  ∧ (∀ (s : State) (k n d : Nat) (w : Word), k < 16 → n < 64 → s.link.up = true → s.flag A.HL_CTRL F.HL_CTRL.WINDOW_RW = true →
      s.fabricWait (A.TSET_PERIOD_HI k n) = none →
    (s.tile k).latch = some (A.TSET_PERIOD_LO k n, word d) → bits w 3 0 = d / 2 ^ 32 → 1250 ≤ d → d ≤ 40000000000 →
    (s.mirror = true → d % 4 = 0) → periodFault k n (setPeriodS k n d s) = none →
    ∃ (t : State), exec (.tsetEntryHiWrite (A.TSET_PERIOD_HI k n) w) s = .next t ∧ t.periodS k n = d ∧ (t.tile k).latch = none
      ∧ t.flag (A.TSET_CTRL k) F.TSET_CTRL.PENDING = true
      ∧ { t with regs := s.regs, shadow := s.shadow, tiles := s.tiles } = s ∧ s.keepsRegs t [A.TSET_CTRL k])
  ∧ (∀ (s : State) (k n d : Nat) (w : Word), k < 16 → n < 64 → s.link.up = true → s.flag A.HL_CTRL F.HL_CTRL.WINDOW_RW = true →
      s.fabricWait (A.TSET_PERIOD_HI k n) = none →
    (s.tile k).latch = some (A.TSET_PERIOD_LO k n, word d) → bits w 3 0 = d / 2 ^ 32 → d < 1250 ∨ 40000000000 < d →
    ∃ (t : State), exec (.tsetEntryHiWrite (A.TSET_PERIOD_HI k n) w) s = .next t ∧ t.shadow = s.shadow
      ∧ t.rd A.HL_WIN_DISCARD F.HL_WIN_DISCARD.COUNT = min (2 ^ 32 - 1) (s.rd A.HL_WIN_DISCARD F.HL_WIN_DISCARD.COUNT + 1)
      ∧ s.keepsRegs t [A.HL_WIN_DISCARD])
  ∧ (∀ (s : State) (p n e d : Nat) (w : Word), p < 256 → n < 64 → e < 8 → s.link.up = true →
      s.flag A.HL_CTRL F.HL_CTRL.WINDOW_RW = true → s.fabricWait (A.TSET_EDGE_HI p n e) = none →
    (s.tile (p / 16)).latch = none → (s.shd (A.TSET_EDGE_LO p n e)).toNat + 2 ^ 32 * bits w 5 0 = d →
    (s.mirror = true → d % 4 = 0) → (setEdgeS p n e (bits w 31 31) d s).beyond p n e = false →
    ∃ (t : State), exec (.tsetEntryHiWrite (A.TSET_EDGE_HI p n e) w) s = .next t ∧ t.offsetS p n e = d ∧ t.edgeEnS p n e = bit w 31
      ∧ t.flag (A.TSET_CTRL (p / 16)) F.TSET_CTRL.PENDING = true
      ∧ { t with regs := s.regs, shadow := s.shadow, tiles := s.tiles } = s ∧ s.keepsRegs t [A.TSET_CTRL (p / 16)])

/-- Pin modes. PIN_MODE_SET changes the mode of a free pin at its commit: the mode, PG_SEL, PARK and DWELL are live at once, SLEW and
LOAD_EN wait in the shadow, MODE_BUSY is set, the pin holds the claims of both modes, and a changed level scale puts the seven voltage
DACs at its 0 V code and unloads them; a record of the present mode changes no claim and no level (R218 to R220). 0.5 µs later the
switch opens and only the new mode's claim is held; 50 µs after the commit MODE_BUSY clears (R219, R220). FORMAT_SET and PIN_MAP_SET
write the tile's shadow bank, which applies as TSET_EDGES does, and PIN_PAIR at once (R222, R227, R231). GANG_SET makes a mask of an
octet a gang, or leaves the octet without one (R236). It rests on the model's readings: log entries 16 and 73. -/
def Obligations.PinConfiguration : Prop :=
  (∀ (s : State) (q : Nat) (c : Cmd) (n m g park en dw sl : Nat), q < 8 → s.serves q 0x0201 c → c.payload = 2 → c.w 4 = 1 →
    c.w 5 = word (n * 2 ^ 24 + m * 2 ^ 21 + g * 2 ^ 18 + park * 2 ^ 16 + en * 2 ^ 15 + dw * 2 ^ 12 + sl * 2 ^ 6) →
    n < 256 → m < 6 → g < 8 → park < 4 → en < 2 → dw < 4 → 0 < sl → sl ≤ 50 → s.ready q [uPin n] →
    s.mode n ≠ m → s.mode n ≠ 7 → s.siteHolds n = none → s.retired n = false → s.gangMember n = false → s.gangLeader n = false →
    (m = 1 ∨ m = 4 → s.anyDdr n = false) → s.pinHeld n = none → (m = 4 → s.pgLive (8 * (n / 64) + g) = false) →
    s.shortfall [(uPin n, s.changeClaim n m)] = 0 →
    ∃ (t : State), exec (.pinModeSet q allWell) s = .next t ∧ (t.ring q).run.bind (·.reply) = some ⟨0, 0, t.coarseNow, []⟩
      ∧ t.mode n = m ∧ t.modeBusy n = true ∧ t.rd (A.PIN_MODE n) F.PIN_MODE.PG_SEL = g
      ∧ t.rd (A.PIN_DRV n) F.PIN_DRV.PARK = park ∧ t.rd (A.PIN_DRV n) F.PIN_DRV.DWELL = dw
      ∧ t.rdS (A.PIN_DRV n) F.PIN_DRV.SLEW = sl ∧ t.rdS (A.PIN_DRV n) F.PIN_DRV.LOAD_EN = en
      ∧ t.pin n = { s.pin n with modeAt := some s.now, partAt := some ((s.pin n).partAt.getD s.now), closeAt := none, byVih := false }
      ∧ t.claimOf (uPin n) = s.changeClaim n m
      ∧ (∀ (i : Nat), i < 7 → t.codeL n i = (if zeroCode m = zeroCode (s.mode n) then s.codeL n i else zeroCode m)
        ∧ t.codeS n i = (if zeroCode m = zeroCode (s.mode n) then s.codeS n i else zeroCode m)
        ∧ t.loaded n i = (decide (zeroCode m = zeroCode (s.mode n)) && s.loaded n i))
      ∧ { t with rings := s.rings, regs := s.regs, fab := s.fab, shadow := s.shadow, pins := s.pins, power := s.power } = s
      ∧ s.keepsRegs t ([A.PIN_MODE n, A.PIN_STATUS n, A.PIN_DRV n, A.PW_GRANTED] ++ (List.range 7).map (A.PIN_LEVEL n))
      ∧ (∀ (a : Nat), a ≠ n → t.pin a = s.pin a))
  ∧ (∀ (s : State) (q : Nat) (c : Cmd) (n m g park en dw sl : Nat), q < 8 → s.serves q 0x0201 c → c.payload = 2 → c.w 4 = 1 →
    c.w 5 = word (n * 2 ^ 24 + m * 2 ^ 21 + g * 2 ^ 18 + park * 2 ^ 16 + en * 2 ^ 15 + dw * 2 ^ 12 + sl * 2 ^ 6) →
    n < 256 → m < 6 → g < 8 → park < 4 → en < 2 → dw < 4 → 0 < sl → sl ≤ 50 → s.ready q [uPin n] →
    s.mode n = m → s.retired n = false →
    (m = 4 ∧ g ≠ s.rd (A.PIN_MODE n) F.PIN_MODE.PG_SEL → s.pgLive (s.engineOf n) = false ∧ s.pgLive (8 * (n / 64) + g) = false) →
    ∃ (t : State), exec (.pinModeSet q allWell) s = .next t ∧ (t.ring q).run.bind (·.reply) = some ⟨0, 0, t.coarseNow, []⟩
      ∧ t.mode n = m ∧ t.rd (A.PIN_MODE n) F.PIN_MODE.PG_SEL = g
      ∧ t.rd (A.PIN_DRV n) F.PIN_DRV.PARK = park ∧ t.rd (A.PIN_DRV n) F.PIN_DRV.DWELL = dw
      ∧ t.rdS (A.PIN_DRV n) F.PIN_DRV.SLEW = sl ∧ t.rdS (A.PIN_DRV n) F.PIN_DRV.LOAD_EN = en
      ∧ t.pin n = { s.pin n with
          level := if m = 4 ∧ s.flag (A.PIN_STATUS n) F.PIN_STATUS.PARKED
              = false then b2n (s.pgActive (t.engineOf n)) else (s.pin n).level }
      ∧ { t with rings := s.rings, regs := s.regs, fab := s.fab, shadow := s.shadow, pins := s.pins } = s
      ∧ s.keepsRegs t [A.PIN_MODE n, A.PIN_DRV n] ∧ (∀ (a : Nat), a ≠ n → t.pin a = s.pin a))
  ∧ (∀ (s : State) (n d : Nat), n < 256 → (s.pin n).partAt = some d → d + 1600 ≤ s.now →
    ∃ (t : State), exec (.pinModeDisconnect n) s = .next t ∧ t.pinConn n = false ∧ t.rd (A.PIN_STATUS n) F.PIN_STATUS.DRV_EN = 0
      ∧ t.claimOf (uPin n) = s.modeClaim n (s.mode n)
      ∧ t.pin n = { s.pin n with
          partAt := none, servo := 0, closeAt := none, limitAt := none
          level := if s.mode n = 4 ∧ s.flag (A.PIN_STATUS n) F.PIN_STATUS.PARKED
              = false then b2n (s.pgActive (s.engineOf n)) else (s.pin n).level }
      ∧ { t with regs := s.regs, pins := s.pins, power := s.power } = s
      ∧ s.keepsRegs t [A.PIN_STATUS n, A.PMU_STATUS n, A.PW_GRANTED] ∧ (∀ (a : Nat), a ≠ n → t.pin a = s.pin a))
  ∧ (∀ (s : State) (n d : Nat), n < 256 → (s.pin n).modeAt = some d → (s.pin n).partAt = none → d + 160000 ≤ s.now →
    ∃ (t : State), exec (.modeBusyClear n) s = .next t ∧ t.modeBusy n = false ∧ t.pin n = { s.pin n with modeAt := none }
      ∧ { t with regs := s.regs, pins := s.pins } = s ∧ s.keepsRegs t [A.PIN_STATUS n] ∧ (∀ (a : Nat), a ≠ n → t.pin a = s.pin a))
  ∧ (∀ (s : State) (q : Nat) (c : Cmd) (n k em fm wait : Nat), q < 8 → s.serves q 0x0205 c → c.payload = 2 →
      c.w 4 = word (2 ^ 31 * wait + 1) →
    c.w 5 = word (n * 2 ^ 16 + k * 2 ^ 10 + em * 8 + fm) → n < 256 → k < 64 → em < 2 → fm < 6 → wait < 2 → s.ready q [uTile (n / 16)] →
    s.mode n ≠ 7 → s.retired n = false → KWf resetWord s.shadow0 → s.applyShort (decide (wait = 1)) [n / 16] = false →
    (fm = 5 → s.mode n ≠ 1 ∧ s.mode n ≠ 4 ∧ (s.gradeB = true → 2500 ≤ s.periodS (s.govTile (n / 16)) k) ∧ s.covers n = true) →
    ∃ (t : State), exec (.formatSet q allWell) s = .next t
      ∧ s.replies t q c (if wait = 0 ∧ s.tileActive (n / 16) = true then 1 else 0) (if wait = 0
          ∧ s.tileActive (n / 16) = true then 4 else 0) []
      ∧ t.shd (A.PIN_FORMAT n k) = word (em * 8 + fm)
      ∧ t.reg (A.PIN_FORMAT n k) = (if wait = 0 ∧ s.tileActive (n / 16) = false then word (em * 8 + fm) else s.reg (A.PIN_FORMAT n k))
      ∧ { t with rings := s.rings, regs := s.regs, fab := s.fab, shadow := s.shadow, shadow0 := s.shadow0 } = s
      ∧ (∀ (a : Nat), inBank (n / 16) a = false → a ≠ A.TSET_CTRL (n / 16) → t.reg a = s.reg a))
  ∧ (∀ (s : State) (q : Nat) (c : Cmd) (n b : Nat) (w : Word) (wait : Nat), q < 8 → s.serves q 0x0206 c → c.payload = 3 →
      c.w 4 = word (2 ^ 31 * wait + 1) →
    c.w 5 = word (n * 2 ^ 16 + b) → c.w 6 = w → n < 256 → b < 2 ^ 16 → wait < 2 → s.ready q [uTile (n / 16)] →
    (∀ (i : Nat), i < 4 → badMap (w.toNat / 256 ^ i % 256) = false) → s.mode n ≠ 7 → s.retired n = false →
    s.applyShort (decide (wait = 1)) [n / 16] = false →
    (∀ o ∈ s.objects, o.2.bound = true → s.siteOfPin n ≠ some o.2.site) → KWf resetWord s.shadow0 →
    ∃ (t : State), exec (.pinMapSet q allWell) s = .next t
      ∧ s.replies t q c (if wait = 0 ∧ s.tileActive (n / 16) = true then 1 else 0) (if wait = 0
          ∧ s.tileActive (n / 16) = true then 4 else 0) []
      ∧ t.rd (A.PIN_PAIR n) F.PIN_PAIR.PAIR = b ∧ t.shd (A.PIN_STATE_MAP n) = w
      ∧ t.reg (A.PIN_STATE_MAP n) = (if wait = 0 ∧ s.tileActive (n / 16) = false then w else s.reg (A.PIN_STATE_MAP n))
      ∧ { t with rings := s.rings, regs := s.regs, fab := s.fab, shadow := s.shadow, shadow0 := s.shadow0 } = s
      ∧ (∀ (a : Nat), inBank (n / 16) a = false → a ≠ A.TSET_CTRL (n / 16) → a ≠ A.PIN_PAIR n → t.reg a = s.reg a))
  ∧ (∀ (s : State) (q : Nat) (c : Cmd) (m b : Nat), q < 8 → s.serves q 0x0207 c → c.payload = 1 → c.w 4 = word (m * 256 + b) → m < 32 →
      b < 256 →
    s.ready q ((List.range 8).map (fun i => uPin (8 * m + i))) → s.siteHolds (8 * m) = none →
    (∀ i ∈ bitList 8 b, s.mode (8 * m + i) ≠ 7 ∧ s.retired (8 * m + i) = false) →
    (2 ≤ (bitList 8 b).length → (∀ i ∈ bitList 8 b, s.mode (8 * m + i) = 1) ∨ (∀ i ∈ bitList 8 b, s.mode (8 * m + i) = 4)) →
    ∃ (t : State), exec (.gangSet q) s = .next t ∧ s.replies t q c 0 0 []
      ∧ (∀ (i : Nat), i < 8 →
          t.gangLeader (8 * m + i) = (decide (2 ≤ (bitList 8 b).length) && decide ((bitList 8 b).head? = some i))
          ∧ t.gangMember (8 * m + i) = (decide (2 ≤ (bitList 8 b).length) && (bitList 8 b).tail.contains i)
          ∧ t.rd (A.PIN_GANG (8 * m + i)) F.PIN_GANG.MASK
            = (if 2 ≤ (bitList 8 b).length ∧ i ∈ bitList 8 b then b else 0)
          ∧ t.pin (8 * m + i) = { s.pin (8 * m + i) with
              level := if s.mode (8 * m + i) = 4 ∧ s.flag (A.PIN_STATUS (8 * m + i)) F.PIN_STATUS.PARKED = false
              then b2n (s.pgActive (t.engineOf (8 * m + i))) else (s.pin (8 * m + i)).level })
      ∧ { t with rings := s.rings, regs := s.regs, fab := s.fab, pins := s.pins } = s
      ∧ s.keepsRegs t ((List.range 8).flatMap (fun i => [A.PIN_STATUS (8 * m + i), A.PIN_GANG (8 * m + i)]))
      ∧ (∀ (a : Nat), a / 8 ≠ m → t.pin a = s.pin a))

/-- Levels. LEVEL_SET writes a valid code to the DAC's shadow and its group to both copies, and with its STROBE flag strobes the group;
a strobe of a group captures it, and 128 ns later the DAC loads it (R237 to R240); LEVEL_STROBE and GO strobe groups; a strobe of a
group with a prepared DAC is held and shown in PEND, and it is made once no prepared request stands in its way (R240, R241). LEVEL_READ
answers the ten DACs of a pin; HV_LIMIT_SET sets the ceiling of dies none of whose high-voltage codes lies above it (R238). The
isolation switch closes at its time where its conditions still hold (R242, R285). It rests on the model's reading: log entry 31. -/
def Obligations.LevelsAndStrobes : Prop :=
  (∀ (s : State) (q : Nat) (c : Cmd) (n i g d : Nat), q < 8 → s.serves q 0x0202 c → c.payload = 2 → c.w 4 = 1 →
      c.w 5 = word (i * 2 ^ 28 + g * 2 ^ 24 + n * 2 ^ 16 + d) →
    n < 256 → i < 10 → g < 16 → d < 2 ^ 16 → s.ready q [uPin n] → s.mode n ≠ 7 → s.retired n = false →
    s.codeOk n i d = true → s.overCeil n i d = false → (LevelRec.put ⟨5, i, g, n, d⟩ s).relationFails n i = false →
    ∃ (t : State), exec (.levelSet q allWell) s = .next t ∧ s.replies t q c 0 0 []
      ∧ t.codeS n i = d ∧ t.codeL n i = s.codeL n i ∧ t.groupOf n i = g ∧ t.rdS (A.PIN_LEVEL n i) F.PIN_LEVEL.GROUP = g
      ∧ { t with rings := s.rings, regs := s.regs, fab := s.fab, shadow := s.shadow } = s ∧ s.keepsRegs t [A.PIN_LEVEL n i])
  ∧ (∀ (s : State) (q : Nat) (c : Cmd) (n i g d : Nat), q < 8 → s.serves q 0x0202 c → c.payload = 2 → c.w 4 = 0x80000001 →
      c.w 5 = word (i * 2 ^ 28 + g * 2 ^ 24 + n * 2 ^ 16 + d) →
    n < 256 → i < 10 → g < 16 → d < 2 ^ 16 → s.ready q [uPin n] → s.mode n ≠ 7 → s.retired n = false →
    s.codeOk n i d = true → s.overCeil n i d = false → (LevelRec.put ⟨5, i, g, n, d⟩ s).relationFails n i = false →
    s.modeBusy n = false → s.calBusy (uPin n) = false → (i = 9 → s.rangeBusy n = false) → s.prepared = [] →
    ∃ (t : State), exec (.levelSet q allWell) s = .next t ∧ s.replies t q c 0 0 []
      ∧ t.codeS n i = d ∧ t.codeL n i = s.codeL n i ∧ t.groupOf n i = g ∧ t.rdS (A.PIN_LEVEL n i) F.PIN_LEVEL.GROUP = g
      ∧ t.levels.strobes.dropLast = s.levels.strobes
      ∧ t.levels.strobes.getLast?.map (fun b => (b.due, b.loads.contains (.level n i d))) = some (1250 * s.now + 512000, true)
      ∧ { t with rings := s.rings, regs := s.regs, fab := s.fab, shadow := s.shadow, shadow0 := s.shadow0, levels := s.levels } = s
      ∧ s.keepsRegs t [A.PIN_LEVEL n i])
  ∧ (∀ (s : State) (q : Nat) (c : Cmd) (d g : Nat), q < 8 → s.serves q 0x0203 c → c.payload = 2 → d < 4 → g < 16 →
    c.w 4 = (if d < 2 then word (2 ^ (16 * d + g)) else 0) → c.w 5 = (if d < 2 then 0 else word (2 ^ (16 * (d - 2) + g))) →
    s.ready q [uGroup (16 * d + g)] → s.prepared = [] →
    ∃ (t : State), exec (.levelStrobe q allWell) s = .next t ∧ s.replies t q c 0 0 []
      ∧ t.levels = { s.levels with
          calHeld := s.levels.calHeld ++ (s.captures d g).filter s.calHolds
          strobes := s.levels.strobes ++ [⟨1250 * s.now + 512000, (s.captures d g).filter (fun l => !s.calHolds l)⟩] }
      ∧ { t with rings := s.rings, levels := s.levels } = s)
  ∧ (∀ (s : State) (d g : Nat), d < 4 → g < 16 → s.link.up = true → s.flag A.HL_CTRL F.HL_CTRL.WINDOW_RW = true →
      s.fabricWait (A.LVL_STROBE d) = none → s.prepared = [] →
    ∃ (t : State), exec (.lvlStrobeGo d (2 ^ g)) s = .next t
      ∧ t.levels = { s.levels with
          calHeld := s.levels.calHeld ++ (s.captures d g).filter s.calHolds
          strobes := s.levels.strobes ++ [⟨1250 * s.now + 512000, (s.captures d g).filter (fun l => !s.calHolds l)⟩] }
      ∧ { t with levels := s.levels, regs := s.regs } = s ∧ s.keepsRegs t [])
  ∧ (∀ (s : State) (d g : Nat), d < 4 → g < 16 → s.link.up = true → s.flag A.HL_CTRL F.HL_CTRL.WINDOW_RW = true →
      s.fabricWait (A.LVL_STROBE d) = none →
    s.prepared.contains (d, g) = true →
    ∃ (t : State), exec (.lvlStrobeGo d (2 ^ g)) s = .next t
      ∧ t.rd (A.LVL_STROBE d) F.LVL_STROBE.GO = s.rd (A.LVL_STROBE d) F.LVL_STROBE.GO ||| 2 ^ g
      ∧ t.rd (A.LVL_STROBE_STAT d) F.LVL_STROBE_STAT.PEND = s.rd (A.LVL_STROBE_STAT d) F.LVL_STROBE_STAT.PEND ||| 2 ^ g
      ∧ t.rd (A.LVL_STROBE_STAT d) F.LVL_STROBE_STAT.HELD = min 65535 (s.rd (A.LVL_STROBE_STAT d) F.LVL_STROBE_STAT.HELD + 1)
      ∧ t.levels = { s.levels with strobes := s.levels.strobes ++ [⟨1250 * s.now + 512000, []⟩] }
      ∧ { t with levels := s.levels, regs := s.regs } = s ∧ s.keepsRegs t [A.LVL_STROBE d, A.LVL_STROBE_STAT d])
  ∧ (∀ (s : State) (d g : Nat), d < 4 → g < 16 → s.rd (A.LVL_STROBE_STAT d) F.LVL_STROBE_STAT.PEND = 2 ^ g →
    (∀ (e : Nat), e < 4 → e ≠ d → s.rd (A.LVL_STROBE_STAT e) F.LVL_STROBE_STAT.PEND = 0) → s.prepared = [] →
    ∃ (t : State), exec .strobeHeldRelease s = .next t ∧ t.rd (A.LVL_STROBE_STAT d) F.LVL_STROBE_STAT.PEND = 0
      ∧ nbit (t.rd (A.LVL_STROBE d) F.LVL_STROBE.GO) g = false
      ∧ t.levels.strobes = s.levels.strobes ++ [⟨1250 * s.now + 512000, (s.captures d g).filter (fun l => !s.calHolds l)⟩]
      ∧ t.levels.calHeld = s.levels.calHeld ++ (s.captures d g).filter s.calHolds ∧ t.levels.late = s.levels.late
      ∧ { t with levels := s.levels, regs := s.regs } = s ∧ s.keepsRegs t [A.LVL_STROBE_STAT d, A.LVL_STROBE d])
  ∧ (∀ (s : State) (n i d due : Nat), s.levels.strobes = [⟨due, [.level n i d]⟩] → due ≤ 1250 * s.now → n < 256 → i < 10 → d < 2 ^ 16 →
    s.modeBusy n = false → s.mode n ≠ 7 → s.retired n = false → (i = 9 → s.rangeBusy n = false) →
    ∃ (t : State), exec (.levelDacUpdate []) s = .next t ∧ t.levels = { s.levels with strobes := [] } ∧ t.codeL n i = d
        ∧ t.loaded n i = true
      ∧ { t with levels := s.levels, regs := s.regs, pins := s.pins } = s
      ∧ s.keepsRegs t [A.PIN_LEVEL n i, A.PIN_STATUS n, A.CAL_CLIP (n / 64)] ∧ (∀ (a : Nat), a ≠ n → t.pin a = s.pin a))
  ∧ (∀ (s : State) (q : Nat) (c : Cmd) (n sh : Nat), q < 8 → s.serves q 0x0204 c → c.payload = 1 → c.w 4 = word (256 * sh + n) →
      n < 256 → sh < 2 → s.ready q [uPin n] →
    ∃ (t : State) (res : List Word), exec (.levelRead q) s = .next t ∧ s.replies t q c 0 0 res ∧ res.length = 10
        ∧ { t with rings := s.rings } = s
      ∧ (∀ (i : Nat), i < 10 → bits (wd res i) 15 0 = (if sh = 1 then s.codeS n i else s.codeL n i)
        ∧ bit (wd res i) 16 = s.loaded n i ∧ bits (wd res i) 31 24 = s.groupOf n i))
  ∧ (∀ (s : State) (q : Nat) (c : Cmd) (m d : Nat), q < 8 → s.serves q 0x0208 c → c.payload = 1 → c.w 4 = word (m * 2 ^ 16 + d) → 0 < m →
      m < 16 → 40000 ≤ d → d ≤ 52500 →
    s.ready q ((bitList 4 m).map uDie) → s.aboveCeil (bitList 4 m) d = none →
    ∃ (t : State), exec (.hvLimitSet q allWell) s = .next t ∧ s.replies t q c 0 0 []
      ∧ (∀ e ∈ bitList 4 m, t.rd (A.LVL_HV_CEIL e) F.LVL_HV_CEIL.CEIL = d)
      ∧ { t with rings := s.rings, regs := s.regs, fab := s.fab } = s ∧ s.keepsRegs t ((bitList 4 m).map A.LVL_HV_CEIL))
  ∧ (∀ (s : State) (n d : Nat), n < 256 → (s.pin n).closeAt = some d → d ≤ 1250 * s.now → s.pinReady n = true →
    ∃ (t : State), exec (.switchClose (uPin n)) s = .next t ∧ t.pinConn n = true
        ∧ t.pin n = { s.pin n with closeAt := none, byVih := false }
      ∧ t.rd (A.PIN_STATUS n) F.PIN_STATUS.DRV_EN
        = b2n ((s.pin n).en || (decide (s.mode n = 4) && !s.flag (A.PIN_STATUS n) F.PIN_STATUS.PARKED))
      ∧ { t with regs := s.regs, pins := s.pins } = s ∧ s.keepsRegs t [A.PIN_STATUS n] ∧ (∀ (a : Nat), a ≠ n → t.pin a = s.pin a))
  ∧ (∀ (s : State) (k d : Nat), k < 32 → (s.awOf k).closeAt = some d → d ≤ 1250 * s.now → s.awReady k = true →
    ∃ (t : State), exec (.switchClose (uAw k)) s = .next t ∧ t.flag (A.AW_STATUS k) F.AW_STATUS.DRV_CONN = true
      ∧ t.awOf k = { s.awOf k with closeAt := none }
      ∧ { t with regs := s.regs, aw := s.aw } = s ∧ s.keepsRegs t [A.AW_STATUS k] ∧ (∀ (a : Nat), a ≠ k → t.awOf a = s.awOf a))

/-- Protection. A connected HV driver, voltage-forcing PMU or source channel that begins to limit its current shows LIMITING and its
dwell runs; it stops showing it when the limiting ends; limiting that outlasts the dwell opens the output, and with a driver its gang,
which shows OVERCURRENT, and is reported under the key of its die (R233, R236, R281, R287, R401). A connected PMU that forces a current
shows CLAMPING by the same commands, which is the model's choice (log entry 89). -/
def Obligations.CurrentLimits : Prop :=
  (∀ (s : State) (n : Nat), n < 256 → s.pinConn n = true → s.mode n = 1 ∨ s.mode n = 4 ∨ (s.mode n = 2
      ∧ s.force n = 0) → (s.pin n).limitAt = none →
    ∃ (t : State), exec (.currentLimitOnset (uPin n)) s = .next t ∧ t.rd (A.PIN_STATUS n) F.PIN_STATUS.LIMITING = 1
      ∧ t.pin n = { s.pin n with limitAt := some s.now }
      ∧ { t with regs := s.regs, pins := s.pins } = s ∧ s.keepsRegs t [A.PIN_STATUS n] ∧ (∀ (a : Nat), a ≠ n → t.pin a = s.pin a))
  ∧ (∀ (s : State) (k : Nat), k < 32 → s.flag (A.AW_STATUS k) F.AW_STATUS.DRV_CONN = true → (s.awOf k).limitAt = none →
    ∃ (t : State), exec (.currentLimitOnset (uAw k)) s = .next t ∧ t.rd (A.AW_STATUS k) F.AW_STATUS.LIMITING = 1
      ∧ t.awOf k = { s.awOf k with limitAt := some s.now }
      ∧ { t with regs := s.regs, aw := s.aw } = s ∧ s.keepsRegs t [A.AW_STATUS k] ∧ (∀ (a : Nat), a ≠ k → t.awOf a = s.awOf a))
  ∧ (∀ (s : State) (n : Nat), n < 256 → s.pinConn n = true → s.mode n = 2 → s.force n = 1 →
    ∃ (t : State), exec (.currentLimitOnset (uPin n)) s = .next t ∧ t.rd (A.PMU_STATUS n) F.PMU_STATUS.CLAMPING = 1
      ∧ { t with regs := s.regs } = s ∧ s.keepsRegs t [A.PMU_STATUS n])
  ∧ (∀ (s : State) (n : Nat), n < 256 →
    ∃ (t : State), exec (.currentLimitEnd (uPin n)) s = .next t ∧ t.rd (A.PIN_STATUS n) F.PIN_STATUS.LIMITING = 0
      ∧ t.pin n = { s.pin n with limitAt := none }
      ∧ t.rd (A.PMU_STATUS n) F.PMU_STATUS.CLAMPING
        = (if s.mode n = 2 ∧ s.force n = 1 then 0 else s.rd (A.PMU_STATUS n) F.PMU_STATUS.CLAMPING)
      ∧ { t with regs := s.regs, pins := s.pins } = s ∧ s.keepsRegs t [A.PIN_STATUS n, A.PMU_STATUS n]
      ∧ (∀ (a : Nat), a ≠ n → t.pin a = s.pin a))
  ∧ (∀ (s : State) (k : Nat), k < 32 →
    ∃ (t : State), exec (.currentLimitEnd (uAw k)) s = .next t ∧ t.rd (A.AW_STATUS k) F.AW_STATUS.LIMITING = 0
      ∧ t.awOf k = { s.awOf k with limitAt := none }
      ∧ { t with regs := s.regs, aw := s.aw } = s ∧ s.keepsRegs t [A.AW_STATUS k] ∧ (∀ (a : Nat), a ≠ k → t.awOf a = s.awOf a))
  ∧ (∀ (s : State) (n d : Nat) (g : List Nat), n < 256 → s.mode n = 1 ∨ s.mode n = 4 → (s.pin n).limitAt = some d →
    d + 32000 * 10 ^ s.rd (A.PIN_DRV n) F.PIN_DRV.DWELL ≤ s.now →
    g = s.gangOf (if s.gangMember n then s.rd (A.PIN_GANG n) F.PIN_GANG.LEADER else n) →
    ∃ (t : State), exec (.pinDwellExpire n) s = .next t
      ∧ (∀ i ∈ g, t.rd (A.PIN_STATUS i) F.PIN_STATUS.OVERCURRENT = 1 ∧ t.pinConn i = false
          ∧ t.pin i = { s.pin i with closeAt := none, limitAt := none, byVih := true })
      ∧ t.lens.reports = s.lens.reports ++ [{ unit := uPin n, code := 1, key := keyDie (n / 64), stamp := s.coarseNow, warm := s.warming }]
      ∧ { t with regs := s.regs, regs0 := s.regs0, pins := s.pins, lens := s.lens } = s
      ∧ { t.lens with reports := s.lens.reports } = s.lens
      ∧ s.keepsRegs t (g.flatMap (fun i => [A.PIN_STATUS i, A.PMU_STATUS i])) ∧ (∀ (a : Nat), a ∉ g → t.pin a = s.pin a))
  ∧ (∀ (s : State) (n d : Nat), n < 256 → s.mode n = 2 → (s.pin n).limitAt = some d →
    d + 32000 * 10 ^ s.rd (A.PIN_DRV n) F.PIN_DRV.DWELL ≤ s.now →
    ∃ (t : State), exec (.pmuDwellExpire n) s = .next t ∧ t.rd (A.PIN_STATUS n) F.PIN_STATUS.OVERCURRENT = 1 ∧ t.pinConn n = false
      ∧ t.pin n = { s.pin n with closeAt := none, limitAt := none, byVih := true }
      ∧ t.lens = { s.lens with reports :=
          s.lens.reports ++ [{ unit := uPin n, code := 1, key := keyDie (n / 64), stamp := s.coarseNow, warm := s.warming }] }
      ∧ { t with regs := s.regs, regs0 := s.regs0, pins := s.pins, lens := s.lens } = s ∧ s.keepsRegs t [A.PIN_STATUS n, A.PMU_STATUS n]
      ∧ (∀ (a : Nat), a ≠ n → t.pin a = s.pin a))
  ∧ (∀ (s : State) (k d : Nat), k < 32 → (s.awOf k).limitAt = some d → d + 32000 * 10 ^ s.rd (A.AW_CFG k) F.AW_CFG.DWELL ≤ s.now →
    ∃ (t : State), exec (.awDwellExpire k) s = .next t ∧ t.rd (A.AW_STATUS k) F.AW_STATUS.OVERCURRENT = 1
      ∧ t.flag (A.AW_STATUS k) F.AW_STATUS.DRV_CONN = false ∧ t.awOf k = { s.awOf k with closeAt := none, limitAt := none }
      ∧ t.lens = { s.lens with reports :=
          s.lens.reports ++ [{ unit := uAw k, code := 2, key := keyDie (k / 8), stamp := s.coarseNow, warm := s.warming }] }
      ∧ { t with regs := s.regs, regs0 := s.regs0, aw := s.aw, lens := s.lens } = s ∧ s.keepsRegs t [A.AW_STATUS k]
      ∧ (∀ (a : Nat), a ≠ k → t.awOf a = s.awOf a))

/-- The parametric unit. PMU_SET writes the configuration of a pin at once and its PMUF code to the shadow; in mode 2 a change of FORCE,
RANGE or of the source starts a break, for which the pin holds the greater of its claims and its STROBE waits: the output opens 0.5 µs
after the commit, where a change of FORCE between 0 and 1 zeroes the live PMUF, and RANGE_BUSY clears 20 µs after it, when a strobe that
waited is made (R271 to R280, R295); a source channel's breaks and disabling go the same way (R285, R286). Remote sense that fails shows
SENSE_OPEN (R275, R284); the servo moves the setpoint each microsecond within ±0.5 V (R276). PMU_MEASURE samples its pins once a
microsecond and answers the corrected means (R282, R283). -/
def Obligations.ParametricUnit : Prop :=
  (∀ (s : State) (q : Nat) (c : Cmd) (n fo me ra se sv aw sel g d st : Nat) (br : Bool), q < 8 → s.serves q 0x0210 c → c.payload = 3 →
      c.w 4 = word (2 ^ 31 * st + 1) →
    c.w 5 = word (n * 2 ^ 24 + fo * 2 ^ 22 + me * 2 ^ 21 + ra * 2 ^ 18 + se * 2 ^ 17 + sv * 2 ^ 16 + aw * 2 ^ 15 + sel * 2 ^ 12 + g * 2 ^ 8) →
    c.w 6 = word d → n < 256 → fo < 3 → me < 2 → ra < 6 → se < 2 → sv < 2 → aw < 2 → sel < 8 → g < 16 → d < 2 ^ 16 → st < 2 →
    (fo = 2 → me = 0) → (sv = 1 ∨ aw = 1 → fo = 0) → pmufOk fo d = true → (fo = 0 → d ≤ s.rd (A.LVL_HV_CEIL (n / 64)) F.LVL_HV_CEIL.CEIL) →
    s.mode n ≠ 7 → s.retired n = false → s.ready q [uPin n] → (s.pin n).partAt = none → s.prepared = [] →
    (s.mode n = 2 → s.shortfall [(uPin n, max (s.claimOf (uPin n)) (pmuClaim fo ra))] = 0) →
    br = (decide (s.mode n = 2) && (s.force n != fo || s.rd (A.PMU_CFG n) F.PMU_CFG.RANGE != ra
      || s.rd (A.PMU_CFG n) F.PMU_CFG.AWSRC != aw || s.rd (A.PMU_CFG n) F.PMU_CFG.AW_SEL != sel)) →
    ∃ (t : State), exec (.pmuSet q allWell) s = .next t ∧ (t.ring q).run.bind (·.reply) = some ⟨0, 0, t.coarseNow, []⟩
      ∧ t.force n = fo ∧ t.rd (A.PMU_CFG n) F.PMU_CFG.MEAS = me ∧ t.rd (A.PMU_CFG n) F.PMU_CFG.RANGE = ra
      ∧ t.rd (A.PMU_CFG n) F.PMU_CFG.SENSE = se ∧ t.rd (A.PMU_CFG n) F.PMU_CFG.SERVO = sv
      ∧ t.rd (A.PMU_CFG n) F.PMU_CFG.AWSRC = aw ∧ t.rd (A.PMU_CFG n) F.PMU_CFG.AW_SEL = sel
      ∧ t.groupOf n 9 = g ∧ t.codeS n 9 = d
      ∧ t.codeL n 9 = (if br = false ∧ swapsForce (s.force n) fo = true then pmufZero fo else s.codeL n 9)
      ∧ t.loaded n 9 = (s.loaded n 9 && !(!br && swapsForce (s.force n) fo))
      ∧ t.rangeBusy n = (br || s.rangeBusy n)
      ∧ t.pin n = { s.pin n with
          servo := if sv = 0 then 0 else (s.pin n).servo
          rangeAt := if br then some s.now else (s.pin n).rangeAt
          breakAt := if br then some ((s.pin n).breakAt.getD s.now) else (s.pin n).breakAt
          zeroed := (s.pin n).zeroed || (br && swapsForce (s.force n) fo)
          closeAt := if br then none else (s.pin n).closeAt }
      ∧ t.claimOf (uPin n) = (if s.mode n = 2 then max (s.claimOf (uPin n)) (pmuClaim fo ra) else s.claimOf (uPin n))
      ∧ (s.mode n ≠ 2 → t.power = s.power)
      ∧ t.levels.late = s.levels.late ++ (if st = 1 ∧ br = true then [([uPin n], [(n / 64, g)])] else [])
      ∧ (if st = 1 ∧ br = false then t.levels.strobes.dropLast else t.levels.strobes) = s.levels.strobes
      ∧ { t with rings := s.rings, regs := s.regs, fab := s.fab, shadow := s.shadow, shadow0 := s.shadow0, pins := s.pins, power := s.power, levels := s.levels } = s
      ∧ s.keepsRegs t [A.PMU_CFG n, A.PIN_LEVEL n 9, A.PMU_STATUS n, A.PIN_STATUS n, A.PW_GRANTED]
          ∧ (∀ (a : Nat), a ≠ n → t.pin a = s.pin a))
  ∧ (∀ (s : State) (n d : Nat), n < 256 → (s.pin n).breakAt = some d → (s.pin n).partAt = none → d + 1600 ≤ s.now →
    ∃ (t : State), exec (.rangeBreakOpen (uPin n)) s = .next t ∧ t.pinConn n = false
      ∧ t.pin n = { s.pin n with breakAt := none, zeroed := false, servo := 0, closeAt := none, limitAt := none }
      ∧ t.claimOf (uPin n) = s.modeClaim n (s.mode n)
      ∧ t.codeL n 9 = (if (s.pin n).zeroed then pmufZero (s.force n) else s.codeL n 9)
      ∧ t.loaded n 9 = (s.loaded n 9 && !(s.pin n).zeroed)
      ∧ { t with regs := s.regs, pins := s.pins, power := s.power } = s
      ∧ s.keepsRegs t [A.PIN_STATUS n, A.PMU_STATUS n, A.PIN_LEVEL n 9, A.PW_GRANTED] ∧ (∀ (a : Nat), a ≠ n → t.pin a = s.pin a))
  ∧ (∀ (s : State) (n d : Nat), n < 256 → (s.pin n).rangeAt = some d → (s.pin n).breakAt = none → d + 64000 ≤ s.now → s.levels.late = [] →
    ∃ (t : State), exec (.rangeBusyClear (uPin n)) s = .next t ∧ t.rangeBusy n = false ∧ t.pin n = { s.pin n with rangeAt := none }
      ∧ { t with regs := s.regs, pins := s.pins } = s ∧ s.keepsRegs t [A.PMU_STATUS n] ∧ (∀ (a : Nat), a ≠ n → t.pin a = s.pin a))
  ∧ (∀ (s : State) (n d e g : Nat), n < 256 → e < 4 → g < 16 → (s.pin n).rangeAt = some d → (s.pin n).breakAt = none → d + 64000 ≤ s.now →
    s.levels.late = [([uPin n], [(e, g)])] → s.prepared = [] →
    ∃ (t : State), exec (.rangeBusyClear (uPin n)) s = .next t ∧ t.rangeBusy n = false ∧ t.pin n = { s.pin n with rangeAt := none }
      ∧ t.levels.late = [] ∧ t.levels.strobes.dropLast = s.levels.strobes
      ∧ t.levels.strobes.getLast?.map (·.due) = some (1250 * s.now + 512000)
      ∧ { t with regs := s.regs, pins := s.pins, levels := s.levels } = s ∧ s.keepsRegs t [A.PMU_STATUS n])
  ∧ (∀ (s : State) (k d : Nat), k < 32 → (s.awOf k).offAt = some d → d + 1600 ≤ s.now → (s.awOf k).breakAt = none → s.awState k = 0 →
    ∃ (t : State), exec (.rangeBreakOpen (uAw k)) s = .next t ∧ t.flag (A.AW_STATUS k) F.AW_STATUS.DRV_CONN = false
      ∧ t.awOf k = { s.awOf k with offAt := none, limitAt := none } ∧ t.claimOf (uAw k) = 0
      ∧ { t with regs := s.regs, aw := s.aw, power := s.power } = s ∧ s.keepsRegs t [A.AW_STATUS k, A.PW_GRANTED])
  ∧ (∀ (s : State) (k d : Nat), k < 32 → (s.awOf k).breakAt = some d → d + 1600 ≤ s.now → (s.awOf k).offAt = none → s.awState k ≠ 0 →
    ∃ (t : State), exec (.rangeBreakOpen (uAw k)) s = .next t ∧ t.flag (A.AW_STATUS k) F.AW_STATUS.DRV_CONN = false
      ∧ t.awOf k = { s.awOf k with breakAt := none, limitAt := none }
      ∧ t.claimOf (uAw k) = (if s.flag (A.AW_CFG k) F.AW_CFG.ILIM then 390 else 3450)
      ∧ { t with regs := s.regs, aw := s.aw, power := s.power } = s ∧ s.keepsRegs t [A.AW_STATUS k, A.PW_GRANTED])
  ∧ (∀ (s : State) (k d : Nat), k < 32 → (s.awOf k).rangeAt = some d → (s.awOf k).breakAt = none → d + 64000 ≤ s.now → s.levels.late = [] →
    ∃ (t : State), exec (.rangeBusyClear (uAw k)) s = .next t ∧ t.rd (A.AW_STATUS k) F.AW_STATUS.RANGE_BUSY = 0
      ∧ t.awOf k = { s.awOf k with rangeAt := none }
      ∧ { t with regs := s.regs, aw := s.aw } = s ∧ s.keepsRegs t [A.AW_STATUS k])
  ∧ (∀ (s : State) (n : Nat), n < 256 → s.mode n = 2 → s.flag (A.PMU_CFG n) F.PMU_CFG.SENSE = true → s.pinConn n = true →
    ∃ (t : State), exec (.senseOpenDetect (uPin n)) s = .next t ∧ t.rd (A.PMU_STATUS n) F.PMU_STATUS.SENSE_OPEN = 1
      ∧ { t with regs := s.regs } = s ∧ s.keepsRegs t [A.PMU_STATUS n])
  ∧ (∀ (s : State) (k : Nat), k < 32 → s.flag (A.AW_CFG k) F.AW_CFG.SENSE = true → s.flag (A.AW_STATUS k) F.AW_STATUS.DRV_CONN = true →
    ∃ (t : State), exec (.senseOpenDetect (uAw k)) s = .next t ∧ t.rd (A.AW_STATUS k) F.AW_STATUS.SENSE_OPEN = 1
      ∧ { t with regs := s.regs } = s ∧ s.keepsRegs t [A.AW_STATUS k])
  ∧ (∀ (s : State) (n : Nat) (m : Int), n < 256 → s.flag (A.PMU_CFG n) F.PMU_CFG.SERVO = true → s.force n = 0 → s.mode n = 2 →
      s.pinConn n = true →
    (s.pin n).servoAt + 3200 ≤ s.now →
    ∃ (t : State), exec (.pmuServoTick n m) s = .next t
      ∧ t.pin n = { s.pin n with servoAt := s.now, servo := max (-500000) (min 500000 ((s.pin n).servo + (((s.codeL n 9 : Int) - 15000) * 800 - m))) }
      ∧ t.rd (A.PMU_STATUS n) F.PMU_STATUS.SERVO_SAT
        = (if (t.pin n).servo = (s.pin n).servo + (((s.codeL n 9 : Int) - 15000) * 800 - m) then 0 else 1)
      ∧ { t with regs := s.regs, pins := s.pins } = s ∧ s.keepsRegs t [A.PMU_STATUS n])
  ∧ (∀ (s : State) (q : Nat) (c : Cmd) (n num dly : Nat), q < 8 → s.serves q 0x0211 c → c.payload = 9 →
      c.w 4 = word (num * 2 ^ 16 + dly) → 0 < num → num ≤ 8192 → dly ≤ 1000 →
    n < 256 → maskPins c = [n] → s.mode n = 2 → s.retired n = false → s.ready q [uPin n] →
    ∃ (t : State), exec (.pmuMeasure q allWell) s = .next t ∧ t.pin n = { s.pin n with strobed := false }
      ∧ (t.ring q).run.map (fun x => (x.stage, x.due, x.held, x.data)) = some (1, 1250 * s.now + 512000 + 4000000 * dly, [uPin n], [0, 0,
          0, 0])
      ∧ { t with rings := s.rings, pins := s.pins } = s)
  ∧ (∀ (s : State) (q : Nat) (c : Cmd) (x : PmuSample) (num : Nat), q < 8 → (s.ring q).run = some c → c.reply = none →
      c.opcode = 0x0211 → c.stage = 1 → c.due ≤ 1250 * s.now →
    bits (c.w 4) 31 16 = num → 0 < num → maskPins c = [x.pin] → c.data = [0, 0, 0, 0] →
    ∃ (t : State), exec (.pmuSample q [x]) s = .next t
      ∧ (t.ring q).run.map (fun x => (x.stage, x.due, x.data)) = some (1, c.due + 4000000,
          [1, Int.ofNat (s.coarseOf (c.due / 1250)), (s.pmuTake true x).1, Int.ofNat (s.pmuTake true x).2])
      ∧ t.flag (A.PMU_STATUS x.pin) F.PMU_STATUS.CLAMPING
        = (x.clamp && decide (s.mode x.pin = 2) && decide (s.force x.pin = 1) && s.pinConn x.pin)
      ∧ { t with rings := s.rings, pins := s.pins, regs := s.regs } = s ∧ s.keepsRegs t [A.PMU_STATUS x.pin])
  ∧ (∀ (s : State) (q : Nat) (c : Cmd) (n num stamp : Nat) (sum : Int) (fl : Nat), q < 8 → (s.ring q).run = some c → c.reply = none →
      c.opcode = 0x0211 → c.stage = 1 → c.orphan = false →
    c.late = [] → bits (c.w 4) 31 16 = num → maskPins c = [n] → c.data = [Int.ofNat num, Int.ofNat stamp, sum, Int.ofNat fl] → fl < 128 →
        n < 256 →
    ∃ (t : State), exec (.pmuMeasureDone q) s = .next t ∧ { t with rings := s.rings } = s
      ∧ (t.ring q).run.bind (·.reply) = some ⟨0, 0, t.coarseNow, [word (num * 2 ^ 16 + 1), word stamp, word (stamp / 2 ^ 32),
          word (n * 2 ^ 16 + s.rd (A.PMU_CFG n) F.PMU_CFG.RANGE * 256 + 128 * (1 - s.rd (A.PMU_CFG n) F.PMU_CFG.MEAS) + fl),
          word (toTwos 32 (roundDiv sum num))]⟩)

/-- Compare and fail-capture commands. CMP_CFG_SET sets the mask of a pin and, without MASK_ONLY, its window and capture choices (R254,
R270); MASK_SET writes a mask set of a tile's bank, which applies as TSET_EDGES does (R255); FAIL_CFG_SET sets a site's log mode and
policy (R263, R266); FAIL_READ answers, of the records that were complete as it started, those of a tile's first-fail store from an
index on, marking and counting those read back in error (R262, R267); FAIL_SUMMARY answers four words a pin (R257). -/
def Obligations.CompareCommands : Prop :=
  (∀ (s : State) (q : Nat) (c : Cmd) (n only ref win mk : Nat), q < 8 → s.serves q 0x0430 c → c.payload = 2 → c.w 4 = 1 →
    c.w 5 = word (only * 2 ^ 31 + n * 2 ^ 16 + ref * 4 + win * 2 + mk) → n < 256 → only < 2 → ref < 2 → win < 2 → mk < 2 →
    s.ready q [uTile (n / 16)] → (only = 0 → s.retired n = false ∧ s.pinBusy n = false) →
    ∃ (t : State), exec (.cmpCfgSet q allWell) s = .next t ∧ s.replies t q c 0 0 []
      ∧ t.rd (A.CMP_CFG n) F.CMP_CFG.MASK = mk
      ∧ t.rd (A.CMP_CFG n) F.CMP_CFG.WIN = (if only = 1 then s.rd (A.CMP_CFG n) F.CMP_CFG.WIN else win)
      ∧ t.rd (A.CMP_CFG n) F.CMP_CFG.CAPT_REF = (if only = 1 then s.rd (A.CMP_CFG n) F.CMP_CFG.CAPT_REF else ref)
      ∧ { t with rings := s.rings, regs := s.regs, fab := s.fab } = s ∧ s.keepsRegs t [A.CMP_CFG n])
  ∧ (∀ (s : State) (q : Nat) (c : Cmd) (k x pins wait : Nat), q < 8 → s.serves q 0x0431 c → c.payload = 2 →
      c.w 4 = word (2 ^ 31 * wait + 1) →
    c.w 5 = word (x * 2 ^ 24 + k * 2 ^ 16 + pins) → 0 < x → x < 16 → k < 16 → pins < 2 ^ 16 → wait < 2 → s.ready q [uTile k] →
    s.applyShort (decide (wait = 1)) [k] = false → KWf resetWord s.shadow0 →
    ∃ (t : State), exec (.maskSet q allWell) s = .next t
      ∧ s.replies t q c (if wait = 0 ∧ s.tileActive k = true then 1 else 0) (if wait = 0 ∧ s.tileActive k = true then 4 else 0) []
      ∧ t.rdS (A.LE_MASKSET k x) F.LE_MASKSET.PINS = pins
      ∧ t.rd (A.LE_MASKSET k x) F.LE_MASKSET.PINS
        = (if wait = 0 ∧ s.tileActive k = false then pins else s.rd (A.LE_MASKSET k x) F.LE_MASKSET.PINS)
      ∧ { t with rings := s.rings, regs := s.regs, fab := s.fab, shadow := s.shadow, shadow0 := s.shadow0 } = s
      ∧ (∀ (a : Nat), inBank k a = false → a ≠ A.TSET_CTRL k → t.reg a = s.reg a))
  ∧ (∀ (s : State) (q : Nat) (c : Cmd) (i m p : Nat), q < 8 → s.serves q 0x0432 c → c.payload = 1 →
      c.w 4 = word (i * 256 + m * 16 + p * 8) → i < 16 → m < 3 → p < 2 →
    s.ready q ((s.tilesOf i).map uTile) → s.reserved i = false →
    ∃ (t : State), exec (.failCfgSet q) s = .next t ∧ s.replies t q c 0 0 []
      ∧ t.rd (A.FAIL_CFG i) F.FAIL_CFG.FL_MODE = m ∧ t.rd (A.FAIL_CFG i) F.FAIL_CFG.FULL_POLICY = p
      ∧ { t with rings := s.rings, regs := s.regs, fab := s.fab } = s ∧ s.keepsRegs t [A.FAIL_CFG i])
  ∧ (∀ (s : State) (q : Nat) (c : Cmd) (k n first m : Nat) (l : List (List Word)), q < 8 → s.serves q 0x0B10 c → c.payload = 2 →
      c.w 4 = word k → k < 16 →
    c.w 5 = word (n * 2 ^ 16 + first) → 0 < n → n ≤ 8191 → first < 2 ^ 16 → c.data = [Int.ofNat m] →
        l = ((s.tile k).store.take m).drop first →
    s.ready q [uTile k] →
    ∃ (t : State), exec (.failRead q []) s = .next t ∧ { t with rings := s.rings } = s
      ∧ s.replies t q c (if n ≤ l.length then 0 else 1) (if n ≤ l.length then 0 else l.length)
          (word ((if ((s.tile k).store.take m).length = 65536 then 1 else 0) * 2 ^ 31 + ((s.tile k).store.take m).length)
            :: (l.take n).flatten))
  ∧ (∀ (s : State) (q : Nat) (c : Cmd) (k first m : Nat) (r : List Word), q < 8 → s.serves q 0x0B10 c → c.payload = 2 → c.w 4 = word k →
      k < 16 →
    c.w 5 = word (2 ^ 16 + first) → first < 2 ^ 16 → c.data = [Int.ofNat m] → ((s.tile k).store.take m)[first]? = some r →
        s.ready q [uTile k] →
    ∃ (t : State), exec (.failRead q [first]) s = .next t
      ∧ s.replies t q c 0 0
          (word ((if ((s.tile k).store.take m).length = 65536 then 1 else 0) * 2 ^ 31 + ((s.tile k).store.take m).length)
            :: r.set 0 (wd r 0 ||| word (2 ^ 27)))
      ∧ t.rd A.PL_LM_ECC F.PL_LM_ECC.UE = min (2 ^ F.PL_LM_ECC.UE.width - 1) (s.rd A.PL_LM_ECC F.PL_LM_ECC.UE + 1)
      ∧ { t with rings := s.rings, regs := s.regs, fab := s.fab } = s ∧ s.keepsRegs t [A.PL_LM_ECC])
  ∧ (∀ (s : State) (q : Nat) (c : Cmd) (i : Nat), q < 8 → s.serves q 0x0B11 c → c.payload = 1 → c.w 4 = word i → i < 16 →
      s.formed i = true →
    ∃ (t : State) (res : List Word), exec (.failSummary q) s = .next t ∧ s.replies t q c 0 0 res ∧ { t with rings := s.rings } = s
      ∧ res.length = 1 + 64 * s.width i ∧ wd res 0 = word (16 * s.width i)
      ∧ (∀ (j : Nat), j < 16 * s.width i → bits (wd res (1 + 4 * j)) 31 16 = 16 * s.lead i + j
        ∧ bits (wd res (1 + 4 * j)) 15 2 = s.rd (A.CMP_CFG (16 * s.lead i + j)) F.CMP_CFG.MASK
        ∧ bits (wd res (1 + 4 * j)) 1 1 = s.rd (A.CMP_STAT (16 * s.lead i + j)) F.CMP_STAT.MISSED
        ∧ bits (wd res (1 + 4 * j)) 0 0 = s.rd (A.CMP_STAT (16 * s.lead i + j)) F.CMP_STAT.FIRST_VALID
        ∧ wd res (2 + 4 * j) = s.reg (A.CMP_FAILCNT (16 * s.lead i + j))
        ∧ wd res (3 + 4 * j) = s.reg (A.CMP_FIRST_LO (16 * s.lead i + j))
        ∧ wd res (4 + 4 * j) = s.reg (A.CMP_FIRST_HI (16 * s.lead i + j))))

/-- Source channels. AW_SET enables a channel, idle and unloaded, for its power claim, disables it, to be open 0.5 µs later, and sets an
enabled one, where a change of RANGE or ILIM starts a break and holds the greater claim (R284 to R286); AW_SEG_LOAD and AW_SEQ_LOAD fill
its segments and steps, and host data that a segment load cannot read end it with 0x0602 (R91, R288, R290); AW_RUN starts it and AW_STOP
stops it 128 ns later (R291, R294); a step without WAIT plays its segment at once, with its beacon, one with WAIT waits for a trigger
(R290, R292); a repetition that ends is counted and the step's REPEAT and NEXTM decide what follows, unless a stop or a jump present 32
ns earlier takes the boundary (R290, R293, R294); a jump is taken at once while the channel waits (R293). Where something of the channel
that is due earlier has yet to act, these commands wait; it rests on the model's readings: log entries 33, 34 and 89. -/
def Obligations.SourceChannels : Prop :=
  (∀ (s : State) (q : Nat) (c : Cmd) (k ra il se dw g d : Nat), q < 8 → s.serves q 0x0501 c → c.payload = 2 → c.w 4 = 1 →
    c.w 5 = word (k * 2 ^ 27 + 2 ^ 26 + ra * 2 ^ 25 + il * 2 ^ 24 + se * 2 ^ 23 + dw * 2 ^ 20 + g * 2 ^ 16 + d) →
    k < 32 → ra < 2 → il < 2 → se < 2 → dw < 4 → g < 16 → d < 2 ^ 16 → awCodeOk d = true → s.ready q [uAw k] → s.awState k = 0 →
    s.shortfall [(uAw k, max (if il = 0 then 3450 else 390) (s.claimOf (uAw k)))] = 0 →
    ∃ (t : State), exec (.awSet q allWell) s = .next t ∧ (t.ring q).run.bind (·.reply) = some ⟨0, 0, t.coarseNow, []⟩
      ∧ t.awState k = 1 ∧ t.rd (A.AW_CFG k) F.AW_CFG.ENABLE = 1 ∧ t.rd (A.AW_CFG k) F.AW_CFG.RANGE = ra
      ∧ t.rd (A.AW_CFG k) F.AW_CFG.ILIM = il ∧ t.rd (A.AW_CFG k) F.AW_CFG.SENSE = se ∧ t.rd (A.AW_CFG k) F.AW_CFG.DWELL = dw
      ∧ t.rd (A.AW_CFG k) F.AW_CFG.GROUP = g ∧ t.rdS (A.AW_IDLE k) F.AW_IDLE.CODE = d
      ∧ t.rd (A.AW_STATUS k) F.AW_STATUS.LOADED = 0 ∧ t.flag (A.AW_STATUS k) F.AW_STATUS.DRV_CONN
          = s.flag (A.AW_STATUS k) F.AW_STATUS.DRV_CONN
      ∧ t.claimOf (uAw k) = max (if il = 0 then 3450 else 390) (s.claimOf (uAw k)) ∧ t.awOf k = { s.awOf k with last := none }
      ∧ { t with rings := s.rings, regs := s.regs, fab := s.fab, shadow := s.shadow, aw := s.aw, power := s.power } = s
      ∧ s.keepsRegs t [A.AW_CFG k, A.AW_STATUS k, A.PW_GRANTED])
  ∧ (∀ (s : State) (q : Nat) (c : Cmd) (k : Nat) (w : Word), q < 8 → s.serves q 0x0501 c → c.payload = 2 → c.w 4 = 1 → c.w 5 = w →
      bits w 31 27 = k → bits w 26 26 = 0 →
    bits w 22 20 < 4 → awCodeOk (bits w 15 0) = true → s.ready q [uAw k] → s.awState k ≠ 0 →
    (s.awState k = 2 ∨ s.awState k = 3 → s.rd (A.AW_CFG k) F.AW_CFG.RANGE = bits w 25 25 ∧ s.rd (A.AW_CFG k) F.AW_CFG.ILIM = bits w 24 24) →
    ∃ (t : State), exec (.awSet q allWell) s = .next t ∧ (t.ring q).run.bind (·.reply) = some ⟨0, 0, t.coarseNow, []⟩
      ∧ t.awState k = 0 ∧ t.rd (A.AW_CFG k) F.AW_CFG.ENABLE = 0 ∧ t.power = s.power
      ∧ t.rd (A.AW_STATUS k) F.AW_STATUS.TRIG_PEND = 0 ∧ t.rd (A.AW_STATUS k) F.AW_STATUS.JUMP_PENDING = 0
      ∧ t.awOf k = { s.awOf k with offAt := some s.now, closeAt := none, start := none, stopAt := [], jump := none, late := false, gen := 0 }
      ∧ { t with rings := s.rings, regs := s.regs, fab := s.fab, shadow := s.shadow, aw := s.aw } = s
      ∧ s.keepsRegs t [A.AW_CFG k, A.AW_STATUS k, A.AW_SAT k, A.CAL_CLIP (k / 8)])
  ∧ (∀ (s : State) (q : Nat) (c : Cmd) (k ra il se dw g d : Nat) (br : Bool), q < 8 → s.serves q 0x0501 c → c.payload = 2 → c.w 4 = 1 →
    c.w 5 = word (k * 2 ^ 27 + 2 ^ 26 + ra * 2 ^ 25 + il * 2 ^ 24 + se * 2 ^ 23 + dw * 2 ^ 20 + g * 2 ^ 16 + d) →
    k < 32 → ra < 2 → il < 2 → se < 2 → dw < 4 → g < 16 → d < 2 ^ 16 → awCodeOk d = true → s.ready q [uAw k] → s.awState k ≠ 0 →
    br = (s.rd (A.AW_CFG k) F.AW_CFG.RANGE != ra || s.rd (A.AW_CFG k) F.AW_CFG.ILIM != il) →
    (br = true → s.awState k = 1 ∨ s.awState k = 4) →
    s.shortfall [(uAw k, max (if il = 0 then 3450 else 390) (s.claimOf (uAw k)))] = 0 →
    ∃ (t : State), exec (.awSet q allWell) s = .next t ∧ (t.ring q).run.bind (·.reply) = some ⟨0, 0, t.coarseNow, []⟩
      ∧ t.awState k = s.awState k ∧ t.rd (A.AW_CFG k) F.AW_CFG.ENABLE = 1 ∧ t.rd (A.AW_CFG k) F.AW_CFG.RANGE = ra
      ∧ t.rd (A.AW_CFG k) F.AW_CFG.ILIM = il ∧ t.rd (A.AW_CFG k) F.AW_CFG.SENSE = se ∧ t.rd (A.AW_CFG k) F.AW_CFG.DWELL = dw
      ∧ t.rd (A.AW_CFG k) F.AW_CFG.GROUP = g ∧ t.rdS (A.AW_IDLE k) F.AW_IDLE.CODE = d
      ∧ t.flag (A.AW_STATUS k) F.AW_STATUS.RANGE_BUSY = (br || s.flag (A.AW_STATUS k) F.AW_STATUS.RANGE_BUSY)
      ∧ t.claimOf (uAw k) = max (if il = 0 then 3450 else 390) (s.claimOf (uAw k))
      ∧ t.awOf k = { s.awOf k with
          rangeAt := if br then some s.now else (s.awOf k).rangeAt
          breakAt := if br then some ((s.awOf k).breakAt.getD s.now) else (s.awOf k).breakAt
          closeAt := if br then none else (s.awOf k).closeAt }
      ∧ { t with rings := s.rings, regs := s.regs, fab := s.fab, shadow := s.shadow, aw := s.aw, power := s.power } = s
      ∧ s.keepsRegs t [A.AW_CFG k, A.AW_STATUS k, A.PW_GRANTED])
  ∧ (∀ (s : State) (q : Nat) (c : Cmd) (k g n : Nat) (l : List Word), q < 8 → s.serves q 0x0502 c → c.payload = 5 →
      c.w 4 = word (k * 1024 + g) → k < 32 → g < 1024 →
    (c.w 6).toNat = n → 0 < n → n ≤ 2097152 → bits (c.w 7) 1 0 = 0 → s.ready q [uAw k] → s.awState k ≠ 2 → s.awState k ≠ 3 →
    s.awTaken (k / 8) (some (k, g)) + (n + 63) / 64 * 64 ≤ 2097152 → s.dmaWaits = false → n ≤ 2 * l.length →
    (∀ d ∈ unpackSamples l n, awCodeOk d = true) →
    ∃ (t : State), exec (.awSegLoad q (some l)) s = .next t ∧ s.replies t q c 0 0 [word (t.rd (A.AW_MEM (k / 8)) F.AW_MEM.FREE)]
      ∧ t.awSeg k g = some ⟨(c.w 5).toNat, (unpackSamples l n).map (fun d => sext 16 d)⟩
      ∧ t.rd (A.AW_MEM (k / 8)) F.AW_MEM.FREE = 2097152 - t.awTaken (k / 8) none
      ∧ { t.awOf k with segs := (s.awOf k).segs } = s.awOf k
      ∧ { t with rings := s.rings, regs := s.regs, fab := s.fab, aw := s.aw } = s ∧ s.keepsRegs t [A.AW_MEM (k / 8)])
  ∧ (∀ (s : State) (q : Nat) (c : Cmd) (k g n : Nat), q < 8 → s.serves q 0x0502 c → c.payload = 5 → c.w 4 = word (k * 1024 + g) →
      k < 32 → g < 1024 →
    (c.w 6).toNat = n → 0 < n → n ≤ 2097152 → bits (c.w 7) 1 0 = 0 → s.ready q [uAw k] → s.awState k ≠ 2 → s.awState k ≠ 3 →
    s.awTaken (k / 8) (some (k, g)) + (n + 63) / 64 * 64 ≤ 2097152 → s.dmaWaits = false →
    ∃ (t : State), exec (.awSegLoad q none) s = .next t ∧ s.replies t q c 0x0602 0 [] ∧ { t with rings := s.rings } = s)
  ∧ (∀ (s : State) (q : Nat) (c : Cmd) (k i n : Nat), q < 8 → s.serves q 0x0503 c → c.payload = 2 + 2 * n →
      c.w 4 = word (k * 2 ^ 27 + i) → k < 32 → i + n ≤ 4096 → 0 < n →
    c.w 5 = word n →
    (∀ (m : Nat), m < n → bits (c.w (6 + 2 * m)) 28 28 = 0 ∧ bits (c.w (6 + 2 * m)) 25 24 = 0 ∧ bits (c.w (6 + 2 * m)) 11 10 = 0
      ∧ (c.w (7 + 2 * m) = 0 → bit (c.w (6 + 2 * m)) 29 = true)) →
    s.ready q [uAw k] → s.awState k ≠ 2 → s.awState k ≠ 3 →
    ∃ (t : State), exec (.awSeqLoad q) s = .next t ∧ s.replies t q c 0 0 []
      ∧ (∀ (m : Nat), m < n → t.awStep k (i + m) = (c.w (6 + 2 * m), c.w (7 + 2 * m)))
      ∧ (∀ (j : Nat), j < 4096 → j < i ∨ i + n ≤ j → t.awStep k j = s.awStep k j)
      ∧ { t.awOf k with steps := (s.awOf k).steps } = s.awOf k ∧ { t with rings := s.rings, aw := s.aw } = s)
  ∧ (∀ (s : State) (q : Nat) (c : Cmd) (k i : Nat), q < 8 → s.serves q 0x0504 c → c.payload = 2 → c.w 4 = word (2 ^ k) → k < 32 →
      c.w 5 = word i → i < 4096 →
    s.badStep k 4096 i = none → s.ready q [uAw k] → s.awState k = 1 ∨ s.awState k = 4 →
    ∃ (t : State), exec (.awRun q allWell) s = .next t ∧ s.replies t q c 0 0 []
      ∧ t.awOf k = { s.awOf k with
          start := some (1250 * s.now + 512000, i)
          stopAt := (s.awOf k).stopAt.filter (fun x => x ≠ 1250 * s.now + 512000) }
      ∧ t.rd (A.AW_STATUS k) F.AW_STATUS.TRIG_PEND = 0
      ∧ { t with rings := s.rings, aw := s.aw, regs := s.regs, fab := s.fab } = s ∧ s.keepsRegs t [A.AW_STATUS k])
  ∧ (∀ (s : State) (k i d : Nat), k < 32 → i < 4096 → (s.awOf k).start = some (d, i) → d ≤ 1250 * s.now → s.awOwes k d = false →
    (∀ (j : Nat), j < 32 → j ≠ k → (s.awOf j).start = none) → bit (s.awStep k i).1 31 = false →
    ∃ (t : State), exec .awRunStart s = .next t ∧ t.awState k = 3 ∧ t.rd (A.AW_POS k) F.AW_POS.STEP = i
      ∧ t.rd (A.AW_POS k) F.AW_POS.SEG = bits (s.awStep k i).1 9 0 ∧ t.rd (A.AW_REP k) F.AW_REP.DONE = 0
      ∧ t.awOf k = { s.awOf k with
          start := none
          last := some i
          began := d
          boundary := d + 8000 * ((s.stepSeg k i).map AwSeg.updates).getD 0 }
      ∧ t.prism.flight = s.prism.flight ++ (if bit (s.awStep k i).1 30 then [⟨48 + k, 0, 0, s.stampAt d, tickOf d + 64⟩] else [])
      ∧ { t with aw := s.aw, regs := s.regs, prism := s.prism } = s
      ∧ s.keepsRegs t [A.AW_STATUS k, A.AW_POS k, A.AW_REP k, A.PR_PSTAT (48 + k)])
  ∧ (∀ (s : State) (k i d : Nat), k < 32 → i < 4096 → (s.awOf k).start = some (d, i) → d ≤ 1250 * s.now → s.awOwes k d = false →
    (∀ (j : Nat), j < 32 → j ≠ k → (s.awOf j).start = none) →
    bit (s.awStep k i).1 31 = true → s.rd (A.AW_STATUS k) F.AW_STATUS.TRIG_PEND = 0 →
    ∃ (t : State), exec .awRunStart s = .next t ∧ t.awState k = 2 ∧ t.rd (A.AW_POS k) F.AW_POS.STEP = i
      ∧ t.rd (A.AW_POS k) F.AW_POS.SEG = bits (s.awStep k i).1 9 0 ∧ t.rd (A.AW_REP k) F.AW_REP.DONE = 0
      ∧ t.awOf k = { s.awOf k with start := none, began := d }
      ∧ { t with aw := s.aw, regs := s.regs } = s ∧ s.keepsRegs t [A.AW_STATUS k, A.AW_POS k, A.AW_REP k])
  ∧ (∀ (s : State) (q : Nat) (c : Cmd) (k : Nat), q < 8 → s.serves q 0x0505 c → c.payload = 1 → c.w 4 = word (2 ^ k) → k < 32 →
      s.ready q [uAw k] → s.awState k ≠ 0 →
    ∃ (t : State), exec (.awStop q allWell) s = .next t ∧ s.replies t q c 0 0 []
      ∧ t.awOf k = { s.awOf k with stopAt := (s.awOf k).stopAt ++ [1250 * s.now + 512000] }
      ∧ t.rd (A.AW_STATUS k) F.AW_STATUS.TRIG_PEND = 0
      ∧ { t with rings := s.rings, aw := s.aw, regs := s.regs, fab := s.fab } = s ∧ s.keepsRegs t [A.AW_STATUS k])
  ∧ (∀ (s : State) (k d : Nat) (r : List Nat), k < 32 → (s.awOf k).stopAt = d :: r → d ≤ 1250 * s.now → s.awOwes k d = false →
      (s.awOf k).start = none →
    (∀ (j : Nat), j < 32 → j ≠ k → (s.awOf j).stopAt = []) → s.awState k ≠ 0 → (s.awState k = 3 → (s.awOf k).boundary ≠ d) →
    ∃ (t : State), exec .awStopAct s = .next t ∧ t.awState k = 1
      ∧ t.awOf k = { s.awOf k with stopAt := r, jump := none, late := false, gen := 0 }
      ∧ t.rd (A.AW_STATUS k) F.AW_STATUS.JUMP_PENDING = 0 ∧ t.rd (A.AW_STATUS k) F.AW_STATUS.TRIG_PEND = 0
      ∧ { t with aw := s.aw, regs := s.regs } = s ∧ s.keepsRegs t [A.AW_STATUS k, A.AW_SAT k, A.CAL_CLIP (k / 8)])
  ∧ (∀ (s : State) (q : Nat) (c : Cmd) (k i : Nat), q < 8 → s.serves q 0x0506 c → c.payload = 1 → c.w 4 = word (k * 2 ^ 27 + i) →
      k < 32 → i < 4096 → s.badStep k 4096 i = none →
    s.ready q [uAw k] → s.awState k = 2 ∨ s.awState k = 3 →
    ∃ (t : State), exec (.awJump q) s = .next t
      ∧ s.replies t q c (if (s.awOf k).jump.isSome then 1 else 0) (if (s.awOf k).jump.isSome then 1 else 0) []
      ∧ t.awOf k = { s.awOf k with jump := some (1250 * s.now + 512000, i), late := false }
      ∧ t.rd (A.AW_STATUS k) F.AW_STATUS.JUMP_PENDING = 1
      ∧ { t with rings := s.rings, aw := s.aw, regs := s.regs, fab := s.fab } = s ∧ s.keepsRegs t [A.AW_STATUS k])
  ∧ (∀ (s : State) (k i d e : Nat), k < 32 → i < 4096 → (s.awOf k).jump = some (d, i) → d ≤ 1250 * s.now → s.awOwes k d = false →
      s.awState k = 2 →
    bit (s.awStep k i).1 31 = false → e = max d (s.awOf k).began →
    ∃ (t : State), exec (.awJumpPresent k) s = .next t ∧ t.awState k = 3 ∧ t.rd (A.AW_POS k) F.AW_POS.STEP = i
      ∧ t.rd (A.AW_STATUS k) F.AW_STATUS.JUMP_PENDING = 0 ∧ t.rd (A.AW_REP k) F.AW_REP.DONE = 0
      ∧ t.awOf k = { s.awOf k with
          jump := none
          late := false
          last := some i
          began := e
          boundary := e + 8000 * ((s.stepSeg k i).map AwSeg.updates).getD 0 }
      ∧ t.prism.flight = s.prism.flight ++ (if bit (s.awStep k i).1 30 then [⟨48 + k, 0, 0, s.stampAt e, tickOf e + 64⟩] else [])
      ∧ { t with aw := s.aw, regs := s.regs, prism := s.prism } = s
      ∧ s.keepsRegs t [A.AW_STATUS k, A.AW_POS k, A.AW_REP k, A.PR_PSTAT (48 + k)])
  ∧ (∀ (s : State) (k i d : Nat), k < 32 → (s.awOf k).jump = some (d, i) → d ≤ 1250 * s.now → s.awOwes k d = false → s.awState k = 3 →
    d ≤ (s.awOf k).boundary → (s.awOf k).boundary < d + 128000 →
    ∃ (t : State), exec (.awJumpPresent k) s = .next t ∧ t.awState k = 3 ∧ t.awOf k = { s.awOf k with late := true }
      ∧ ((s.awOf k).late = false → t.rd (A.AW_STATUS k) F.AW_STATUS.JUMP_DEFERRED = 1)
      ∧ { t with aw := s.aw, regs := s.regs, regs0 := s.regs0 } = s ∧ s.keepsRegs t [A.AW_STATUS k])
  ∧ (∀ (s : State) (k x : Nat) (e : Arrival) (w : Word), k < 32 → (s.awOf k).trigs = [e] → e.due ≤ 1250 * s.now →
      s.awOwes k e.due = false → s.awState k = 2 →
    x = s.firstUpdate k e.due → w = (s.awStep k (s.rd (A.AW_POS k) F.AW_POS.STEP)).1 →
    ∃ (t : State), exec (.awTrigPresent k) s = .next t ∧ t.awState k = 3 ∧ t.rd (A.AW_POS k) F.AW_POS.STEP = s.rd (A.AW_POS k) F.AW_POS.STEP
      ∧ e.due ≤ x ∧ x < max e.due (s.awOf k).began + 8000
      ∧ t.awOf k = { s.awOf k with
          trigs := []
          last := some (s.rd (A.AW_POS k) F.AW_POS.STEP)
          began := x
          boundary := x + 8000 * ((s.stepSeg k (s.rd (A.AW_POS k) F.AW_POS.STEP)).map AwSeg.updates).getD 0 }
      ∧ t.prism.flight = s.prism.flight
          ++ (if bit w 30 = true ∧ e.gen < 7 then [⟨48 + k, 0, e.gen + 1, s.stampAt x, tickOf x + 64⟩] else [])
      ∧ { t with aw := s.aw, regs := s.regs, regs0 := s.regs0, prism := s.prism } = s
      ∧ s.keepsRegs t [A.AW_STATUS k, A.AW_POS k, A.AW_REP k, A.PR_PSTAT (48 + k)])
  ∧ (∀ (s : State) (k : Nat) (e : Arrival), k < 32 → (s.awOf k).trigs = [e] → e.due ≤ 1250 * s.now → s.awOwes k e.due = false →
      s.awState k = 3 →
    (s.awOf k).boundary ≠ e.due →
    ∃ (t : State), exec (.awTrigPresent k) s = .next t ∧ t.awState k = 3 ∧ t.rd (A.AW_STATUS k) F.AW_STATUS.TRIG_PEND = 1
      ∧ t.awOf k = { s.awOf k with
          trigs := []
          gen := if s.flag (A.AW_STATUS k) F.AW_STATUS.TRIG_PEND then (s.awOf k).gen else e.gen }
      ∧ (s.flag (A.AW_STATUS k) F.AW_STATUS.TRIG_PEND = true → bit (t.reg (A.PR_DIN_OVR_LO (k / 8))) (k % 8) = true)
      ∧ { t with aw := s.aw, regs := s.regs, regs0 := s.regs0 } = s ∧ s.keepsRegs t [A.AW_STATUS k, A.PR_DIN_OVR_LO (k / 8)])
  ∧ (∀ (s : State) (k : Nat) (a b : Word), k < 32 → s.awState k = 3 → (s.awOf k).boundary ≤ 1250 * s.now →
      s.awOwes k (s.awOf k).boundary = false →
    (s.awOf k).boundary ∉ (s.awOf k).stopAt →
    (s.awOf k).jump = none → s.awStep k (s.rd (A.AW_POS k) F.AW_POS.STEP) = (a, b) → s.rd (A.AW_REP k) F.AW_REP.DONE + 1 < 2 ^ 32 →
    bit a 29 = true ∨ s.rd (A.AW_REP k) F.AW_REP.DONE + 1 < b.toNat →
    ∃ (t : State), exec (.awBoundary k) s = .next t ∧ t.awState k = 3 ∧ t.rd (A.AW_REP k) F.AW_REP.DONE
        = s.rd (A.AW_REP k) F.AW_REP.DONE + 1
      ∧ t.awOf k = { s.awOf k with
          began := (s.awOf k).boundary
          boundary := (s.awOf k).boundary + 8000 * ((s.stepSeg k (s.rd (A.AW_POS k) F.AW_POS.STEP)).map AwSeg.updates).getD 0 }
      ∧ { t with aw := s.aw, regs := s.regs } = s ∧ s.keepsRegs t [A.AW_REP k, A.AW_SAT k, A.CAL_CLIP (k / 8)])
  ∧ (∀ (s : State) (k i : Nat) (a b : Word), k < 32 → s.awState k = 3 → (s.awOf k).boundary ≤ 1250 * s.now →
      s.awOwes k (s.awOf k).boundary = false →
    (s.awOf k).boundary ∉ (s.awOf k).stopAt →
    (s.awOf k).jump = none → s.awStep k (s.rd (A.AW_POS k) F.AW_POS.STEP) = (a, b) → s.rd (A.AW_REP k) F.AW_REP.DONE + 1 < 2 ^ 32 →
    bit a 29 = false → b.toNat ≤ s.rd (A.AW_REP k) F.AW_REP.DONE + 1 → bits a 27 26 < 2 →
    i = (if bits a 27 26 = 0 then s.rd (A.AW_POS k) F.AW_POS.STEP + 1 else bits a 23 12) → i < 4096 → bit (s.awStep k i).1 31 = false →
    ∃ (t : State), exec (.awBoundary k) s = .next t ∧ t.awState k = 3 ∧ t.rd (A.AW_POS k) F.AW_POS.STEP = i
        ∧ t.rd (A.AW_REP k) F.AW_REP.DONE = 0
      ∧ t.awOf k = { s.awOf k with
          last := some i
          began := (s.awOf k).boundary
          boundary := (s.awOf k).boundary + 8000 * ((s.stepSeg k i).map AwSeg.updates).getD 0 }
      ∧ t.prism.flight = s.prism.flight ++ (if bit (s.awStep k i).1 30 then
          [⟨48 + k, 0, 0, s.stampAt (s.awOf k).boundary, tickOf (s.awOf k).boundary + 64⟩] else [])
      ∧ { t with aw := s.aw, regs := s.regs, prism := s.prism } = s
      ∧ s.keepsRegs t [A.AW_STATUS k, A.AW_POS k, A.AW_REP k, A.AW_SAT k, A.CAL_CLIP (k / 8), A.PR_PSTAT (48 + k)])
  ∧ (∀ (s : State) (k : Nat) (a b : Word), k < 32 → s.awState k = 3 → (s.awOf k).boundary ≤ 1250 * s.now →
      s.awOwes k (s.awOf k).boundary = false →
    (s.awOf k).boundary ∉ (s.awOf k).stopAt →
    (s.awOf k).jump = none → s.awStep k (s.rd (A.AW_POS k) F.AW_POS.STEP) = (a, b) → s.rd (A.AW_REP k) F.AW_REP.DONE + 1 < 2 ^ 32 →
    bit a 29 = false → b.toNat ≤ s.rd (A.AW_REP k) F.AW_REP.DONE + 1 → 2 ≤ bits a 27 26 →
    ∃ (t : State), exec (.awBoundary k) s = .next t ∧ t.awState k = (if bits a 27 26 = 2 then 4 else 1)
      ∧ t.rd (A.AW_STATUS k) F.AW_STATUS.TRIG_PEND = 0 ∧ t.rd (A.AW_STATUS k) F.AW_STATUS.JUMP_PENDING = 0
      ∧ t.awOf k = { s.awOf k with late := false, gen := 0 }
      ∧ { t with aw := s.aw, regs := s.regs } = s ∧ s.keepsRegs t [A.AW_STATUS k, A.AW_REP k, A.AW_SAT k, A.CAL_CLIP (k / 8)])
  ∧ (∀ (s : State) (k : Nat), k < 32 → s.awState k = 3 → (s.awOf k).boundary ≤ 1250 * s.now → s.awOwes k (s.awOf k).boundary = false →
    (s.awOf k).boundary ∈ (s.awOf k).stopAt →
    ∃ (t : State), exec (.awBoundary k) s = .next t ∧ t.awState k = 1 ∧ (t.awOf k).jump = none
      ∧ (t.awOf k).stopAt = (s.awOf k).stopAt.filter (fun x => x ≠ (s.awOf k).boundary)
      ∧ { t with aw := s.aw, regs := s.regs } = s ∧ s.keepsRegs t [A.AW_STATUS k, A.AW_REP k, A.AW_SAT k, A.CAL_CLIP (k / 8)])
  ∧ (∀ (s : State) (k p i : Nat), k < 32 → i < 4096 → s.awState k = 3 → (s.awOf k).boundary ≤ 1250 * s.now →
      s.awOwes k (s.awOf k).boundary = false →
    (s.awOf k).boundary ∉ (s.awOf k).stopAt → (s.awOf k).jump = some (p, i) → p + 128000 ≤ (s.awOf k).boundary →
        bit (s.awStep k i).1 31 = false →
    ∃ (t : State), exec (.awBoundary k) s = .next t ∧ t.awState k = 3 ∧ t.rd (A.AW_POS k) F.AW_POS.STEP = i
      ∧ t.rd (A.AW_STATUS k) F.AW_STATUS.JUMP_PENDING = 0 ∧ t.rd (A.AW_REP k) F.AW_REP.DONE = 0
      ∧ (t.awOf k).jump = none ∧ (t.awOf k).began = (s.awOf k).boundary
      ∧ { t with aw := s.aw, regs := s.regs, prism := s.prism } = s)

/-- Window monitors. WM_SET writes a valid configuration at once, thresholds and shape to the shadow; an enabling starts resolving, and
a disabling ends the output (R296 to R301); once the settle time has passed and the input lies clear of the thresholds the monitor is
resolved (R299, R300). The output of a resolved monitor follows its comparisons by COND, and each time the gated output becomes active
it is counted and WM_OUT fires (R298, R303, R305); an eclipse window closes at its time (R303); the tap converter gives a mean each
microsecond (R304). It rests on the model's readings: log entries 30 and 89. -/
def Obligations.WindowMonitors : Prop :=
  (∀ (s : State) (q : Nat) (c : Cmd) (k : Nat) (a b d : Word), q < 8 → s.serves q 0x0520 c → c.payload = 4 → c.w 4 = 1 → c.w 5 = a →
      c.w 6 = b → c.w 7 = d →
    bits a 31 26 = k → bits a 1 0 = 0 → bits b 31 28 = 0 → bits b 15 12 = 0 → WmRec.badAt ⟨5, k, a, b, d⟩ = 0 →
    s.ready q [uWm k] → s.guarded k = false → (∀ n ∈ wmPin k (bits a 21 20) (bits a 19 14), s.mode n ≠ 7 ∧ s.retired n = false) →
    bits a 25 25 = 1 → s.wmEnabled k = false →
    ∃ (t : State), exec (.wmSet q allWell) s = .next t ∧ s.replies t q c 0 0 []
      ∧ t.rd (A.WM_CFG k) F.WM_CFG.WORD = bits a 25 0 ∧ t.shd (A.WM_TH k) = b ∧ t.shd (A.WM_SHAPE k) = d
      ∧ t.wmOf k = { s.wmOf k with
          resolving := true
          loaded := false
          settleAt := some (s.now + settleTicks (bits a 24 23))
          epoch := (s.wmOf k).epoch + 1
          lost := (s.wmOf k).lost && decide (bits a 21 14 = s.wmCfg k 21 14)
          ramp := if bits a 6 4 = s.wmCfg k 6 4 then (s.wmOf k).ramp else none }
      ∧ t.rd (A.WM_STATUS k) F.WM_STATUS.OUT = 0 ∧ t.rd (A.WM_STATUS k) F.WM_STATUS.GATED = 0
      ∧ t.rd (A.WM_STATUS k) F.WM_STATUS.UNRESOLVED = 1 ∧ t.rd (A.WM_STATUS k) F.WM_STATUS.LOADED = 0
      ∧ t.rd (A.WM_TAP k) F.WM_TAP.VALID = (if bits a 24 23 ≤ 1 then 1 else 0)
      ∧ { t with rings := s.rings, regs := s.regs, fab := s.fab, shadow := s.shadow, wm := s.wm } = s
      ∧ s.keepsRegs t [A.WM_CFG k, A.WM_STATUS k, A.WM_TAP k])
  ∧ (∀ (s : State) (q : Nat) (c : Cmd) (k : Nat) (a b d : Word), q < 8 → s.serves q 0x0520 c → c.payload = 4 → c.w 4 = 1 → c.w 5 = a →
      c.w 6 = b → c.w 7 = d →
    bits a 31 26 = k → bits a 1 0 = 0 → bits b 31 28 = 0 → bits b 15 12 = 0 → WmRec.badAt ⟨5, k, a, b, d⟩ = 0 →
    s.ready q [uWm k] → s.guarded k = false → (∀ n ∈ wmPin k (bits a 21 20) (bits a 19 14), s.mode n ≠ 7 ∧ s.retired n = false) →
    bits a 25 25 = 0 →
    ∃ (t : State), exec (.wmSet q allWell) s = .next t ∧ s.replies t q c 0 0 []
      ∧ t.rd (A.WM_CFG k) F.WM_CFG.WORD = bits a 25 0 ∧ t.shd (A.WM_TH k) = b ∧ t.shd (A.WM_SHAPE k) = d
      ∧ t.rd (A.WM_STATUS k) F.WM_STATUS.OUT = 0 ∧ t.rd (A.WM_STATUS k) F.WM_STATUS.GATED = 0 ∧ t.rd (A.WM_TAP k) F.WM_TAP.VALID = 0
      ∧ { t with rings := s.rings, regs := s.regs, fab := s.fab, shadow := s.shadow, wm := s.wm } = s
      ∧ s.keepsRegs t [A.WM_CFG k, A.WM_STATUS k, A.WM_TAP k])
  ∧ (∀ (s : State) (k d : Nat), k < 64 → (s.wmOf k).settleAt = some d → d ≤ s.now → s.wmEnabled k = true → (s.wmOf k).loaded = true →
      s.wmLost k = false →
    s.wmClear k (1250 * d) = true →
    ∃ (t : State), exec (.wmSettleExpire k) s = .next t ∧ (t.wmOf k).settleAt = none ∧ (t.wmOf k).resolving = false
      ∧ t.rd (A.WM_STATUS k) F.WM_STATUS.UNRESOLVED = 0
      ∧ { t with regs := s.regs, wm := s.wm, prism := s.prism } = s ∧ s.keepsRegs t [A.WM_STATUS k, A.WM_COUNT k, A.PR_PSTAT (80 + k)])
  ∧ (∀ (s : State) (k : Nat) (x v hi lo h : Int) (ab bl out : Bool), k < 64 →
    s.wmEnabled k = true → (s.wmOf k).resolving = false → (s.wmOf k).held = false →
    (s.wmOf k).ramp = none → s.calBusy (uWm k) = false → s.wmLost k = false → s.rd (A.WM_LIVE k) F.WM_LIVE.TH_LO ≤ wmTop (s.wmRange k) →
    v = (if s.wmRange k = 0 then x * 32 + 960 * 400000 else x * 320 + 2048 * 400000) →
    hi = (s.rd (A.WM_LIVE k) F.WM_LIVE.TH_HI : Int) * 400000 → lo = (s.rd (A.WM_LIVE k) F.WM_LIVE.TH_LO : Int) * 400000 →
    h = (s.rd (A.WM_SHAPE k) F.WM_SHAPE.HYS : Int) * 400000 → (if ab then hi < v else v < hi - h) → (if bl then v < lo else lo + h < v) →
    out = (if s.wmCond k = 0 then ab else if s.wmCond k = 1 then bl else if s.wmCond k = 2 then ab || bl else !ab && !bl) →
    ∃ (t : State), exec (.wmInputCrossing k x) s = .next t ∧ (t.wmOf k).input = x ∧ (t.wmOf k).above = ab ∧ (t.wmOf k).below = bl
      ∧ t.rd (A.WM_STATUS k) F.WM_STATUS.OUT = b2n out ∧ t.rd (A.WM_STATUS k) F.WM_STATUS.GATED = b2n (out && (s.wmOf k).eclipse.isNone)
      ∧ (if out = true ∧ (s.wmOf k).eclipse = none ∧ s.flag (A.WM_STATUS k) F.WM_STATUS.GATED = false then
          t.rd (A.WM_COUNT k) F.WM_COUNT.COUNT = min (2 ^ F.WM_COUNT.COUNT.width - 1) (s.rd (A.WM_COUNT k) F.WM_COUNT.COUNT + 1)
          ∧ t.prism.flight = s.prism.flight ++ [⟨80 + k, 0, 0, s.stampNow, s.now + 64⟩]
        else t.rd (A.WM_COUNT k) F.WM_COUNT.COUNT = s.rd (A.WM_COUNT k) F.WM_COUNT.COUNT ∧ t.prism = s.prism)
      ∧ { t with regs := s.regs, wm := s.wm, prism := s.prism } = s ∧ s.keepsRegs t [A.WM_STATUS k, A.WM_COUNT k, A.PR_PSTAT (80 + k)])
  ∧ (∀ (s : State) (k d : Nat), k < 64 → (s.wmOf k).eclipse = some d → d ≤ s.now →
    ∃ (t : State), exec (.eclipseClose k) s = .next t ∧ (t.wmOf k).eclipse = none ∧ t.rd (A.WM_STATUS k) F.WM_STATUS.ECLIPSED = 0
      ∧ t.rd (A.WM_STATUS k) F.WM_STATUS.GATED = t.rd (A.WM_STATUS k) F.WM_STATUS.OUT
      ∧ { t with regs := s.regs, wm := s.wm, prism := s.prism } = s ∧ s.keepsRegs t [A.WM_STATUS k, A.WM_COUNT k, A.PR_PSTAT (80 + k)])
  ∧ (∀ (s : State) (k : Nat) (m : Int), k < 64 → s.flag (A.WM_TAP k) F.WM_TAP.VALID = true → (s.wmOf k).tapAt + 3200 ≤ s.now →
    ∃ (t : State), exec (.wmTapUpdate k m) s = .next t
      ∧ t.rd (A.WM_TAP k) F.WM_TAP.MEAN = min (if s.wmRange k = 0 then 3360 else 4095) m.toNat
      ∧ t.wmOf k = { s.wmOf k with tapAt := s.now }
      ∧ { t with regs := s.regs, wm := s.wm } = s ∧ s.keepsRegs t [A.WM_TAP k])

/-- Pulse-engine commands. PG_SET writes the configuration at once and the timing to the shadow, and an enabled engine holds its claim
and is idle (R308, R309); without ENABLE an engine that does not run becomes disabled and its claim is released, one that is armed or
runs does so at the tick 128 ns on (R308, R314). PG_LIST_LOAD fills the list (R312); PG_START arms engines with SRC 1 and lets the
others go 128 ns later (R310); PG_STOP stops an engine at the tick 128 ns on, PG_CLEAR ends a fault (R314). The HI word of a timing pair
in BAR0 takes the latched LO word with it, or is discarded (R210, R309, R313). It rests on the model's readings: log entries 68 and 89.
-/
def Obligations.PulseCommands : Prop :=
  (∀ (s : State) (q : Nat) (c : Cmd) (j : Nat), q < 8 → s.serves q 0x0530 c → c.payload = 10 → bits (c.w 4) 31 27 = j →
      bits (c.w 4) 26 26 = 1 → bits (c.w 4) 23 23 = 0 →
    bits (c.w 4) 15 0 = 0 → bits (c.w 4) 25 24 < 3 → bits (c.w 7) 31 16 = 0 → bits (c.w 9) 31 16 = 0 → bits (c.w 11) 31 16 = 0 →
    bits (c.w 13) 30 28 = 0 →
    pgPairOk (bits (c.w 4) 25 24) ((c.w 6).toNat + 2 ^ 32 * bits (c.w 7) 15 0) ((c.w 8).toNat + 2 ^ 32 * bits (c.w 9) 15 0) = true →
    (c.w 10).toNat + 2 ^ 32 * bits (c.w 11) 15 0 ≤ 40000000000000 → (bits (c.w 4) 25 24 = 2 → bits (c.w 5) 15 0 ≠ 0) →
    s.servoOk j c = true → s.ready q [uPg j] → s.pgLive j = false → s.shortfall [(uPg j, 60)] = 0 →
    ∃ (t : State), exec (.pgSet q) s = .next t ∧ (t.ring q).run.bind (·.reply) = some ⟨0, 0, t.coarseNow, []⟩
      ∧ t.pgState j = (if s.pgState j = 0 then 1 else s.pgState j) ∧ t.rd (A.PG_CFG j) F.PG_CFG.WORD = bits (c.w 4) 26 16
      ∧ t.reg (A.PG_MASK j) = c.w 5 ∧ t.reg (A.PG_COUNT j) = c.w 12 ∧ t.reg (A.PG_SERVO j) = c.w 13
      ∧ (∀ (i : Nat), i < 6 → t.shd (A.PG_PER_LO j + 4 * i) = c.w (6 + i) ∧ t.reg (A.PG_PER_LO j + 4 * i) = s.reg (A.PG_PER_LO j + 4 * i))
      ∧ t.claimOf (uPg j) = 60 ∧ t.pgOf j = { s.pgOf j with maskAt := 1250 * s.now }
      ∧ { t with rings := s.rings, regs := s.regs, fab := s.fab, shadow := s.shadow, power := s.power, pg := s.pg } = s
      ∧ s.keepsRegs t [A.PG_CFG j, A.PG_MASK j, A.PG_COUNT j, A.PG_SERVO j, A.PG_STATUS j, A.PW_GRANTED]
      ∧ (∀ (a : Nat), a ∉ A.PG_CFG j :: (List.range 6).map (A.PG_PER_LO j + 4 * ·) → t.shd a = s.shd a))
  ∧ (∀ (s : State) (q : Nat) (c : Cmd) (j : Nat), q < 8 → s.serves q 0x0530 c → c.payload = 10 → bits (c.w 4) 31 27 = j →
      bits (c.w 4) 26 26 = 0 → bits (c.w 4) 23 23 = 0 →
    bits (c.w 4) 15 0 = 0 → bits (c.w 4) 25 24 < 3 → bits (c.w 7) 31 16 = 0 → bits (c.w 9) 31 16 = 0 → bits (c.w 11) 31 16 = 0 →
    bits (c.w 13) 30 28 = 0 →
    pgPairOk (bits (c.w 4) 25 24) ((c.w 6).toNat + 2 ^ 32 * bits (c.w 7) 15 0) ((c.w 8).toNat + 2 ^ 32 * bits (c.w 9) 15 0) = true →
    (c.w 10).toNat + 2 ^ 32 * bits (c.w 11) 15 0 ≤ 40000000000000 → (bits (c.w 4) 25 24 = 2 → bits (c.w 5) 15 0 ≠ 0) →
    s.servoOk j c = true → s.ready q [uPg j] → s.pgLive j = false → s.pgState j ≠ 0 →
    ∃ (t : State), exec (.pgSet q) s = .next t ∧ (t.ring q).run.bind (·.reply) = some ⟨0, 0, t.coarseNow, []⟩
      ∧ t.pgState j = 0 ∧ t.claimOf (uPg j) = 0 ∧ t.pgOf j = { s.pgOf j with maskAt := 1250 * s.now, go := none, stops := [] }
      ∧ t.rd (A.PG_CFG j) F.PG_CFG.WORD = bits (c.w 4) 26 16
      ∧ { t with rings := s.rings, regs := s.regs, fab := s.fab, shadow := s.shadow, power := s.power, pg := s.pg } = s
      ∧ s.keepsRegs t [A.PG_CFG j, A.PG_MASK j, A.PG_COUNT j, A.PG_SERVO j, A.PG_STATUS j, A.PW_GRANTED])
  ∧ (∀ (s : State) (q : Nat) (c : Cmd) (j : Nat), q < 8 → s.serves q 0x0530 c → c.payload = 10 → bits (c.w 4) 31 27 = j →
      bits (c.w 4) 26 26 = 0 → bits (c.w 4) 23 23 = 0 →
    bits (c.w 4) 15 0 = 0 → bits (c.w 4) 25 24 < 3 → bits (c.w 7) 31 16 = 0 → bits (c.w 9) 31 16 = 0 → bits (c.w 11) 31 16 = 0 →
    bits (c.w 13) 30 28 = 0 →
    pgPairOk (bits (c.w 4) 25 24) ((c.w 6).toNat + 2 ^ 32 * bits (c.w 7) 15 0) ((c.w 8).toNat + 2 ^ 32 * bits (c.w 9) 15 0) = true →
    (c.w 10).toNat + 2 ^ 32 * bits (c.w 11) 15 0 ≤ 40000000000000 → (bits (c.w 4) 25 24 = 2 → bits (c.w 5) 15 0 ≠ 0) →
    s.servoOk j c = true → s.ready q [uPg j] → s.pgLive j = true → s.reg (A.PG_MASK j) &&& ~~~ (c.w 5) = 0 → s.pgFixed j c = false →
    ∃ (t : State), exec (.pgSet q) s = .next t ∧ (t.ring q).run.bind (·.reply) = some ⟨0, 0, t.coarseNow, []⟩
      ∧ t.pgState j = s.pgState j ∧ t.power = s.power
      ∧ t.pgOf j = { s.pgOf j with maskAt := 1250 * s.now, stops := (s.pgOf j).stops ++ [(s.now + 410, true)] }
      ∧ { t with rings := s.rings, regs := s.regs, fab := s.fab, shadow := s.shadow, pg := s.pg } = s
      ∧ s.keepsRegs t [A.PG_CFG j, A.PG_MASK j, A.PG_COUNT j, A.PG_SERVO j])
  ∧ (∀ (s : State) (q : Nat) (c : Cmd) (j n : Nat), q < 8 → s.serves q 0x0531 c → c.payload = 1 + 4 * n → c.w 4 = word (j * 2 ^ 27 + n) →
      j < 32 → 0 < n → n ≤ 64 →
    (∀ (e : Nat), e < n → bits (c.w (6 + 4 * e)) 31 16 = 0 ∧ bits (c.w (8 + 4 * e)) 31 16 = 0) → badEntryAt c n 0 0 = none →
    s.ready q [uPg j] → s.pgLive j = false →
    ∃ (t : State), exec (.pgListLoad q) s = .next t ∧ s.replies t q c 0 0 [] ∧ t.pgOf j = { s.pgOf j with entries := n }
      ∧ (∀ (e : Nat), e < n → ∀ (i : Nat), i < 4 → t.reg (A.PG_LIST j e i) = c.w (5 + 4 * e + i))
      ∧ { t with rings := s.rings, regs := s.regs, fab := s.fab, pg := s.pg } = s
      ∧ s.keepsRegs t ((List.range n).flatMap (fun e => (List.range 4).map (A.PG_LIST j e))))
  ∧ (∀ (s : State) (q : Nat) (c : Cmd), q < 8 → s.serves q 0x0532 c → c.payload = 1 → c.w 4 ≠ 0 →
      s.ready q ((bitList 32 (c.w 4).toNat).map uPg) →
    (∀ j ∈ bitList 32 (c.w 4).toNat, s.pgState j = 1 ∧ (s.pgMode j = 1 → (s.pgOf j).entries ≠ 0)) →
    ∃ (t : State), exec (.pgStart q allWell) s = .next t ∧ s.replies t q c 0 0 []
      ∧ (∀ j ∈ bitList 32 (c.w 4).toNat, t.pgState j = (if s.pgCfg j 21 21 = 1 then 2 else 1)
        ∧ t.pgOf j = (if s.pgCfg j 21 21 = 1 then { s.pgOf j with go := none } else { s.pgOf j with
            go := some (1250 * s.now + 512000, 0)
            stops := (s.pgOf j).stops.filter (fun x => x.2 || decide (x.1 ≠ s.now + 410)) }))
      ∧ { t with rings := s.rings, regs := s.regs, fab := s.fab, pg := s.pg } = s
      ∧ s.keepsRegs t ((bitList 32 (c.w 4).toNat).map A.PG_STATUS)
      ∧ (∀ (a : Nat), a ∉ bitList 32 (c.w 4).toNat → t.pgOf a = s.pgOf a))
  ∧ (∀ (s : State) (q : Nat) (c : Cmd), q < 8 → s.serves q 0x0533 c → c.payload = 1 → c.w 4 ≠ 0 →
      s.ready q ((bitList 32 (c.w 4).toNat).map uPg) →
    ∃ (t : State), exec (.pgStop q allWell) s = .next t ∧ s.replies t q c 0 0 []
      ∧ (∀ j ∈ bitList 32 (c.w 4).toNat, t.pgOf j = (if s.pgState j = 0 then s.pgOf j
          else { s.pgOf j with stops := (s.pgOf j).stops ++ [(s.now + 410, false)] }))
      ∧ { t with rings := s.rings, pg := s.pg } = s ∧ (∀ (a : Nat), a ∉ bitList 32 (c.w 4).toNat → t.pgOf a = s.pgOf a))
  ∧ (∀ (s : State) (q : Nat) (c : Cmd), q < 8 → s.serves q 0x0534 c → c.payload = 1 → c.w 4 ≠ 0 →
      s.ready q ((bitList 32 (c.w 4).toNat).map uPg) →
    ∃ (t : State), exec (.pgClear q allWell) s = .next t ∧ s.replies t q c 0 0 []
      ∧ (∀ j ∈ bitList 32 (c.w 4).toNat, t.pgState j = (if s.pgState j = 4 ∧ (s.pgOf j).faultAt ≠ some s.now then 1 else s.pgState j)
        ∧ (s.pgState j = 4 → (s.pgOf j).faultAt ≠ some s.now → t.rd (A.PG_STATUS j) F.PG_STATUS.FAULT_KIND = 0))
      ∧ { t with rings := s.rings, regs := s.regs, fab := s.fab } = s ∧ s.keepsRegs t ((bitList 32 (c.w 4).toNat).map A.PG_STATUS))
  ∧ (∀ (s : State) (j : Nat) (v d : Word), j < 32 → s.link.up = true → s.flag A.HL_CTRL F.HL_CTRL.WINDOW_RW = true →
      s.fabricWait (A.PG_DLY_HI j) = none →
    (s.pgOf j).latch = some (A.PG_DLY_LO j, d) → d.toNat + 2 ^ 32 * bits v 15 0 ≤ 40000000000000 →
    ∃ (t : State), exec (.pgTimingHiWrite j 2 v) s = .next t ∧ t.shd (A.PG_DLY_LO j) = d ∧ t.shd (A.PG_DLY_HI j) = word (bits v 15 0)
      ∧ t.pgOf j = { s.pgOf j with latch := none } ∧ { t with shadow := s.shadow, pg := s.pg } = s
      ∧ (∀ (a : Nat), a ≠ A.PG_DLY_LO j → a ≠ A.PG_DLY_HI j → t.shd a = s.shd a))
  ∧ (∀ (s : State) (j x : Nat) (v d : Word), j < 32 → x < 2 → s.link.up = true → s.flag A.HL_CTRL F.HL_CTRL.WINDOW_RW = true →
    s.fabricWait (A.PG_PER_LO j + 8 * x + 4) = none → (s.pgOf j).latch = some (A.PG_PER_LO j + 8 * x, d) →
    pgPairOk (s.pgMode j)
      (if x = 0 then d.toNat + 2 ^ 32 * bits v 15 0 else (s.shd (A.PG_PER_LO j)).toNat + 2 ^ 32 * bits (s.shd (A.PG_PER_HI j)) 15 0)
      (if x = 1 then d.toNat + 2 ^ 32 * bits v 15 0 else (s.shd (A.PG_WID_LO j)).toNat + 2 ^ 32 * bits (s.shd (A.PG_WID_HI j)) 15 0)
      = true →
    ∃ (t : State), exec (.pgTimingHiWrite j x v) s = .next t ∧ t.shd (A.PG_PER_LO j + 8 * x) = d
      ∧ t.shd (A.PG_PER_LO j + 8 * x + 4) = word (bits v 15 0)
      ∧ t.pgOf j = { s.pgOf j with latch := none } ∧ { t with shadow := s.shadow, pg := s.pg } = s
      ∧ (∀ (a : Nat), a ≠ A.PG_PER_LO j + 8 * x → a ≠ A.PG_PER_LO j + 8 * x + 4 → t.shd a = s.shd a))
  ∧ (∀ (s : State) (j : Nat) (v : Word), j < 32 → s.link.up = true → s.flag A.HL_CTRL F.HL_CTRL.WINDOW_RW = true →
      s.fabricWait (A.PG_WID_HI j) = none →
    s.pgMode j ≠ 1 → (s.pgOf j).latch = none →
    pgPairOk (s.pgMode j) ((s.shd (A.PG_PER_LO j)).toNat + 2 ^ 32 * bits (s.shd (A.PG_PER_HI j)) 15 0)
      ((s.shd (A.PG_WID_LO j)).toNat + 2 ^ 32 * bits v 15 0) = false →
    ∃ (t : State), exec (.pgTimingHiWrite j 1 v) s = .next t ∧ t.shadow = s.shadow
      ∧ t.rd A.HL_WIN_DISCARD F.HL_WIN_DISCARD.COUNT = min (2 ^ 32 - 1) (s.rd A.HL_WIN_DISCARD F.HL_WIN_DISCARD.COUNT + 1)
      ∧ { t with regs := s.regs, pg := s.pg } = s ∧ s.keepsRegs t [A.HL_WIN_DISCARD])

/-- Pulse runs. At its go time an engine runs, its pulse count zero, its first leading edge a DELAY later (R310); a leading edge starts
a pulse of the width that PG_WID or the list entry gives, is skipped where a monitor of the masks is active, or, after COUNT periods,
ends the run (R311, R313, R316); the trailing edge ends the pulse, and the last one of a list ends the run (R311). A trip truncates the
pulse, a fault monitor and PG_KILL fault the engine, which reports the fault (R315 to R318); a stop ends the run, and disables the
engine where ENABLE was cleared (R308, R314); the servo moves its monitor's live threshold (R320). Where something of the engine that is
due earlier has yet to act, these commands wait; it rests on the model's readings: log entries 35, 36, 75 and 89. -/
def Obligations.PulseRuns : Prop :=
  (∀ (s : State) (j d g : Nat), j < 32 → (s.pgOf j).go = some (d, g) → d ≤ 1250 * s.now → s.pgOwes j (tickOf d) = false →
      s.stopsBy j (tickOf d) = false →
    s.pgState j = 1 ∨ s.pgState j = 2 →
    ∃ (t : State), exec (.pgGo j) s = .next t ∧ t.pgState j = 3 ∧ t.rd (A.PG_PULSES j) F.PG_PULSES.COUNT = 0
      ∧ t.pgOf j = { s.pgOf j with
          go := none
          gen := g
          index := 0
          acc := 0
          servoAt := d / 1250
          next := some (d + s.pgDelay j + (if s.pgMode j = 1 then (s.pgEntry j 0).1 else 0)) }
      ∧ { t with regs := s.regs, pg := s.pg } = s ∧ s.keepsRegs t [A.PG_STATUS j, A.PG_PULSES j])
  ∧ (∀ (s : State) (j d here : Nat), j < 32 → s.pgState j = 3 → (s.pgOf j).next = some d → d ≤ 1250 * s.now → (s.pgOf j).trail = none →
    s.pgOwes j (tickOf d) = false → s.eclipseOwed j d = false → s.timingOwed j d = false → s.stopsBy j (tickOf d) = false →
    (s.pgMode j ≠ 1 → (s.reg (A.PG_COUNT j)).toNat = 0 ∨ (s.pgOf j).index < (s.reg (A.PG_COUNT j)).toNat) → (s.pgOf j).gen < 8 →
    here = 0xFFFF - s.selfEclipsed j →
    bitsOf ((s.tripping j).filter (fun i => (s.wmOf (16 * (j / 8) + i)).gatedAt ≤ d)) &&& here = 0 →
    ∃ (t : State), exec (.pgLeadingEdge j) s = .next t ∧ t.pgState j = 3
      ∧ t.pgOf j = { s.pgOf j with
          next := s.nextEdge j (s.pgOf j).index d
          index := (s.pgOf j).index + 1
          trail := some (d + (if s.pgMode j = 1 then (s.pgEntry j (s.pgOf j).index).2 else s.pgWidth j)) }
      ∧ t.rd (A.PG_PULSES j) F.PG_PULSES.COUNT
        = min (2 ^ F.PG_PULSES.COUNT.width - 1) (s.rd (A.PG_PULSES j) F.PG_PULSES.COUNT + 1)
      ∧ (∀ n ∈ s.pinsFollowing j, s.flag (A.PIN_STATUS n) F.PIN_STATUS.PARKED = false ∨ ((s.siteOfPin n).map s.active).getD true = true →
          (t.pin n).level = 1)
      ∧ (s.pgCfg j 20 20 = 1 → ⟨144 + j, 0, (s.pgOf j).gen, s.stampAt d, tickOf d + 64⟩ ∈ t.prism.flight)
      ∧ { t with regs := s.regs, pg := s.pg, pins := s.pins, prism := s.prism, wm := s.wm } = s)
  ∧ (∀ (s : State) (j d here active : Nat), j < 32 → s.pgState j = 3 → (s.pgOf j).next = some d → d ≤ 1250 * s.now →
      (s.pgOf j).trail = none →
    s.pgOwes j (tickOf d) = false → s.eclipseOwed j d = false → s.timingOwed j d = false → s.stopsBy j (tickOf d) = false →
    (s.pgMode j ≠ 1 → (s.reg (A.PG_COUNT j)).toNat = 0 ∨ (s.pgOf j).index < (s.reg (A.PG_COUNT j)).toNat) →
    here = 0xFFFF - s.selfEclipsed j →
    active = bitsOf ((s.tripping j).filter (fun i => (s.wmOf (16 * (j / 8) + i)).gatedAt ≤ d)) &&& here →
    active ≠ 0 → active &&& s.faultMask j = 0 → (s.nextEdge j (s.pgOf j).index d).isSome = true →
    ∃ (t : State), exec (.pgLeadingEdge j) s = .next t
      ∧ t.pgOf j = { s.pgOf j with next := s.nextEdge j (s.pgOf j).index d, index := (s.pgOf j).index + 1 }
      ∧ t.rd (A.PG_SKIP j) F.PG_SKIP.COUNT = min (2 ^ F.PG_SKIP.COUNT.width - 1) (s.rd (A.PG_SKIP j) F.PG_SKIP.COUNT + 1)
      ∧ { t with regs := s.regs, pg := s.pg } = s ∧ s.keepsRegs t [A.PG_SKIP j])
  ∧ (∀ (s : State) (j d : Nat), j < 32 → s.pgState j = 3 → (s.pgOf j).next = some d → d ≤ 1250 * s.now → (s.pgOf j).trail = none →
    s.pgOwes j (tickOf d) = false → s.eclipseOwed j d = false → s.timingOwed j d = false → s.stopsBy j (tickOf d) = false →
    s.pgMode j ≠ 1 → (s.reg (A.PG_COUNT j)).toNat ≠ 0 → (s.reg (A.PG_COUNT j)).toNat ≤ (s.pgOf j).index → (s.pgOf j).gen < 8 →
    ∃ (t : State), exec (.pgLeadingEdge j) s = .next t ∧ t.pgState j = (if s.pgCfg j 22 21 = 3 then 2 else 1)
      ∧ t.rd (A.PG_STATUS j) F.PG_STATUS.CAUSE = 1 ∧ t.pgOf j = { s.pgOf j with next := none, trail := none, gen := 0 }
      ∧ t.prism.flight = s.prism.flight ++ [⟨144 + j, 1, (s.pgOf j).gen, s.coarseAt d, tickOf d + 64⟩]
      ∧ { t with regs := s.regs, pg := s.pg, prism := s.prism } = s ∧ s.keepsRegs t [A.PG_STATUS j, A.PR_PSTAT (144 + j)])
  ∧ (∀ (s : State) (j d : Nat), j < 32 → (s.pgOf j).trail = some d → d ≤ 1250 * s.now → s.pgOwes j (tickOf d) = false →
      s.eclipseOwed j (1250 * tickOf d) = false →
    s.stopsBy j (tickOf d) = false → ((s.tripAt j).map (fun u => decide (tickOf u ≤ tickOf d))).getD false = false → (s.pgOf j).gen < 8 →
    ∃ (t : State), exec (.pgTrailingEdge j) s = .next t ∧ (t.pgOf j).trail = none ∧ (t.pgOf j).next = (s.pgOf j).next
      ∧ (∀ n ∈ s.pinsFollowing j, s.flag (A.PIN_STATUS n) F.PIN_STATUS.PARKED = false → (t.pin n).level = 0)
      ∧ ((s.pgOf j).next.isSome = true → t.pgState j = s.pgState j)
      ∧ ((s.pgOf j).next = none → t.pgState j = (if s.pgCfg j 22 21 = 3 then 2 else 1) ∧ t.rd (A.PG_STATUS j) F.PG_STATUS.CAUSE = 2)
      ∧ { t with regs := s.regs, pg := s.pg, pins := s.pins, prism := s.prism, wm := s.wm } = s)
  ∧ (∀ (s : State) (j u : Nat), j < 32 → s.tripDue j = some u → s.trippers j u &&& s.faultMask j = 0 → (s.pgOf j).gen < 8 →
    ∃ (t : State), exec (.pgTrip j) s = .next t ∧ (t.pgOf j).trail = none ∧ (t.pgOf j).next = (s.pgOf j).next
      ∧ t.rd (A.PG_TRIPSRC j) F.PG_TRIPSRC.MAP = s.gatedMap (j / 8) (tickOf u)
      ∧ t.rd (A.PG_TRIPS j) F.PG_TRIPS.COUNT = min (2 ^ F.PG_TRIPS.COUNT.width - 1) (s.rd (A.PG_TRIPS j) F.PG_TRIPS.COUNT + 1)
      ∧ ((s.pgOf j).next.isSome = true → t.pgState j = s.pgState j)
      ∧ (s.pgCfg j 20 20 = 1 → ⟨144 + j, 2, (s.pgOf j).gen, s.coarseAt u, tickOf u + 64⟩ ∈ t.prism.flight)
      ∧ (∀ n ∈ s.pinsFollowing j, s.flag (A.PIN_STATUS n) F.PIN_STATUS.PARKED = false → (t.pin n).level = 0)
      ∧ { t with regs := s.regs, pg := s.pg, pins := s.pins, prism := s.prism, wm := s.wm } = s)
  ∧ (∀ (s : State) (j u : Nat), j < 32 → s.tripDue j = some u → s.trippers j u &&& s.faultMask j ≠ 0 → s.pgState j = 3 →
      (s.pgOf j).gen < 8 →
    ∃ (t : State), exec (.pgFault j) s = .next t
      ∧ t.pgOf j = { s.pgOf j with trail := none, next := none, go := none, gen := 0, faultAt := some (tickOf u) } ∧ t.pgState j = 4
      ∧ t.rd (A.PG_STATUS j) F.PG_STATUS.FAULT_KIND = 1 ∧ t.rd (A.PG_STATUS j) F.PG_STATUS.CAUSE = 4
      ∧ t.rd (A.PG_TRIPSRC j) F.PG_TRIPSRC.MAP = s.gatedMap (j / 8) (tickOf u)
      ∧ (∀ n ∈ s.pinsFollowing j, s.flag (A.PIN_STATUS n) F.PIN_STATUS.PARKED = false → (t.pin n).level = 0)
      ∧ ⟨144 + j, 3, (s.pgOf j).gen, s.coarseAt u, tickOf u + 64⟩ ∈ t.prism.flight
      ∧ t.lens = { s.lens with reports := s.lens.reports
          ++ [{ unit := uPg j, code := 3, key := keyDie (j / 8), stamp := s.coarseOf (tickOf u), warm := s.warming }] }
      ∧ { t with regs := s.regs, pg := s.pg, pins := s.pins, prism := s.prism, wm := s.wm, lens := s.lens } = s)
  ∧ (∀ (s : State) (j : Nat) (e : Arrival), j < 32 → (s.pgOf j).kills = [e] → e.due ≤ 1250 * s.now → s.pgOwes j (tickOf e.due) = false →
    s.pgState j = 1 ∨ s.pgState j = 2 ∨ s.pgState j = 3 → (s.pgOf j).trail = none → e.gen < 7 → (s.pgOf j).gen < 8 →
    ∃ (t : State), exec (.pgKill j) s = .next t ∧ t.pgState j = 4 ∧ t.rd (A.PG_STATUS j) F.PG_STATUS.FAULT_KIND = 4
      ∧ t.pgOf j = { s.pgOf j with
          kills := []
          go := none
          gen := 0
          next := if s.pgState j = 3 then none else (s.pgOf j).next
          faultAt := some (tickOf e.due) }
      ∧ ⟨144 + j, 3, e.gen + 1, { coarse := s.coarseOf (tickOf e.due) }, tickOf e.due + 64⟩ ∈ t.prism.flight
      ∧ t.lens = { s.lens with reports := s.lens.reports
          ++ [{ unit := uPg j, code := 3, key := keyDie (j / 8), stamp := s.coarseOf (tickOf e.due), warm := s.warming }] }
      ∧ { t with regs := s.regs, pg := s.pg, prism := s.prism, lens := s.lens } = s
      ∧ s.keepsRegs t [A.PG_STATUS j, A.PG_FAULT_STAMP_LO j, A.PG_FAULT_STAMP_HI j, A.PR_PSTAT (144 + j)])
  ∧ (∀ (s : State) (d j : Nat) (r : List (Nat × Bool)) (dis : Bool), j < 32 → (s.pgOf j).stops = (d, dis) :: r → d ≤ s.now →
      s.pgOwes j d = false →
    (∀ (i : Nat), i < 32 → i ≠ j → (s.pgOf i).stops = []) → s.pgState j = 3 → (s.pgOf j).go = none →
    ((s.tripAt j).map (fun u => decide (tickOf u ≤ d))).getD false = false → (s.pgOf j).gen < 8 →
    ∃ (t : State), exec .pgStopAct s = .next t
      ∧ t.pgState j = (if dis then 0 else if s.pgCfg j 22 21 = 3 then 2 else 1)
      ∧ t.rd (A.PG_STATUS j) F.PG_STATUS.CAUSE = (if dis then 5 else 3)
      ∧ t.pgOf j = { s.pgOf j with stops := r, next := none, trail := none, gen := 0 }
      ∧ t.rd (A.PG_STATUS j) F.PG_STATUS.TRUNC
        = (if (s.pgOf j).trail.isSome then 1 else s.rd (A.PG_STATUS j) F.PG_STATUS.TRUNC)
      ∧ t.claimOf (uPg j) = (if dis then 0 else s.claimOf (uPg j))
      ∧ ⟨144 + j, 1, (s.pgOf j).gen, s.coarseAt (1250 * d), d + 64⟩ ∈ t.prism.flight
      ∧ { t with regs := s.regs, regs0 := s.regs0, pg := s.pg, pins := s.pins, prism := s.prism, wm := s.wm, power := s.power } = s)
  ∧ (∀ (s : State) (d j : Nat) (r : List (Nat × Bool)) (dis : Bool), j < 32 → (s.pgOf j).stops = (d, dis) :: r → d ≤ s.now →
      s.pgOwes j d = false →
    (∀ (i : Nat), i < 32 → i ≠ j → (s.pgOf i).stops = []) → s.pgState j = 2 → (s.pgOf j).trail = none →
    ∃ (t : State), exec .pgStopAct s = .next t ∧ t.pgState j = (if dis then 0 else 1) ∧ t.pgOf j = { s.pgOf j with stops := r, go := none }
      ∧ t.claimOf (uPg j) = (if dis then 0 else s.claimOf (uPg j))
      ∧ { t with regs := s.regs, pg := s.pg, power := s.power } = s ∧ s.keepsRegs t [A.PG_STATUS j, A.PW_GRANTED])
  ∧ (∀ (s : State) (j m : Nat), j < 32 → s.pgState j = 3 → (s.pgOf j).servoAt + 3200 ≤ s.now → bit (s.reg (A.PG_SERVO j)) 31 = true →
    m = 16 * (j / 8) + bits (s.reg (A.PG_SERVO j)) 27 24 →
    ∃ (t : State), exec (.pgServoTick j) s = .next t
      ∧ t.pgOf j = { s.pgOf j with
          servoAt := (s.pgOf j).servoAt + 3200
          acc := sat32 ((s.pgOf j).acc
            + bits (s.reg (A.PG_SERVO j)) 11 0 * ((bits (s.reg (A.PG_SERVO j)) 23 12 : Int) - s.rd (A.WM_TAP m) F.WM_TAP.MEAN)) }
      ∧ (t.rd (A.WM_LIVE m) F.WM_LIVE.TH_HI : Int) = max 0 (min (wmTop (s.wmRange m) : Int)
          (s.rdS (A.WM_TH m) F.WM_TH.TH_HI + (t.pgOf j).acc.tdiv 256))
      ∧ { t with regs := s.regs, pg := s.pg, wm := s.wm, prism := s.prism } = s
      ∧ s.keepsRegs t [A.WM_STATUS m, A.WM_LIVE m, A.WM_COUNT m, A.PR_PSTAT (80 + m)])

/-- The digitizer. AQ_SET writes a channel's source, range, decimation and conditions (R322, R332); AQ_ARM divides the buffer among the
records, zeroes the first header word of each, and the channel fills (R327, R329); each stored sample is written to the record's ring
and shown (R325, R330); a met condition or a force makes it capture, AQ_TRIGD fires (R330, R335); after POST samples the record has its
header, and the next fills or the arm is done (R330); a stop closes the record in capture (R336); AQ_READ answers a closed record's
samples, marks and counts an uncorrectable error that it meets, or has status 1 where the record is not closed (R135, R338). It rests on
the model's readings: log entries 37 and 59. -/
def Obligations.DigitizerChannels : Prop :=
  (∀ (s : State) (q : Nat) (c : Cmd) (k : Nat), q < 8 → s.serves q 0x0510 c → c.payload = 10 → s.aqHandle (c.w 4).toNat = 0 →
      s.aqChan (c.w 4).toNat = k → k < 32 →
    bits (c.w 5) 15 0 = 0 → aqSourceOk (bits (c.w 5) 31 29) (bits (c.w 5) 28 23) (bits (c.w 5) 22 21) = true →
    (bits (c.w 5) 31 29 ≤ 1 → s.mode (64 * (k / 8) + bits (c.w 5) 28 23) ≠ 7 ∧ s.retired (64 * (k / 8) + bits (c.w 5) 28 23) = false) →
    (∀ (i : Nat), i < 4 → bits (c.w (7 + 2 * i)) 31 16 = 0 ∧ bits (c.w (6 + 2 * i)) 31 28 < 8
      ∧ (bits (c.w (6 + 2 * i)) 31 28 = 4 ∨ bits (c.w (6 + 2 * i)) 31 28 = 5 →
        sext 16 (bits (c.w (6 + 2 * i)) 15 0) < sext 16 (bits (c.w (7 + 2 * i)) 15 0))
      ∧ (bits (c.w (6 + 2 * i)) 31 28 = 7 → bits (c.w (6 + 2 * i)) 15 0 < 8 ∧ bits (c.w (6 + 2 * i)) 15 0 ≠ k % 8)) →
    s.ready q [uAq k] → s.aqLive k = false →
    ∃ (t : State), exec (.aqSet q) s = .next t ∧ s.replies t q c 0 0 [] ∧ t.reg (A.AQ_CFG k) = c.w 5
      ∧ (∀ (i : Nat), i < 4 → t.reg (A.AQ_COND_A k i) = c.w (6 + 2 * i) ∧ t.reg (A.AQ_COND_B k i) = c.w (7 + 2 * i))
      ∧ { t with rings := s.rings, regs := s.regs, fab := s.fab } = s
      ∧ s.keepsRegs t ([A.AQ_CFG k, A.AQ_SKEW k] ++ (List.range 4).flatMap (fun i => [A.AQ_COND_A k i, A.AQ_COND_B k i])))
  ∧ (∀ (s : State) (q : Nat) (c : Cmd) (k n : Nat) (b : Buffer), q < 8 → s.serves q 0x0511 c → c.payload = 5 → c.w 4 = 1 →
      s.aqHandle (c.w 5).toNat = 0 → s.aqChan (c.w 5).toNat = k →
    k < 32 → s.buf? (s.aqBuffer k) = some b → c.w 8 = word n → 0 < n → n ≤ 1024 → c.w 7 ≠ 0 →
    (c.w 6).toNat + (c.w 7).toNat ≤ (slotSize b.kib n - 64) / 2 → s.aqRate k ≤ b.rate → s.ready q [uAq k] → s.aqLive k = false →
    ∃ (t : State), exec (.aqArm q allWell) s = .next t ∧ s.replies t q c 0 0 [] ∧ t.aqState k = 1
      ∧ t.rd (A.AQ_STATUS k) F.AQ_STATUS.DONE_REC = 0 ∧ t.reg (A.AQ_PRE k) = c.w 6 ∧ t.reg (A.AQ_POST k) = c.w 7
      ∧ bits (t.reg (A.AQ_NREC k)) 10 0 = n
      ∧ (t.aqOf k).record = 0 ∧ (t.aqOf k).count = 0 ∧ (t.aqOf k).cap = (slotSize b.kib n - 64) / 2 ∧ (t.aqOf k).trig = none
      ∧ (∀ (i : Nat), i < n → ((t.buf? (s.aqBuffer k)).map (·.word (i * (2 * ((slotSize b.kib n - 64) / 2) + 64) / 4))) = some 0)
      ∧ { t with rings := s.rings, regs := s.regs, fab := s.fab, aq := s.aq, place := s.place } = s
      ∧ s.keepsRegs t [A.AQ_STATUS k, A.AQ_PRE k, A.AQ_POST k, A.AQ_NREC k] ∧ (∀ (a : Nat), a ≠ k → t.aqOf a = s.aqOf a))
  ∧ (∀ (s : State) (k y : Nat) (l : List Int), k < 32 → s.aqLive k = true → (s.aqOf k).next ≤ 1250 * s.now → l.length = 2 ^ s.aqDecim k →
    (s.aqOf k).stop = none → (s.aqOf k).met = 0 → (s.aqOf k).forced = false → (∀ e ∈ (s.aqOf k).events, (s.aqOf k).next < e.due) →
    (s.aqState k = 2 → (s.aqOf k).post < (s.reg (A.AQ_POST k)).toNat) → (s.buf? (s.aqBuffer k)).isSome = true →
    y = (s.aqOf k).record * (s.aqOf k).slot + 64 + 2 * ((s.aqOf k).count % max 1 (s.aqOf k).cap) →
    ∃ (t : State), exec (.digitizerSample k l) s = .next t ∧ t.aqState k = s.aqState k
      ∧ (t.buf? (s.aqBuffer k)).map (fun b => if y % 4 = 0 then bits (b.word (y / 4)) 15 0 else bits (b.word (y / 4)) 31 16)
        = some (toTwos 16 (s.storedSample k l))
      ∧ t.rd (A.AQ_LIVE k) F.AQ_LIVE.SAMPLE = toTwos 16 (s.storedSample k l)
      ∧ (t.aqOf k).cur = s.storedSample k l ∧ (t.aqOf k).prev = (s.aqOf k).cur
      ∧ (t.aqOf k).count = (s.aqOf k).count + 1 ∧ (t.aqOf k).next = (s.aqOf k).next + 16000 * 2 ^ s.aqDecim k
      ∧ (t.aqOf k).post = (if s.aqState k = 2 then (s.aqOf k).post + 1 else 0)
      ∧ t.rd (A.AQ_CLIP k) F.AQ_CLIP.COUNT = (if s.storedSample k l < -32000 ∨ 32000 < s.storedSample k l
          then min (2 ^ F.AQ_CLIP.COUNT.width - 1) (s.rd (A.AQ_CLIP k) F.AQ_CLIP.COUNT + 1) else s.rd (A.AQ_CLIP k) F.AQ_CLIP.COUNT)
      ∧ { t with regs := s.regs, aq := s.aq, place := s.place } = s ∧ s.keepsRegs t [A.AQ_LIVE k, A.AQ_CLIP k, A.AQ_MISSED k]
      ∧ (∀ (a : Nat), a ≠ k → t.aqOf a = s.aqOf a))
  ∧ (∀ (s : State) (q : Nat) (c : Cmd) (k : Nat), q < 8 → s.serves q 0x0512 c → c.payload = 2 → c.w 4 = 1 →
      s.aqHandle (c.w 5).toNat = 0 → s.aqChan (c.w 5).toNat = k → k < 32 →
    s.ready q [uAq k] → s.aqState k = 1 →
    ∃ (t : State), exec (.aqForce q allWell) s = .next t ∧ s.replies t q c 0 0 []
      ∧ t.aqOf k = { s.aqOf k with force := some (1250 * s.now + 512000) } ∧ { t with rings := s.rings, aq := s.aq } = s
      ∧ (∀ (a : Nat), a ≠ k → t.aqOf a = s.aqOf a))
  ∧ (∀ (s : State) (q : Nat) (c : Cmd) (k : Nat), q < 8 → s.serves q 0x0513 c → c.payload = 2 → c.w 4 = 1 →
      s.aqHandle (c.w 5).toNat = 0 → s.aqChan (c.w 5).toNat = k → k < 32 →
    s.ready q [uAq k] →
    ∃ (t : State), exec (.aqStop q allWell) s = .next t
      ∧ s.replies t q c (if s.aqLive k = true then 0 else 1) (if s.aqLive k = true then 0 else 1) []
      ∧ t.aqOf k = (if s.aqLive k then { s.aqOf k with stop := some ((s.aqOf k).stop.getD (1250 * s.now + 512000)) } else s.aqOf k)
      ∧ { t with rings := s.rings, aq := s.aq } = s ∧ (∀ (a : Nat), a ≠ k → t.aqOf a = s.aqOf a))
  ∧ (∀ (s : State) (k : Nat), k < 32 → s.aqState k = 1 → (s.aqOf k).met ≠ 0 ∨ (s.aqOf k).forced = true →
    ∃ (t : State), exec (.aqTrigger k) s = .next t ∧ t.aqState k = 2 ∧ (t.aqOf k).post = 1 ∧ (t.aqOf k).met = 0 ∧ (t.aqOf k).forced = false
      ∧ (t.aqOf k).trig.map (fun r => (r.met, r.forced, r.at_)) = some ((s.aqOf k).met, (s.aqOf k).forced, (s.aqOf k).count - 1)
      ∧ ((s.aqOf k).present = none → (s.aqOf k).link = none →
          (t.prism.flight.drop s.prism.flight.length).map (fun e => (e.prod, e.kind, e.gen)) = [(176 + k, 0, 0)])
      ∧ { t with regs := s.regs, regs0 := s.regs0, aq := s.aq, prism := s.prism, fresh := s.fresh } = s
      ∧ (∀ (a : Nat), a / 8 ≠ k / 8 → t.aqOf a = s.aqOf a))
  ∧ (∀ (s : State) (k : Nat), k < 32 → s.aqState k = 1 → (s.aqOf k).forced = true →
    ∃ (t : State), exec (.aqForceAct k) s = .next t ∧ t.aqState k = 2 ∧ (t.aqOf k).force = none ∧ (t.aqOf k).post = 1
      ∧ (t.aqOf k).trig.map (fun r => (r.forced, r.at_)) = some (true, (s.aqOf k).count - 1)
      ∧ { t with regs := s.regs, regs0 := s.regs0, aq := s.aq, prism := s.prism, fresh := s.fresh } = s
      ∧ (∀ (a : Nat), a / 8 ≠ k / 8 → t.aqOf a = s.aqOf a))
  ∧ (∀ (s : State) (k : Nat) (e : Arrival), k < 32 → (s.aqOf k).events = [e] → e.due ≤ 1250 * s.now → s.aqState k = 1 →
      (s.aqOf k).present = none →
    e.due ≤ (s.aqOf k).next → (s.aqOf k).met = 0 → (s.aqOf k).forced = false →
    ∃ (t : State), exec (.aqTrigEvent k) s = .next t ∧ t.aqOf k = { s.aqOf k with events := [], present := some e }
        ∧ { t with aq := s.aq } = s
      ∧ (∀ (a : Nat), a ≠ k → t.aqOf a = s.aqOf a))
  ∧ (∀ (s : State) (k : Nat) (e : Arrival), k < 32 → (s.aqOf k).events = [e] → e.due ≤ 1250 * s.now → s.aqState k = 2 →
    e.due ≤ (s.aqOf k).next → s.aqOwes k = false →
    ∃ (t : State), exec (.aqTrigEvent k) s = .next t ∧ t.aqOf k = { s.aqOf k with events := [] }
      ∧ bit (t.reg (A.PR_DIN_OVR_LO (k / 8))) (24 + k % 8) = true ∧ { t with aq := s.aq, regs := s.regs, regs0 := s.regs0 } = s
      ∧ s.keepsRegs t [A.PR_DIN_OVR_LO (k / 8)] ∧ (∀ (a : Nat), a ≠ k → t.aqOf a = s.aqOf a))
  ∧ (∀ (s : State) (k : Nat) (r : AqTrig), k < 32 → s.aqState k = 2 → (s.reg (A.AQ_POST k)).toNat ≤ (s.aqOf k).post →
      (s.aqOf k).trig = some r →
    (s.buf? (s.aqBuffer k)).isSome = true →
    ∃ (t : State), exec (.aqRecordComplete k) s = .next t ∧ t.rd (A.AQ_STATUS k) F.AQ_STATUS.DONE_REC = ((s.aqOf k).record + 1) % 1024
      ∧ t.aqState k = (if bits (s.reg (A.AQ_NREC k)) 10 0 ≤ (s.aqOf k).record + 1 then 3 else 1)
      ∧ (∀ (i : Nat), i < 16 → (t.buf? (s.aqBuffer k)).map (·.word ((s.aqOf k).record * (s.aqOf k).slot / 4 + i))
          = some (wd (s.aqHeader k false r) i))
      ∧ (bits (s.reg (A.AQ_NREC k)) 10 0 ≤ (s.aqOf k).record + 1 → t.rd (A.AQ_STATUS k) F.AQ_STATUS.CAUSE = 1
        ∧ (t.prism.flight.drop s.prism.flight.length).map (fun e => (e.prod, e.kind, e.gen)) = [(176 + k, 1, 0)])
      ∧ ((s.aqOf k).record + 1 < bits (s.reg (A.AQ_NREC k)) 10 0 → (t.aqOf k).record = (s.aqOf k).record + 1 ∧ (t.aqOf k).count = 0
        ∧ (t.aqOf k).trig = none ∧ t.prism = s.prism)
      ∧ { t with regs := s.regs, aq := s.aq, prism := s.prism, place := s.place } = s
      ∧ s.keepsRegs t [A.AQ_STATUS k, A.PR_PSTAT (176 + k)] ∧ (∀ (a : Nat), a ≠ k → t.aqOf a = s.aqOf a))
  ∧ (∀ (s : State) (k d : Nat), k < 32 → (s.aqOf k).stop = some d → d ≤ (s.aqOf k).next → (s.aqOf k).next ≤ 1250 * s.now →
      s.aqLive k = true → s.aqOwes k = false →
    (∀ (i : Nat), i < 32 → i ≠ k → (s.aqOf i).stop = none) →
    ∃ (t : State), exec .aqStopAct s = .next t ∧ t.aqState k = 3 ∧ t.rd (A.AQ_STATUS k) F.AQ_STATUS.CAUSE = 2 ∧ (t.aqOf k).stop = none
      ∧ t.rd (A.AQ_STATUS k) F.AQ_STATUS.DONE_REC
        = (if s.aqState k = 2 then ((s.aqOf k).record + 1) % 1024 else s.rd (A.AQ_STATUS k) F.AQ_STATUS.DONE_REC)
      ∧ (t.prism.flight.drop s.prism.flight.length).map (fun e => (e.prod, e.kind, e.gen)) = [(176 + k, 1, 0)]
      ∧ (s.aqState k = 1 → t.place = s.place)
      ∧ { t with regs := s.regs, aq := s.aq, prism := s.prism, place := s.place } = s ∧ s.keepsRegs t [A.AQ_STATUS k, A.PR_PSTAT (176 + k)])
  ∧ (∀ (s : State) (q : Nat) (c : Cmd) (k r : Nat) (b : Buffer), q < 8 → s.serves q 0x0514 c → c.payload = 4 →
      s.aqHandle (c.w 4).toNat = 0 → s.aqChan (c.w 4).toNat = k → k < 32 →
    c.w 5 = word r → r < bits (s.reg (A.AQ_NREC k)) 10 0 → r < 1024 → (c.w 7).toNat ≤ 131038 → s.ready q [uAq k] → s.hbmWaits 5 = false →
    s.buf? (s.aqBuffer k) = some b → b.word (r * (s.aqOf k).slot / 4) = 0 →
    ∃ (t : State), exec (.aqRead q 0 none) s = .next t
      ∧ s.replies t q c 1 1 ((List.range 16).map (fun i => b.word (r * (s.aqOf k).slot / 4 + i))) ∧ { t with rings := s.rings } = s)
  ∧ (∀ (s : State) (q : Nat) (c : Cmd) (k r n y : Nat) (b : Buffer), q < 8 → s.serves q 0x0514 c → c.payload = 4 →
      s.aqHandle (c.w 4).toNat = 0 → s.aqChan (c.w 4).toNat = k → k < 32 →
    c.w 5 = word r → r < bits (s.reg (A.AQ_NREC k)) 10 0 → r < 1024 → (c.w 7).toNat = n → n ≤ 131038 → s.ready q [uAq k] →
        s.hbmWaits 5 = false →
    y = r * (s.aqOf k).slot / 4 → s.buf? (s.aqBuffer k) = some b → b.word y ≠ 0 →
    (c.w 6).toNat + n ≤ (b.word (y + 8)).toNat + (b.word (y + 9)).toNat →
    ∃ (t : State) (res : List Word), exec (.aqRead q 0 none) s = .next t ∧ s.replies t q c 0 0 res ∧ { t with rings := s.rings } = s
      ∧ res.length = 16 + (n + 1) / 2 ∧ (∀ (i : Nat), i < 16 → wd res i = b.word (y + i))
      ∧ (∀ (j : Nat), j < n → (if j % 2 = 0 then bits (wd res (16 + j / 2)) 15 0 else bits (wd res (16 + j / 2)) 31 16)
        = (let i := ((b.word (y + 10)).toNat + ((c.w 6).toNat + j)) % max 1 (s.aqOf k).cap
           if i % 2 = 0 then bits (b.word (y + 16 + i / 2)) 15 0 else bits (b.word (y + 16 + i / 2)) 31 16)))
  ∧ (∀ (s : State) (q : Nat) (c : Cmd) (k r n y u : Nat) (b : Buffer), q < 8 → s.serves q 0x0514 c → c.payload = 4 →
      s.aqHandle (c.w 4).toNat = 0 → s.aqChan (c.w 4).toNat = k → k < 32 →
    c.w 5 = word r → r < bits (s.reg (A.AQ_NREC k)) 10 0 → r < 1024 → (c.w 7).toNat = n → n ≤ 131038 → s.ready q [uAq k] →
        s.hbmWaits 5 = false →
    y = r * (s.aqOf k).slot / 4 → s.buf? (s.aqBuffer k) = some b → b.word y ≠ 0 → u < 2 ^ 32 →
    (c.w 6).toNat + n ≤ (b.word (y + 8)).toNat + (b.word (y + 9)).toNat →
    ∃ (t : State) (res : List Word), exec (.aqRead q 0 (some u)) s = .next t ∧ s.replies t q c 0 0 res ∧ res.length = 16 + (n + 1) / 2
      ∧ wd res 0 = (b.word y ||| 0x08000000) ∧ t.reg A.PL_HBM_UE_ADDR = word u
      ∧ t.rd A.PL_HBM_ECC F.PL_HBM_ECC.UE = min (2 ^ F.PL_HBM_ECC.UE.width - 1) (s.rd A.PL_HBM_ECC F.PL_HBM_ECC.UE + 1)
      ∧ t.lens = { s.lens with reports :=
          s.lens.reports ++ [{ unit := uPlace, code := 6, key := keyUnit, stamp := s.coarseNow, warm := s.warming }] }
      ∧ { t with rings := s.rings, regs := s.regs, fab := s.fab, lens := s.lens } = s ∧ s.keepsRegs t [A.PL_HBM_ECC, A.PL_HBM_UE_ADDR])

/-- Time-interval channels. TU_SET writes the channel's inputs and settings and binds its log buffer (R354, R370); TU_ARM arms and
TU_STOP stops it (R361); measuring starts, for a frequency with a gate (R361, R365); a selected edge is counted and its stamp goes to
the measurement, its bin centre, the ring phase and its skew taken in (R356, R357); a stop window pairs a start with the earliest stop
in it, or counts the start (R362); a gate that closes is reported and the next opens (R365); TU_READ takes records from the queue
(R367). It rests on the model's reading: log entry 13. -/
def Obligations.TimeIntervals : Prop :=
  (∀ (s : State) (q : Nat) (c : Cmd) (h k m : Nat), q < 8 → s.serves q 0x0540 c → c.payload = 9 → (c.w 4).toNat = h → s.tuHandle h = 0 →
      s.tuChan h = k → k < 32 →
    (s.meas? h).map (·.kind) = some m → bits (c.w 5) 13 12 = 0 → bits (c.w 7) 29 24 = 0 → bits (c.w 7) 19 16 = 0 →
        tuInputOk (c.w 5) = true →
    4 ≤ bits (c.w 7) 15 0 → (m = 2 → 1000 ≤ (c.w 10).toNat) →
    (m ≠ 2 → bits (c.w 6) 13 12 = 0 ∧ tuInputOk (c.w 6) = true ∧ (c.w 8).toInt < (c.w 9).toInt
      ∧ (if bit (c.w 7) 31 then -1048576 else 0) ≤ (c.w 8).toInt ∧ 1 ≤ (c.w 10).toNat ∧ (c.w 10).toNat ≤ 16777216) →
    (c.w 12 ≠ 0 → s.handleStatus (c.w 12).toNat [2] = 0
      ∧ (((s.buf? (c.w 12).toNat).map (·.boundTo)).getD 0 = 0 ∨ ((s.buf? (c.w 12).toNat).map (·.boundTo)).getD 0 = h)) →
    (bits (c.w 5) 31 29 ≤ 1 → s.mode (64 * (k / 8) + bits (c.w 5) 28 23) ≠ 7 ∧ s.retired (64 * (k / 8) + bits (c.w 5) 28 23) = false) →
    (m ≠ 2 → bits (c.w 6) 31 29 ≤ 1 →
      s.mode (64 * (k / 8) + bits (c.w 6) 28 23) ≠ 7 ∧ s.retired (64 * (k / 8) + bits (c.w 6) 28 23) = false) →
    s.ready q [uTu k] → s.tuLive k = false →
    ∃ (t : State), exec (.tuSet q) s = .next t ∧ s.replies t q c 0 0 []
      ∧ (∀ (i : Nat), i < 7 → t.reg (A.TU_IN_A k + 4 * i) = (if i = 1 then c.w 6 &&& ~~~ (word 0x3000) else c.w (5 + i)))
          ∧ (t.meas? h).map (·.buffer) = some (c.w 12).toNat
      ∧ (c.w 12 ≠ 0 → (t.buf? (c.w 12).toNat).map (·.boundTo) = some h)
      ∧ t.tuOf k = { s.tuOf k with validAt := s.now + 16000 } ∧ (∀ (a : Nat), a ≠ k → t.tuOf a = s.tuOf a)
      ∧ { t with rings := s.rings, regs := s.regs, fab := s.fab, tu := s.tu, place := s.place } = s
      ∧ s.keepsRegs t ([A.TU_SKEW_A k, A.TU_SKEW_B k] ++ (List.range 7).map (A.TU_IN_A k + 4 * ·)))
  ∧ (∀ (s : State) (q : Nat) (c : Cmd) (k : Nat), q < 8 → s.serves q 0x0541 c → c.payload = 2 → c.w 4 = 1 →
      s.tuHandle (c.w 5).toNat = 0 → s.tuChan (c.w 5).toNat = k → k < 32 →
    s.ready q [uTu k] → s.tuLive k = false → s.flag (A.TU_STATUS k) F.TU_STATUS.BINCAL_BUSY = false →
    s.flag (A.TU_STATUS k) F.TU_STATUS.BIN_FAIL = false →
    (s.tuLog k ≠ 0 → s.logRate k ≤ ((s.buf? (s.tuLog k)).map (·.rate)).getD 0) →
    ∃ (t : State), exec (.tuArm q allWell) s = .next t ∧ s.replies t q c 0 0 [] ∧ t.tuState k = 1
      ∧ t.tuOf k = { s.tuOf k with
          start := (if bits (s.reg (A.TU_CTRL k)) 30 30 = 0 then some (s.now + 410) else none)
          startGen := 0
          stopAt := none
          openAt := none
          inA := {}
          inB := {}
          starts := []
          stops := []
          block := {}
          gate := none
          done := 0 }
      ∧ t.flag (A.TU_STATUS k) F.TU_STATUS.LOG_FULL = false
      ∧ t.rd (A.TU_EDGES_A k) F.TU_EDGES_A.COUNT = 0 ∧ t.rd (A.TU_EDGES_B k) F.TU_EDGES_B.COUNT = 0
      ∧ t.rd (A.TU_LOST k) F.TU_LOST.COUNT = 0 ∧ t.rd (A.TU_LOGCNT k) F.TU_LOGCNT.COUNT = 0
      ∧ { t with rings := s.rings, regs := s.regs, fab := s.fab, tu := s.tu } = s
      ∧ s.keepsRegs t [A.TU_STATUS k, A.TU_EDGES_A k, A.TU_EDGES_B k, A.TU_LOST k, A.TU_LOGCNT k]
          ∧ (∀ (a : Nat), a ≠ k → t.tuOf a = s.tuOf a))
  ∧ (∀ (s : State) (q : Nat) (c : Cmd) (k : Nat), q < 8 → s.serves q 0x0542 c → c.payload = 2 → c.w 4 = 1 →
      s.tuHandle (c.w 5).toNat = 0 → s.tuChan (c.w 5).toNat = k → k < 32 →
    s.ready q [uTu k] →
    ∃ (t : State), exec (.tuStop q allWell) s = .next t
      ∧ s.replies t q c (if s.tuLive k = true then 0 else 1) (if s.tuLive k = true then 0 else 1) []
      ∧ (s.tuLive k = true → t.tuOf k = { s.tuOf k with stopAt := some ((s.tuOf k).stopAt.getD (s.now + 410)) })
      ∧ (s.tuLive k = false → t.tuOf k = s.tuOf k) ∧ { t with rings := s.rings, tu := s.tu } = s
          ∧ (∀ (a : Nat), a ≠ k → t.tuOf a = s.tuOf a))
  ∧ (∀ (s : State) (k d : Nat), k < 32 → (s.tuOf k).start = some d → d ≤ s.now → s.tuState k = 1 →
    ∃ (t : State), exec (.tuMeasureStart k) s = .next t ∧ t.tuState k = 2
      ∧ t.tuOf k = (if s.tuFreq k then { s.tuOf k with
          gate := some { opened := s.coarseOf d, gen := (s.tuOf k).startGen, marks := { warm := s.warming, offRing := !s.ringTime } }
          openAt := none } else s.tuOf k)
      ∧ { t with regs := s.regs, tu := s.tu } = s ∧ s.keepsRegs t [A.TU_STATUS k] ∧ (∀ (a : Nat), a ≠ k → t.tuOf a = s.tuOf a))
  ∧ (∀ (s : State) (k b tick bin u g n : Nat) (rising : Bool) (m : TuMarks), k < 32 → b < 2 → s.tuFreq k = false →
      bits (s.tuIn k b) 31 29 < 6 →
    s.tuState k = 2 → (s.tuOf k).start = some u → u ≤ tick → (s.tuOf k).stopAt = none → (s.tuOf k).openAt = none → tick ≤ s.now →
    (bits (s.tuIn k b) 31 29 ≤ 3 → (s.tuOf k).validAt ≤ tick) →
    bits (s.tuIn k b) (if rising then 20 else 21) (if rising then 20 else 21) = 1 → (s.tuOf k).gate = none → bin < 512 →
    (s.tuOf k).bins.getD bin 0 ≠ 0 →
    ((s.tuOf k).input b).last = none → (b = 0 → ((s.tuOf k).input b).edges % 2 ^ bits (s.reg (A.TU_CTRL k)) 23 20 = 0) →
    (s.tuOf k).drained ≤ 1250 * tick → s.tuLog k = 0 →
    n = (65536 * (s.countAt tick : Int) + binCentre (s.tuOf k).bins bin 0 + s.phase
      - (if b = 0 then s.rd (A.TU_SKEW_A k) F.TU_SKEW_A.SKEW else s.rd (A.TU_SKEW_B k) F.TU_SKEW_B.SKEW)).toNat →
    g = (s.regAt A.GN_STATUS (1250 * tick)).toNat →
    m = { warm := fget (word g) F.GN_STATUS.WARMING = 1, offRing := fget (word g) F.GN_STATUS.RING_TIME = 0 } →
    ∃ (t : State), exec (.tuEdge k b rising tick bin) s = .next t
      ∧ t.tuOf k = { s.tuOf k with
          drained := 1250 * tick + 16000
          inA := (if b = 0 then { (s.tuOf k).inA with
            edges := (s.tuOf k).inA.edges + 1
            last := some n
            gap := false } else (s.tuOf k).inA)
          inB := (if b = 0 then (s.tuOf k).inB else { (s.tuOf k).inB with
            edges := (s.tuOf k).inB.edges + 1
            last := some n
            gap := false })
          starts := (if b = 0 then insertBy (·.1) (n, m) (s.tuOf k).starts else (s.tuOf k).starts)
          stops := (if b = 0 then (s.tuOf k).stops else insertBy (·.1.at_) (⟨n, false⟩, m) (s.tuOf k).stops) }
      ∧ t.rd (A.TU_EDGES_A k) F.TU_EDGES_A.COUNT = (if b = 0 then min (2 ^ F.TU_EDGES_A.COUNT.width - 1) (s.rd (A.TU_EDGES_A k) F.TU_EDGES_A.COUNT + 1)
          else s.rd (A.TU_EDGES_A k) F.TU_EDGES_A.COUNT)
      ∧ t.rd (A.TU_EDGES_B k) F.TU_EDGES_B.COUNT = (if b = 0 then s.rd (A.TU_EDGES_B k) F.TU_EDGES_B.COUNT
          else min (2 ^ F.TU_EDGES_B.COUNT.width - 1) (s.rd (A.TU_EDGES_B k) F.TU_EDGES_B.COUNT + 1))
      ∧ { t with regs := s.regs, tu := s.tu, fresh := s.fresh } = s ∧ s.keepsRegs t [A.TU_EDGES_A k, A.TU_EDGES_B k]
      ∧ (∀ (a : Nat), a ≠ k → t.tuOf a = s.tuOf a))
  ∧ (∀ (s : State) (k a : Nat) (m : TuMarks), k < 32 → s.tuState k = 2 → s.tuFreq k = false → (s.tuOf k).starts = [(a, m)] →
      (a : Int) + s.tuClose k ≤ s.fineNow →
    (s.tuOf k).stops = [] →
    ∃ (t : State), exec (.tuWindowClose k) s = .next t 
      ∧ t.tuOf k = { s.tuOf k with
          starts := []
          block := { (s.tuOf k).block with
            unpaired := (s.tuOf k).block.unpaired + 1
            marks := (s.tuOf k).block.marks.or m } }
      ∧ { t with tu := s.tu } = s ∧ (∀ (a : Nat), a ≠ k → t.tuOf a = s.tuOf a))
  ∧ (∀ (s : State) (k a b : Nat) (m n : TuMarks) (x : Int), k < 32 → s.tuState k = 2 → s.tuFreq k = false →
      (s.tuOf k).starts = [(a, m)] → (a : Int) + s.tuClose k ≤ s.fineNow →
    (s.tuOf k).stops = [(⟨b, false⟩, n)] → (a : Int) + s.tuOpen k ≤ b → (b : Int) < a + s.tuClose k → 512 ≤ ((b : Int) - a).natAbs →
    (s.tuOf k).block.n + 1 < (s.reg (A.TU_COUNT k)).toNat →
    x = (if (s.tuOf k).block.n = 0 then 0 else (b : Int) - a - (s.tuOf k).block.x0) →
    ∃ (t : State), exec (.tuWindowClose k) s = .next t 
      ∧ t.tuOf k = { s.tuOf k with
          starts := []
          stops := []
          block := { (s.tuOf k).block with
            n := (s.tuOf k).block.n + 1
            first := (if (s.tuOf k).block.n = 0 then a else (s.tuOf k).block.first)
            x0 := (if (s.tuOf k).block.n = 0 then (b : Int) - a else (s.tuOf k).block.x0)
            s1 := (s.tuOf k).block.s1 + x
            s2 := (s.tuOf k).block.s2 + (x * x).toNat
            lo := (if (s.tuOf k).block.n = 0 then (b : Int) - a else min (s.tuOf k).block.lo ((b : Int) - a))
            hi := (if (s.tuOf k).block.n = 0 then (b : Int) - a else max (s.tuOf k).block.hi ((b : Int) - a))
            marks := ((s.tuOf k).block.marks.or (m.or n)).or { neg := (b : Int) < a } } }
      ∧ { t with tu := s.tu } = s ∧ (∀ (a : Nat), a ≠ k → t.tuOf a = s.tuOf a))
  ∧ (∀ (s : State) (k m : Nat) (g : TuGate) (r : List Word), k < 32 → m < 32 → s.tuState k = 2 → (s.tuOf k).gate = some g →
      g.opened + (s.reg (A.TU_COUNT k)).toNat ≤ s.coarseNow →
    s.tuSlot k = some m → (kget (fun _ => []) s.results m).length < 256 → g.gen < 8 → bits (s.reg (A.TU_CTRL k)) 30 30 = 0 →
    (s.reg (A.TU_REPS k) = 0 ∨ (s.tuOf k).done + 1 < (s.reg (A.TU_REPS k)).toNat) →
    r = ({ g with marks := g.marks.or { warm := s.warming, offRing := !s.ringTime, stale := s.binStale k } } : TuGate).record (s.tuMeas k)
      (s.tuOf k).done (bits (s.reg (A.TU_CTRL k)) 23 20) (g.opened + (s.reg (A.TU_COUNT k)).toNat) false (Config.freeWord s.fresh 3).toNat →
    ∃ (t : State), exec (.tuGateClose k) s = .next t 
      ∧ t.tuOf k = { s.tuOf k with
          done := (s.tuOf k).done + 1
          openAt := none
          gate := some {
            opened := g.opened + (s.reg (A.TU_COUNT k)).toNat
            gen := 0
            marks := { warm := s.warming, offRing := !s.ringTime } } }
      ∧ kget (fun _ => []) t.results m = kget (fun _ => []) s.results m ++ [r]
      ∧ t.prism.flight = s.prism.flight ++ [⟨208 + k, 0, g.gen, { coarse := g.opened }, s.now + 64⟩]
      ∧ t.rd (A.ME_QUEUE m) F.ME_QUEUE.FILL = (kget (fun _ => []) s.results m).length + 1
      ∧ { t with regs := s.regs, tu := s.tu, results := s.results, prism := s.prism, fresh := s.fresh } = s
      ∧ s.keepsRegs t [A.ME_QUEUE m, A.PR_PSTAT (208 + k)] ∧ (∀ (a : Nat), a ≠ k → t.tuOf a = s.tuOf a))
  ∧ (∀ (s : State) (k d g : Nat), k < 32 → (s.tuOf k).openAt = some (d, g) → d ≤ s.now → s.tuState k = 2 →
    ∃ (t : State), exec (.tuGateOpen k) s = .next t
      ∧ t.tuOf k = { s.tuOf k with
          gate := some { opened := s.coarseOf d, gen := g, marks := { warm := s.warming, offRing := !s.ringTime } }
          openAt := none }
      ∧ { t with tu := s.tu } = s ∧ (∀ (a : Nat), a ≠ k → t.tuOf a = s.tuOf a))
  ∧ (∀ (s : State) (k d : Nat), k < 32 → (s.tuOf k).stopAt = some d → d ≤ s.now → s.tuLive k = true → (∀ (i : Nat), i < 32 → i ≠ k →
      (s.tuOf i).stopAt = none) →
    ∃ (t : State), exec .tuStopAct s = .next t ∧ t.tuState k = 3 ∧ (t.tuOf k).stopAt = none ∧ (t.tuOf k).start = none
        ∧ (t.tuOf k).gate = none
      ∧ (t.tuOf k).starts = [] ∧ (t.tuOf k).stops = [] ∧ (t.tuOf k).openAt = none
      ∧ { t with regs := s.regs, regs0 := s.regs0, tu := s.tu, results := s.results, prism := s.prism, fresh := s.fresh } = s
      ∧ (∀ (a : Nat), a ≠ k → t.tuOf a = s.tuOf a))
  ∧ (∀ (s : State) (q : Nat) (c : Cmd) (k n m : Nat) (l : List (List Word)), q < 8 → s.serves q 0x0543 c → c.payload = 2 →
      s.tuHandle (c.w 4).toNat = 0 → s.tuChan (c.w 4).toNat = k →
    c.w 5 = word n → 0 < n → n ≤ 64 → s.ready q [uTu k] → (s.meas? (c.w 4).toNat).bind (·.slot) = some m → m < 32 →
    kget (fun _ => []) s.results m = l → l.length ≤ 256 →
    ∃ (t : State), exec (.tuRead q) s = .next t ∧ kget (fun _ => []) t.results m = l.drop n
      ∧ s.replies t q c (if n ≤ l.length then 0 else 1) (if n ≤ l.length then 0 else l.length)
          (word ((l.length - min n l.length) * 2 ^ 16 + min n l.length) :: (l.take n).flatten)
      ∧ t.rd (A.ME_QUEUE m) F.ME_QUEUE.FILL = l.length - min n l.length
      ∧ { t with rings := s.rings, regs := s.regs, fab := s.fab, results := s.results } = s ∧ s.keepsRegs t [A.ME_QUEUE m])

/-- Bin calibration. TU_BINCAL starts it on channels that do not measure, and the command goes on until all have ended (R359); each
second a die whose idle channels have drifted by more than 3 °C starts it of itself, for a claim of 200 mW (R359, R441); 15 ms later the
hits of the bins become the table, or a bin with more than 8,192 makes it fail, with a report (R359, R360). -/
def Obligations.BinCalibration : Prop :=
  (∀ (s : State) (q : Nat) (c : Cmd), q < 8 → s.serves q 0x0544 c → c.payload = 1 → c.w 4 ≠ 0 →
      s.ready q ((bitList 32 (c.w 4).toNat).map uTu) →
    (∀ k ∈ bitList 32 (c.w 4).toNat, s.tuLive k = false) →
    ∃ (t : State), exec (.tuBincal q allWell) s = .next t
      ∧ (t.ring q).run = some { c with held := (bitList 32 (c.w 4).toNat).map uTu, want := [], waitSince := none, stage := 1 }
      ∧ (∀ k ∈ bitList 32 (c.w 4).toNat, t.flag (A.TU_STATUS k) F.TU_STATUS.BINCAL_BUSY = true
        ∧ (t.tuOf k).calAt = (if s.flag (A.TU_STATUS k) F.TU_STATUS.BINCAL_BUSY = true then (s.tuOf k).calAt else some s.now))
      ∧ { t with rings := s.rings, regs := s.regs, fab := s.fab, tu := s.tu } = s
          ∧ s.keepsRegs t ((bitList 32 (c.w 4).toNat).map A.TU_STATUS))
  ∧ (∀ (s : State) (d : Nat), d < 4 → kget (fun _ => 3200000000) s.power.binCheck d ≤ s.now → s.drifted d ≠ [] → s.claimOf (uDie d) = 0 →
      s.power.queue = [] →
    s.rd A.PW_GRANTED F.PW_GRANTED.MW + 200 ≤ s.effBudget →
    ∃ (t : State), exec (.bincalAuto d) s = .next t ∧ t.claimOf (uDie d) = 200
      ∧ (∀ k ∈ s.drifted d, t.flag (A.TU_STATUS k) F.TU_STATUS.BINCAL_BUSY = true ∧ (t.tuOf k).calAt = some s.now)
      ∧ kget (fun _ => 3200000000) t.power.binCheck d = kget (fun _ => 3200000000) s.power.binCheck d + 3200000000
      ∧ { t with regs := s.regs, tu := s.tu, power := s.power } = s ∧ s.keepsRegs t (A.PW_GRANTED :: (s.drifted d).map A.TU_STATUS))
  ∧ (∀ (s : State) (k d : Nat) (l : List Nat), k < 32 → (s.tuOf k).calAt = some d → d + 48000000 ≤ s.now → l.length = 512 →
      l.sum = 1048576 →
    (∀ h ∈ l, h ≤ 8192) → (∀ (q : Nat), q < 8 → s.running q = none) →
    (∀ (i : Nat), i < 8 → 8 * (k / 8) + i ≠ k → s.flag (A.TU_STATUS (8 * (k / 8) + i)) F.TU_STATUS.BINCAL_BUSY = false) →
    ∃ (t : State), exec (.bincalDone k l) s = .next t ∧ t.tuOf k = { s.tuOf k with calAt := none, bins := l }
      ∧ t.flag (A.TU_STATUS k) F.TU_STATUS.BINCAL_BUSY = false ∧ t.flag (A.TU_STATUS k) F.TU_STATUS.BIN_FAIL = false
      ∧ t.rd (A.TU_BINTEMP k) F.TU_BINTEMP.TEMP = s.dieTemp (k / 8) ∧ t.claimOf (uDie (k / 8)) = 0
      ∧ { t with regs := s.regs, fab := s.fab, tu := s.tu, power := s.power } = s
      ∧ s.keepsRegs t [A.TU_STATUS k, A.TU_BINTEMP k, A.PW_GRANTED])
  ∧ (∀ (s : State) (k d : Nat) (l : List Nat), k < 32 → (s.tuOf k).calAt = some d → d + 48000000 ≤ s.now → l.length = 512 →
      l.sum = 1048576 →
    (∃ h ∈ l, 8192 < h) →
    ∃ (t : State), exec (.bincalDone k l) s = .next t ∧ (t.tuOf k).bins = (s.tuOf k).bins ∧ (t.tuOf k).calAt = none
      ∧ t.flag (A.TU_STATUS k) F.TU_STATUS.BINCAL_BUSY = false ∧ t.flag (A.TU_STATUS k) F.TU_STATUS.BIN_FAIL = true
      ∧ t.lens.reports = s.lens.reports ++ [{ unit := uTu k, code := 9, key := keyDie (k / 8), stamp := s.coarseNow, warm := s.warming }])
  ∧ (∀ (s : State) (q : Nat) (c : Cmd) (k d : Nat) (l : List Nat), q < 8 → s.running q = some c → c.opcode = 0x0544 → c.stage = 1 →
      c.orphan = false → c.w 4 = word (2 ^ k) → k < 32 →
    (s.tuOf k).calAt = some d → d + 48000000 ≤ s.now → l.length = 512 → l.sum = 1048576 → (∀ h ∈ l, h ≤ 8192) →
    ∃ (t : State), exec (.bincalDone k l) s = .next t ∧ (t.ring q).run.bind (·.reply) = some ⟨0, 0, t.coarseNow, [0]⟩)

/-- Time across the ring. XR_DELAY_SET writes the delays of segments and bypasses (R348, R411); RING_CTRL makes the ports a member or a
bypass, and a position that another member holds keeps the device joining with RING_DUP (R347, R465); the master sends a sync frame each
millisecond (R348); a follower sends a frame on with its residence and takes its offset, at most 64 fine units into the phase a frame
(R350), or waits for its step (R349); the step moves the counter (R349); ten milliseconds without a frame end SYNC_VALID (R350, R352); a
lost XI lock is reported (R466). It rests on the model's readings: log entries 43, 44 and 52. -/
def Obligations.RingTime : Prop :=
  (∀ (s : State) (q : Nat) (c : Cmd), q < 8 → s.serves q 0x0548 c → c.payload = 64 → (∀ (i : Nat), i < 64 →
      bits (c.w (4 + i)) 31 24 = 0) → s.ready q [uGnomon] →
    ∃ (t : State), exec (.xrDelaySet q) s = .next t ∧ s.replies t q c 0 0 []
      ∧ (∀ (p : Nat), p < 32 → t.rd (A.XR_SEG p) F.XR_SEG.DELAY = (c.w (4 + p)).toNat
          ∧ t.rd (A.XR_BYP p) F.XR_BYP.DELAY = (c.w (36 + p)).toNat)
      ∧ (∀ (i : Nat), i < 64 → t.calVal uGnomon 0x0B i = (c.w (4 + i)).toNat) ∧ t.rd A.CAL_STATUS F.CAL_STATUS.DIRTY = 1
      ∧ { t with rings := s.rings, regs := s.regs, fab := s.fab, cal := s.cal } = s
      ∧ s.keepsRegs t (A.CAL_STATUS :: (List.range 32).flatMap (fun p => [A.XR_SEG p, A.XR_BYP p])))
  ∧ (∀ (s : State) (q : Nat) (c : Cmd), q < 8 → s.serves q 0x0830 c → c.payload = 1 → c.w 4 = 1 → s.ready q [uXearn 0, uXearn 1] →
    s.flag A.HL_STATUS F.HL_STATUS.UMBRA = false → s.xrState < 2 → s.ownPos ∉ s.xr.members →
    ∃ (t : State), exec (.ringCtrl q) s = .next t ∧ s.replies t q c 0 0 [] ∧ t.xrState = 3 ∧ t.flag A.GN_STATUS F.GN_STATUS.RING_DUP = false
      ∧ t.ringTime = (s.ringTime || (decide (s.masterPos = s.ownPos) && s.newRing))
      ∧ (t.flag A.GN_STATUS F.GN_STATUS.MASTER = true ↔ t.masterPos = t.ownPos) ∧ t.rd A.XR_STATUS F.XR_STATUS.MASTER_POS = t.masterPos
      ∧ { t with rings := s.rings, regs := s.regs, fab := s.fab, xr := s.xr } = s ∧ s.keepsRegs t [A.XR_CTRL, A.GN_STATUS, A.XR_STATUS])
  ∧ (∀ (s : State) (q : Nat) (c : Cmd), q < 8 → s.serves q 0x0830 c → c.payload = 1 → c.w 4 = 1 → s.ready q [uXearn 0, uXearn 1] →
    s.flag A.HL_STATUS F.HL_STATUS.UMBRA = false → s.xrState < 2 → s.ownPos ∈ s.xr.members →
        s.flag A.GN_STATUS F.GN_STATUS.RING_DUP = false →
    ∃ (t : State), exec (.ringCtrl q) s = .next t ∧ s.replies t q c 0 0 [] ∧ t.xrState = 2 ∧ t.flag A.GN_STATUS F.GN_STATUS.RING_DUP = true
      ∧ t.lens.reports = s.lens.reports ++ [{ unit := uGnomon, code := 0x0C, key := s.keyIn, stamp := s.coarseNow, warm := s.warming }]
      ∧ { t with rings := s.rings, regs := s.regs, fab := s.fab, lens := s.lens } = s ∧ s.keepsRegs t [A.XR_CTRL, A.GN_STATUS])
  ∧ (∀ (s : State) (q : Nat) (c : Cmd), q < 8 → s.serves q 0x0830 c → c.payload = 1 → c.w 4 = 0 → s.ready q [uXearn 0, uXearn 1] →
    s.flag A.HL_STATUS F.HL_STATUS.UMBRA = false → 2 ≤ s.xrState →
    ∃ (t : State), exec (.ringCtrl q) s = .next t ∧ s.replies t q c 0 0 [] ∧ t.xrState = 1
      ∧ t.flag A.GN_STATUS F.GN_STATUS.RING_TIME = false ∧ t.flag A.GN_STATUS F.GN_STATUS.MASTER = true
      ∧ t.rd A.XR_STATUS F.XR_STATUS.MEMBERS = 1 ∧ t.rd A.XR_STATUS F.XR_STATUS.MASTER_POS = s.ownPos
      ∧ t.xr = { s.xr with absent := [], stepWait := none, lastOffset := 0 }
      ∧ { t with rings := s.rings, regs := s.regs, fab := s.fab, xr := s.xr } = s ∧ s.keepsRegs t [A.XR_CTRL, A.GN_STATUS, A.XR_STATUS])
  ∧ (∀ (s : State) (x : Nat), s.xrState = 3 → s.flag A.GN_STATUS F.GN_STATUS.MASTER = true → s.xr.sent + 3200000 ≤ s.now →
    ∃ (t : State), exec (.syncFrameSend x) s = .next t
      ∧ t.out = s.out ++ [.ringFrame [s.ownPos, (s.fullNow x).toNat, 0, 2 ^ s.ownPos, if s.ringTime then 2 ^ s.ownPos else 0]]
      ∧ t.xr = { s.xr with sent := s.now } ∧ { t with out := s.out, xr := s.xr } = s)
  ∧ (∀ (s : State) (p : Nat) (a : Int) (r m o x y : Nat), s.xrState = 1 → p < 32 →
    ∃ (t : State), exec (.syncFrameReceive p p a r m o x y) s = .next t
      ∧ t.out = s.out ++ [.ringFrame [p, a.toNat, r, m, o]] ∧ t.xr = { s.xr with members := bitList 32 m, onTime := bitList 32 o }
      ∧ { t with out := s.out, xr := s.xr } = s)
  ∧ (∀ (s : State) (p : Nat) (a : Int) (r x y : Nat) (d : Int), s.xrState = 3 → p < s.ownPos → s.ringTime = true →
      s.xr.members = [p, s.ownPos] →
    d = a + (s.pathDelay r p : Nat) - s.fullNow x → d.natAbs ≤ 65536 →
    ∃ (t : State), exec (.syncFrameReceive p p a r (2 ^ p + 2 ^ s.ownPos) (2 ^ p + 2 ^ s.ownPos) x y) s = .next t
      ∧ t.reg A.GN_PHASE = word (toTwos 32 (s.phase + max (-64) (min 64 d))) ∧ t.reg A.XR_OFFSET = word (toTwos 32 d)
      ∧ t.rd A.XR_STATUS F.XR_STATUS.UP_POS = p ∧ t.rd A.XR_STATUS F.XR_STATUS.MASTER_POS = p
      ∧ t.xr = { s.xr with
          members := [p, s.ownPos]
          onTime := [p, s.ownPos]
          absent := []
          lockLost := false
          lastSync := some s.now
          lastOffset := d - max (-64) (min 64 d) }
      ∧ (t.flag A.GN_STATUS F.GN_STATUS.SYNC_VALID = true ↔ (d - max (-64) (min 64 d)).natAbs ≤ 3146)
      ∧ t.out = s.out ++ [.ringFrame [p, a.toNat, r + y, 2 ^ p + 2 ^ s.ownPos, 2 ^ p + 2 ^ s.ownPos]]
      ∧ { t with regs := s.regs, xr := s.xr, out := s.out } = s
      ∧ s.keepsRegs t [A.GN_PHASE, A.XR_OFFSET, A.XR_STATUS, A.GN_STATUS])
  ∧ (∀ (s : State) (p : Nat) (a : Int) (r x y : Nat) (d : Int), s.xrState = 3 → p < s.ownPos → s.ringTime = false →
      s.xr.members = [p, s.ownPos] →
    d = a + (s.pathDelay r p : Nat) - s.fullNow x →
    ∃ (t : State), exec (.syncFrameReceive p p a r (2 ^ p + 2 ^ s.ownPos) (2 ^ p) x y) s = .next t
      ∧ t.xr.stepWait = some d ∧ t.flag A.GN_STATUS F.GN_STATUS.JOIN_WAIT = true ∧ t.ringTime = false
      ∧ t.reg A.GN_PHASE = s.reg A.GN_PHASE ∧ t.gn = s.gn)
  ∧ (∀ (s : State) (p : Nat) (a : Int) (r x y : Nat) (d : Int), s.xrState = 3 → p < s.ownPos → s.ringTime = true →
      s.xr.members = [p, s.ownPos] →
    d = a + (s.pathDelay r p : Nat) - s.fullNow x → 65536 < d.natAbs →
    ∃ (t : State), exec (.syncFrameReceive p p a r (2 ^ p + 2 ^ s.ownPos) (2 ^ p + 2 ^ s.ownPos) x y) s = .next t
      ∧ t.xr.stepWait = some d ∧ t.flag A.GN_STATUS F.GN_STATUS.JOIN_WAIT = true ∧ t.ringTime = false
      ∧ t.flag A.GN_STATUS F.GN_STATUS.SYNC_VALID = false ∧ t.reg A.GN_PHASE = s.reg A.GN_PHASE
      ∧ t.lens = { s.lens with reports :=
          s.lens.reports ++ [{ unit := uGnomon, code := 0x0D, key := keyRing p, stamp := s.coarseNow, warm := s.warming }] }
      ∧ { t with regs := s.regs, xr := s.xr, out := s.out, lens := s.lens } = s)
  ∧ (∀ (s : State) (p : Nat) (a : Int) (r x y : Nat) (g : Int), s.xrState = 3 → p < 32 → s.masterPos = s.ownPos →
      s.xr.members = [s.ownPos] → s.xr.onTime = [s.ownPos] →
    s.ringTime = true → g = s.fullNow x - a → r + fineOf (((List.range 32).map s.seg).sum
      + (((List.range 32).filter (fun p => p ≠ s.ownPos)).map s.byp).sum) = y → 10486 < (g - (y : Nat)).natAbs →
    ∃ (t : State), exec (.syncFrameReceive s.ownPos p a r (2 ^ s.ownPos) (2 ^ s.ownPos) x 0) s = .next t
      ∧ t.reg A.XR_LOOP = word (roundDiv (g * 1250) 65536).toNat ∧ t.flag A.GN_STATUS F.GN_STATUS.DELAY_MISMATCH = true
      ∧ t.lens.reports.map (fun u => (u.unit, u.code)) = s.lens.reports.map (fun u => (u.unit, u.code)) ++ [(uGnomon, 0x0E)]
      ∧ { t with regs := s.regs, regs0 := s.regs0, xr := s.xr, lens := s.lens } = s)
  ∧ (∀ (s : State) (d : Int), s.xr.stepWait = some d → s.busyForStep = false → s.xrState = 3 →
    ∃ (t : State), exec .ringStep s = .next t ∧ t.gn = { s.gn with origin := s.gn.origin - d.tdiv 65536 }
      ∧ t.reg A.GN_PHASE = word (toTwos 32 (d.tmod 65536)) ∧ t.ringTime = true ∧ t.flag A.GN_STATUS F.GN_STATUS.JOIN_WAIT = false
      ∧ t.pair A.GN_STEP_LO A.GN_STEP_HI = t.coarseNow ∧ t.xr.stepWait = none
      ∧ t.rd A.XR_STATUS F.XR_STATUS.STEPS = min 63 (s.rd A.XR_STATUS F.XR_STATUS.STEPS + 1)
      ∧ t.prism = { s.prism with nextTick := t.ticksFrom } ∧ { t with regs := s.regs, xr := s.xr, gn := s.gn, prism := s.prism } = s
      ∧ s.keepsRegs t [A.GN_PHASE, A.GN_STEP_LO, A.GN_STEP_HI, A.GN_STATUS, A.XR_STATUS])
  ∧ (∀ (s : State) (d : Nat), s.xr.lastSync = some d → d + 32000000 ≤ s.now →
    ∃ (t : State), exec .syncTimeout s = .next t ∧ t.xr = { s.xr with lastSync := none }
      ∧ (t.flag A.GN_STATUS F.GN_STATUS.SYNC_VALID = true ↔ s.ringTime = true ∧ s.flag A.GN_STATUS F.GN_STATUS.MASTER = true)
      ∧ { t with regs := s.regs, xr := s.xr } = s ∧ s.keepsRegs t [A.GN_STATUS])
  ∧ (∀ (s : State), s.xrState = 3 → s.xr.lockLost = false →
    ∃ (t : State), exec .xiLockLost s = .next t ∧ t.xr = { s.xr with lockLost := true }
      ∧ t.lens.reports = s.lens.reports ++ [{ unit := uXearn 0, code := 0x0F, key := s.keyIn, stamp := s.coarseNow, warm := s.warming }]
      ∧ { t with lens := s.lens, xr := s.xr } = s)

/-- Clocks and links. The reference lost puts the MTC PLL in holdover, its return ends it (R341, R429); HOLD_MS of holdover fire reset
source 3 (R431); a lock after a cold reset starts the counter from 0 and 600 s of warming (R340, R342), which the wired OVEN_WARM
governs instead (R342); a domain fails after two bad windows in a row, with a report (R430, R431); a die link that loses its lanes is
reported, stays down, halts the sites on it and disarms those armed (R34). It rests on the model's readings: log entries 27 and 42. -/
def Obligations.ClocksAndLinks : Prop :=
  (∀ (s : State) (d : Nat), s.clocks.warmUntil = some d → d ≤ s.now →
    ∃ (t : State), exec .warmExpire s = .next t ∧ t.clocks = { s.clocks with warmUntil := none }
        ∧ t.rd A.GN_STATUS F.GN_STATUS.WARM_LEFT = 0
      ∧ (t.warming = true ↔ (s.flag A.ID_STRAP F.ID_STRAP.OVEN_WIRED = true ∧ s.flag A.ID_STRAP F.ID_STRAP.OVEN_LEVEL = false)
        ∨ s.flag A.GN_STATUS F.GN_STATUS.LOCK = false)
      ∧ { t with regs := s.regs, clocks := s.clocks } = s ∧ s.keepsRegs t [A.GN_STATUS])
  ∧ (∀ (s : State), s.tapOnly = false → s.flag A.CLK_STATUS F.CLK_STATUS.REF_PRESENT = true →
    ∃ (t : State), exec .refMissing s = .next t ∧ t.clocks = { s.clocks with missingSince := some s.now }
      ∧ t.flag A.CLK_STATUS F.CLK_STATUS.REF_PRESENT = false ∧ t.flag A.CLK_STATUS F.CLK_STATUS.MTC_LOCK = false
      ∧ t.flag A.GN_STATUS F.GN_STATUS.HOLDOVER = true ∧ t.flag A.GN_STATUS F.GN_STATUS.LOCK = false ∧ t.warming = true
      ∧ { t with regs := s.regs, clocks := s.clocks } = s ∧ s.keepsRegs t [A.CLK_STATUS, A.GN_STATUS])
  ∧ (∀ (s : State), s.tapOnly = false →
    ∃ (t : State), exec .refPresent s = .next t ∧ t.clocks = { s.clocks with missingSince := none }
      ∧ t.flag A.CLK_STATUS F.CLK_STATUS.REF_PRESENT = true ∧ t.flag A.GN_STATUS F.GN_STATUS.HOLDOVER = false
      ∧ { t with regs := s.regs, clocks := s.clocks } = s ∧ s.keepsRegs t [A.CLK_STATUS, A.GN_STATUS])
  ∧ (∀ (s : State) (d : Nat), s.tapOnly = false → s.clocks.missingSince = some d → s.rd A.CLK_HOLD F.CLK_HOLD.HOLD_MS ≠ 0 →
    d + 2880000 * s.rd A.CLK_HOLD F.CLK_HOLD.HOLD_MS ≤ s.now →
    ∃ (t : State), exec .holdoverExpire s = .next t ∧ s.raises t 3 0 (some (s.now + 12800))
        ∧ t.clocks = { s.clocks with missingSince := none }
      ∧ { t with regs := s.regs, clocks := s.clocks, rst := s.rst } = s)
  ∧ (∀ (s : State), s.tapOnly = false → s.flag A.CLK_STATUS F.CLK_STATUS.REF_PRESENT = true → s.flag A.GN_STATUS F.GN_STATUS.LOCK = false →
    ∃ (t : State), exec .mtcPllLock s = .next t ∧ t.gn = (if s.gn.running then s.gn else ⟨s.now, true, 0⟩)
        ∧ (s.gn.running = false → t.count = 0)
      ∧ t.flag A.GN_STATUS F.GN_STATUS.LOCK = true
      ∧ t.flag A.CLK_STATUS F.CLK_STATUS.MTC_LOCK = true ∧ t.flag A.GN_STATUS F.GN_STATUS.HOLDOVER = false
      ∧ (s.flag A.ID_STRAP F.ID_STRAP.OVEN_WIRED = false →
        t.clocks = { s.clocks with warmUntil := some (s.now + 1920000000000) } ∧ t.rd A.GN_STATUS F.GN_STATUS.WARM_LEFT = 600
            ∧ t.warming = true)
      ∧ (s.flag A.ID_STRAP F.ID_STRAP.OVEN_WIRED = true → t.clocks = s.clocks ∧ t.rd A.GN_STATUS F.GN_STATUS.WARM_LEFT = 0
        ∧ t.warming = !s.flag A.ID_STRAP F.ID_STRAP.OVEN_LEVEL)
      ∧ { t with regs := s.regs, clocks := s.clocks, gn := s.gn } = s ∧ s.keepsRegs t [A.CLK_STATUS, A.GN_STATUS])
  ∧ (∀ (s : State) (v : Bool), s.tapOnly = false → s.flag A.ID_STRAP F.ID_STRAP.OVEN_WIRED = true →
    ∃ (t : State), exec (.ovenLevelChange v) s = .next t ∧ t.flag A.ID_STRAP F.ID_STRAP.OVEN_LEVEL = v
        ∧ t.rd A.GN_STATUS F.GN_STATUS.WARM_LEFT = 0
      ∧ (t.warming = true ↔ v = false ∨ s.flag A.GN_STATUS F.GN_STATUS.LOCK = false)
      ∧ { t with regs := s.regs } = s ∧ s.keepsRegs t [A.ID_STRAP, A.GN_STATUS])
  ∧ (∀ (s : State) (n x : Nat), s.tapOnly = false → 2 ≤ n → n < 22 → s.checks n = true → s.expected n = x →
    ∃ (t : State), exec (.clockWindowCheck n x false) s = .next t ∧ kget (fun _ => 0) t.clocks.badWindows n = 0
      ∧ t.rd (A.CLK_MON (n - 1)) F.CLK_MON.ACTIVE = 1 ∧ t.rd (A.CLK_MON (n - 1)) F.CLK_MON.FAIL = s.rd (A.CLK_MON (n - 1)) F.CLK_MON.FAIL
      ∧ { t with regs := s.regs, clocks := s.clocks } = s ∧ s.keepsRegs t [A.CLK_MON (n - 1)])
  ∧ (∀ (s : State) (n x : Nat) (lost : Bool), s.tapOnly = false → 2 ≤ n → n < 22 → n ≠ 7 → n ≠ 8 → n ≠ 9 → s.checks n = true →
      lost = true ∨ 201 * s.expected n < 200 * x ∨ 200 * x < 199 * s.expected n →
    kget (fun _ => 0) s.clocks.badWindows n = 1 →
    ∃ (t : State), exec (.clockWindowCheck n x lost) s = .next t ∧ kget (fun _ => 0) t.clocks.badWindows n = 2
      ∧ t.rd (A.CLK_MON (n - 1)) F.CLK_MON.FAIL = 1
      ∧ t.rd (A.CLK_MON (n - 1)) F.CLK_MON.FAILCNT = min (2 ^ F.CLK_MON.FAILCNT.width - 1) (s.rd (A.CLK_MON (n - 1)) F.CLK_MON.FAILCNT + 1)
      ∧ t.rst.asserted = s.rst.asserted.filter (·.1 ≠ 3) ++ [(3, some (s.now + 12800))] ∧ kget (fun _ => 0) t.rst.subs 3 = n
      ∧ nbit (t.rd A.RST_STATUS F.RST_STATUS.ASSERTED) 3 = true
      ∧ t.lens = { s.lens with reports := s.lens.reports ++ [{
          unit := if n < 10 then uGnomon else uDie ((n - 10) % 4)
          code := 0x12
          key := if n < 10 then keyCore else keyDie ((n - 10) % 4)
          stamp := s.coarseNow
          domain := n
          warm := s.warming }] }
      ∧ { t with regs := s.regs, regs0 := s.regs0, clocks := s.clocks, lens := s.lens, rst := s.rst } = s
      ∧ s.keepsRegs t [A.CLK_MON (n - 1), A.RST_STATUS])
  ∧ (∀ (s : State) (n x : Nat), s.tapOnly = false → n = 8 ∨ n = 9 → s.checks n = true → kget (fun _ => 0) s.clocks.badWindows n = 1 →
    ∃ (t : State), exec (.clockWindowCheck n x true) s = .next t ∧ t.rd (A.CLK_MON (n - 1)) F.CLK_MON.FAIL = 1
      ∧ t.lens.reports.map (fun r => (r.unit, r.code)) = s.lens.reports.map (fun r => (r.unit, r.code)) ++ [(uGnomon, 0x12),
          (uXearn (n - 8), 0x0F)]
      ∧ { t with regs := s.regs, regs0 := s.regs0, clocks := s.clocks, lens := s.lens } = s ∧ s.keepsRegs t [A.CLK_MON (n - 1)])
  ∧ (∀ (s : State) (n x : Nat) (lost : Bool), s.tapOnly = false → 2 ≤ n → n ≤ 23 → s.checks n = false →
    ∃ (t : State), exec (.clockWindowCheck n x lost) s = .next t ∧ t.rd (A.CLK_MON (n - 1)) F.CLK_MON.ACTIVE = 0
      ∧ { t with regs := s.regs } = s ∧ s.keepsRegs t [A.CLK_MON (n - 1)])
  ∧ (∀ (s : State) (d i : Nat), s.tapOnly = false → d < 4 → d ∉ s.clocks.linksDown → i < 16 → s.formed i = true →
    (s.tilesOf i).any (fun k => k / 4 = d) = true → s.active i = false → s.armed i = true → (∀ (j : Nat), j < 16 → j ≠ i →
        s.formed j = false) →
    ∃ (t : State), exec (.linkLaneLoss d) s = .next t ∧ t.armed i = false ∧ t.rd (A.SEQ_SITE_STATE i) F.SEQ_SITE_STATE.CAUSE = 10
      ∧ (t.site i).startDue = none ∧ t.clocks = { s.clocks with linksDown := s.clocks.linksDown ++ [d] }
      ∧ t.lens = { s.lens with reports :=
          s.lens.reports ++ [{ unit := uDie d, code := 4, key := keyDie d, stamp := s.coarseNow, warm := s.warming }] })
  ∧ (∀ (s : State) (d i : Nat), s.tapOnly = false → d < 4 → d ∉ s.clocks.linksDown → i < 16 → s.formed i = true →
    (s.tilesOf i).any (fun k => k / 4 = d) = true → s.siteState i = 4 → (s.site i).stop = none → (∀ (j : Nat), j < 16 → j ≠ i →
        s.formed j = false) →
    ∃ (t : State), exec (.linkLaneLoss d) s = .next t ∧ (t.site i).stop = some ⟨10, 1250 * s.now, false, 0⟩
      ∧ { t with lens := s.lens, clocks := s.clocks, sites := s.sites } = s)
  ∧ (∀ (s : State) (d : Nat), s.tapOnly = false → d < 4 → d ∉ s.clocks.linksDown → (∀ (j : Nat), j < 16 → s.formed j = false) →
    ∃ (t : State), exec (.linkLaneLoss d) s = .next t ∧ t.clocks = { s.clocks with linksDown := s.clocks.linksDown ++ [d] }
      ∧ t.lens = { s.lens with reports :=
          s.lens.reports ++ [{ unit := uDie d, code := 4, key := keyDie d, stamp := s.coarseNow, warm := s.warming }] }
      ∧ { t with lens := s.lens, clocks := s.clocks } = s)

/-- Calibration. CAL_RUN claims 1,000 mW for the engine of the die and starts the first group of the units it names (R415 to R419); when
a group's time has passed its units take their new entries or fail, and the command is answered with what was done and failed once the
last sequence has ended (R415, R416, R418). CAL_WRITE sets entries with the die's temperature, or marks them stale (R414, R427);
CAL_READ reads records (R411, R423); CAL_STORE writes the working set to the bank not in use (R425); CAL_STATUS answers the bank
registers (R424); CAL_EXT connects the calibration bus, and is answered when it has settled (R420); 1,200 s end the warming of a die
that was cold (R414). It rests on the model's readings: log entries 57 and 77. -/
def Obligations.Calibration : Prop :=
  (∀ (s : State) (q : Nat) (c : Cmd) (d kind : Nat), q < 8 → s.serves q 0x0601 c → c.payload = 9 → bits (c.w 4) 31 28 = kind → kind ≤ 6 →
      bits (c.w 4) 26 0 = 0 →
    (bit (c.w 4) 27 = true → kind = 2 ∨ kind = 6) → d < 4 → calMask c ≠ [] → (∀ i ∈ calMask c, i / kindPerDie kind = d) →
    (∀ i ∈ calMask c, s.calReady kind i = true ∧ (kind ≤ 2 → s.retired i = false ∧ s.mode i ≠ 7)) →
    s.ready q (uCal d :: (calMask c).map (kindUnit kind)) → s.shortfall [(uCal d, 1000)] = 0 →
    ∃ (t : State), exec (.calRun q allWell) s = .next t ∧ (t.ring q).run.map (fun x => (x.stage, x.reply)) = some (1, none)
      ∧ t.claimOf (uCal d) = 1000
      ∧ t.calJob d = some {
          ring := q, kind := kind, anchor := bit (c.w 4) 27,
          groups := chunks (groupSize kind) (calMask c).length (calMask c), since := s.now }
      ∧ (∀ i ∈ (calMask c).take (groupSize kind), t.rd (A.CAL_UNIT_STATE (calIndex (kindUnit kind i))) F.CAL_UNIT_STATE.CAL_BUSY = 1)
      ∧ (kind ≠ 5 → { t with rings := s.rings, regs := s.regs, fab := s.fab, cal := s.cal, power := s.power } = s))
  ∧ (∀ (s : State) (d : Nat) (j : CalJob), d < 4 → s.calJob d = some j → j.opened = true → j.groups.length = 1 → j.kind ≤ 3 →
    j.since + groupTime j.kind ≤ s.now → (∀ i ∈ j.groups.headD [], i / kindPerDie j.kind = d) →
    (∀ (e : Nat), e < 4 → e ≠ d → s.calJob e = none) → s.levels.calHeld = [] →
    ∃ (t : State), exec (.calGroupEnd d []) s = .next t ∧ t.claimOf (uCal d) = 0 ∧ t.rings = s.rings
      ∧ (t.calJob d).map (fun k => (k.groups, k.since, k.failed)) = some ([], s.now, j.failed ++ j.groups.headD [])
      ∧ (∀ i ∈ j.groups.headD [], t.rd (A.CAL_UNIT_STATE (calIndex (kindUnit j.kind i))) F.CAL_UNIT_STATE.FAIL = 1
        ∧ t.rd (A.CAL_UNIT_STATE (calIndex (kindUnit j.kind i))) F.CAL_UNIT_STATE.CAL_BUSY = 0))
  ∧ (∀ (s : State) (q : Nat) (c : Cmd) (d : Nat) (j : CalJob), q < 8 → d < 4 → s.calJob d = some j → j.ring = q → j.opened = true →
      j.groups = [] →
    j.since + 6400 ≤ s.now → j.failed ≠ [] →
    (∀ (e : Nat), e < 4 → e ≠ d → s.calJob e = none) → s.running q = some c → c.opcode = 0x0601 → c.stage = 1 → c.orphan = false →
    ∃ (t : State), exec (.calGroupEnd d []) s = .next t ∧ t.calJob d = none
      ∧ (t.ring q).run.bind (·.reply) = some ⟨1, j.failed.length, t.coarseNow,
          word (j.done * 65536 + j.failed.length) :: j.failed.map (fun i => word (kindUnit j.kind i))⟩
      ∧ { t with rings := s.rings, cal := s.cal } = s)
  ∧ (∀ (s : State) (q : Nat) (c : Cmd) (d i : Nat) (a b x y : Int) (j : CalJob), q < 8 → d < 4 → s.calJob d = some j → j.ring = q →
      j.kind = 5 →
    j.groups = [[i]] → i / 16 = d → j.since + 6400000 ≤ s.now → j.done = 0 → j.failed = [] →
    (∀ (e : Nat), e < 4 → e ≠ d → s.calJob e = none) → s.running q = some c → c.opcode = 0x0601 → c.stage = 1 → c.orphan = false →
    s.levels.calHeld = [] →
    (∀ v ∈ [a, b, x, y], -511 ≤ v ∧ v ≤ 511) →
    ∃ (t : State), exec (.calGroupEnd d [⟨i, true, [a, b, x, y]⟩]) s = .next t
      ∧ t.calVal (uWm i) 0x09 0 = a ∧ t.calVal (uWm i) 0x09 1 = b ∧ t.calVal (uWm i) 0x09 2 = x ∧ t.calVal (uWm i) 0x09 3 = y
      ∧ t.rd (A.CAL_UNIT_STATE (calIndex (uWm i))) F.CAL_UNIT_STATE.FAIL = 0 ∧ t.rd A.CAL_STATUS F.CAL_STATUS.DIRTY = 1
      ∧ (t.ring q).run.bind (·.reply) = some ⟨0, 0, t.coarseNow, [word 65536]⟩)
  ∧ (∀ (s : State) (q : Nat) (c : Cmd) (n : Nat), q < 8 → s.serves q 0x0602 c → c.payload = 1 + 3 * n → c.w 4 = word n → 0 < n → n ≤ 1024 →
    (∀ (i : Nat), i < n → s.ready q [(c.w (5 + 3 * i)).toNat]
      ∧ definedEntry (c.w (5 + 3 * i)).toNat (bits (c.w (6 + 3 * i)) 31 24) (bits (c.w (6 + 3 * i)) 23 16) = true
      ∧ fitsFormat (bits (c.w (6 + 3 * i)) 31 24) (bits (c.w (6 + 3 * i)) 23 16) (c.w (7 + 3 * i)) = true
      ∧ (uclass (c.w (5 + 3 * i)).toNat = 1 → s.retired (uindex (c.w (5 + 3 * i)).toNat) = false
          ∧ s.mode (uindex (c.w (5 + 3 * i)).toNat) ≠ 7)
      ∧ (bits (c.w (6 + 3 * i)) 31 24 = 1 → s.siteHolds (uindex (c.w (5 + 3 * i)).toNat) = none)
      ∧ (bits (c.w (6 + 3 * i)) 31 24 = 2 → ∀ p ∈ pinsOfDie (uindex (c.w (5 + 3 * i)).toNat), s.pinFree p = true)) →
    ∃ (t : State), exec (.calWrite q allWell) s = .next t ∧ s.replies t q c 0 0 [] ∧ t.rd A.CAL_STATUS F.CAL_STATUS.DIRTY = 1
      ∧ (∀ (i : Nat), i < n → (∀ (j : Nat), j < n → i < j →
          (c.w (5 + 3 * j), bits (c.w (6 + 3 * j)) 31 16) ≠ (c.w (5 + 3 * i), bits (c.w (6 + 3 * i)) 31 16)) →
        t.calEntry (c.w (5 + 3 * i)).toNat (bits (c.w (6 + 3 * i)) 31 24) (bits (c.w (6 + 3 * i)) 23 16)
          = some ⟨c.w (7 + 3 * i), if bits (c.w (6 + 3 * i)) 31 24 = 0x0B then 0 else s.dieTemp (unitDie (c.w (5 + 3 * i)).toNat)⟩)
      ∧ { t with rings := s.rings, regs := s.regs, fab := s.fab, cal := s.cal } = s)
  ∧ (∀ (s : State) (q : Nat) (c : Cmd) (u item e : Nat), q < 8 → s.serves q 0x0602 c → c.payload = 4 → c.w 4 = word (2 ^ 31 + 1) →
      (c.w 5).toNat = u → bits (c.w 6) 31 24 = item →
    bits (c.w 6) 23 16 = e → definedEntry u item e = true → fitsFormat item e (c.w 7) = true →
    (uclass u = 1 → s.retired (uindex u) = false ∧ s.mode (uindex u) ≠ 7) → (item = 1 → s.siteHolds (uindex u) = none) →
    (item = 2 → ∀ p ∈ pinsOfDie (uindex u), s.pinFree p = true) → s.ready q [u] →
    ∃ (t : State), exec (.calWrite q allWell) s = .next t ∧ s.replies t q c 0 0 [] 
      ∧ t.cal = { s.cal with marked := s.cal.marked.filter (· ≠ calKey u item e) ++ [calKey u item e] }
          ∧ { t with rings := s.rings, regs := s.regs, fab := s.fab, cal := s.cal } = s
      ∧ s.keepsRegs t [A.CAL_UNIT_STATE (calIndex u)])
  ∧ (∀ (s : State) (q : Nat) (c : Cmd) (u item first n : Nat), q < 8 → s.serves q 0x0603 c → c.payload = 2 → (c.w 4).toNat = u →
      c.w 5 = word (item * 2 ^ 24 + first * 2 ^ 16 + n * 2 ^ 8) →
    item < 256 → first < 256 → 0 < n → n ≤ 64 → (∀ (i : Nat), i < n → definedEntry u item (first + i) = true) → s.ready q [u] →
    ∃ (t : State), exec (.calRead q) s = .next t ∧ { t with rings := s.rings } = s
      ∧ s.replies t q c 0 0 ((List.range n).flatMap (fun i => s.calRecord u item (first + i))))
  ∧ (∀ (s : State) (q : Nat) (c : Cmd) (n : Nat), q < 8 → s.serves q 0x0604 c → c.payload = 0 →
      ([0, 1].filterMap (fun i => bankSeq (s.bank i))).foldl max 0 + 1 = n → n < 2 ^ 32 - 1 →
    ∃ (t : State), exec (.calStore q none) s = .next t ∧ s.replies t q c 0 0 [word n, word (((s.bankImage n).length - 9) / 3)]
      ∧ t.bank (if s.rd A.CAL_STATUS F.CAL_STATUS.BANK_USED = 1 then 1 else 0) = s.bankImage n
      ∧ t.rd A.CAL_STATUS F.CAL_STATUS.BANK_USED = (if s.rd A.CAL_STATUS F.CAL_STATUS.BANK_USED = 1 then 2 else 1)
      ∧ t.rd A.CAL_STATUS F.CAL_STATUS.DIRTY = 0
      ∧ { t with rings := s.rings, regs := s.regs, fab := s.fab, flash := s.flash } = s
      ∧ s.keepsRegs t [A.CAL_STATUS, A.CAL_BANK_STATE 0, A.CAL_BANK_STATE 1, A.CAL_BANK_SEQ 0, A.CAL_BANK_SEQ 1])
  ∧ (∀ (s : State) (q : Nat) (c : Cmd), q < 8 → s.serves q 0x0605 c → c.payload = 0 →
    ∃ (t : State), exec (.calStatus q) s = .next t ∧ { t with rings := s.rings } = s
      ∧ s.replies t q c 0 0 [s.reg A.CAL_STATUS, s.reg (A.CAL_BANK_STATE 0), s.reg (A.CAL_BANK_SEQ 0), s.reg (A.CAL_BANK_STATE 1),
          s.reg (A.CAL_BANK_SEQ 1)])
  ∧ (∀ (s : State) (q : Nat) (c : Cmd) (d m i : Nat), q < 8 → s.serves q 0x0606 c → c.payload = 1 →
      c.w 4 = word (d * 2 ^ 9 + m * 2 ^ 6 + i) → d < 4 → m ≤ 4 → i ≤ extTop m →
    (m = 1 → s.retired (64 * d + i) = false ∧ s.mode (64 * d + i) ≠ 7) → s.ready q [uDie d] →
    (s.rd (A.CAL_EXT d) F.CAL_EXT.TYPE ≠ m ∨ s.rd (A.CAL_EXT d) F.CAL_EXT.INDEX ≠ i) → kget (fun _ => none) s.cal.settle d = none →
    ∃ (t : State), exec (.calExt q) s = .next t ∧ (t.ring q).run.map (fun x => (x.stage, x.reply)) = some (1, none)
      ∧ t.rd (A.CAL_EXT d) F.CAL_EXT.TYPE = 0
      ∧ kget (fun _ => none) t.cal.settle d = some (s.now
          + 3200000 * ((if s.rd (A.CAL_EXT d) F.CAL_EXT.TYPE = 0 then 0 else 1) + (if m = 0 then 0 else 1)), m, i)
      ∧ { t with rings := s.rings, regs := s.regs, fab := s.fab, cal := s.cal } = s ∧ s.keepsRegs t [A.CAL_EXT d])
  ∧ (∀ (s : State) (q : Nat) (c : Cmd) (d m i u : Nat), d < 4 → kget (fun _ => none) s.cal.settle d = some (u, m, i) → u ≤ s.now →
      m < 8 → i < 64 → q < 8 → s.running q = some c →
    c.opcode = 0x0606 → c.stage = 1 → bits (c.w 4) 10 9 = d → c.orphan = false → (∀ (r : Nat), r < q → s.running r = none) →
    ∃ (t : State), exec (.calExtSettled d) s = .next t ∧ t.rd (A.CAL_EXT d) F.CAL_EXT.TYPE = m ∧ t.rd (A.CAL_EXT d) F.CAL_EXT.INDEX = i
      ∧ kget (fun _ => none) t.cal.settle d = none ∧ (t.ring q).run.bind (·.reply) = some ⟨0, 0, t.coarseNow, []⟩
      ∧ { t with rings := s.rings, regs := s.regs, fab := s.fab, cal := s.cal } = s ∧ s.keepsRegs t [A.CAL_EXT d])
  ∧ (∀ (s : State) (d u : Nat), kget (fun _ => 0) s.power.islandWarm d = u → 0 < u → u ≤ s.now →
    ∃ (t : State), exec (.calWarmExpire d) s = .next t ∧ kget (fun _ => 0) t.power.islandWarm d = 0 ∧ { t with power := s.power } = s)

/-- The power arbiter. POWER_BUDGET_SET, POWER_FLOOR_SET and THERMAL_SET set what their checks allow, POWER_STATUS answers the arbiter's
registers and clears PW_REFUSED (R437, R439, R442, R443); a block goes to the state its horizon, limit and floor select, by the entry
and the exit that R438 gives, and a die island that was deep leaves its units warming (R414, R434, R437); the queue of running-block
claims is granted from its head (R441). It rests on the model's reading: log entry 55. -/
def Obligations.PowerStates : Prop :=
  (∀ (s : State) (q : Nat) (c : Cmd) (n : Nat), q < 8 → s.serves q 0x0701 c → c.payload = 1 → c.w 4 = word n → 58000 ≤ n → n ≤ 110000 →
      s.rd A.PW_GRANTED F.PW_GRANTED.MW ≤ n →
    s.ready q [uArbiter] →
    ∃ (t : State), exec (.powerBudgetSet q) s = .next t ∧ s.replies t q c 0 0 [] ∧ t.rd A.PW_BUDGET F.PW_BUDGET.MW = n
      ∧ { t with rings := s.rings, regs := s.regs, fab := s.fab } = s ∧ s.keepsRegs t [A.PW_BUDGET])
  ∧ (∀ (s : State) (q : Nat) (c : Cmd) (n : Nat), q < 8 → s.serves q 0x0702 c → c.payload = 1 + n → c.w 4 = word n → 0 < n → n ≤ 254 →
      s.ready q [uArbiter] →
    (∀ (i : Nat), i < n → bits (c.w (5 + i)) 31 16 = 0 ∧ bits (c.w (5 + i)) 7 3 = 0 ∧ bits (c.w (5 + i)) 15 8 ≤ 253
        ∧ bits (c.w (5 + i)) 2 0 ≤ 4) →
    ∃ (t : State), exec (.powerFloorSet q) s = .next t ∧ s.replies t q c 0 0 []
      ∧ (∀ (i : Nat), i < n → (∀ (j : Nat), j < n → i < j → bits (c.w (5 + j)) 15 8 ≠ bits (c.w (5 + i)) 15 8) →
        t.rd (A.PW_BLOCK (bits (c.w (5 + i)) 15 8)) F.PW_BLOCK.FLOOR = bits (c.w (5 + i)) 2 0)
      ∧ { t with rings := s.rings, regs := s.regs, fab := s.fab } = s
      ∧ s.keepsRegs t ((List.range n).map (fun i => A.PW_BLOCK (bits (c.w (5 + i)) 15 8))))
  ∧ (∀ (s : State) (q : Nat) (c : Cmd), q < 8 → s.serves q 0x0703 c → c.payload = 0 → s.ready q [uArbiter] →
    ∃ (t : State), exec (.powerStatus q) s = .next t 
      ∧ t.rd A.PW_REFUSED F.PW_REFUSED.COUNT = s.rd A.PW_REFUSED F.PW_REFUSED.COUNT - fget (s.reg0 A.PW_REFUSED) F.PW_REFUSED.COUNT
      ∧ s.replies t q c 0 0 [s.reg A.PW_BUDGET, s.reg A.PW_GRANTED, s.reg A.PW_BASE, s.reg A.PW_STATUS, s.reg A.PW_WAIT_HEAD,
          word (fget (s.reg0 A.PW_REFUSED) F.PW_REFUSED.COUNT)]
      ∧ { t with rings := s.rings, regs := s.regs, regs0 := s.regs0, fab := s.fab } = s ∧ s.keepsRegs t [A.PW_REFUSED])
  ∧ (∀ (s : State) (q : Nat) (c : Cmd) (k : Nat), q < 8 → s.serves q 0x0704 c → c.payload = 2 → c.w 4 = word k → k < 6 →
      s.ready q [uArbiter] →
    limitsOk k (bits (c.w 5) 31 16) (bits (c.w 5) 15 0) = true →
    ∃ (t : State), exec (.thermalSet q) s = .next t ∧ s.replies t q c 0 0 [] ∧ t.reg (A.TH_LIMIT k) = c.w 5
      ∧ { t with rings := s.rings, regs := s.regs, fab := s.fab } = s ∧ s.keepsRegs t [A.TH_LIMIT k])
  ∧ (∀ (s : State) (b : Nat), b < 254 → s.transition b = none → s.powerState b < s.selected b → s.blockHeld b = false →
    ∃ (t : State), exec (.powerStateEval b) s = .next t ∧ t.rd (A.PW_BLOCK b) F.PW_BLOCK.LIMIT = s.blockLimit b
      ∧ t.powerState b = s.powerState b
      ∧ t.transition b = some ⟨s.selected b, s.now + (if s.selected b ≤ 2 then 3200 else 64000), true⟩
      ∧ { t with regs := s.regs, power := s.power } = s ∧ s.keepsRegs t [A.PW_BLOCK b])
  ∧ (∀ (s : State) (b : Nat), b < 254 → s.transition b = none → s.selected b < s.powerState b →
    ∃ (t : State), exec (.powerStateEval b) s = .next t ∧ t.powerState b = s.powerState b
      ∧ t.transition b = some ⟨0, s.now + exitLatency (s.powerState b), false⟩
      ∧ { t with regs := s.regs, power := s.power } = s ∧ s.keepsRegs t [A.PW_BLOCK b])
  ∧ (∀ (s : State) (b p d : Nat), b < 254 → s.transition b = some ⟨p, d, true⟩ → d ≤ s.now → p ≤ 4 → s.blockHeld b = false →
    ∃ (t : State), exec (.powerStateEnterDone b) s = .next t ∧ t.powerState b = p ∧ t.transition b = none
      ∧ { t with regs := s.regs, power := s.power } = s ∧ s.keepsRegs t [A.PW_BLOCK b])
  ∧ (∀ (s : State) (b p d : Nat), b < 254 → s.transition b = some ⟨p, d, true⟩ → d ≤ s.now → 0 < p → p ≤ 4 → s.blockHeld b = true →
    ∃ (t : State), exec (.powerStateEnterDone b) s = .next t ∧ t.powerState b = p ∧ t.transition b = some ⟨0, s.now + exitLatency p, false⟩)
  ∧ (∀ (s : State) (b p d : Nat), b < 254 → s.transition b = some ⟨p, d, false⟩ → d ≤ s.now → p ≤ 4 →
    ∃ (t : State), exec (.powerStateExitDone b) s = .next t ∧ t.powerState b = p ∧ t.transition b = none
      ∧ kget (fun _ => 0) t.power.islandWarm (b - 250) = (if 250 ≤ b ∧ 3 ≤ s.powerState b then s.now + 3840000000000
          else kget (fun _ => 0) s.power.islandWarm (b - 250))
      ∧ { t with regs := s.regs, power := s.power } = s ∧ s.keepsRegs t [A.PW_BLOCK b])
  ∧ (∀ (s : State), s.power.queue = [⟨uPlace, 600⟩] → s.rd A.PW_GRANTED F.PW_GRANTED.MW + 600 ≤ s.effBudget →
    ∃ (t : State), exec .claimQueueGrant s = .next t ∧ t.power.queue = [] ∧ t.claimOf uPlace = 600 ∧ t.power.scrubActive = true
      ∧ t.rd A.PL_STATUS F.PL_STATUS.SCRUB = 1 ∧ t.rd A.PW_STATUS F.PW_STATUS.BUDGET_WAIT = 0
      ∧ { t with regs := s.regs, power := s.power } = s)
  ∧ (∀ (s : State) (w : Waiting) (l : List Waiting), s.power.queue = w :: l → s.effBudget < s.rd A.PW_GRANTED F.PW_GRANTED.MW + w.amount →
    ∃ (t : State), exec .claimQueueGrant s = .next t ∧ t = s)

/-- Temperatures and rails. Every 100 µs the sensors are read (R443 to R445); one that reaches its critical limit latches TRIPPED with a
report, and a front-end die's switches open and its pulse engines stop (R445); TRIPPED clears by a write once the die is 10 °C below the
limit (R445); the shutdown comparator makes every output safe (R473); a rail out of its range is reported (R446). It rests on the
model's reading: log entry 54. -/
def Obligations.ThermalAndRails : Prop :=
  (∀ (s : State) (l : List Int), s.tapOnly = false → s.power.tempAt + 320000 ≤ s.now → l.length = 6 →
    ∃ (t : State), exec (.tempRead l) s = .next t ∧ t.power.tempAt = s.now
      ∧ (∀ (k : Nat), k < 6 → t.rd (A.TH_TEMP k) F.TH_TEMP.TEMP = toTwos 16 (l.getD k 0))
      ∧ (t.rd A.PW_STATUS F.PW_STATUS.DERATED = 1 ↔ ∃ (k : Nat), k < 6 ∧ t.rd (A.TH_TEMP k) F.TH_TEMP.THROTTLING = 1)
      ∧ (t.rd A.PL_STATUS F.PL_STATUS.THROTTLE = 1 ↔
          t.rd (A.TH_TEMP 0) F.TH_TEMP.THROTTLING = 1 ∨ t.rd (A.TH_TEMP 5) F.TH_TEMP.THROTTLING = 1)
      ∧ (t.rd A.PL_STATUS F.PL_STATUS.REFRESH_2X = 1 ↔ 680 < sext 16 (toTwos 16 (l.getD 5 0))))
  ∧ (∀ (s : State) (k : Nat) (l : List Int), s.tapOnly = false → s.power.tempAt + 320000 ≤ s.now → l.length = 6 → 1 ≤ k → k ≤ 4 →
    sext 16 (s.rd (A.TH_LIMIT k) F.TH_LIMIT.CRIT) ≤ l.getD k 0 → (∀ (i : Nat), i < 6 → s.flag (A.TH_TEMP i) F.TH_TEMP.CRIT = false) →
    (∀ (i : Nat), i < 6 → i ≠ k → l.getD i 0 < sext 16 (s.rd (A.TH_LIMIT i) F.TH_LIMIT.CRIT)) → s.calJob (k - 1) = none →
    ∃ (t : State), exec (.tempRead l) s = .next t ∧ t.rd (A.TH_TEMP k) F.TH_TEMP.CRIT = 1 ∧ t.rd (A.TH_TEMP k) F.TH_TEMP.TRIPPED = 1
      ∧ t.lens.reports = s.lens.reports ++ [{ unit := uDie (k - 1), code := 0x11, key := keyDie (k - 1), stamp := s.coarseNow, warm := s.warming }]
      ∧ (∀ (n : Nat), n < 256 → n / 64 = k - 1 → s.mode n = 1 ∨ s.mode n = 2 ∨ s.mode n = 4 → t.pinConn n = false)
      ∧ (∀ (i : Nat), i < 8 → s.awState (8 * (k - 1) + i) ≠ 0 → t.flag (A.AW_STATUS (8 * (k - 1) + i)) F.AW_STATUS.DRV_CONN = false)
      ∧ (∀ (i : Nat), i < 8 → s.pgState (8 * (k - 1) + i) ≠ 0 →
        (t.pgOf (8 * (k - 1) + i)).stops = (s.pgOf (8 * (k - 1) + i)).stops ++ [(s.now + 410, false)]))
  ∧ (∀ (s : State) (k : Nat), k < 6 → s.link.up = true → s.flag A.HL_CTRL F.HL_CTRL.WINDOW_RW = true → s.fabricWait (A.TH_TEMP k) = none →
    ∃ (t : State), exec (.trippedClear k) s = .next t
      ∧ t.rd (A.TH_TEMP k) F.TH_TEMP.TRIPPED
        = (if sext 16 (s.rd (A.TH_TEMP k) F.TH_TEMP.TEMP) + 80 ≤ sext 16 (s.rd (A.TH_LIMIT k) F.TH_LIMIT.CRIT)
            ∧ fget (s.reg0 (A.TH_TEMP k)) F.TH_TEMP.TRIPPED = 1 then 0
          else s.rd (A.TH_TEMP k) F.TH_TEMP.TRIPPED)
      ∧ { t with regs := s.regs } = s ∧ s.keepsRegs t [A.TH_TEMP k])
  ∧ (∀ (s : State) (k : Nat), k < 6 →
    ∃ (t : State), exec (.thermalShutdown k) s = .next t ∧ t.power.shutDown = [0, 1, 2, 3, 4] ∧ k ∈ t.power.shutBy
        ∧ t.rd (A.TH_TEMP k) F.TH_TEMP.TRIPPED = 1
      ∧ (∀ (n : Nat), n < 256 → t.pinConn n = false ∧ t.rd (A.PIN_STATUS n) F.PIN_STATUS.DRV_EN = 0)
      ∧ (∀ (i : Nat), i < 32 → t.flag (A.AW_STATUS i) F.AW_STATUS.DRV_CONN = false ∧ (t.pgOf i).trail = none)
      ∧ t.lens.reports = s.lens.reports ++ [{
          unit := if 1 ≤ k ∧ k ≤ 4 then uDie (k - 1) else uArbiter, code := 0x11,
          key := if 1 ≤ k ∧ k ≤ 4 then keyDie (k - 1) else keyCore, stamp := s.coarseNow, warm := s.warming }])
  ∧ (∀ (s : State) (r : Nat), s.tapOnly = false → r < 14 ∨ (16 ≤ r ∧ r < 40) →
    ∃ (t : State), exec (.railFault r) s = .next t ∧ { t with lens := s.lens } = s
      ∧ t.lens = { s.lens with reports := s.lens.reports ++ [{
          unit := if r < 16 then uArbiter else uDie ((r - 16) / 6), code := 0x10, key := keyRail r, stamp := s.coarseNow,
              warm := s.warming }] })

/-- The profile. PROFILE_SET to the other profile, in a device with no site armed or running and no edge or format against it, writes
the record, dissolves the sites the profile forbids, rounds every period for the mirror profile, and goes on until the regions are
reloaded (R379, R380, R190); then it is answered, with status 1 where region 0 is not valid (R380). It rests on the model's reading: log
entry 57. -/
def Obligations.ProfileSwitch : Prop :=
  (∀ (s : State) (q : Nat) (c : Cmd) (m : Nat), q < 8 → s.serves q 0x0440 c → c.payload = 1 → c.w 4 = word m → m < 2 →
      s.mirror ≠ decide (m = 1) → KWf resetWord s.regs → KWf resetWord s.shadow → s.ready q profileUnits →
    (∀ (i : Nat), i < 16 → s.formed i = true → s.reserved i = false) →
    edgeBeyond (switched (decide (m = 1)) s) = none →
    gradeClash (switched (decide (m = 1)) s) (List.range 16) (switched (decide (m = 1)) s).govTile = none →
    ∃ (t : State), exec (.profileSet q true allWell) s = .next t ∧ (t.ring q).run.map (fun x => (x.stage, x.reply)) = some (1, none)
      ∧ t.mirror = decide (m = 1) ∧ t.rd A.IL_PROFILE F.IL_PROFILE.SWITCHING = 1 ∧ t.profRecord.map (·.mirror) = some (decide (m = 1))
      ∧ (t.ring q).run.map (·.data) = some (([bitsOf (s.forbidden (decide (m = 1))), (s.objects.filter (·.2.bound)).length,
          if m = 1 then min 0xFFFF s.roundCount else 0]).map Int.ofNat)
      ∧ (m = 1 → ∀ (i : Nat), i < 16 → t.formed i = true → t.width i = 4 ∧ t.lead i % 4 = 0)
      ∧ (m = 1 → ∀ (k : Nat), k < 16 → ∀ (n : Nat), n < 64 → t.period k n % 4 = 0 ∧ t.periodS k n % 4 = 0))
  ∧ (∀ (s : State) (q : Nat) (c : Cmd) (m : Nat), q < 8 → s.serves q 0x0440 c → c.payload = 1 → c.w 4 = word m → m < 2 →
      s.mirror = decide (m = 1) → s.ready q profileUnits →
    ∃ (t : State), exec (.profileSet q true allWell) s = .next t ∧ s.replies t q c 1 1 [] ∧ { t with rings := s.rings } = s)
  ∧ (∀ (s : State) (q : Nat) (c : Cmd), q < 8 → s.running q = some c → c.opcode = 0x0440 → c.stage = 1 → c.orphan = false →
      (∀ (r : Nat), r < q → s.running r = none) →
    ∃ (t : State), exec .profileReloadDone s = .next t ∧ t.rd A.IL_PROFILE F.IL_PROFILE.SWITCHING = 0
      ∧ (t.ring q).run.bind (·.reply) = some (if t.regionValid 0 = true then
          ⟨0, 0, t.coarseNow, [word (c.data.getD 0 0).toNat, word ((c.data.getD 1 0).toNat * 2 ^ 16 + (c.data.getD 2 0).toNat),
            word (bitsOf ((List.range 3).filter t.regionValid))]⟩
        else ⟨1, 2, t.coarseNow, [word (c.data.getD 0 0).toNat, word ((c.data.getD 1 0).toNat * 2 ^ 16 + (c.data.getD 2 0).toNat),
            word (bitsOf ((List.range 3).filter t.regionValid))]⟩))

/-- Reset sources. Each event of the table of R447 asserts its source with its SUB: power-on and brown-out until the rails have stood
for 1 ms, NRST_IN until it is high again, the watchdogs, lock-ups, the clock failure and the software source as pulses of four AON
cycles (R447, R452, R456, R461). It rests on the model's reading: log entry 28. -/
def Obligations.ResetSources : Prop :=
  (∀ (s : State),
    ∃ (t : State), exec .powerOn s = .next t ∧ s.raises t 0 0 (some (s.now + 3200000)) ∧ { t with rst := s.rst, regs := s.regs } = s)
  ∧ (∀ (s : State) (r : Nat), r < 256 →
    ∃ (t : State), exec (.brownOut r) s = .next t ∧ s.raises t 1 r (some (s.now + 3200000)) ∧ { t with rst := s.rst, regs := s.regs } = s)
  ∧ (∀ (s : State), 2 ∉ s.assertedNow →
    ∃ (t : State), exec .nrstInLow s = .next t ∧ s.raises t 2 0 none ∧ { t with rst := s.rst, regs := s.regs } = s)
  ∧ (∀ (s : State), 2 ∈ s.assertedNow →
    ∃ (t : State), exec .nrstInHigh s = .next t ∧ 2 ∉ t.assertedNow ∧ (∀ a ∈ t.rst.asserted, a.1 = 2 → a.2 = some s.now)
      ∧ nbit (t.rd A.RST_STATUS F.RST_STATUS.ASSERTED) 2 = false ∧ { t with rst := s.rst, regs := s.regs } = s
      ∧ s.keepsRegs t [A.RST_STATUS])
  ∧ (∀ (s : State) (n : Nat), n < 4 → s.rst.fwUp = true → n ∉ s.link.coresDown →
    ∃ (t : State), exec (.fwWatchdogExpire n) s = .next t ∧ s.raises t 4 n (some (s.now + 12800))
        ∧ { t with rst := s.rst, regs := s.regs } = s)
  ∧ (∀ (s : State), s.flag A.WD_CTRL F.WD_CTRL.ENABLE = true → s.rst.kickAt + 2880000 * s.rd A.WD_CTRL F.WD_CTRL.TIMEOUT_MS ≤ s.now →
    ∃ (t : State), exec .hostWatchdogExpire s = .next t ∧ s.raises t 4 4 (some (s.now + 12800))
        ∧ { t with rst := s.rst, regs := s.regs } = s)
  ∧ (∀ (s : State) (k : Nat), s.link.up = true → s.flag A.HL_CTRL F.HL_CTRL.WINDOW_RW = true → s.fabricWait A.WD_KICK = none →
      k % 256 = 0xA5 →
    ∃ (t : State), exec (.wdKick k) s = .next t ∧ t.rst = { s.rst with kickAt := s.now } ∧ { t with rst := s.rst } = s)
  ∧ (∀ (s : State) (k : Nat), s.link.up = true → s.flag A.HL_CTRL F.HL_CTRL.WINDOW_RW = true → s.fabricWait A.WD_KICK = none →
      k % 256 ≠ 0xA5 →
    ∃ (t : State), exec (.wdKick k) s = .next t ∧ { t with regs := s.regs } = s ∧ s.keepsRegs t [A.HL_WIN_DISCARD]
      ∧ t.rd A.HL_WIN_DISCARD F.HL_WIN_DISCARD.COUNT = min (2 ^ 32 - 1) (s.rd A.HL_WIN_DISCARD F.HL_WIN_DISCARD.COUNT + 1))
  ∧ (∀ (s : State) (n : Nat), n < 4 → n ∉ s.link.coresDown →
    ∃ (t : State), exec (.doubleException n) s = .next t ∧ s.raises t 5 n (some (s.now + 12800))
        ∧ { t with rst := s.rst, regs := s.regs } = s)
  ∧ (∀ (s : State),
    ∃ (t : State), exec .fabricTimeout s = .next t ∧ s.raises t 5 8 (some (s.now + 12800)) ∧ { t with rst := s.rst, regs := s.regs } = s)
  ∧ (∀ (s : State), s.rst.phase = .release → s.rst.since + 5760000000 ≤ s.now →
    ∃ (t : State), exec .startTimeout s = .next t ∧ s.raises t 5 16 (some (s.now + 12800)) ∧ { t with rst := s.rst, regs := s.regs } = s)
  ∧ (∀ (s : State) (u d : Nat), s.rst.waiting = [(u, d)] → d + 5760000 ≤ s.now →
    ∃ (t : State), exec (.waitClkTimeout u) s = .next t ∧ s.raises t 3 (s.lackedDomain u) (some (s.now + 12800)) ∧ t.rst.waiting = []
      ∧ { t with rst := s.rst, regs := s.regs } = s)
  ∧ (∀ (s : State) (d r q : Nat), s.rst.software = some (d, r, q) → d ≤ s.now →
    ∃ (t : State), exec .softwareSourceAssert s = .next t ∧ s.raises t 7 q (some (s.now + 12800)) ∧ t.rst.software = none
        ∧ t.rst.softReach = r
      ∧ { t with rst := s.rst, regs := s.regs } = s)

/-- Reset and release. The controller takes a source at the reach of the table in force, makes the outputs safe and resets and holds the
blocks (R447 to R451); a cold start samples OVEN_WARM and the straps (R64 to R66); when every source is released the cause is recorded
and the blocks are released as their clocks come, the core die to train its link (R450 to R452, R457); the firmware of the slot taken
runs, or the host is awaited, or the lock-up source fires (R456, R458, R461); bring-up completes (R451). It rests on the model's
readings: log entries 26 and 64. -/
def Obligations.ResetSequence : Prop :=
  (∀ (s : State) (n r : Nat), s.rst.news = [n] → s.rst.latched = [] → s.sourceReach n = r → 2 ≤ r → r ≤ 4 →
    ∃ (t : State), exec .resetSourceAssert s = .next t ∧ t.rst.phase = .held ∧ t.rst.reach = r ∧ t.rst.latched = [(n, r)] ∧ t.rst.news = []
      ∧ t.rings = [] ∧ t.power.claims = [] ∧ t.flag A.HL_STATUS F.HL_STATUS.FW_READY = false
      ∧ (∀ (p : Nat), p < 256 → t.pinConn p = false) ∧ (∀ (i : Nat), i < 32 → t.flag (A.AW_STATUS i) F.AW_STATUS.DRV_CONN = false)
      ∧ (3 ≤ r → t.count = 0 ∧ t.rst.sysRst = true ∧ t.rst.ready = false)
      ∧ t.fails = (if r = 4 then 0 else if (s.rst.phase = .release ∨ s.rst.phase = .hostBoot) ∧ s.rst.counted = false ∧ s.umbra = false
          then min 15 (s.fails + 1) else s.fails))
  ∧ (∀ (s : State) (v : Bool), s.sampling 16 = true → s.clocks.ovenFirst = none →
    ∃ (t : State), exec (.ovenSampleFirst v) s = .next t ∧ t.clocks = { s.clocks with ovenFirst := some v, ovenDown := true }
        ∧ { t with clocks := s.clocks } = s)
  ∧ (∀ (s : State) (a v : Bool), s.clocks.ovenFirst = some a → s.sampling 32 = true →
    ∃ (t : State), exec (.ovenSampleSecond v) s = .next t ∧ t.rst = { s.rst with phase := .straps }
        ∧ t.clocks = { s.clocks with ovenDown := a && !v }
      ∧ t.flag A.ID_STRAP F.ID_STRAP.OVEN_WIRED = !(a && !v) ∧ t.flag A.ID_STRAP F.ID_STRAP.OVEN_LEVEL = (!(a && !v) && v)
      ∧ { t with rst := s.rst, clocks := s.clocks, regs := s.regs } = s ∧ s.keepsRegs t [A.ID_STRAP, A.GN_STATUS])
  ∧ (∀ (s : State) (b n m : Nat) (ref test : Bool), s.rst.phase = .straps → s.sinceP 64 = true → b < 4 → n < 32 → m < 4 →
    ∃ (t : State), exec (.strapSample b n m ref test) s = .next t ∧ t.rst
        = { s.rst with testEn := test, phase := if test then .testHeld else .sampled }
      ∧ t.rd A.ID_STRAP F.ID_STRAP.BOOT = b ∧ t.rd A.ID_STRAP F.ID_STRAP.RING_HINT = n ∧ t.rd A.ID_STRAP F.ID_STRAP.SMBA = m
      ∧ t.flag A.ID_STRAP F.ID_STRAP.REF_SEL = ref ∧ t.flag A.CLK_STATUS F.CLK_STATUS.REF_100 = ref ∧ t.ownPos = n
      ∧ { t with rst := s.rst, regs := s.regs, xr := s.xr } = s ∧ s.keepsRegs t [A.ID_STRAP, A.CLK_STATUS, A.XR_STATUS, A.GN_STATUS])
  ∧ (∀ (s : State) (p : Nat), s.released = some p → p ≤ s.now → s.rst.phase = (if s.rst.reach = 4 then .sampled else .held) → s.fails < 4 →
    ∃ (t : State), exec .resetReleaseStart s = .next t ∧ t.rst.phase = .release ∧ t.rst.since = s.now ∧ t.rst.asserted = []
      ∧ t.rst.waiting = [(uGnomon, s.now), (uDie 0, s.now), (uDie 1, s.now), (uDie 2, s.now), (uDie 3, s.now)]
      ∧ t.umbra = false ∧ t.reg (A.RST_CAUSE 1) = 0 ∧ t.reg (A.RST_CAUSE 2) = word s.rst.stamp
      ∧ t.reg (A.RST_CAUSE 3) = word (s.rst.stamp / 2 ^ 32)
      ∧ t.reg (A.RST_CAUSE 0) = causeWord s.rst.reach s.causeSource false false (bitsOf (s.rst.latched.map (·.1))) s.fails
          (kget (fun _ => 0) s.rst.subs s.causeSource)
      ∧ t.history 0 = [t.reg (A.RST_CAUSE 0), t.reg (A.RST_CAUSE 1), t.reg (A.RST_CAUSE 2), t.reg (A.RST_CAUSE 3)])
  ∧ (∀ (s : State) (p : Nat), s.released = some p → p ≤ s.now → s.rst.phase = (if s.rst.reach = 4 then .sampled else .held) → 4 ≤ s.fails →
    ∃ (t : State), exec .resetReleaseStart s = .next t ∧ t.rst.phase = .release ∧ t.umbra = true ∧ t.rst.waiting = []
        ∧ t.link.trainable = true
      ∧ t.rst.ready = false ∧ t.xrState = 0 ∧ t.rd A.CLK_SPI F.CLK_SPI.DIV = 8 ∧ (3 ≤ s.rst.reach → t.rst.sysRst = false))
  ∧ (∀ (s : State), s.rst.iso = [] → s.rst.phase = .release → s.rst.waiting.any (·.1 = uGnomon) = true →
    s.flag A.CLK_STATUS F.CLK_STATUS.REF_PRESENT = true → s.flag A.CLK_STATUS F.CLK_STATUS.MTC_LOCK = true →
    ∃ (t : State), exec (.blockRelease uGnomon) s = .next t ∧ t.rst = { s.rst with sysRst := false, waiting := s.rst.waiting.filter (·.1 ≠ uGnomon) }
      ∧ t.link = { s.link with trainable := true } ∧ t.flag A.CLK_STATUS F.CLK_STATUS.SYS_LOCK = true
      ∧ t.xrState = (if s.xrState = 0 then 1 else s.xrState)
      ∧ { t with rst := s.rst, link := s.link, regs := s.regs } = s ∧ s.keepsRegs t [A.CLK_STATUS, A.XR_CTRL, A.RST_STATUS])
  ∧ (∀ (s : State) (d : Nat), s.rst.iso = [] → s.rst.phase = .release → d < 4 → s.rst.waiting.any (·.1 = uDie d) = true →
    s.flag A.CLK_STATUS F.CLK_STATUS.REF_PRESENT = true → s.flag A.CLK_STATUS F.CLK_STATUS.MTC_LOCK = true →
    ∃ (t : State), exec (.blockRelease (uDie d)) s = .next t ∧ t.rst = { s.rst with waiting := s.rst.waiting.filter (·.1 ≠ uDie d) }
      ∧ nbit (t.rd A.CLK_STATUS F.CLK_STATUS.FE_LOCK) d = true
      ∧ (s.rst.reach = 4 → kget (fun _ => 0) t.power.islandWarm d = s.now + 3840000000000)
      ∧ { t with rst := s.rst, power := s.power, regs := s.regs } = s ∧ s.keepsRegs t [A.CLK_STATUS, A.RST_STATUS])
  ∧ (∀ (s : State) (n : Nat), s.rst.phase = .release → s.rst.waiting = [] → s.rst.fwUp = false → s.umbra = false → s.rst.reach = 2 →
      s.hostBoot = false →
    s.fwTaken = some n →
    ∃ (t : State), exec .bringupFirmwareReady s = .next t ∧ t.rst.fwUp = true ∧ t.flag A.HL_STATUS F.HL_STATUS.FW_READY = true
      ∧ t.rd A.FW_SLOT F.FW_SLOT.SLOT_USED = n + 1 ∧ t.svc.fwVersion = ((s.fwSlot n).map (·.version)).getD 0
      ∧ t.rd A.PL_STATUS F.PL_STATUS.HBM_READY = 1 ∧ (∀ p ∈ s.svc.retired, p < 256 → t.mode p = 7))
  ∧ (∀ (s : State), s.rst.phase = .release → s.rst.waiting = [] → s.rst.fwUp = false → s.umbra = false → s.rst.reach = 2 →
      s.hostBoot = true →
    ∃ (t : State), exec .bringupFirmwareReady s = .next t ∧ t.rst = { s.rst with phase := .hostBoot }
      ∧ t.flag A.HL_STATUS F.HL_STATUS.BOOT_WAIT = true)
  ∧ (∀ (s : State), s.rst.phase = .release → s.rst.waiting = [] → s.rst.fwUp = false → s.umbra = false → s.rst.reach = 2 →
      s.hostBoot = false →
    s.fwTaken = none →
    ∃ (t : State), exec .bringupFirmwareReady s = .next t ∧ (5, some (s.now + 12800)) ∈ t.rst.asserted
        ∧ kget (fun _ => 0) t.rst.subs 5 = 0x11
      ∧ t.rst.fwUp = false)
  ∧ (∀ (s : State) (x : Nat), s.rst.phase = .release → s.rst.fwUp = true → (∀ (k : Nat), k < 32 →
      s.flag (A.TU_STATUS k) F.TU_STATUS.BINCAL_BUSY = false) →
    s.umbra = false → s.rst.reach = 2 → (loadProfile s).lenmasBad = false →
    ∃ (t : State), exec (.bringupComplete x) s = .next t ∧ t.rst = { s.rst with latched := [], phase := .running, counted := false, ready := true }
      ∧ t.flag A.HL_STATUS F.HL_STATUS.FW_READY = true ∧ t.fails = 0
      ∧ t.mirror = ((s.profRecord.map (·.mirror)).getD false) ∧ t.rd A.RST_STATUS F.RST_STATUS.BRINGUP = 0)
  ∧ (∀ (s : State) (x : Nat), s.rst.phase = .release → s.rst.fwUp = true → (∀ (k : Nat), k < 32 →
      s.flag (A.TU_STATUS k) F.TU_STATUS.BINCAL_BUSY = false) →
    s.umbra = false → 3 ≤ s.rst.reach → s.flash.images = [] →
    ∃ (t : State), exec (.bringupComplete x) s = .next t ∧ t.rst = { s.rst with latched := [], phase := .running, counted := false, ready := true }
      ∧ t.flag A.HL_STATUS F.HL_STATUS.FW_READY = true ∧ t.rd A.CLK_SPI F.CLK_SPI.DIV = min 15 (max 2 x) ∧ t.clocks.sfdpMin = x)
  ∧ (∀ (s : State) (x : Nat), s.rst.phase = .release → s.rst.fwUp = true → (∀ (k : Nat), k < 32 →
      s.flag (A.TU_STATUS k) F.TU_STATUS.BINCAL_BUSY = false) →
    s.umbra = true →
    ∃ (t : State), exec (.bringupComplete x) s = .next t ∧ t.rst = { s.rst with latched := [], phase := .running, counted := false }
      ∧ t.flag A.HL_STATUS F.HL_STATUS.FW_READY = s.flag A.HL_STATUS F.HL_STATUS.FW_READY)

/-- Isolated resets. RESET with reach 0 or 1 asks the block or the site to become idle, its sites halted first (R453 to R455); with
reach 2 or 3 the software source follows its completion (R453); an idle block is reset, one that stays busy is forced, and the reset is
recorded (R453, R457); sixteen FAB cycles later it is released and the command answered (R454). It rests on the model's reading: log
entry 25. -/
def Obligations.IsolatedResets : Prop :=
  (∀ (s : State) (q : Nat) (c : Cmd) (u r : Nat), q < 8 → s.serves q 0x0801 c → c.payload = 2 → c.w 4 = word (r * 2 ^ 31) → r < 2 →
      (c.w 5).toNat = u →
    isUnit u (uclass u) (isoUnits (uclass u)) = true → s.ready q [u] → (∀ i ∈ s.haltedBy u, s.reserved i = false) →
    ∃ (t : State), exec (.reset q) s = .next t ∧ (t.ring q).run.map (fun x => (x.stage, x.reply)) = some (1, none)
      ∧ t.rst = { s.rst with iso := s.rst.iso ++ [{ ring := q, unit := u, since := s.now, stamp := s.coarseNow }] }
      ∧ t.fails = (if r = 1 then 0 else s.fails)
      ∧ t.link = (if uclass u = 0x06 then { s.link with coresDown := s.link.coresDown ++ [uindex u] } else s.link)
      ∧ { t with rings := s.rings, rst := s.rst, regs := s.regs, fab := s.fab, link := s.link } = s ∧ s.keepsRegs t [A.RST_STATUS])
  ∧ (∀ (s : State) (q : Nat) (c : Cmd) (i : Nat), q < 8 → s.serves q 0x0801 c → c.payload = 2 → c.w 4 = 1 → c.w 5 = word (uSite i) →
      i < 16 → s.formed i = true →
    s.ready q (uSite i :: (s.tilesOf i).map uTile) → s.reserved i = false → s.reachRow.2 / 2 ^ 21 % 8 ≠ 0 →
    ∃ (t : State), exec (.reset q) s = .next t ∧ (t.ring q).run.map (fun x => (x.stage, x.reply)) = some (1, none)
      ∧ t.rst = { s.rst with iso := s.rst.iso ++ [{ ring := q, unit := uSite i, since := s.now, stamp := s.coarseNow }] }
      ∧ { t with rings := s.rings, rst := s.rst } = s)
  ∧ (∀ (s : State) (q : Nat) (c : Cmd) (r : Nat), q < 8 → s.serves q 0x0801 c → c.payload = 2 → c.w 4 = word r → 2 ≤ r → r ≤ 3 →
      c.w 5 = 0 → r ≤ s.reachRow.2 / 2 ^ 21 % 8 →
    ∃ (t : State), exec (.reset q) s = .next t ∧ { t with rings := s.rings } = s
      ∧ (t.ring q).run.map (fun x => (x.after, x.reply)) = some (.software r, some ⟨0, 0, t.coarseNow, [0]⟩))
  ∧ (∀ (s : State) (u : Nat) (x : IsoReset), s.isoOf u = some x → s.quiet u = true → s.coreBusy u = false →
    ∃ (t : State), exec (.isoResetIdle u) s = .next t ∧ { x with resetAt := some s.now } ∈ t.rst.iso
      ∧ t.reg A.RST_ISO_UNIT = word u ∧ t.rd A.RST_ISO_LAST F.RST_ISO_LAST.FORCED = 0
      ∧ t.rd A.RST_ISO_LAST F.RST_ISO_LAST.KIND = 0 ∧ t.rd A.RST_ISO_LAST F.RST_ISO_LAST.COUNT = 0
      ∧ t.reg (A.RST_CAUSE 0) = causeWord (if uclass u = 0x0E then 1 else 0) 7 false false 0 t.fails x.ring
      ∧ t.reg (A.RST_CAUSE 1) = word u ∧ t.reg (A.RST_CAUSE 2) = word x.stamp ∧ t.reg (A.RST_CAUSE 3) = word (x.stamp / 2 ^ 32))
  ∧ (∀ (s : State) (u n k : Nat) (x : IsoReset), s.isoOf u = some x → s.quiet u = true →
      x.since + 3200 * s.rd A.RST_ISO_CFG F.RST_ISO_CFG.TIMEOUT ≤ s.now → k < 32 →
    ∃ (t : State), exec (.isoResetTimeout u n k) s = .next t ∧ { x with resetAt := some s.now } ∈ t.rst.iso
      ∧ t.reg A.RST_ISO_UNIT = word u ∧ t.rd A.RST_ISO_LAST F.RST_ISO_LAST.FORCED = 1 ∧ t.rd A.RST_ISO_LAST F.RST_ISO_LAST.KIND = k
      ∧ t.rd A.RST_ISO_LAST F.RST_ISO_LAST.COUNT = min 65535 n
      ∧ t.reg (A.RST_CAUSE 0) = causeWord (if uclass u = 0x0E then 1 else 0) 7 true false 0 t.fails x.ring
      ∧ t.reg (A.RST_CAUSE 1) = word u)
  ∧ (∀ (s : State) (q : Nat) (c : Cmd) (u d : Nat) (x : IsoReset), s.rst.iso = [x] → x.unit = u → x.ring = q → x.resetAt = some d →
      d + 128 ≤ s.now → s.clocked u = true →
    s.running q = some c → c.orphan = false →
    ∃ (t : State), exec (.blockRelease u) s = .next t ∧ t.rst.iso = []
      ∧ (t.ring q).run.bind (·.reply) = some ⟨0, 0, t.coarseNow, [s.reg A.RST_ISO_LAST]⟩
      ∧ (uclass u = 0x06 → uindex u ∉ t.link.coresDown))

/-- Service. FW_LOAD with an image whose signature and fingerprint hold stores it in the slot not in use, makes the software source
follow, or runs it in host-boot wait (R458, R461); REACH_SET burns a row of the reach table (R448); REMAP puts a spare in a unit's place
and takes it away (R463); RETIRE puts a pin into mode 7 and its undoing into mode 0 (R464); the log is read by command and over SMBus
(R457, R460). It rests on the model's readings: log entries 45 and 56. -/
def Obligations.ServiceCommands : Prop :=
  (∀ (s : State) (q : Nat) (c : Cmd) (n : Nat) (p : FwPackage), q < 8 → s.serves q 0x0810 c → c.payload = 4 → c.w 4 = word (2 * n + 1) →
      n < 2 → bits (c.w 5) 1 0 = 0 →
    s.dmaWaits = false → (c.w 7).toNat ≤ p.words.length → p.headerOk = true →
    ∃ (t : State), exec (.fwLoad q (some p) true) s = .next t
      ∧ (signatureValid (p.words.take (c.w 7).toNat) = false → s.replies t q c 0x0406 0 [] ∧ { t with rings := s.rings } = s)
      ∧ (signatureValid (p.words.take (c.w 7).toNat) = true → fingerprint (p.words.take (c.w 7).toNat) ≠ Config.bootRomFingerprint →
          s.replies t q c 0x0407 0 [] ∧ { t with rings := s.rings } = s)
      ∧ (signatureValid (p.words.take (c.w 7).toNat) = true → fingerprint (p.words.take (c.w 7).toNat) = Config.bootRomFingerprint →
          (t.ring q).run.bind (·.reply) = some ⟨0, 0, t.coarseNow,
            [word (max (((s.fwSlot 0).map (·.seq)).getD 0) (((s.fwSlot 1).map (·.seq)).getD 0) + 1)]⟩
          ∧ (t.ring q).run.map (·.after) = some (if n = 1 then .software 3 else c.after)
          ∧ t.rd A.FW_SLOT F.FW_SLOT.SLOT_USED = (if s.rd A.FW_SLOT F.FW_SLOT.SLOT_USED = 1 then 2 else 1)
          ∧ t.fwSlot (if s.rd A.FW_SLOT F.FW_SLOT.SLOT_USED = 1 then 1 else 0)
            = some ⟨max (((s.fwSlot 0).map (·.seq)).getD 0) (((s.fwSlot 1).map (·.seq)).getD 0) + 1, p.version, p.native, p.mirror, true,
                p.subVendor, p.subsystem⟩
          ∧ t.svc = { s.svc with fwVersion := p.version } ∧ t.fails = 0
          ∧ { t with rings := s.rings, regs := s.regs, fab := s.fab, flash := s.flash, svc := s.svc } = s))
  ∧ (∀ (s : State) (q : Nat) (c : Cmd) (p : FwPackage), q < 8 → s.serves q 0x0810 c → c.payload = 4 → c.w 4 = 4 → bits (c.w 5) 1 0 = 0 →
      s.dmaWaits = false →
    (c.w 7).toNat ≤ p.words.length → p.headerOk = true → s.hostBoot = true → s.rst.fwUp = false →
    ∃ (t : State), exec (.fwLoad q (some p) true) s = .next t
      ∧ (signatureValid (p.words.take (c.w 7).toNat) = true → fingerprint (p.words.take (c.w 7).toNat) = Config.bootRomFingerprint →
          (t.ring q).run.bind (·.reply) = some ⟨0, 0, t.coarseNow, [0]⟩ ∧ t.rst.fwUp = true ∧ t.rst.phase = .release
          ∧ t.flag A.HL_STATUS F.HL_STATUS.BOOT_WAIT = false ∧ t.svc.fwVersion = p.version ∧ t.svc.hostFw = true ∧ t.flash = s.flash))
  ∧ (∀ (s : State) (q : Nat) (c : Cmd) (w : Word), q < 8 → s.serves q 0x0811 c → c.payload = 1 → c.w 4 = w → bits w 31 24 = 0 →
    (∀ (n : Nat), n < 8 → reachAllowed n (bits w 23 0 / 2 ^ (3 * n) % 8) = true) → s.fuses.reachRows.length < 7 →
    ∃ (t : State), exec (.reachSet q true) s = .next t ∧ s.replies t q c 0 0 []
      ∧ t.fuses = { s.fuses with reachRows := s.fuses.reachRows ++ [some (bits w 23 0)] }
      ∧ t.rd A.RST_REACH F.RST_REACH.TABLE = bits w 23 0 ∧ t.rd A.RST_REACH F.RST_REACH.ROW = s.fuses.reachRows.length + 1
      ∧ { t with rings := s.rings, regs := s.regs, fab := s.fab, fuses := s.fuses } = s ∧ s.keepsRegs t [A.RST_REACH])
  ∧ (∀ (s : State) (q : Nat) (c : Cmd) (k i p : Nat) (l h : List Nat), q < 8 → s.serves q 0x0820 c → c.payload = 1 →
      c.w 4 = word (k * 2 ^ 16 + i) →
    (k = 2 ∧ i < 16) ∨ (k = 3 ∧ i < 128) ∨ (k = 10 ∧ i < 32) → s.umbra = false → s.remapReady (uid k i) = true →
    s.spares (uid k i) = p :: l → (∀ n ∈ h, n ≤ 8192) → s.ready q [uid k i] →
    s.hbmWaits 5 = false →
    ∃ (t : State), exec (.remap q 0 h true none allWell) s = .next t ∧ s.replies t q c 0 0 [word p]
      ∧ t.svc = { s.svc with remaps := s.svc.remaps ++ [(uid k i, p)] }
      ∧ (k = 2 → t.rd (A.SEQ_TILE_STATUS i) F.SEQ_TILE_STATUS.PHYS = p)
      ∧ (k = 3 → t.rd (A.LE_STATUS i) F.LE_STATUS.PHYS = p ∧ t.rd (A.LE_STATUS i) F.LE_STATUS.SPARE = 1)
      ∧ (k = 10 → t.rd (A.TU_STATUS i) F.TU_STATUS.PHYS = p ∧ (t.tuOf i).bins = h)
      ∧ t.rd A.SVC_STATUS F.SVC_STATUS.RECORD_VALID = 1)
  ∧ (∀ (s : State) (q : Nat) (c : Cmd) (k i : Nat) (h : List Nat), q < 8 → s.serves q 0x0820 c → c.payload = 1 →
      c.w 4 = word (2 ^ 31 + k * 2 ^ 16 + i) →
    (k = 2 ∧ i < 16) ∨ (k = 3 ∧ i < 128) ∨ (k = 10 ∧ i < 32) → s.umbra = false → s.remapReady (uid k i) = true →
    s.svc.remaps.any (·.1 = uid k i) = true → s.ready q [uid k i] → (∀ n ∈ h, n ≤ 8192) → s.hbmWaits 5 = false →
    ∃ (t : State), exec (.remap q 0 h true none allWell) s = .next t ∧ s.replies t q c 0 0 [word (if k = 10 then i % 8 else i)]
      ∧ t.svc = { s.svc with remaps := s.svc.remaps.filter (·.1 ≠ uid k i) })
  ∧ (∀ (s : State) (q : Nat) (c : Cmd) (n : Nat), q < 8 → s.serves q 0x0821 c → c.payload = 1 → c.w 4 = word n → n < 256 →
      s.umbra = false → s.retired n = false →
    s.gangMember n = false → s.gangLeader n = false → s.siteHolds n = none → s.ready q [uPin n] →
    ∃ (t : State), exec (.retire q true) s = .next t ∧ (t.ring q).run.bind (·.reply) = some ⟨0, 0, t.coarseNow, []⟩
      ∧ t.mode n = 7 ∧ t.retired n = true ∧ t.rd A.SVC_STATUS F.SVC_STATUS.RECORD_VALID = 1)
  ∧ (∀ (s : State) (q : Nat) (c : Cmd) (n : Nat), q < 8 → s.serves q 0x0821 c → c.payload = 1 → c.w 4 = word (2 ^ 31 + n) → n < 256 →
      s.umbra = false → s.retired n = true →
    s.siteHolds n = none → s.ready q [uPin n] →
    ∃ (t : State), exec (.retire q true) s = .next t ∧ s.replies t q c 0 0 [] ∧ t.mode n = 0 ∧ t.retired n = false ∧ t.pinConn n = false)
  ∧ (∀ (s : State) (q : Nat) (c : Cmd) (n : Nat), q < 8 → s.serves q 0x0B20 c → c.payload = 0 →
      s.rd A.RST_HIST_HEAD F.RST_HIST_HEAD.COUNT = n →
    ∃ (t : State), exec (.rstLogRead q) s = .next t ∧ { t with rings := s.rings } = s
      ∧ s.replies t q c 0 0 (word n :: (List.range n).flatMap (fun i => (List.range 4).map (fun w =>
          s.reg (A.RST_HIST ((s.rd A.RST_HIST_HEAD F.RST_HIST_HEAD.NEWEST + 16 - i) % 16) w)))))
  ∧ (∀ (s : State) (n : Nat), s.smbusAnswers n = true →
    ∃ (t : State), exec (.smbCauseRead n) s = .next t ∧ { t with out := s.out } = s
      ∧ t.out = s.out ++ [.smbusBlock [s.reg (A.RST_CAUSE 0), s.reg (A.RST_CAUSE 1), s.reg (A.RST_CAUSE 2), s.reg (A.RST_CAUSE 3)]])
  ∧ (∀ (s : State) (n i : Nat), s.smbusAnswers n = true → i < 16 →
    ∃ (t : State), exec (.smbHistoryRead n i) s = .next t ∧ { t with out := s.out } = s
      ∧ t.out = s.out ++ [.smbusBlock (if i < s.rd A.RST_HIST_HEAD F.RST_HIST_HEAD.COUNT then
          (List.range 4).map (fun w => s.reg (A.RST_HIST ((s.rd A.RST_HIST_HEAD F.RST_HIST_HEAD.NEWEST + 16 - i) % 16) w)) else [0, 0, 0,
              0])])

/-- The test access port. Each instruction selects its data register and what drives the scanned balls (R467); SYS_RESET asserts the
debug source, which any other instruction releases (R447). It rests on the model's reading: log entry 47. -/
def Obligations.TestAccessPort : Prop :=
  (∀ (s : State) (l : List Bool), 6 ∉ s.assertedNow →
    ∃ (t : State), exec (.extest l) s = .next t ∧ { t with tap := s.tap } = s
      ∧ t.tap = { s.tap with ir := 0x00, dr := .boundary, drive := .cells, acTest := false, sampled := cellBits l })
  ∧ (∀ (s : State) (l m : List Bool), 6 ∉ s.assertedNow →
    ∃ (t : State), exec (.samplePreload l m) s = .next t ∧ { t with tap := s.tap } = s
      ∧ t.tap = { s.tap with ir := 0x01, dr := .boundary, drive := .system, acTest := false, sampled := cellBits l, cells := cellBits m })
  ∧ (∀ (s : State), 6 ∉ s.assertedNow →
    ∃ (t : State), exec .idcode s = .next t ∧ { t with tap := s.tap, out := s.out } = s
      ∧ t.out = s.out ++ [.tapData 0x2256098B] ∧ t.tap = { s.tap with ir := 0x02, dr := .ident, drive := .system, acTest := false })
  ∧ (∀ (s : State), 6 ∉ s.assertedNow →
    ∃ (t : State), exec .clamp s = .next t ∧ { t with tap := s.tap } = s
      ∧ t.tap = { s.tap with ir := 0x03, dr := .bypass, drive := .cells, acTest := false })
  ∧ (∀ (s : State), 6 ∉ s.assertedNow →
    ∃ (t : State), exec .highz s = .next t ∧ { t with tap := s.tap } = s
      ∧ t.tap = { s.tap with ir := 0x04, dr := .bypass, drive := .highZ, acTest := false })
  ∧ (∀ (s : State) (l : List Bool), 6 ∉ s.assertedNow →
    ∃ (t : State), exec (.extestPulse l) s = .next t ∧ { t with tap := s.tap } = s
      ∧ t.tap = { s.tap with ir := 0x05, dr := .boundary, drive := .cells, acTest := true, sampled := cellBits l })
  ∧ (∀ (s : State) (l : List Bool), 6 ∉ s.assertedNow →
    ∃ (t : State), exec (.extestTrain l) s = .next t ∧ { t with tap := s.tap } = s
      ∧ t.tap = { s.tap with ir := 0x06, dr := .boundary, drive := .cells, acTest := true, sampled := cellBits l })
  ∧ (∀ (s : State) (n : Nat), 6 ∉ s.assertedNow → n < 256 → 6 < n → n ≠ 0x40 →
    ∃ (t : State), exec (.bypass n) s = .next t ∧ { t with tap := s.tap } = s
      ∧ t.tap = { s.tap with ir := n, dr := .bypass, drive := .system, acTest := false })
  ∧ (∀ (s : State), 6 ∉ s.assertedNow →
    ∃ (t : State), exec .tapReset s = .next t ∧ { t with tap := s.tap } = s ∧ t.tap = {})
  ∧ (∀ (s : State), 6 ∉ s.assertedNow →
    ∃ (t : State), exec .sysReset s = .next t ∧ s.raises t 6 0 none
      ∧ t.tap = { s.tap with ir := 0x40, dr := .bypass, drive := .system, acTest := false }
      ∧ { t with rst := s.rst, regs := s.regs, tap := s.tap } = s)
  ∧ (∀ (s : State), 6 ∈ s.assertedNow →
    ∃ (t : State), exec .clamp s = .next t ∧ 6 ∉ t.assertedNow ∧ nbit (t.rd A.RST_STATUS F.RST_STATUS.ASSERTED) 6 = false
      ∧ { t with rst := s.rst, regs := s.regs, tap := s.tap } = s ∧ s.keepsRegs t [A.RST_STATUS])

/-- Reads of the gnomon counter (R345). A read of GN_NOW_LO latches the whole 64-bit count and returns bits [31:0]; a read of GN_NOW_HI
returns bits [63:32] of the last latched count, and 0 where none has been latched since reset: the state of reset has latched 0. -/
def Obligations.CounterReads : Prop :=
  (∀ (s : State), s.link.up = true →
    ∃ (t : State), exec .gnNowLoRead s = .next t ∧ t.out = s.out ++ [.readData A.GN_NOW_LO (word s.count)]
      ∧ t.gn = { s.gn with latch := s.count } ∧ { t with out := s.out, gn := s.gn } = s)
  ∧ (∀ (s : State), s.link.up = true → s.fabricWait A.GN_NOW_HI = none →
    ∃ (t : State), exec (.regReadClear 0 A.GN_NOW_HI 0 false) s = .next t
        ∧ t.out = s.out ++ [.readData A.GN_NOW_HI (word (s.gn.latch / 2 ^ 32))]
      ∧ { t with out := s.out, regs := s.regs } = s ∧ s.keepsRegs t [A.GN_NOW_HI])
  ∧ State.reset.gn.latch = 0

/-- An event whose generation would be 8 is not fired: the producer's LOOP is set, DROPPED counts it, and nothing else changes (R394).
So no step of any state whose events in flight have generations 0 to 7 makes one of a higher generation: a loop ends. -/
def Obligations.LoopsEnd : Prop :=
  (∀ (s : State) (p kind gen : Nat) (st : Stamp) (r : Nat), p < 256 → 8 ≤ gen →
    (fireAt p kind gen st r s).rd (A.PR_PSTAT p) F.PR_PSTAT.LOOP = 1
      ∧ (fireAt p kind gen st r s).rd (A.PR_PSTAT p) F.PR_PSTAT.DROPPED
          = min (2 ^ F.PR_PSTAT.DROPPED.width - 1) (s.rd (A.PR_PSTAT p) F.PR_PSTAT.DROPPED + 1)
      ∧ { fireAt p kind gen st r s with regs := s.regs, regs0 := s.regs0 } = s ∧ s.keepsRegs (fireAt p kind gen st r s) [A.PR_PSTAT p])
  ∧ (∀ (s t : State), s.Calm → step s = .next t → t.Calm)

/-- With no command waiting a step lets one FAB cycle of 8 MTC ticks pass and answers a next state. Where no access waits in the fabric,
no site has been used, no calibration runs, no software event is due and no host read waits, that is all it does: the registers and
shadow registers are those that the new cycle counts as standing at its start, and no field has been written in it yet (R12, R13, R112).
That time passes on an empty queue is the model's own choice (log entry 2). -/
def Obligations.IdleCycle : Prop :=
  (∀ (s : State), s.pending = [] → ∃ (t : State), step s = .next t ∧ t.pending = [] ∧ t.now = s.now + 8)
  ∧ (∀ (s : State), s.pending = [] → s.rst.fabric = [] → s.sites = [] → (∀ (d : Nat), d < 4 → s.calJob d = none) →
      (∀ x ∈ s.prism.later, s.now + 8 < x.1) →
    s.place.reads = [] →
    step s = .next { keepPast s with
      now := s.now + 8
      regs0 := s.regs
      shadow0 := s.shadow
      fab := [] })

/-- The state of reset is the power-on reset (R447, R449): every register holds its reset value but for RST_STATUS, which shows the
power-on source asserted and latched with reach 4, and LENS_STATUS, which shows FAULT_N asserted (R407); no command waits, no site, key,
session, command or event stands. It has the two invariants below. Where the spec states no reset value the value is the model's choice
(log entries 3 and 8). -/
def Obligations.ResetState : Prop :=
  State.reset.Tabled ∧ State.reset.Calm ∧ State.reset.pending = [] ∧ State.reset.assertedNow = [0]
  ∧ State.reset.rd A.RST_STATUS F.RST_STATUS.ASSERTED = 1 ∧ State.reset.rd A.RST_STATUS F.RST_STATUS.REACH = 4
  ∧ State.reset.rd A.LENS_STATUS F.LENS_STATUS.FAULT_N = 1
  ∧ (∀ (a : Nat), a ≠ A.RST_STATUS → a ≠ A.LENS_STATUS → State.reset.reg a = resetWord a)
  ∧ (∀ (a : Nat), State.reset.shd a = resetWord a)
  ∧ (∀ (k : Nat), (State.reset.keySlot k).state = .blank) ∧ (∀ (q : Nat), (State.reset.ring q).session = none
      ∧ (State.reset.ring q).run = none)
  ∧ (∀ (i : Nat), i < 16 → State.reset.formed i = false)

/-- Every step keeps the register tables in their canonical form, so that equal register contents are equal data: addresses rise, no
entry equals what an unlisted address reads as, and a captured timing bank holds no such entry. -/
def Obligations.StepKeepsTables : Prop :=
  ∀ (s t : State), s.Tabled → step s = .next t → t.Tabled

/-- No command changes the queue of waiting commands or the clock, which the model moves between commands (log entries 1 and 2); and the
key slots, which stand in fuses, change their state by KEY_PROVISION and KEY_REVOKE alone: no other command, event or reset provisions,
revokes or gives a key, though the completion of KEY_REVOKE takes the key away (R101, R102). -/
def Obligations.WholeMachineFrame : Prop :=
  (∀ (i : Instr) (s t : State), exec i s = .next t → t.pending = s.pending ∧ t.now = s.now)
  ∧ (∀ (i : Instr) (s t : State), (∀ (q : Nat) (b : Bool), i ≠ .keyProvision q b) → (∀ (q : Nat) (b : Bool), i ≠ .keyRevoke q b) →
      exec i s = .next t →
    ∀ (k : Nat), (t.keySlot k).state = (s.keySlot k).state ∧ ((t.keySlot k).key = (s.keySlot k).key ∨ (t.keySlot k).key = []))
end

