-- ==== Sys2Proof/Laws/Bits.lean ====
section
/-! SUPPORT. Bit fields of a word: a field reads what was written to it, and a write leaves every other field alone. -/

namespace Sys2Proof.Machine

/-- The field lies in the word. -/
abbrev Fld.ok (f : Fld) : Prop := f.lsb + f.width ≤ 32

/-- Two fields share no bit. -/
abbrev Fld.apart (f g : Fld) : Prop := f.lsb + f.width ≤ g.lsb ∨ g.lsb + g.width ≤ f.lsb

theorem fget_fset_same (w : Word) (f : Fld) (v : Nat) (h : f.ok) : fget (fset w f v) f = v % 2 ^ f.width := by
  have : (fset w f v).extractLsb' f.lsb f.width = BitVec.ofNat f.width v := by
    apply BitVec.eq_of_getLsbD_eq
    intro i hi
    have h1 : f.lsb + i < 32 := by unfold Fld.ok at h; omega
    simp [fset, fmask, hi, h1, show ¬ f.lsb + i < f.lsb by omega]
  unfold fget
  rw [this, BitVec.toNat_ofNat]

theorem fget_fset_apart (w : Word) (f g : Fld) (v : Nat) (h : f.apart g) : fget (fset w f v) g = fget w g := by
  have : (fset w f v).extractLsb' g.lsb g.width = w.extractLsb' g.lsb g.width := by
    apply BitVec.eq_of_getLsbD_eq
    intro i hi
    unfold Fld.apart at h
    by_cases h1 : g.lsb + i < 32
    · by_cases h2 : g.lsb + i < f.lsb
      · simp [fset, fmask, hi, h1, h2]
      · have h3 : ¬ g.lsb + i - f.lsb < f.width := by omega
        have h4 : f.width ≤ g.lsb + i - f.lsb := by omega
        simp [fset, fmask, hi, h1, h2, BitVec.getLsbD_of_ge _ _ h4]
    · simp [hi, BitVec.getLsbD_of_ge _ _ (Nat.not_lt.1 h1)]
  unfold fget
  rw [this]

/-- A field is below two to its width. -/
theorem fget_lt (w : Word) (f : Fld) : fget w f < 2 ^ f.width := BitVec.isLt _

end Sys2Proof.Machine
end

