-- ==== Sys2Proof/Laws/Map.lean ====
section
/-! SUPPORT. What the sparse tables do: a read after a write, and the canonical form that every operation keeps. -/

namespace Sys2Proof.Machine

variable {α : Type}

@[simp] theorem kget_nil (d : Nat → α) (k : Nat) : kget d [] k = d k := rfl

@[simp] theorem kget_kins_same (d : Nat → α) (m : KMap α) (k : Nat) (v : α) : kget d (kins m k v) k = v := by
  induction m with
  | nil => simp [kins, kget]
  | cons p m ih =>
    unfold kins
    split
    · simp [kget]
    · split
      · simp [kget]
      · rename_i h1 h2
        simp [kget, h2, ih]

theorem kget_kins_ne (d : Nat → α) (m : KMap α) {k j : Nat} (v : α) (h : j ≠ k) :
    kget d (kins m k v) j = kget d m j := by
  induction m with
  | nil => simp [kins, kget, h]
  | cons p m ih =>
    unfold kins
    split
    · simp [kget, h]
    · split
      · rename_i h1 h2
        subst h2
        simp [kget, h]
      · simp [kget, ih]

@[simp] theorem kget_kdel_same (d : Nat → α) (m : KMap α) (k : Nat) : kget d (kdel m k) k = d k := by
  induction m with
  | nil => rfl
  | cons p m ih =>
    unfold kdel at *
    rw [List.filter_cons]
    split
    · rename_i h
      have h' : ¬ k = p.1 := fun e => of_decide_eq_true h e.symm
      simp only [kget, h', if_false]
      exact ih
    · exact ih

theorem kget_kdel_ne (d : Nat → α) (m : KMap α) {k j : Nat} (h : j ≠ k) : kget d (kdel m k) j = kget d m j := by
  induction m with
  | nil => rfl
  | cons p m ih =>
    unfold kdel at *
    rw [List.filter_cons]
    split
    · simp only [kget]
      split
      · rfl
      · exact ih
    · rename_i h1
      have h2 : p.1 = k := by simpa using h1
      have h3 : ¬ j = p.1 := by rw [h2]; exact h
      simp only [kget, h3, if_false]
      exact ih

variable [DecidableEq α]

/-- A read after a write to the same key gives the value written. -/
@[simp] theorem kget_kset_same (d : Nat → α) (m : KMap α) (k : Nat) (v : α) : kget d (kset d m k v) k = v := by
  unfold kset
  split
  · rename_i h
    simp [h]
  · simp

/-- A write leaves every other key alone. -/
theorem kget_kset_ne (d : Nat → α) (m : KMap α) {k j : Nat} (v : α) (h : j ≠ k) :
    kget d (kset d m k v) j = kget d m j := by
  unfold kset
  split
  · exact kget_kdel_ne d m h
  · exact kget_kins_ne d m v h

/-- What a key reads after a write. -/
theorem kget_kset (d : Nat → α) (m : KMap α) (k j : Nat) (v : α) :
    kget d (kset d m k v) j = if j = k then v else kget d m j := by
  split
  · rename_i h; subst h; simp
  · rename_i h; exact kget_kset_ne d m v h

omit [DecidableEq α] in
theorem kins_mem {m : KMap α} {k : Nat} {v : α} {p : Nat × α} (h : p ∈ kins m k v) : p = (k, v) ∨ p ∈ m := by
  induction m with
  | nil => simpa [kins] using h
  | cons q m ih =>
    unfold kins at h
    split at h
    · rcases List.mem_cons.1 h with h | h
      · exact .inl h
      · exact .inr h
    · split at h
      · rcases List.mem_cons.1 h with h | h
        · exact .inl h
        · exact .inr (List.mem_cons_of_mem _ h)
      · rcases List.mem_cons.1 h with h | h
        · exact .inr (h ▸ List.mem_cons_self ..)
        · rcases ih h with h | h
          · exact .inl h
          · exact .inr (List.mem_cons_of_mem _ h)

omit [DecidableEq α] in
theorem kins_sorted {m : KMap α} (k : Nat) (v : α) (h : m.Pairwise (fun p q => p.1 < q.1)) :
    (kins m k v).Pairwise (fun p q => p.1 < q.1) := by
  induction m with
  | nil => simp [kins]
  | cons p m ih =>
    have hp := List.pairwise_cons.1 h
    unfold kins
    split
    · rename_i hk
      refine List.pairwise_cons.2 ⟨fun q hq => ?_, h⟩
      rcases List.mem_cons.1 hq with hq | hq
      · simpa [hq] using hk
      · exact Nat.lt_trans hk (hp.1 q hq)
    · split
      · rename_i hk
        exact List.pairwise_cons.2 ⟨fun q hq => by simpa [hk] using hp.1 q hq, hp.2⟩
      · rename_i h1 h2
        refine List.pairwise_cons.2 ⟨fun q hq => ?_, ih hp.2⟩
        rcases kins_mem hq with hq | hq
        · subst hq; exact Nat.lt_of_le_of_ne (Nat.not_lt.1 h1) (fun e => h2 e.symm)
        · exact hp.1 q hq

omit [DecidableEq α] in
/-- Listing a key at a value that is not its unlisted reading keeps the canonical form. -/
theorem kins_wf {d : Nat → α} {m : KMap α} {k : Nat} {v : α} (hv : v ≠ d k) (h : KWf d m) : KWf d (kins m k v) :=
  ⟨kins_sorted k v h.1, fun p hp => by
    rcases kins_mem hp with hp | hp
    · subst hp; exact hv
    · exact h.2 p hp⟩

omit [DecidableEq α] in
/-- Keeping some entries keeps the canonical form. -/
theorem filter_wf {d : Nat → α} {m : KMap α} (f : Nat × α → Bool) (h : KWf d m) : KWf d (m.filter f) :=
  ⟨h.1.filter f, fun p hp => h.2 p (List.mem_filter.1 hp).1⟩

omit [DecidableEq α] in
theorem kdel_wf {d : Nat → α} {m : KMap α} (k : Nat) (h : KWf d m) : KWf d (kdel m k) := filter_wf _ h

/-- A write keeps the canonical form. -/
theorem kset_wf {d : Nat → α} {m : KMap α} (k : Nat) (v : α) (h : KWf d m) : KWf d (kset d m k v) := by
  unfold kset
  split
  · exact kdel_wf k h
  · rename_i hv; exact kins_wf hv h

theorem kmap_mem {d : Nat → α} {f : Nat → α → α} {m : KMap α} {p : Nat × α} (h : p ∈ kmap d f m) :
    p.2 ≠ d p.1 ∧ ∃ v, (p.1, v) ∈ m := by
  unfold kmap at h
  obtain ⟨q, hq, he⟩ := List.mem_filterMap.1 h
  split at he
  · cases he
  · rename_i hn
    cases he
    exact ⟨hn, q.2, hq⟩

/-- A change of every value keeps the canonical form. -/
theorem kmap_wf {d : Nat → α} {m : KMap α} (f : Nat → α → α) (h : KWf d m) : KWf d (kmap d f m) := by
  refine ⟨?_, fun p hp => (kmap_mem hp).1⟩
  have h1 := h.1
  clear h
  induction m with
  | nil => simp [kmap]
  | cons q m ih =>
    have hq := List.pairwise_cons.1 h1
    have hr : kmap d f (q :: m) = (if f q.1 q.2 = d q.1 then kmap d f m else (q.1, f q.1 q.2) :: kmap d f m) := by
      unfold kmap
      rw [List.filterMap_cons]
      split <;> rename_i he <;> split at he <;> simp_all
    rw [hr]
    split
    · exact ih hq.2
    · refine List.pairwise_cons.2 ⟨fun p hp => ?_, ih hq.2⟩
      obtain ⟨-, v, hv⟩ := kmap_mem hp
      exact hq.1 (p.1, v) hv

omit [DecidableEq α] in
/-- An entry of a table with a key listed is that entry or an old one. -/
theorem mem_kins {m : KMap α} {k : Nat} {v : α} {p : Nat × α} (h : p ∈ kins m k v) : p = (k, v) ∨ p ∈ m := by
  induction m with
  | nil => simpa [kins] using h
  | cons r m ih =>
    unfold kins at h
    split at h
    · simpa using h
    · split at h
      · rcases List.mem_cons.1 h with h | h
        · exact .inl h
        · exact .inr (List.mem_cons_of_mem _ h)
      · rcases List.mem_cons.1 h with h | h
        · exact .inr (h ▸ List.mem_cons_self ..)
        · exact (ih h).imp id (List.mem_cons_of_mem _)

/-- A table does not differ from itself. -/
theorem kdiff_self (n : Nat) (m : KMap α) : kdiff n m m = [] := by
  induction n generalizing m with
  | zero => rfl
  | succ n ih =>
    cases m with
    | nil => simp [kdiff]
    | cons p m => simp [kdiff, ih]

@[simp] theorem kchanged_self (m : KMap α) : kchanged m m = [] := kdiff_self _ m

end Sys2Proof.Machine
end

