-- ==== Sys2Proof/Laws/State.lean ====
section
/-! SUPPORT. The updates of State: what each leaves unchanged, field by field and read by read, and what a register, a field, a
ring or a unit reads after one. -/

namespace Sys2Proof.Machine

/-! ## Fields that an update leaves unchanged -/

/-- `setReg` changes `regs` only. -/
@[simp] theorem setReg_frame (a : Nat) (w : Word) (s : State) :
    (setReg a w s).now = s.now ∧ (setReg a w s).fresh = s.fresh ∧ (setReg a w s).pending = s.pending
    ∧ (setReg a w s).out = s.out ∧ (setReg a w s).shadow = s.shadow ∧ (setReg a w s).regs0 = s.regs0
    ∧ (setReg a w s).shadow0 = s.shadow0 ∧ (setReg a w s).fab = s.fab ∧ (setReg a w s).past = s.past
    ∧ (setReg a w s).saves = s.saves ∧ (setReg a w s).link = s.link ∧ (setReg a w s).rings = s.rings
    ∧ (setReg a w s).keys = s.keys ∧ (setReg a w s).prism = s.prism ∧ (setReg a w s).lens = s.lens
    ∧ (setReg a w s).power = s.power ∧ (setReg a w s).clocks = s.clocks ∧ (setReg a w s).place = s.place
    ∧ (setReg a w s).tiles = s.tiles ∧ (setReg a w s).sites = s.sites ∧ (setReg a w s).pins = s.pins
    ∧ (setReg a w s).levels = s.levels ∧ (setReg a w s).aw = s.aw ∧ (setReg a w s).wm = s.wm ∧ (setReg a w s).pg = s.pg
    ∧ (setReg a w s).aq = s.aq ∧ (setReg a w s).tu = s.tu ∧ (setReg a w s).results = s.results ∧ (setReg a w s).cal = s.cal
    ∧ (setReg a w s).micro = s.micro ∧ (setReg a w s).rst = s.rst ∧ (setReg a w s).fuses = s.fuses
    ∧ (setReg a w s).flash = s.flash ∧ (setReg a w s).svc = s.svc ∧ (setReg a w s).tap = s.tap ∧ (setReg a w s).gn = s.gn
    ∧ (setReg a w s).xr = s.xr := by
  repeat' constructor

/-- `setShd` changes `shadow` only. -/
@[simp] theorem setShd_frame (a : Nat) (w : Word) (s : State) :
    (setShd a w s).now = s.now ∧ (setShd a w s).fresh = s.fresh ∧ (setShd a w s).pending = s.pending
    ∧ (setShd a w s).out = s.out ∧ (setShd a w s).regs = s.regs ∧ (setShd a w s).regs0 = s.regs0
    ∧ (setShd a w s).shadow0 = s.shadow0 ∧ (setShd a w s).fab = s.fab ∧ (setShd a w s).past = s.past
    ∧ (setShd a w s).saves = s.saves ∧ (setShd a w s).link = s.link ∧ (setShd a w s).rings = s.rings
    ∧ (setShd a w s).keys = s.keys ∧ (setShd a w s).prism = s.prism ∧ (setShd a w s).lens = s.lens
    ∧ (setShd a w s).power = s.power ∧ (setShd a w s).clocks = s.clocks ∧ (setShd a w s).place = s.place
    ∧ (setShd a w s).tiles = s.tiles ∧ (setShd a w s).sites = s.sites ∧ (setShd a w s).pins = s.pins
    ∧ (setShd a w s).levels = s.levels ∧ (setShd a w s).aw = s.aw ∧ (setShd a w s).wm = s.wm ∧ (setShd a w s).pg = s.pg
    ∧ (setShd a w s).aq = s.aq ∧ (setShd a w s).tu = s.tu ∧ (setShd a w s).results = s.results ∧ (setShd a w s).cal = s.cal
    ∧ (setShd a w s).micro = s.micro ∧ (setShd a w s).rst = s.rst ∧ (setShd a w s).fuses = s.fuses
    ∧ (setShd a w s).flash = s.flash ∧ (setShd a w s).svc = s.svc ∧ (setShd a w s).tap = s.tap ∧ (setShd a w s).gn = s.gn
    ∧ (setShd a w s).xr = s.xr := by
  repeat' constructor

/-- `wr` changes `regs` only. -/
@[simp] theorem wr_frame (a : Nat) (f : Fld) (v : Nat) (s : State) :
    (wr a f v s).now = s.now ∧ (wr a f v s).fresh = s.fresh ∧ (wr a f v s).pending = s.pending ∧ (wr a f v s).out = s.out
    ∧ (wr a f v s).shadow = s.shadow ∧ (wr a f v s).regs0 = s.regs0 ∧ (wr a f v s).shadow0 = s.shadow0
    ∧ (wr a f v s).fab = s.fab ∧ (wr a f v s).past = s.past ∧ (wr a f v s).saves = s.saves ∧ (wr a f v s).link = s.link
    ∧ (wr a f v s).rings = s.rings ∧ (wr a f v s).keys = s.keys ∧ (wr a f v s).prism = s.prism ∧ (wr a f v s).lens = s.lens
    ∧ (wr a f v s).power = s.power ∧ (wr a f v s).clocks = s.clocks ∧ (wr a f v s).place = s.place
    ∧ (wr a f v s).tiles = s.tiles ∧ (wr a f v s).sites = s.sites ∧ (wr a f v s).pins = s.pins
    ∧ (wr a f v s).levels = s.levels ∧ (wr a f v s).aw = s.aw ∧ (wr a f v s).wm = s.wm ∧ (wr a f v s).pg = s.pg
    ∧ (wr a f v s).aq = s.aq ∧ (wr a f v s).tu = s.tu ∧ (wr a f v s).results = s.results ∧ (wr a f v s).cal = s.cal
    ∧ (wr a f v s).micro = s.micro ∧ (wr a f v s).rst = s.rst ∧ (wr a f v s).fuses = s.fuses ∧ (wr a f v s).flash = s.flash
    ∧ (wr a f v s).svc = s.svc ∧ (wr a f v s).tap = s.tap ∧ (wr a f v s).gn = s.gn ∧ (wr a f v s).xr = s.xr := by
  repeat' constructor

/-- `wrS` changes `shadow` only. -/
@[simp] theorem wrS_frame (a : Nat) (f : Fld) (v : Nat) (s : State) :
    (wrS a f v s).now = s.now ∧ (wrS a f v s).fresh = s.fresh ∧ (wrS a f v s).pending = s.pending ∧ (wrS a f v s).out = s.out
    ∧ (wrS a f v s).regs = s.regs ∧ (wrS a f v s).regs0 = s.regs0 ∧ (wrS a f v s).shadow0 = s.shadow0
    ∧ (wrS a f v s).fab = s.fab ∧ (wrS a f v s).past = s.past ∧ (wrS a f v s).saves = s.saves ∧ (wrS a f v s).link = s.link
    ∧ (wrS a f v s).rings = s.rings ∧ (wrS a f v s).keys = s.keys ∧ (wrS a f v s).prism = s.prism
    ∧ (wrS a f v s).lens = s.lens ∧ (wrS a f v s).power = s.power ∧ (wrS a f v s).clocks = s.clocks
    ∧ (wrS a f v s).place = s.place ∧ (wrS a f v s).tiles = s.tiles ∧ (wrS a f v s).sites = s.sites
    ∧ (wrS a f v s).pins = s.pins ∧ (wrS a f v s).levels = s.levels ∧ (wrS a f v s).aw = s.aw ∧ (wrS a f v s).wm = s.wm
    ∧ (wrS a f v s).pg = s.pg ∧ (wrS a f v s).aq = s.aq ∧ (wrS a f v s).tu = s.tu ∧ (wrS a f v s).results = s.results
    ∧ (wrS a f v s).cal = s.cal ∧ (wrS a f v s).micro = s.micro ∧ (wrS a f v s).rst = s.rst ∧ (wrS a f v s).fuses = s.fuses
    ∧ (wrS a f v s).flash = s.flash ∧ (wrS a f v s).svc = s.svc ∧ (wrS a f v s).tap = s.tap ∧ (wrS a f v s).gn = s.gn
    ∧ (wrS a f v s).xr = s.xr := by
  repeat' constructor

/-- `wrBoth` changes `regs` and `shadow` only. -/
@[simp] theorem wrBoth_frame (a : Nat) (f : Fld) (v : Nat) (s : State) :
    (wrBoth a f v s).now = s.now ∧ (wrBoth a f v s).fresh = s.fresh ∧ (wrBoth a f v s).pending = s.pending
    ∧ (wrBoth a f v s).out = s.out ∧ (wrBoth a f v s).regs0 = s.regs0 ∧ (wrBoth a f v s).shadow0 = s.shadow0
    ∧ (wrBoth a f v s).fab = s.fab ∧ (wrBoth a f v s).past = s.past ∧ (wrBoth a f v s).saves = s.saves
    ∧ (wrBoth a f v s).link = s.link ∧ (wrBoth a f v s).rings = s.rings ∧ (wrBoth a f v s).keys = s.keys
    ∧ (wrBoth a f v s).prism = s.prism ∧ (wrBoth a f v s).lens = s.lens ∧ (wrBoth a f v s).power = s.power
    ∧ (wrBoth a f v s).clocks = s.clocks ∧ (wrBoth a f v s).place = s.place ∧ (wrBoth a f v s).tiles = s.tiles
    ∧ (wrBoth a f v s).sites = s.sites ∧ (wrBoth a f v s).pins = s.pins ∧ (wrBoth a f v s).levels = s.levels
    ∧ (wrBoth a f v s).aw = s.aw ∧ (wrBoth a f v s).wm = s.wm ∧ (wrBoth a f v s).pg = s.pg ∧ (wrBoth a f v s).aq = s.aq
    ∧ (wrBoth a f v s).tu = s.tu ∧ (wrBoth a f v s).results = s.results ∧ (wrBoth a f v s).cal = s.cal
    ∧ (wrBoth a f v s).micro = s.micro ∧ (wrBoth a f v s).rst = s.rst ∧ (wrBoth a f v s).fuses = s.fuses
    ∧ (wrBoth a f v s).flash = s.flash ∧ (wrBoth a f v s).svc = s.svc ∧ (wrBoth a f v s).tap = s.tap
    ∧ (wrBoth a f v s).gn = s.gn ∧ (wrBoth a f v s).xr = s.xr := by
  repeat' constructor

/-- `raiseBits` changes `regs` and `regs0` only. -/
@[simp] theorem raiseBits_frame (a : Nat) (f : Fld) (m : Nat) (s : State) :
    (raiseBits a f m s).now = s.now ∧ (raiseBits a f m s).fresh = s.fresh ∧ (raiseBits a f m s).pending = s.pending
    ∧ (raiseBits a f m s).out = s.out ∧ (raiseBits a f m s).shadow = s.shadow ∧ (raiseBits a f m s).shadow0 = s.shadow0
    ∧ (raiseBits a f m s).fab = s.fab ∧ (raiseBits a f m s).past = s.past ∧ (raiseBits a f m s).saves = s.saves
    ∧ (raiseBits a f m s).link = s.link ∧ (raiseBits a f m s).rings = s.rings ∧ (raiseBits a f m s).keys = s.keys
    ∧ (raiseBits a f m s).prism = s.prism ∧ (raiseBits a f m s).lens = s.lens ∧ (raiseBits a f m s).power = s.power
    ∧ (raiseBits a f m s).clocks = s.clocks ∧ (raiseBits a f m s).place = s.place ∧ (raiseBits a f m s).tiles = s.tiles
    ∧ (raiseBits a f m s).sites = s.sites ∧ (raiseBits a f m s).pins = s.pins ∧ (raiseBits a f m s).levels = s.levels
    ∧ (raiseBits a f m s).aw = s.aw ∧ (raiseBits a f m s).wm = s.wm ∧ (raiseBits a f m s).pg = s.pg
    ∧ (raiseBits a f m s).aq = s.aq ∧ (raiseBits a f m s).tu = s.tu ∧ (raiseBits a f m s).results = s.results
    ∧ (raiseBits a f m s).cal = s.cal ∧ (raiseBits a f m s).micro = s.micro ∧ (raiseBits a f m s).rst = s.rst
    ∧ (raiseBits a f m s).fuses = s.fuses ∧ (raiseBits a f m s).flash = s.flash ∧ (raiseBits a f m s).svc = s.svc
    ∧ (raiseBits a f m s).tap = s.tap ∧ (raiseBits a f m s).gn = s.gn ∧ (raiseBits a f m s).xr = s.xr := by
  repeat' constructor

/-- `raise` changes `regs` and `regs0` only. -/
@[simp] theorem raise_frame (a : Nat) (f : Fld) (s : State) :
    (raise a f s).now = s.now ∧ (raise a f s).fresh = s.fresh ∧ (raise a f s).pending = s.pending ∧ (raise a f s).out = s.out
    ∧ (raise a f s).shadow = s.shadow ∧ (raise a f s).shadow0 = s.shadow0 ∧ (raise a f s).fab = s.fab
    ∧ (raise a f s).past = s.past ∧ (raise a f s).saves = s.saves ∧ (raise a f s).link = s.link
    ∧ (raise a f s).rings = s.rings ∧ (raise a f s).keys = s.keys ∧ (raise a f s).prism = s.prism
    ∧ (raise a f s).lens = s.lens ∧ (raise a f s).power = s.power ∧ (raise a f s).clocks = s.clocks
    ∧ (raise a f s).place = s.place ∧ (raise a f s).tiles = s.tiles ∧ (raise a f s).sites = s.sites
    ∧ (raise a f s).pins = s.pins ∧ (raise a f s).levels = s.levels ∧ (raise a f s).aw = s.aw ∧ (raise a f s).wm = s.wm
    ∧ (raise a f s).pg = s.pg ∧ (raise a f s).aq = s.aq ∧ (raise a f s).tu = s.tu ∧ (raise a f s).results = s.results
    ∧ (raise a f s).cal = s.cal ∧ (raise a f s).micro = s.micro ∧ (raise a f s).rst = s.rst ∧ (raise a f s).fuses = s.fuses
    ∧ (raise a f s).flash = s.flash ∧ (raise a f s).svc = s.svc ∧ (raise a f s).tap = s.tap ∧ (raise a f s).gn = s.gn
    ∧ (raise a f s).xr = s.xr := by
  repeat' constructor

/-- `clearBits` changes `regs` only. -/
@[simp] theorem clearBits_frame (a : Nat) (f : Fld) (v : Nat) (s : State) :
    (clearBits a f v s).now = s.now ∧ (clearBits a f v s).fresh = s.fresh ∧ (clearBits a f v s).pending = s.pending
    ∧ (clearBits a f v s).out = s.out ∧ (clearBits a f v s).shadow = s.shadow ∧ (clearBits a f v s).regs0 = s.regs0
    ∧ (clearBits a f v s).shadow0 = s.shadow0 ∧ (clearBits a f v s).fab = s.fab ∧ (clearBits a f v s).past = s.past
    ∧ (clearBits a f v s).saves = s.saves ∧ (clearBits a f v s).link = s.link ∧ (clearBits a f v s).rings = s.rings
    ∧ (clearBits a f v s).keys = s.keys ∧ (clearBits a f v s).prism = s.prism ∧ (clearBits a f v s).lens = s.lens
    ∧ (clearBits a f v s).power = s.power ∧ (clearBits a f v s).clocks = s.clocks ∧ (clearBits a f v s).place = s.place
    ∧ (clearBits a f v s).tiles = s.tiles ∧ (clearBits a f v s).sites = s.sites ∧ (clearBits a f v s).pins = s.pins
    ∧ (clearBits a f v s).levels = s.levels ∧ (clearBits a f v s).aw = s.aw ∧ (clearBits a f v s).wm = s.wm
    ∧ (clearBits a f v s).pg = s.pg ∧ (clearBits a f v s).aq = s.aq ∧ (clearBits a f v s).tu = s.tu
    ∧ (clearBits a f v s).results = s.results ∧ (clearBits a f v s).cal = s.cal ∧ (clearBits a f v s).micro = s.micro
    ∧ (clearBits a f v s).rst = s.rst ∧ (clearBits a f v s).fuses = s.fuses ∧ (clearBits a f v s).flash = s.flash
    ∧ (clearBits a f v s).svc = s.svc ∧ (clearBits a f v s).tap = s.tap ∧ (clearBits a f v s).gn = s.gn
    ∧ (clearBits a f v s).xr = s.xr := by
  repeat' constructor

/-- `rcClear` changes `regs` and `regs0` only. -/
@[simp] theorem rcClear_frame (a : Nat) (f : Fld) (v : Nat) (s : State) :
    (rcClear a f v s).now = s.now ∧ (rcClear a f v s).fresh = s.fresh ∧ (rcClear a f v s).pending = s.pending
    ∧ (rcClear a f v s).out = s.out ∧ (rcClear a f v s).shadow = s.shadow ∧ (rcClear a f v s).shadow0 = s.shadow0
    ∧ (rcClear a f v s).fab = s.fab ∧ (rcClear a f v s).past = s.past ∧ (rcClear a f v s).saves = s.saves
    ∧ (rcClear a f v s).link = s.link ∧ (rcClear a f v s).rings = s.rings ∧ (rcClear a f v s).keys = s.keys
    ∧ (rcClear a f v s).prism = s.prism ∧ (rcClear a f v s).lens = s.lens ∧ (rcClear a f v s).power = s.power
    ∧ (rcClear a f v s).clocks = s.clocks ∧ (rcClear a f v s).place = s.place ∧ (rcClear a f v s).tiles = s.tiles
    ∧ (rcClear a f v s).sites = s.sites ∧ (rcClear a f v s).pins = s.pins ∧ (rcClear a f v s).levels = s.levels
    ∧ (rcClear a f v s).aw = s.aw ∧ (rcClear a f v s).wm = s.wm ∧ (rcClear a f v s).pg = s.pg ∧ (rcClear a f v s).aq = s.aq
    ∧ (rcClear a f v s).tu = s.tu ∧ (rcClear a f v s).results = s.results ∧ (rcClear a f v s).cal = s.cal
    ∧ (rcClear a f v s).micro = s.micro ∧ (rcClear a f v s).rst = s.rst ∧ (rcClear a f v s).fuses = s.fuses
    ∧ (rcClear a f v s).flash = s.flash ∧ (rcClear a f v s).svc = s.svc ∧ (rcClear a f v s).tap = s.tap
    ∧ (rcClear a f v s).gn = s.gn ∧ (rcClear a f v s).xr = s.xr := by
  repeat' constructor

/-- `markWrites` changes `fab` only. -/
@[simp] theorem markWrites_frame (u : State) (s : State) :
    (markWrites u s).now = s.now ∧ (markWrites u s).fresh = s.fresh ∧ (markWrites u s).pending = s.pending
    ∧ (markWrites u s).out = s.out ∧ (markWrites u s).regs = s.regs ∧ (markWrites u s).shadow = s.shadow
    ∧ (markWrites u s).regs0 = s.regs0 ∧ (markWrites u s).shadow0 = s.shadow0 ∧ (markWrites u s).past = s.past
    ∧ (markWrites u s).saves = s.saves ∧ (markWrites u s).link = s.link ∧ (markWrites u s).rings = s.rings
    ∧ (markWrites u s).keys = s.keys ∧ (markWrites u s).prism = s.prism ∧ (markWrites u s).lens = s.lens
    ∧ (markWrites u s).power = s.power ∧ (markWrites u s).clocks = s.clocks ∧ (markWrites u s).place = s.place
    ∧ (markWrites u s).tiles = s.tiles ∧ (markWrites u s).sites = s.sites ∧ (markWrites u s).pins = s.pins
    ∧ (markWrites u s).levels = s.levels ∧ (markWrites u s).aw = s.aw ∧ (markWrites u s).wm = s.wm
    ∧ (markWrites u s).pg = s.pg ∧ (markWrites u s).aq = s.aq ∧ (markWrites u s).tu = s.tu
    ∧ (markWrites u s).results = s.results ∧ (markWrites u s).cal = s.cal ∧ (markWrites u s).micro = s.micro
    ∧ (markWrites u s).rst = s.rst ∧ (markWrites u s).fuses = s.fuses ∧ (markWrites u s).flash = s.flash
    ∧ (markWrites u s).svc = s.svc ∧ (markWrites u s).tap = s.tap ∧ (markWrites u s).gn = s.gn ∧ (markWrites u s).xr = s.xr := by
  repeat' constructor

/-- `holdAccess` changes `rst` only. -/
@[simp] theorem holdAccess_frame (u : Nat) (c : Instr) (s : State) :
    (holdAccess u c s).now = s.now ∧ (holdAccess u c s).fresh = s.fresh ∧ (holdAccess u c s).pending = s.pending
    ∧ (holdAccess u c s).out = s.out ∧ (holdAccess u c s).regs = s.regs ∧ (holdAccess u c s).shadow = s.shadow
    ∧ (holdAccess u c s).regs0 = s.regs0 ∧ (holdAccess u c s).shadow0 = s.shadow0 ∧ (holdAccess u c s).fab = s.fab
    ∧ (holdAccess u c s).past = s.past ∧ (holdAccess u c s).saves = s.saves ∧ (holdAccess u c s).link = s.link
    ∧ (holdAccess u c s).rings = s.rings ∧ (holdAccess u c s).keys = s.keys ∧ (holdAccess u c s).prism = s.prism
    ∧ (holdAccess u c s).lens = s.lens ∧ (holdAccess u c s).power = s.power ∧ (holdAccess u c s).clocks = s.clocks
    ∧ (holdAccess u c s).place = s.place ∧ (holdAccess u c s).tiles = s.tiles ∧ (holdAccess u c s).sites = s.sites
    ∧ (holdAccess u c s).pins = s.pins ∧ (holdAccess u c s).levels = s.levels ∧ (holdAccess u c s).aw = s.aw
    ∧ (holdAccess u c s).wm = s.wm ∧ (holdAccess u c s).pg = s.pg ∧ (holdAccess u c s).aq = s.aq
    ∧ (holdAccess u c s).tu = s.tu ∧ (holdAccess u c s).results = s.results ∧ (holdAccess u c s).cal = s.cal
    ∧ (holdAccess u c s).micro = s.micro ∧ (holdAccess u c s).fuses = s.fuses ∧ (holdAccess u c s).flash = s.flash
    ∧ (holdAccess u c s).svc = s.svc ∧ (holdAccess u c s).tap = s.tap ∧ (holdAccess u c s).gn = s.gn
    ∧ (holdAccess u c s).xr = s.xr := by
  repeat' constructor

/-- `applyReg` changes `regs` only. -/
@[simp] theorem applyReg_frame (a : Nat) (s : State) :
    (applyReg a s).now = s.now ∧ (applyReg a s).fresh = s.fresh ∧ (applyReg a s).pending = s.pending
    ∧ (applyReg a s).out = s.out ∧ (applyReg a s).shadow = s.shadow ∧ (applyReg a s).regs0 = s.regs0
    ∧ (applyReg a s).shadow0 = s.shadow0 ∧ (applyReg a s).fab = s.fab ∧ (applyReg a s).past = s.past
    ∧ (applyReg a s).saves = s.saves ∧ (applyReg a s).link = s.link ∧ (applyReg a s).rings = s.rings
    ∧ (applyReg a s).keys = s.keys ∧ (applyReg a s).prism = s.prism ∧ (applyReg a s).lens = s.lens
    ∧ (applyReg a s).power = s.power ∧ (applyReg a s).clocks = s.clocks ∧ (applyReg a s).place = s.place
    ∧ (applyReg a s).tiles = s.tiles ∧ (applyReg a s).sites = s.sites ∧ (applyReg a s).pins = s.pins
    ∧ (applyReg a s).levels = s.levels ∧ (applyReg a s).aw = s.aw ∧ (applyReg a s).wm = s.wm ∧ (applyReg a s).pg = s.pg
    ∧ (applyReg a s).aq = s.aq ∧ (applyReg a s).tu = s.tu ∧ (applyReg a s).results = s.results ∧ (applyReg a s).cal = s.cal
    ∧ (applyReg a s).micro = s.micro ∧ (applyReg a s).rst = s.rst ∧ (applyReg a s).fuses = s.fuses
    ∧ (applyReg a s).flash = s.flash ∧ (applyReg a s).svc = s.svc ∧ (applyReg a s).tap = s.tap ∧ (applyReg a s).gn = s.gn
    ∧ (applyReg a s).xr = s.xr := by
  repeat' constructor

/-- `bumpBy` changes `regs` only. -/
@[simp] theorem bumpBy_frame (a : Nat) (f : Fld) (n : Nat) (s : State) :
    (bumpBy a f n s).now = s.now ∧ (bumpBy a f n s).fresh = s.fresh ∧ (bumpBy a f n s).pending = s.pending
    ∧ (bumpBy a f n s).out = s.out ∧ (bumpBy a f n s).shadow = s.shadow ∧ (bumpBy a f n s).regs0 = s.regs0
    ∧ (bumpBy a f n s).shadow0 = s.shadow0 ∧ (bumpBy a f n s).fab = s.fab ∧ (bumpBy a f n s).past = s.past
    ∧ (bumpBy a f n s).saves = s.saves ∧ (bumpBy a f n s).link = s.link ∧ (bumpBy a f n s).rings = s.rings
    ∧ (bumpBy a f n s).keys = s.keys ∧ (bumpBy a f n s).prism = s.prism ∧ (bumpBy a f n s).lens = s.lens
    ∧ (bumpBy a f n s).power = s.power ∧ (bumpBy a f n s).clocks = s.clocks ∧ (bumpBy a f n s).place = s.place
    ∧ (bumpBy a f n s).tiles = s.tiles ∧ (bumpBy a f n s).sites = s.sites ∧ (bumpBy a f n s).pins = s.pins
    ∧ (bumpBy a f n s).levels = s.levels ∧ (bumpBy a f n s).aw = s.aw ∧ (bumpBy a f n s).wm = s.wm
    ∧ (bumpBy a f n s).pg = s.pg ∧ (bumpBy a f n s).aq = s.aq ∧ (bumpBy a f n s).tu = s.tu
    ∧ (bumpBy a f n s).results = s.results ∧ (bumpBy a f n s).cal = s.cal ∧ (bumpBy a f n s).micro = s.micro
    ∧ (bumpBy a f n s).rst = s.rst ∧ (bumpBy a f n s).fuses = s.fuses ∧ (bumpBy a f n s).flash = s.flash
    ∧ (bumpBy a f n s).svc = s.svc ∧ (bumpBy a f n s).tap = s.tap ∧ (bumpBy a f n s).gn = s.gn ∧ (bumpBy a f n s).xr = s.xr := by
  repeat' constructor

/-- `bump` changes `regs` only. -/
@[simp] theorem bump_frame (a : Nat) (f : Fld) (s : State) :
    (bump a f s).now = s.now ∧ (bump a f s).fresh = s.fresh ∧ (bump a f s).pending = s.pending ∧ (bump a f s).out = s.out
    ∧ (bump a f s).shadow = s.shadow ∧ (bump a f s).regs0 = s.regs0 ∧ (bump a f s).shadow0 = s.shadow0
    ∧ (bump a f s).fab = s.fab ∧ (bump a f s).past = s.past ∧ (bump a f s).saves = s.saves ∧ (bump a f s).link = s.link
    ∧ (bump a f s).rings = s.rings ∧ (bump a f s).keys = s.keys ∧ (bump a f s).prism = s.prism ∧ (bump a f s).lens = s.lens
    ∧ (bump a f s).power = s.power ∧ (bump a f s).clocks = s.clocks ∧ (bump a f s).place = s.place
    ∧ (bump a f s).tiles = s.tiles ∧ (bump a f s).sites = s.sites ∧ (bump a f s).pins = s.pins
    ∧ (bump a f s).levels = s.levels ∧ (bump a f s).aw = s.aw ∧ (bump a f s).wm = s.wm ∧ (bump a f s).pg = s.pg
    ∧ (bump a f s).aq = s.aq ∧ (bump a f s).tu = s.tu ∧ (bump a f s).results = s.results ∧ (bump a f s).cal = s.cal
    ∧ (bump a f s).micro = s.micro ∧ (bump a f s).rst = s.rst ∧ (bump a f s).fuses = s.fuses ∧ (bump a f s).flash = s.flash
    ∧ (bump a f s).svc = s.svc ∧ (bump a f s).tap = s.tap ∧ (bump a f s).gn = s.gn ∧ (bump a f s).xr = s.xr := by
  repeat' constructor

/-- `wrPair` changes `regs` only. -/
@[simp] theorem wrPair_frame (lo hi v : Nat) (s : State) :
    (wrPair lo hi v s).now = s.now ∧ (wrPair lo hi v s).fresh = s.fresh ∧ (wrPair lo hi v s).pending = s.pending
    ∧ (wrPair lo hi v s).out = s.out ∧ (wrPair lo hi v s).shadow = s.shadow ∧ (wrPair lo hi v s).regs0 = s.regs0
    ∧ (wrPair lo hi v s).shadow0 = s.shadow0 ∧ (wrPair lo hi v s).fab = s.fab ∧ (wrPair lo hi v s).past = s.past
    ∧ (wrPair lo hi v s).saves = s.saves ∧ (wrPair lo hi v s).link = s.link ∧ (wrPair lo hi v s).rings = s.rings
    ∧ (wrPair lo hi v s).keys = s.keys ∧ (wrPair lo hi v s).prism = s.prism ∧ (wrPair lo hi v s).lens = s.lens
    ∧ (wrPair lo hi v s).power = s.power ∧ (wrPair lo hi v s).clocks = s.clocks ∧ (wrPair lo hi v s).place = s.place
    ∧ (wrPair lo hi v s).tiles = s.tiles ∧ (wrPair lo hi v s).sites = s.sites ∧ (wrPair lo hi v s).pins = s.pins
    ∧ (wrPair lo hi v s).levels = s.levels ∧ (wrPair lo hi v s).aw = s.aw ∧ (wrPair lo hi v s).wm = s.wm
    ∧ (wrPair lo hi v s).pg = s.pg ∧ (wrPair lo hi v s).aq = s.aq ∧ (wrPair lo hi v s).tu = s.tu
    ∧ (wrPair lo hi v s).results = s.results ∧ (wrPair lo hi v s).cal = s.cal ∧ (wrPair lo hi v s).micro = s.micro
    ∧ (wrPair lo hi v s).rst = s.rst ∧ (wrPair lo hi v s).fuses = s.fuses ∧ (wrPair lo hi v s).flash = s.flash
    ∧ (wrPair lo hi v s).svc = s.svc ∧ (wrPair lo hi v s).tap = s.tap ∧ (wrPair lo hi v s).gn = s.gn
    ∧ (wrPair lo hi v s).xr = s.xr := by
  repeat' constructor

/-- `nextFresh` changes `fresh` only. -/
@[simp] theorem nextFresh_frame (s : State) :
    (nextFresh s).now = s.now ∧ (nextFresh s).pending = s.pending ∧ (nextFresh s).out = s.out ∧ (nextFresh s).regs = s.regs
    ∧ (nextFresh s).shadow = s.shadow ∧ (nextFresh s).regs0 = s.regs0 ∧ (nextFresh s).shadow0 = s.shadow0
    ∧ (nextFresh s).fab = s.fab ∧ (nextFresh s).past = s.past ∧ (nextFresh s).saves = s.saves ∧ (nextFresh s).link = s.link
    ∧ (nextFresh s).rings = s.rings ∧ (nextFresh s).keys = s.keys ∧ (nextFresh s).prism = s.prism
    ∧ (nextFresh s).lens = s.lens ∧ (nextFresh s).power = s.power ∧ (nextFresh s).clocks = s.clocks
    ∧ (nextFresh s).place = s.place ∧ (nextFresh s).tiles = s.tiles ∧ (nextFresh s).sites = s.sites
    ∧ (nextFresh s).pins = s.pins ∧ (nextFresh s).levels = s.levels ∧ (nextFresh s).aw = s.aw ∧ (nextFresh s).wm = s.wm
    ∧ (nextFresh s).pg = s.pg ∧ (nextFresh s).aq = s.aq ∧ (nextFresh s).tu = s.tu ∧ (nextFresh s).results = s.results
    ∧ (nextFresh s).cal = s.cal ∧ (nextFresh s).micro = s.micro ∧ (nextFresh s).rst = s.rst ∧ (nextFresh s).fuses = s.fuses
    ∧ (nextFresh s).flash = s.flash ∧ (nextFresh s).svc = s.svc ∧ (nextFresh s).tap = s.tap ∧ (nextFresh s).gn = s.gn
    ∧ (nextFresh s).xr = s.xr := by
  repeat' constructor

/-- `emit` changes `out` only. -/
@[simp] theorem emit_frame (o : Output) (s : State) :
    (emit o s).now = s.now ∧ (emit o s).fresh = s.fresh ∧ (emit o s).pending = s.pending ∧ (emit o s).regs = s.regs
    ∧ (emit o s).shadow = s.shadow ∧ (emit o s).regs0 = s.regs0 ∧ (emit o s).shadow0 = s.shadow0 ∧ (emit o s).fab = s.fab
    ∧ (emit o s).past = s.past ∧ (emit o s).saves = s.saves ∧ (emit o s).link = s.link ∧ (emit o s).rings = s.rings
    ∧ (emit o s).keys = s.keys ∧ (emit o s).prism = s.prism ∧ (emit o s).lens = s.lens ∧ (emit o s).power = s.power
    ∧ (emit o s).clocks = s.clocks ∧ (emit o s).place = s.place ∧ (emit o s).tiles = s.tiles ∧ (emit o s).sites = s.sites
    ∧ (emit o s).pins = s.pins ∧ (emit o s).levels = s.levels ∧ (emit o s).aw = s.aw ∧ (emit o s).wm = s.wm
    ∧ (emit o s).pg = s.pg ∧ (emit o s).aq = s.aq ∧ (emit o s).tu = s.tu ∧ (emit o s).results = s.results
    ∧ (emit o s).cal = s.cal ∧ (emit o s).micro = s.micro ∧ (emit o s).rst = s.rst ∧ (emit o s).fuses = s.fuses
    ∧ (emit o s).flash = s.flash ∧ (emit o s).svc = s.svc ∧ (emit o s).tap = s.tap ∧ (emit o s).gn = s.gn
    ∧ (emit o s).xr = s.xr := by
  repeat' constructor

/-- `setClaim` changes `regs` and `power` only. -/
@[simp] theorem setClaim_frame (u n : Nat) (s : State) :
    (setClaim u n s).now = s.now ∧ (setClaim u n s).fresh = s.fresh ∧ (setClaim u n s).pending = s.pending
    ∧ (setClaim u n s).out = s.out ∧ (setClaim u n s).shadow = s.shadow ∧ (setClaim u n s).regs0 = s.regs0
    ∧ (setClaim u n s).shadow0 = s.shadow0 ∧ (setClaim u n s).fab = s.fab ∧ (setClaim u n s).past = s.past
    ∧ (setClaim u n s).saves = s.saves ∧ (setClaim u n s).link = s.link ∧ (setClaim u n s).rings = s.rings
    ∧ (setClaim u n s).keys = s.keys ∧ (setClaim u n s).prism = s.prism ∧ (setClaim u n s).lens = s.lens
    ∧ (setClaim u n s).clocks = s.clocks ∧ (setClaim u n s).place = s.place ∧ (setClaim u n s).tiles = s.tiles
    ∧ (setClaim u n s).sites = s.sites ∧ (setClaim u n s).pins = s.pins ∧ (setClaim u n s).levels = s.levels
    ∧ (setClaim u n s).aw = s.aw ∧ (setClaim u n s).wm = s.wm ∧ (setClaim u n s).pg = s.pg ∧ (setClaim u n s).aq = s.aq
    ∧ (setClaim u n s).tu = s.tu ∧ (setClaim u n s).results = s.results ∧ (setClaim u n s).cal = s.cal
    ∧ (setClaim u n s).micro = s.micro ∧ (setClaim u n s).rst = s.rst ∧ (setClaim u n s).fuses = s.fuses
    ∧ (setClaim u n s).flash = s.flash ∧ (setClaim u n s).svc = s.svc ∧ (setClaim u n s).tap = s.tap
    ∧ (setClaim u n s).gn = s.gn ∧ (setClaim u n s).xr = s.xr := by
  repeat' constructor

/-- `modRing` changes `rings` only. -/
@[simp] theorem modRing_frame (q : Nat) (f : Ring → Ring) (s : State) :
    (modRing q f s).now = s.now ∧ (modRing q f s).fresh = s.fresh ∧ (modRing q f s).pending = s.pending
    ∧ (modRing q f s).out = s.out ∧ (modRing q f s).regs = s.regs ∧ (modRing q f s).shadow = s.shadow
    ∧ (modRing q f s).regs0 = s.regs0 ∧ (modRing q f s).shadow0 = s.shadow0 ∧ (modRing q f s).fab = s.fab
    ∧ (modRing q f s).past = s.past ∧ (modRing q f s).saves = s.saves ∧ (modRing q f s).link = s.link
    ∧ (modRing q f s).keys = s.keys ∧ (modRing q f s).prism = s.prism ∧ (modRing q f s).lens = s.lens
    ∧ (modRing q f s).power = s.power ∧ (modRing q f s).clocks = s.clocks ∧ (modRing q f s).place = s.place
    ∧ (modRing q f s).tiles = s.tiles ∧ (modRing q f s).sites = s.sites ∧ (modRing q f s).pins = s.pins
    ∧ (modRing q f s).levels = s.levels ∧ (modRing q f s).aw = s.aw ∧ (modRing q f s).wm = s.wm ∧ (modRing q f s).pg = s.pg
    ∧ (modRing q f s).aq = s.aq ∧ (modRing q f s).tu = s.tu ∧ (modRing q f s).results = s.results
    ∧ (modRing q f s).cal = s.cal ∧ (modRing q f s).micro = s.micro ∧ (modRing q f s).rst = s.rst
    ∧ (modRing q f s).fuses = s.fuses ∧ (modRing q f s).flash = s.flash ∧ (modRing q f s).svc = s.svc
    ∧ (modRing q f s).tap = s.tap ∧ (modRing q f s).gn = s.gn ∧ (modRing q f s).xr = s.xr := by
  repeat' constructor

/-- `modCmd` changes `rings` only. -/
@[simp] theorem modCmd_frame (q : Nat) (f : Cmd → Cmd) (s : State) :
    (modCmd q f s).now = s.now ∧ (modCmd q f s).fresh = s.fresh ∧ (modCmd q f s).pending = s.pending
    ∧ (modCmd q f s).out = s.out ∧ (modCmd q f s).regs = s.regs ∧ (modCmd q f s).shadow = s.shadow
    ∧ (modCmd q f s).regs0 = s.regs0 ∧ (modCmd q f s).shadow0 = s.shadow0 ∧ (modCmd q f s).fab = s.fab
    ∧ (modCmd q f s).past = s.past ∧ (modCmd q f s).saves = s.saves ∧ (modCmd q f s).link = s.link
    ∧ (modCmd q f s).keys = s.keys ∧ (modCmd q f s).prism = s.prism ∧ (modCmd q f s).lens = s.lens
    ∧ (modCmd q f s).power = s.power ∧ (modCmd q f s).clocks = s.clocks ∧ (modCmd q f s).place = s.place
    ∧ (modCmd q f s).tiles = s.tiles ∧ (modCmd q f s).sites = s.sites ∧ (modCmd q f s).pins = s.pins
    ∧ (modCmd q f s).levels = s.levels ∧ (modCmd q f s).aw = s.aw ∧ (modCmd q f s).wm = s.wm ∧ (modCmd q f s).pg = s.pg
    ∧ (modCmd q f s).aq = s.aq ∧ (modCmd q f s).tu = s.tu ∧ (modCmd q f s).results = s.results ∧ (modCmd q f s).cal = s.cal
    ∧ (modCmd q f s).micro = s.micro ∧ (modCmd q f s).rst = s.rst ∧ (modCmd q f s).fuses = s.fuses
    ∧ (modCmd q f s).flash = s.flash ∧ (modCmd q f s).svc = s.svc ∧ (modCmd q f s).tap = s.tap ∧ (modCmd q f s).gn = s.gn
    ∧ (modCmd q f s).xr = s.xr := by
  repeat' constructor

/-- `setKey` changes `keys` only. -/
@[simp] theorem setKey_frame (k : Nat) (v : KeySlot) (s : State) :
    (setKey k v s).now = s.now ∧ (setKey k v s).fresh = s.fresh ∧ (setKey k v s).pending = s.pending
    ∧ (setKey k v s).out = s.out ∧ (setKey k v s).regs = s.regs ∧ (setKey k v s).shadow = s.shadow
    ∧ (setKey k v s).regs0 = s.regs0 ∧ (setKey k v s).shadow0 = s.shadow0 ∧ (setKey k v s).fab = s.fab
    ∧ (setKey k v s).past = s.past ∧ (setKey k v s).saves = s.saves ∧ (setKey k v s).link = s.link
    ∧ (setKey k v s).rings = s.rings ∧ (setKey k v s).prism = s.prism ∧ (setKey k v s).lens = s.lens
    ∧ (setKey k v s).power = s.power ∧ (setKey k v s).clocks = s.clocks ∧ (setKey k v s).place = s.place
    ∧ (setKey k v s).tiles = s.tiles ∧ (setKey k v s).sites = s.sites ∧ (setKey k v s).pins = s.pins
    ∧ (setKey k v s).levels = s.levels ∧ (setKey k v s).aw = s.aw ∧ (setKey k v s).wm = s.wm ∧ (setKey k v s).pg = s.pg
    ∧ (setKey k v s).aq = s.aq ∧ (setKey k v s).tu = s.tu ∧ (setKey k v s).results = s.results ∧ (setKey k v s).cal = s.cal
    ∧ (setKey k v s).micro = s.micro ∧ (setKey k v s).rst = s.rst ∧ (setKey k v s).fuses = s.fuses
    ∧ (setKey k v s).flash = s.flash ∧ (setKey k v s).svc = s.svc ∧ (setKey k v s).tap = s.tap ∧ (setKey k v s).gn = s.gn
    ∧ (setKey k v s).xr = s.xr := by
  repeat' constructor

/-- `modSite` changes `sites` only. -/
@[simp] theorem modSite_frame (i : Nat) (f : Site → Site) (s : State) :
    (modSite i f s).now = s.now ∧ (modSite i f s).fresh = s.fresh ∧ (modSite i f s).pending = s.pending
    ∧ (modSite i f s).out = s.out ∧ (modSite i f s).regs = s.regs ∧ (modSite i f s).shadow = s.shadow
    ∧ (modSite i f s).regs0 = s.regs0 ∧ (modSite i f s).shadow0 = s.shadow0 ∧ (modSite i f s).fab = s.fab
    ∧ (modSite i f s).past = s.past ∧ (modSite i f s).saves = s.saves ∧ (modSite i f s).link = s.link
    ∧ (modSite i f s).rings = s.rings ∧ (modSite i f s).keys = s.keys ∧ (modSite i f s).prism = s.prism
    ∧ (modSite i f s).lens = s.lens ∧ (modSite i f s).power = s.power ∧ (modSite i f s).clocks = s.clocks
    ∧ (modSite i f s).place = s.place ∧ (modSite i f s).tiles = s.tiles ∧ (modSite i f s).pins = s.pins
    ∧ (modSite i f s).levels = s.levels ∧ (modSite i f s).aw = s.aw ∧ (modSite i f s).wm = s.wm ∧ (modSite i f s).pg = s.pg
    ∧ (modSite i f s).aq = s.aq ∧ (modSite i f s).tu = s.tu ∧ (modSite i f s).results = s.results
    ∧ (modSite i f s).cal = s.cal ∧ (modSite i f s).micro = s.micro ∧ (modSite i f s).rst = s.rst
    ∧ (modSite i f s).fuses = s.fuses ∧ (modSite i f s).flash = s.flash ∧ (modSite i f s).svc = s.svc
    ∧ (modSite i f s).tap = s.tap ∧ (modSite i f s).gn = s.gn ∧ (modSite i f s).xr = s.xr := by
  repeat' constructor

/-- `modTile` changes `tiles` only. -/
@[simp] theorem modTile_frame (k : Nat) (f : Tile → Tile) (s : State) :
    (modTile k f s).now = s.now ∧ (modTile k f s).fresh = s.fresh ∧ (modTile k f s).pending = s.pending
    ∧ (modTile k f s).out = s.out ∧ (modTile k f s).regs = s.regs ∧ (modTile k f s).shadow = s.shadow
    ∧ (modTile k f s).regs0 = s.regs0 ∧ (modTile k f s).shadow0 = s.shadow0 ∧ (modTile k f s).fab = s.fab
    ∧ (modTile k f s).past = s.past ∧ (modTile k f s).saves = s.saves ∧ (modTile k f s).link = s.link
    ∧ (modTile k f s).rings = s.rings ∧ (modTile k f s).keys = s.keys ∧ (modTile k f s).prism = s.prism
    ∧ (modTile k f s).lens = s.lens ∧ (modTile k f s).power = s.power ∧ (modTile k f s).clocks = s.clocks
    ∧ (modTile k f s).place = s.place ∧ (modTile k f s).sites = s.sites ∧ (modTile k f s).pins = s.pins
    ∧ (modTile k f s).levels = s.levels ∧ (modTile k f s).aw = s.aw ∧ (modTile k f s).wm = s.wm ∧ (modTile k f s).pg = s.pg
    ∧ (modTile k f s).aq = s.aq ∧ (modTile k f s).tu = s.tu ∧ (modTile k f s).results = s.results
    ∧ (modTile k f s).cal = s.cal ∧ (modTile k f s).micro = s.micro ∧ (modTile k f s).rst = s.rst
    ∧ (modTile k f s).fuses = s.fuses ∧ (modTile k f s).flash = s.flash ∧ (modTile k f s).svc = s.svc
    ∧ (modTile k f s).tap = s.tap ∧ (modTile k f s).gn = s.gn ∧ (modTile k f s).xr = s.xr := by
  repeat' constructor

/-- `modPlace` changes `place` only. -/
@[simp] theorem modPlace_frame (f : Place → Place) (s : State) :
    (modPlace f s).now = s.now ∧ (modPlace f s).fresh = s.fresh ∧ (modPlace f s).pending = s.pending
    ∧ (modPlace f s).out = s.out ∧ (modPlace f s).regs = s.regs ∧ (modPlace f s).shadow = s.shadow
    ∧ (modPlace f s).regs0 = s.regs0 ∧ (modPlace f s).shadow0 = s.shadow0 ∧ (modPlace f s).fab = s.fab
    ∧ (modPlace f s).past = s.past ∧ (modPlace f s).saves = s.saves ∧ (modPlace f s).link = s.link
    ∧ (modPlace f s).rings = s.rings ∧ (modPlace f s).keys = s.keys ∧ (modPlace f s).prism = s.prism
    ∧ (modPlace f s).lens = s.lens ∧ (modPlace f s).power = s.power ∧ (modPlace f s).clocks = s.clocks
    ∧ (modPlace f s).tiles = s.tiles ∧ (modPlace f s).sites = s.sites ∧ (modPlace f s).pins = s.pins
    ∧ (modPlace f s).levels = s.levels ∧ (modPlace f s).aw = s.aw ∧ (modPlace f s).wm = s.wm ∧ (modPlace f s).pg = s.pg
    ∧ (modPlace f s).aq = s.aq ∧ (modPlace f s).tu = s.tu ∧ (modPlace f s).results = s.results ∧ (modPlace f s).cal = s.cal
    ∧ (modPlace f s).micro = s.micro ∧ (modPlace f s).rst = s.rst ∧ (modPlace f s).fuses = s.fuses
    ∧ (modPlace f s).flash = s.flash ∧ (modPlace f s).svc = s.svc ∧ (modPlace f s).tap = s.tap ∧ (modPlace f s).gn = s.gn
    ∧ (modPlace f s).xr = s.xr := by
  repeat' constructor

/-- `modPin` changes `pins` only. -/
@[simp] theorem modPin_frame (n : Nat) (f : Pin → Pin) (s : State) :
    (modPin n f s).now = s.now ∧ (modPin n f s).fresh = s.fresh ∧ (modPin n f s).pending = s.pending
    ∧ (modPin n f s).out = s.out ∧ (modPin n f s).regs = s.regs ∧ (modPin n f s).shadow = s.shadow
    ∧ (modPin n f s).regs0 = s.regs0 ∧ (modPin n f s).shadow0 = s.shadow0 ∧ (modPin n f s).fab = s.fab
    ∧ (modPin n f s).past = s.past ∧ (modPin n f s).saves = s.saves ∧ (modPin n f s).link = s.link
    ∧ (modPin n f s).rings = s.rings ∧ (modPin n f s).keys = s.keys ∧ (modPin n f s).prism = s.prism
    ∧ (modPin n f s).lens = s.lens ∧ (modPin n f s).power = s.power ∧ (modPin n f s).clocks = s.clocks
    ∧ (modPin n f s).place = s.place ∧ (modPin n f s).tiles = s.tiles ∧ (modPin n f s).sites = s.sites
    ∧ (modPin n f s).levels = s.levels ∧ (modPin n f s).aw = s.aw ∧ (modPin n f s).wm = s.wm ∧ (modPin n f s).pg = s.pg
    ∧ (modPin n f s).aq = s.aq ∧ (modPin n f s).tu = s.tu ∧ (modPin n f s).results = s.results ∧ (modPin n f s).cal = s.cal
    ∧ (modPin n f s).micro = s.micro ∧ (modPin n f s).rst = s.rst ∧ (modPin n f s).fuses = s.fuses
    ∧ (modPin n f s).flash = s.flash ∧ (modPin n f s).svc = s.svc ∧ (modPin n f s).tap = s.tap ∧ (modPin n f s).gn = s.gn
    ∧ (modPin n f s).xr = s.xr := by
  repeat' constructor

/-- `modAw` changes `aw` only. -/
@[simp] theorem modAw_frame (k : Nat) (f : Aw → Aw) (s : State) :
    (modAw k f s).now = s.now ∧ (modAw k f s).fresh = s.fresh ∧ (modAw k f s).pending = s.pending ∧ (modAw k f s).out = s.out
    ∧ (modAw k f s).regs = s.regs ∧ (modAw k f s).shadow = s.shadow ∧ (modAw k f s).regs0 = s.regs0
    ∧ (modAw k f s).shadow0 = s.shadow0 ∧ (modAw k f s).fab = s.fab ∧ (modAw k f s).past = s.past
    ∧ (modAw k f s).saves = s.saves ∧ (modAw k f s).link = s.link ∧ (modAw k f s).rings = s.rings
    ∧ (modAw k f s).keys = s.keys ∧ (modAw k f s).prism = s.prism ∧ (modAw k f s).lens = s.lens
    ∧ (modAw k f s).power = s.power ∧ (modAw k f s).clocks = s.clocks ∧ (modAw k f s).place = s.place
    ∧ (modAw k f s).tiles = s.tiles ∧ (modAw k f s).sites = s.sites ∧ (modAw k f s).pins = s.pins
    ∧ (modAw k f s).levels = s.levels ∧ (modAw k f s).wm = s.wm ∧ (modAw k f s).pg = s.pg ∧ (modAw k f s).aq = s.aq
    ∧ (modAw k f s).tu = s.tu ∧ (modAw k f s).results = s.results ∧ (modAw k f s).cal = s.cal ∧ (modAw k f s).micro = s.micro
    ∧ (modAw k f s).rst = s.rst ∧ (modAw k f s).fuses = s.fuses ∧ (modAw k f s).flash = s.flash ∧ (modAw k f s).svc = s.svc
    ∧ (modAw k f s).tap = s.tap ∧ (modAw k f s).gn = s.gn ∧ (modAw k f s).xr = s.xr := by
  repeat' constructor

/-- `modWm` changes `wm` only. -/
@[simp] theorem modWm_frame (k : Nat) (f : Wm → Wm) (s : State) :
    (modWm k f s).now = s.now ∧ (modWm k f s).fresh = s.fresh ∧ (modWm k f s).pending = s.pending ∧ (modWm k f s).out = s.out
    ∧ (modWm k f s).regs = s.regs ∧ (modWm k f s).shadow = s.shadow ∧ (modWm k f s).regs0 = s.regs0
    ∧ (modWm k f s).shadow0 = s.shadow0 ∧ (modWm k f s).fab = s.fab ∧ (modWm k f s).past = s.past
    ∧ (modWm k f s).saves = s.saves ∧ (modWm k f s).link = s.link ∧ (modWm k f s).rings = s.rings
    ∧ (modWm k f s).keys = s.keys ∧ (modWm k f s).prism = s.prism ∧ (modWm k f s).lens = s.lens
    ∧ (modWm k f s).power = s.power ∧ (modWm k f s).clocks = s.clocks ∧ (modWm k f s).place = s.place
    ∧ (modWm k f s).tiles = s.tiles ∧ (modWm k f s).sites = s.sites ∧ (modWm k f s).pins = s.pins
    ∧ (modWm k f s).levels = s.levels ∧ (modWm k f s).aw = s.aw ∧ (modWm k f s).pg = s.pg ∧ (modWm k f s).aq = s.aq
    ∧ (modWm k f s).tu = s.tu ∧ (modWm k f s).results = s.results ∧ (modWm k f s).cal = s.cal ∧ (modWm k f s).micro = s.micro
    ∧ (modWm k f s).rst = s.rst ∧ (modWm k f s).fuses = s.fuses ∧ (modWm k f s).flash = s.flash ∧ (modWm k f s).svc = s.svc
    ∧ (modWm k f s).tap = s.tap ∧ (modWm k f s).gn = s.gn ∧ (modWm k f s).xr = s.xr := by
  repeat' constructor

/-- `modPg` changes `pg` only. -/
@[simp] theorem modPg_frame (j : Nat) (f : Pg → Pg) (s : State) :
    (modPg j f s).now = s.now ∧ (modPg j f s).fresh = s.fresh ∧ (modPg j f s).pending = s.pending ∧ (modPg j f s).out = s.out
    ∧ (modPg j f s).regs = s.regs ∧ (modPg j f s).shadow = s.shadow ∧ (modPg j f s).regs0 = s.regs0
    ∧ (modPg j f s).shadow0 = s.shadow0 ∧ (modPg j f s).fab = s.fab ∧ (modPg j f s).past = s.past
    ∧ (modPg j f s).saves = s.saves ∧ (modPg j f s).link = s.link ∧ (modPg j f s).rings = s.rings
    ∧ (modPg j f s).keys = s.keys ∧ (modPg j f s).prism = s.prism ∧ (modPg j f s).lens = s.lens
    ∧ (modPg j f s).power = s.power ∧ (modPg j f s).clocks = s.clocks ∧ (modPg j f s).place = s.place
    ∧ (modPg j f s).tiles = s.tiles ∧ (modPg j f s).sites = s.sites ∧ (modPg j f s).pins = s.pins
    ∧ (modPg j f s).levels = s.levels ∧ (modPg j f s).aw = s.aw ∧ (modPg j f s).wm = s.wm ∧ (modPg j f s).aq = s.aq
    ∧ (modPg j f s).tu = s.tu ∧ (modPg j f s).results = s.results ∧ (modPg j f s).cal = s.cal ∧ (modPg j f s).micro = s.micro
    ∧ (modPg j f s).rst = s.rst ∧ (modPg j f s).fuses = s.fuses ∧ (modPg j f s).flash = s.flash ∧ (modPg j f s).svc = s.svc
    ∧ (modPg j f s).tap = s.tap ∧ (modPg j f s).gn = s.gn ∧ (modPg j f s).xr = s.xr := by
  repeat' constructor

/-- `modAq` changes `aq` only. -/
@[simp] theorem modAq_frame (k : Nat) (f : Aq → Aq) (s : State) :
    (modAq k f s).now = s.now ∧ (modAq k f s).fresh = s.fresh ∧ (modAq k f s).pending = s.pending ∧ (modAq k f s).out = s.out
    ∧ (modAq k f s).regs = s.regs ∧ (modAq k f s).shadow = s.shadow ∧ (modAq k f s).regs0 = s.regs0
    ∧ (modAq k f s).shadow0 = s.shadow0 ∧ (modAq k f s).fab = s.fab ∧ (modAq k f s).past = s.past
    ∧ (modAq k f s).saves = s.saves ∧ (modAq k f s).link = s.link ∧ (modAq k f s).rings = s.rings
    ∧ (modAq k f s).keys = s.keys ∧ (modAq k f s).prism = s.prism ∧ (modAq k f s).lens = s.lens
    ∧ (modAq k f s).power = s.power ∧ (modAq k f s).clocks = s.clocks ∧ (modAq k f s).place = s.place
    ∧ (modAq k f s).tiles = s.tiles ∧ (modAq k f s).sites = s.sites ∧ (modAq k f s).pins = s.pins
    ∧ (modAq k f s).levels = s.levels ∧ (modAq k f s).aw = s.aw ∧ (modAq k f s).wm = s.wm ∧ (modAq k f s).pg = s.pg
    ∧ (modAq k f s).tu = s.tu ∧ (modAq k f s).results = s.results ∧ (modAq k f s).cal = s.cal ∧ (modAq k f s).micro = s.micro
    ∧ (modAq k f s).rst = s.rst ∧ (modAq k f s).fuses = s.fuses ∧ (modAq k f s).flash = s.flash ∧ (modAq k f s).svc = s.svc
    ∧ (modAq k f s).tap = s.tap ∧ (modAq k f s).gn = s.gn ∧ (modAq k f s).xr = s.xr := by
  repeat' constructor

/-- `modTu` changes `tu` only. -/
@[simp] theorem modTu_frame (k : Nat) (f : Tu → Tu) (s : State) :
    (modTu k f s).now = s.now ∧ (modTu k f s).fresh = s.fresh ∧ (modTu k f s).pending = s.pending ∧ (modTu k f s).out = s.out
    ∧ (modTu k f s).regs = s.regs ∧ (modTu k f s).shadow = s.shadow ∧ (modTu k f s).regs0 = s.regs0
    ∧ (modTu k f s).shadow0 = s.shadow0 ∧ (modTu k f s).fab = s.fab ∧ (modTu k f s).past = s.past
    ∧ (modTu k f s).saves = s.saves ∧ (modTu k f s).link = s.link ∧ (modTu k f s).rings = s.rings
    ∧ (modTu k f s).keys = s.keys ∧ (modTu k f s).prism = s.prism ∧ (modTu k f s).lens = s.lens
    ∧ (modTu k f s).power = s.power ∧ (modTu k f s).clocks = s.clocks ∧ (modTu k f s).place = s.place
    ∧ (modTu k f s).tiles = s.tiles ∧ (modTu k f s).sites = s.sites ∧ (modTu k f s).pins = s.pins
    ∧ (modTu k f s).levels = s.levels ∧ (modTu k f s).aw = s.aw ∧ (modTu k f s).wm = s.wm ∧ (modTu k f s).pg = s.pg
    ∧ (modTu k f s).aq = s.aq ∧ (modTu k f s).results = s.results ∧ (modTu k f s).cal = s.cal ∧ (modTu k f s).micro = s.micro
    ∧ (modTu k f s).rst = s.rst ∧ (modTu k f s).fuses = s.fuses ∧ (modTu k f s).flash = s.flash ∧ (modTu k f s).svc = s.svc
    ∧ (modTu k f s).tap = s.tap ∧ (modTu k f s).gn = s.gn ∧ (modTu k f s).xr = s.xr := by
  repeat' constructor

/-- `modLens` changes `lens` only. -/
@[simp] theorem modLens_frame (f : Lens → Lens) (s : State) :
    (modLens f s).now = s.now ∧ (modLens f s).fresh = s.fresh ∧ (modLens f s).pending = s.pending ∧ (modLens f s).out = s.out
    ∧ (modLens f s).regs = s.regs ∧ (modLens f s).shadow = s.shadow ∧ (modLens f s).regs0 = s.regs0
    ∧ (modLens f s).shadow0 = s.shadow0 ∧ (modLens f s).fab = s.fab ∧ (modLens f s).past = s.past
    ∧ (modLens f s).saves = s.saves ∧ (modLens f s).link = s.link ∧ (modLens f s).rings = s.rings
    ∧ (modLens f s).keys = s.keys ∧ (modLens f s).prism = s.prism ∧ (modLens f s).power = s.power
    ∧ (modLens f s).clocks = s.clocks ∧ (modLens f s).place = s.place ∧ (modLens f s).tiles = s.tiles
    ∧ (modLens f s).sites = s.sites ∧ (modLens f s).pins = s.pins ∧ (modLens f s).levels = s.levels ∧ (modLens f s).aw = s.aw
    ∧ (modLens f s).wm = s.wm ∧ (modLens f s).pg = s.pg ∧ (modLens f s).aq = s.aq ∧ (modLens f s).tu = s.tu
    ∧ (modLens f s).results = s.results ∧ (modLens f s).cal = s.cal ∧ (modLens f s).micro = s.micro
    ∧ (modLens f s).rst = s.rst ∧ (modLens f s).fuses = s.fuses ∧ (modLens f s).flash = s.flash ∧ (modLens f s).svc = s.svc
    ∧ (modLens f s).tap = s.tap ∧ (modLens f s).gn = s.gn ∧ (modLens f s).xr = s.xr := by
  repeat' constructor

/-- `modPower` changes `power` only. -/
@[simp] theorem modPower_frame (f : Power → Power) (s : State) :
    (modPower f s).now = s.now ∧ (modPower f s).fresh = s.fresh ∧ (modPower f s).pending = s.pending
    ∧ (modPower f s).out = s.out ∧ (modPower f s).regs = s.regs ∧ (modPower f s).shadow = s.shadow
    ∧ (modPower f s).regs0 = s.regs0 ∧ (modPower f s).shadow0 = s.shadow0 ∧ (modPower f s).fab = s.fab
    ∧ (modPower f s).past = s.past ∧ (modPower f s).saves = s.saves ∧ (modPower f s).link = s.link
    ∧ (modPower f s).rings = s.rings ∧ (modPower f s).keys = s.keys ∧ (modPower f s).prism = s.prism
    ∧ (modPower f s).lens = s.lens ∧ (modPower f s).clocks = s.clocks ∧ (modPower f s).place = s.place
    ∧ (modPower f s).tiles = s.tiles ∧ (modPower f s).sites = s.sites ∧ (modPower f s).pins = s.pins
    ∧ (modPower f s).levels = s.levels ∧ (modPower f s).aw = s.aw ∧ (modPower f s).wm = s.wm ∧ (modPower f s).pg = s.pg
    ∧ (modPower f s).aq = s.aq ∧ (modPower f s).tu = s.tu ∧ (modPower f s).results = s.results ∧ (modPower f s).cal = s.cal
    ∧ (modPower f s).micro = s.micro ∧ (modPower f s).rst = s.rst ∧ (modPower f s).fuses = s.fuses
    ∧ (modPower f s).flash = s.flash ∧ (modPower f s).svc = s.svc ∧ (modPower f s).tap = s.tap ∧ (modPower f s).gn = s.gn
    ∧ (modPower f s).xr = s.xr := by
  repeat' constructor

/-- `modClk` changes `clocks` only. -/
@[simp] theorem modClk_frame (f : Clocks → Clocks) (s : State) :
    (modClk f s).now = s.now ∧ (modClk f s).fresh = s.fresh ∧ (modClk f s).pending = s.pending ∧ (modClk f s).out = s.out
    ∧ (modClk f s).regs = s.regs ∧ (modClk f s).shadow = s.shadow ∧ (modClk f s).regs0 = s.regs0
    ∧ (modClk f s).shadow0 = s.shadow0 ∧ (modClk f s).fab = s.fab ∧ (modClk f s).past = s.past ∧ (modClk f s).saves = s.saves
    ∧ (modClk f s).link = s.link ∧ (modClk f s).rings = s.rings ∧ (modClk f s).keys = s.keys ∧ (modClk f s).prism = s.prism
    ∧ (modClk f s).lens = s.lens ∧ (modClk f s).power = s.power ∧ (modClk f s).place = s.place ∧ (modClk f s).tiles = s.tiles
    ∧ (modClk f s).sites = s.sites ∧ (modClk f s).pins = s.pins ∧ (modClk f s).levels = s.levels ∧ (modClk f s).aw = s.aw
    ∧ (modClk f s).wm = s.wm ∧ (modClk f s).pg = s.pg ∧ (modClk f s).aq = s.aq ∧ (modClk f s).tu = s.tu
    ∧ (modClk f s).results = s.results ∧ (modClk f s).cal = s.cal ∧ (modClk f s).micro = s.micro ∧ (modClk f s).rst = s.rst
    ∧ (modClk f s).fuses = s.fuses ∧ (modClk f s).flash = s.flash ∧ (modClk f s).svc = s.svc ∧ (modClk f s).tap = s.tap
    ∧ (modClk f s).gn = s.gn ∧ (modClk f s).xr = s.xr := by
  repeat' constructor

/-- `modRst` changes `rst` only. -/
@[simp] theorem modRst_frame (f : ResetCtl → ResetCtl) (s : State) :
    (modRst f s).now = s.now ∧ (modRst f s).fresh = s.fresh ∧ (modRst f s).pending = s.pending ∧ (modRst f s).out = s.out
    ∧ (modRst f s).regs = s.regs ∧ (modRst f s).shadow = s.shadow ∧ (modRst f s).regs0 = s.regs0
    ∧ (modRst f s).shadow0 = s.shadow0 ∧ (modRst f s).fab = s.fab ∧ (modRst f s).past = s.past ∧ (modRst f s).saves = s.saves
    ∧ (modRst f s).link = s.link ∧ (modRst f s).rings = s.rings ∧ (modRst f s).keys = s.keys ∧ (modRst f s).prism = s.prism
    ∧ (modRst f s).lens = s.lens ∧ (modRst f s).power = s.power ∧ (modRst f s).clocks = s.clocks
    ∧ (modRst f s).place = s.place ∧ (modRst f s).tiles = s.tiles ∧ (modRst f s).sites = s.sites ∧ (modRst f s).pins = s.pins
    ∧ (modRst f s).levels = s.levels ∧ (modRst f s).aw = s.aw ∧ (modRst f s).wm = s.wm ∧ (modRst f s).pg = s.pg
    ∧ (modRst f s).aq = s.aq ∧ (modRst f s).tu = s.tu ∧ (modRst f s).results = s.results ∧ (modRst f s).cal = s.cal
    ∧ (modRst f s).micro = s.micro ∧ (modRst f s).fuses = s.fuses ∧ (modRst f s).flash = s.flash ∧ (modRst f s).svc = s.svc
    ∧ (modRst f s).tap = s.tap ∧ (modRst f s).gn = s.gn ∧ (modRst f s).xr = s.xr := by
  repeat' constructor

/-- `modXr` changes `xr` only. -/
@[simp] theorem modXr_frame (f : Xearn → Xearn) (s : State) :
    (modXr f s).now = s.now ∧ (modXr f s).fresh = s.fresh ∧ (modXr f s).pending = s.pending ∧ (modXr f s).out = s.out
    ∧ (modXr f s).regs = s.regs ∧ (modXr f s).shadow = s.shadow ∧ (modXr f s).regs0 = s.regs0
    ∧ (modXr f s).shadow0 = s.shadow0 ∧ (modXr f s).fab = s.fab ∧ (modXr f s).past = s.past ∧ (modXr f s).saves = s.saves
    ∧ (modXr f s).link = s.link ∧ (modXr f s).rings = s.rings ∧ (modXr f s).keys = s.keys ∧ (modXr f s).prism = s.prism
    ∧ (modXr f s).lens = s.lens ∧ (modXr f s).power = s.power ∧ (modXr f s).clocks = s.clocks ∧ (modXr f s).place = s.place
    ∧ (modXr f s).tiles = s.tiles ∧ (modXr f s).sites = s.sites ∧ (modXr f s).pins = s.pins ∧ (modXr f s).levels = s.levels
    ∧ (modXr f s).aw = s.aw ∧ (modXr f s).wm = s.wm ∧ (modXr f s).pg = s.pg ∧ (modXr f s).aq = s.aq ∧ (modXr f s).tu = s.tu
    ∧ (modXr f s).results = s.results ∧ (modXr f s).cal = s.cal ∧ (modXr f s).micro = s.micro ∧ (modXr f s).rst = s.rst
    ∧ (modXr f s).fuses = s.fuses ∧ (modXr f s).flash = s.flash ∧ (modXr f s).svc = s.svc ∧ (modXr f s).tap = s.tap
    ∧ (modXr f s).gn = s.gn := by
  repeat' constructor

/-- `modSvc` changes `svc` only. -/
@[simp] theorem modSvc_frame (f : Service → Service) (s : State) :
    (modSvc f s).now = s.now ∧ (modSvc f s).fresh = s.fresh ∧ (modSvc f s).pending = s.pending ∧ (modSvc f s).out = s.out
    ∧ (modSvc f s).regs = s.regs ∧ (modSvc f s).shadow = s.shadow ∧ (modSvc f s).regs0 = s.regs0
    ∧ (modSvc f s).shadow0 = s.shadow0 ∧ (modSvc f s).fab = s.fab ∧ (modSvc f s).past = s.past ∧ (modSvc f s).saves = s.saves
    ∧ (modSvc f s).link = s.link ∧ (modSvc f s).rings = s.rings ∧ (modSvc f s).keys = s.keys ∧ (modSvc f s).prism = s.prism
    ∧ (modSvc f s).lens = s.lens ∧ (modSvc f s).power = s.power ∧ (modSvc f s).clocks = s.clocks
    ∧ (modSvc f s).place = s.place ∧ (modSvc f s).tiles = s.tiles ∧ (modSvc f s).sites = s.sites ∧ (modSvc f s).pins = s.pins
    ∧ (modSvc f s).levels = s.levels ∧ (modSvc f s).aw = s.aw ∧ (modSvc f s).wm = s.wm ∧ (modSvc f s).pg = s.pg
    ∧ (modSvc f s).aq = s.aq ∧ (modSvc f s).tu = s.tu ∧ (modSvc f s).results = s.results ∧ (modSvc f s).cal = s.cal
    ∧ (modSvc f s).micro = s.micro ∧ (modSvc f s).rst = s.rst ∧ (modSvc f s).fuses = s.fuses ∧ (modSvc f s).flash = s.flash
    ∧ (modSvc f s).tap = s.tap ∧ (modSvc f s).gn = s.gn ∧ (modSvc f s).xr = s.xr := by
  repeat' constructor

/-- `modCal` changes `cal` only. -/
@[simp] theorem modCal_frame (f : Cal → Cal) (s : State) :
    (modCal f s).now = s.now ∧ (modCal f s).fresh = s.fresh ∧ (modCal f s).pending = s.pending ∧ (modCal f s).out = s.out
    ∧ (modCal f s).regs = s.regs ∧ (modCal f s).shadow = s.shadow ∧ (modCal f s).regs0 = s.regs0
    ∧ (modCal f s).shadow0 = s.shadow0 ∧ (modCal f s).fab = s.fab ∧ (modCal f s).past = s.past ∧ (modCal f s).saves = s.saves
    ∧ (modCal f s).link = s.link ∧ (modCal f s).rings = s.rings ∧ (modCal f s).keys = s.keys ∧ (modCal f s).prism = s.prism
    ∧ (modCal f s).lens = s.lens ∧ (modCal f s).power = s.power ∧ (modCal f s).clocks = s.clocks
    ∧ (modCal f s).place = s.place ∧ (modCal f s).tiles = s.tiles ∧ (modCal f s).sites = s.sites ∧ (modCal f s).pins = s.pins
    ∧ (modCal f s).levels = s.levels ∧ (modCal f s).aw = s.aw ∧ (modCal f s).wm = s.wm ∧ (modCal f s).pg = s.pg
    ∧ (modCal f s).aq = s.aq ∧ (modCal f s).tu = s.tu ∧ (modCal f s).results = s.results ∧ (modCal f s).micro = s.micro
    ∧ (modCal f s).rst = s.rst ∧ (modCal f s).fuses = s.fuses ∧ (modCal f s).flash = s.flash ∧ (modCal f s).svc = s.svc
    ∧ (modCal f s).tap = s.tap ∧ (modCal f s).gn = s.gn ∧ (modCal f s).xr = s.xr := by
  repeat' constructor

/-- `modFlash` changes `flash` only. -/
@[simp] theorem modFlash_frame (f : Flash → Flash) (s : State) :
    (modFlash f s).now = s.now ∧ (modFlash f s).fresh = s.fresh ∧ (modFlash f s).pending = s.pending
    ∧ (modFlash f s).out = s.out ∧ (modFlash f s).regs = s.regs ∧ (modFlash f s).shadow = s.shadow
    ∧ (modFlash f s).regs0 = s.regs0 ∧ (modFlash f s).shadow0 = s.shadow0 ∧ (modFlash f s).fab = s.fab
    ∧ (modFlash f s).past = s.past ∧ (modFlash f s).saves = s.saves ∧ (modFlash f s).link = s.link
    ∧ (modFlash f s).rings = s.rings ∧ (modFlash f s).keys = s.keys ∧ (modFlash f s).prism = s.prism
    ∧ (modFlash f s).lens = s.lens ∧ (modFlash f s).power = s.power ∧ (modFlash f s).clocks = s.clocks
    ∧ (modFlash f s).place = s.place ∧ (modFlash f s).tiles = s.tiles ∧ (modFlash f s).sites = s.sites
    ∧ (modFlash f s).pins = s.pins ∧ (modFlash f s).levels = s.levels ∧ (modFlash f s).aw = s.aw ∧ (modFlash f s).wm = s.wm
    ∧ (modFlash f s).pg = s.pg ∧ (modFlash f s).aq = s.aq ∧ (modFlash f s).tu = s.tu ∧ (modFlash f s).results = s.results
    ∧ (modFlash f s).cal = s.cal ∧ (modFlash f s).micro = s.micro ∧ (modFlash f s).rst = s.rst
    ∧ (modFlash f s).fuses = s.fuses ∧ (modFlash f s).svc = s.svc ∧ (modFlash f s).tap = s.tap ∧ (modFlash f s).gn = s.gn
    ∧ (modFlash f s).xr = s.xr := by
  repeat' constructor

/-- `reportAt` changes `lens` only. -/
@[simp] theorem reportAt_frame (u c k t : Nat) (s : State) :
    (reportAt u c k t s).now = s.now ∧ (reportAt u c k t s).fresh = s.fresh ∧ (reportAt u c k t s).pending = s.pending
    ∧ (reportAt u c k t s).out = s.out ∧ (reportAt u c k t s).regs = s.regs ∧ (reportAt u c k t s).shadow = s.shadow
    ∧ (reportAt u c k t s).regs0 = s.regs0 ∧ (reportAt u c k t s).shadow0 = s.shadow0 ∧ (reportAt u c k t s).fab = s.fab
    ∧ (reportAt u c k t s).past = s.past ∧ (reportAt u c k t s).saves = s.saves ∧ (reportAt u c k t s).link = s.link
    ∧ (reportAt u c k t s).rings = s.rings ∧ (reportAt u c k t s).keys = s.keys ∧ (reportAt u c k t s).prism = s.prism
    ∧ (reportAt u c k t s).power = s.power ∧ (reportAt u c k t s).clocks = s.clocks ∧ (reportAt u c k t s).place = s.place
    ∧ (reportAt u c k t s).tiles = s.tiles ∧ (reportAt u c k t s).sites = s.sites ∧ (reportAt u c k t s).pins = s.pins
    ∧ (reportAt u c k t s).levels = s.levels ∧ (reportAt u c k t s).aw = s.aw ∧ (reportAt u c k t s).wm = s.wm
    ∧ (reportAt u c k t s).pg = s.pg ∧ (reportAt u c k t s).aq = s.aq ∧ (reportAt u c k t s).tu = s.tu
    ∧ (reportAt u c k t s).results = s.results ∧ (reportAt u c k t s).cal = s.cal ∧ (reportAt u c k t s).micro = s.micro
    ∧ (reportAt u c k t s).rst = s.rst ∧ (reportAt u c k t s).fuses = s.fuses ∧ (reportAt u c k t s).flash = s.flash
    ∧ (reportAt u c k t s).svc = s.svc ∧ (reportAt u c k t s).tap = s.tap ∧ (reportAt u c k t s).gn = s.gn
    ∧ (reportAt u c k t s).xr = s.xr := by
  repeat' constructor

/-- `report` changes `lens` only. -/
@[simp] theorem report_frame (u c k : Nat) (s : State) :
    (report u c k s).now = s.now ∧ (report u c k s).fresh = s.fresh ∧ (report u c k s).pending = s.pending
    ∧ (report u c k s).out = s.out ∧ (report u c k s).regs = s.regs ∧ (report u c k s).shadow = s.shadow
    ∧ (report u c k s).regs0 = s.regs0 ∧ (report u c k s).shadow0 = s.shadow0 ∧ (report u c k s).fab = s.fab
    ∧ (report u c k s).past = s.past ∧ (report u c k s).saves = s.saves ∧ (report u c k s).link = s.link
    ∧ (report u c k s).rings = s.rings ∧ (report u c k s).keys = s.keys ∧ (report u c k s).prism = s.prism
    ∧ (report u c k s).power = s.power ∧ (report u c k s).clocks = s.clocks ∧ (report u c k s).place = s.place
    ∧ (report u c k s).tiles = s.tiles ∧ (report u c k s).sites = s.sites ∧ (report u c k s).pins = s.pins
    ∧ (report u c k s).levels = s.levels ∧ (report u c k s).aw = s.aw ∧ (report u c k s).wm = s.wm
    ∧ (report u c k s).pg = s.pg ∧ (report u c k s).aq = s.aq ∧ (report u c k s).tu = s.tu
    ∧ (report u c k s).results = s.results ∧ (report u c k s).cal = s.cal ∧ (report u c k s).micro = s.micro
    ∧ (report u c k s).rst = s.rst ∧ (report u c k s).fuses = s.fuses ∧ (report u c k s).flash = s.flash
    ∧ (report u c k s).svc = s.svc ∧ (report u c k s).tap = s.tap ∧ (report u c k s).gn = s.gn ∧ (report u c k s).xr = s.xr := by
  repeat' constructor

/-! ## Reads that an update leaves unchanged -/

@[simp] theorem setReg_reads (a : Nat) (w : Word) (s : State) :
    (∀ x, (setReg a w s).shd x = s.shd x) ∧ (∀ b g, (setReg a w s).rdS b g = s.rdS b g)
    ∧ (∀ x, (setReg a w s).ring x = s.ring x) ∧ (∀ x, (setReg a w s).running x = s.running x)
    ∧ (∀ x, (setReg a w s).keySlot x = s.keySlot x) ∧ (setReg a w s).unow = s.unow ∧ (setReg a w s).count = s.count
    ∧ (∀ x, (setReg a w s).site x = s.site x) ∧ (∀ x, (setReg a w s).tile x = s.tile x)
    ∧ (∀ x, (setReg a w s).pin x = s.pin x) ∧ (∀ x, (setReg a w s).awOf x = s.awOf x)
    ∧ (∀ x, (setReg a w s).wmOf x = s.wmOf x) ∧ (∀ x, (setReg a w s).pgOf x = s.pgOf x)
    ∧ (∀ x, (setReg a w s).aqOf x = s.aqOf x) ∧ (∀ x, (setReg a w s).tuOf x = s.tuOf x) := by
  refine ⟨fun _ => rfl, fun _ _ => rfl, fun _ => rfl, fun _ => rfl, fun _ => rfl, rfl, rfl, fun _ => rfl, fun _ => rfl, fun _ => rfl, fun _ => rfl, fun _ => rfl, fun _ => rfl, fun _ => rfl, fun _ => rfl⟩

@[simp] theorem setShd_reads (a : Nat) (w : Word) (s : State) :
    (∀ x, (setShd a w s).reg x = s.reg x) ∧ (∀ b g, (setShd a w s).rd b g = s.rd b g)
    ∧ (∀ b g, (setShd a w s).flag b g = s.flag b g) ∧ (∀ x, (setShd a w s).ring x = s.ring x)
    ∧ (∀ x, (setShd a w s).running x = s.running x) ∧ (∀ x, (setShd a w s).keySlot x = s.keySlot x)
    ∧ (setShd a w s).coarseNow = s.coarseNow ∧ (setShd a w s).unow = s.unow ∧ (setShd a w s).count = s.count
    ∧ (setShd a w s).dma = s.dma ∧ (∀ x, (setShd a w s).site x = s.site x) ∧ (∀ x, (setShd a w s).tile x = s.tile x)
    ∧ (∀ x, (setShd a w s).pin x = s.pin x) ∧ (∀ x, (setShd a w s).awOf x = s.awOf x)
    ∧ (∀ x, (setShd a w s).wmOf x = s.wmOf x) ∧ (∀ x, (setShd a w s).pgOf x = s.pgOf x)
    ∧ (∀ x, (setShd a w s).aqOf x = s.aqOf x) ∧ (∀ x, (setShd a w s).tuOf x = s.tuOf x) := by
  refine ⟨fun _ => rfl, fun _ _ => rfl, fun _ _ => rfl, fun _ => rfl, fun _ => rfl, fun _ => rfl, rfl, rfl, rfl, rfl, fun _ => rfl, fun _ => rfl, fun _ => rfl, fun _ => rfl, fun _ => rfl, fun _ => rfl, fun _ => rfl, fun _ => rfl⟩

@[simp] theorem wr_reads (a : Nat) (f : Fld) (v : Nat) (s : State) :
    (∀ x, (wr a f v s).shd x = s.shd x) ∧ (∀ b g, (wr a f v s).rdS b g = s.rdS b g) ∧ (∀ x, (wr a f v s).ring x = s.ring x)
    ∧ (∀ x, (wr a f v s).running x = s.running x) ∧ (∀ x, (wr a f v s).keySlot x = s.keySlot x) ∧ (wr a f v s).unow = s.unow
    ∧ (wr a f v s).count = s.count ∧ (∀ x, (wr a f v s).site x = s.site x) ∧ (∀ x, (wr a f v s).tile x = s.tile x)
    ∧ (∀ x, (wr a f v s).pin x = s.pin x) ∧ (∀ x, (wr a f v s).awOf x = s.awOf x) ∧ (∀ x, (wr a f v s).wmOf x = s.wmOf x)
    ∧ (∀ x, (wr a f v s).pgOf x = s.pgOf x) ∧ (∀ x, (wr a f v s).aqOf x = s.aqOf x) ∧ (∀ x, (wr a f v s).tuOf x = s.tuOf x) := by
  refine ⟨fun _ => rfl, fun _ _ => rfl, fun _ => rfl, fun _ => rfl, fun _ => rfl, rfl, rfl, fun _ => rfl, fun _ => rfl, fun _ => rfl, fun _ => rfl, fun _ => rfl, fun _ => rfl, fun _ => rfl, fun _ => rfl⟩

@[simp] theorem wrS_reads (a : Nat) (f : Fld) (v : Nat) (s : State) :
    (∀ x, (wrS a f v s).reg x = s.reg x) ∧ (∀ b g, (wrS a f v s).rd b g = s.rd b g)
    ∧ (∀ b g, (wrS a f v s).flag b g = s.flag b g) ∧ (∀ x, (wrS a f v s).ring x = s.ring x)
    ∧ (∀ x, (wrS a f v s).running x = s.running x) ∧ (∀ x, (wrS a f v s).keySlot x = s.keySlot x)
    ∧ (wrS a f v s).coarseNow = s.coarseNow ∧ (wrS a f v s).unow = s.unow ∧ (wrS a f v s).count = s.count
    ∧ (wrS a f v s).dma = s.dma ∧ (∀ x, (wrS a f v s).site x = s.site x) ∧ (∀ x, (wrS a f v s).tile x = s.tile x)
    ∧ (∀ x, (wrS a f v s).pin x = s.pin x) ∧ (∀ x, (wrS a f v s).awOf x = s.awOf x) ∧ (∀ x, (wrS a f v s).wmOf x = s.wmOf x)
    ∧ (∀ x, (wrS a f v s).pgOf x = s.pgOf x) ∧ (∀ x, (wrS a f v s).aqOf x = s.aqOf x)
    ∧ (∀ x, (wrS a f v s).tuOf x = s.tuOf x) := by
  refine ⟨fun _ => rfl, fun _ _ => rfl, fun _ _ => rfl, fun _ => rfl, fun _ => rfl, fun _ => rfl, rfl, rfl, rfl, rfl, fun _ => rfl, fun _ => rfl, fun _ => rfl, fun _ => rfl, fun _ => rfl, fun _ => rfl, fun _ => rfl, fun _ => rfl⟩

@[simp] theorem wrBoth_reads (a : Nat) (f : Fld) (v : Nat) (s : State) :
    (∀ x, (wrBoth a f v s).ring x = s.ring x) ∧ (∀ x, (wrBoth a f v s).running x = s.running x)
    ∧ (∀ x, (wrBoth a f v s).keySlot x = s.keySlot x) ∧ (wrBoth a f v s).unow = s.unow ∧ (wrBoth a f v s).count = s.count
    ∧ (∀ x, (wrBoth a f v s).site x = s.site x) ∧ (∀ x, (wrBoth a f v s).tile x = s.tile x)
    ∧ (∀ x, (wrBoth a f v s).pin x = s.pin x) ∧ (∀ x, (wrBoth a f v s).awOf x = s.awOf x)
    ∧ (∀ x, (wrBoth a f v s).wmOf x = s.wmOf x) ∧ (∀ x, (wrBoth a f v s).pgOf x = s.pgOf x)
    ∧ (∀ x, (wrBoth a f v s).aqOf x = s.aqOf x) ∧ (∀ x, (wrBoth a f v s).tuOf x = s.tuOf x) := by
  refine ⟨fun _ => rfl, fun _ => rfl, fun _ => rfl, rfl, rfl, fun _ => rfl, fun _ => rfl, fun _ => rfl, fun _ => rfl, fun _ => rfl, fun _ => rfl, fun _ => rfl, fun _ => rfl⟩

@[simp] theorem raiseBits_reads (a : Nat) (f : Fld) (m : Nat) (s : State) :
    (∀ x, (raiseBits a f m s).shd x = s.shd x) ∧ (∀ b g, (raiseBits a f m s).rdS b g = s.rdS b g)
    ∧ (∀ x, (raiseBits a f m s).ring x = s.ring x) ∧ (∀ x, (raiseBits a f m s).running x = s.running x)
    ∧ (∀ x, (raiseBits a f m s).keySlot x = s.keySlot x) ∧ (raiseBits a f m s).unow = s.unow
    ∧ (raiseBits a f m s).count = s.count ∧ (∀ x, (raiseBits a f m s).site x = s.site x)
    ∧ (∀ x, (raiseBits a f m s).tile x = s.tile x) ∧ (∀ x, (raiseBits a f m s).pin x = s.pin x)
    ∧ (∀ x, (raiseBits a f m s).awOf x = s.awOf x) ∧ (∀ x, (raiseBits a f m s).wmOf x = s.wmOf x)
    ∧ (∀ x, (raiseBits a f m s).pgOf x = s.pgOf x) ∧ (∀ x, (raiseBits a f m s).aqOf x = s.aqOf x)
    ∧ (∀ x, (raiseBits a f m s).tuOf x = s.tuOf x) := by
  refine ⟨fun _ => rfl, fun _ _ => rfl, fun _ => rfl, fun _ => rfl, fun _ => rfl, rfl, rfl, fun _ => rfl, fun _ => rfl, fun _ => rfl, fun _ => rfl, fun _ => rfl, fun _ => rfl, fun _ => rfl, fun _ => rfl⟩

@[simp] theorem raise_reads (a : Nat) (f : Fld) (s : State) :
    (∀ x, (raise a f s).shd x = s.shd x) ∧ (∀ b g, (raise a f s).rdS b g = s.rdS b g)
    ∧ (∀ x, (raise a f s).ring x = s.ring x) ∧ (∀ x, (raise a f s).running x = s.running x)
    ∧ (∀ x, (raise a f s).keySlot x = s.keySlot x) ∧ (raise a f s).unow = s.unow ∧ (raise a f s).count = s.count
    ∧ (∀ x, (raise a f s).site x = s.site x) ∧ (∀ x, (raise a f s).tile x = s.tile x) ∧ (∀ x, (raise a f s).pin x = s.pin x)
    ∧ (∀ x, (raise a f s).awOf x = s.awOf x) ∧ (∀ x, (raise a f s).wmOf x = s.wmOf x)
    ∧ (∀ x, (raise a f s).pgOf x = s.pgOf x) ∧ (∀ x, (raise a f s).aqOf x = s.aqOf x)
    ∧ (∀ x, (raise a f s).tuOf x = s.tuOf x) := by
  refine ⟨fun _ => rfl, fun _ _ => rfl, fun _ => rfl, fun _ => rfl, fun _ => rfl, rfl, rfl, fun _ => rfl, fun _ => rfl, fun _ => rfl, fun _ => rfl, fun _ => rfl, fun _ => rfl, fun _ => rfl, fun _ => rfl⟩

@[simp] theorem clearBits_reads (a : Nat) (f : Fld) (v : Nat) (s : State) :
    (∀ x, (clearBits a f v s).shd x = s.shd x) ∧ (∀ b g, (clearBits a f v s).rdS b g = s.rdS b g)
    ∧ (∀ x, (clearBits a f v s).ring x = s.ring x) ∧ (∀ x, (clearBits a f v s).running x = s.running x)
    ∧ (∀ x, (clearBits a f v s).keySlot x = s.keySlot x) ∧ (clearBits a f v s).unow = s.unow
    ∧ (clearBits a f v s).count = s.count ∧ (∀ x, (clearBits a f v s).site x = s.site x)
    ∧ (∀ x, (clearBits a f v s).tile x = s.tile x) ∧ (∀ x, (clearBits a f v s).pin x = s.pin x)
    ∧ (∀ x, (clearBits a f v s).awOf x = s.awOf x) ∧ (∀ x, (clearBits a f v s).wmOf x = s.wmOf x)
    ∧ (∀ x, (clearBits a f v s).pgOf x = s.pgOf x) ∧ (∀ x, (clearBits a f v s).aqOf x = s.aqOf x)
    ∧ (∀ x, (clearBits a f v s).tuOf x = s.tuOf x) := by
  refine ⟨fun _ => rfl, fun _ _ => rfl, fun _ => rfl, fun _ => rfl, fun _ => rfl, rfl, rfl, fun _ => rfl, fun _ => rfl, fun _ => rfl, fun _ => rfl, fun _ => rfl, fun _ => rfl, fun _ => rfl, fun _ => rfl⟩

@[simp] theorem rcClear_reads (a : Nat) (f : Fld) (v : Nat) (s : State) :
    (∀ x, (rcClear a f v s).shd x = s.shd x) ∧ (∀ b g, (rcClear a f v s).rdS b g = s.rdS b g)
    ∧ (∀ x, (rcClear a f v s).ring x = s.ring x) ∧ (∀ x, (rcClear a f v s).running x = s.running x)
    ∧ (∀ x, (rcClear a f v s).keySlot x = s.keySlot x) ∧ (rcClear a f v s).unow = s.unow ∧ (rcClear a f v s).count = s.count
    ∧ (∀ x, (rcClear a f v s).site x = s.site x) ∧ (∀ x, (rcClear a f v s).tile x = s.tile x)
    ∧ (∀ x, (rcClear a f v s).pin x = s.pin x) ∧ (∀ x, (rcClear a f v s).awOf x = s.awOf x)
    ∧ (∀ x, (rcClear a f v s).wmOf x = s.wmOf x) ∧ (∀ x, (rcClear a f v s).pgOf x = s.pgOf x)
    ∧ (∀ x, (rcClear a f v s).aqOf x = s.aqOf x) ∧ (∀ x, (rcClear a f v s).tuOf x = s.tuOf x) := by
  refine ⟨fun _ => rfl, fun _ _ => rfl, fun _ => rfl, fun _ => rfl, fun _ => rfl, rfl, rfl, fun _ => rfl, fun _ => rfl, fun _ => rfl, fun _ => rfl, fun _ => rfl, fun _ => rfl, fun _ => rfl, fun _ => rfl⟩

@[simp] theorem markWrites_reads (u : State) (s : State) :
    (∀ x, (markWrites u s).reg x = s.reg x) ∧ (∀ b g, (markWrites u s).rd b g = s.rd b g)
    ∧ (∀ b g, (markWrites u s).flag b g = s.flag b g) ∧ (∀ x, (markWrites u s).shd x = s.shd x)
    ∧ (∀ b g, (markWrites u s).rdS b g = s.rdS b g) ∧ (∀ x, (markWrites u s).ring x = s.ring x)
    ∧ (∀ x, (markWrites u s).running x = s.running x) ∧ (∀ x, (markWrites u s).keySlot x = s.keySlot x)
    ∧ (markWrites u s).coarseNow = s.coarseNow ∧ (markWrites u s).unow = s.unow ∧ (markWrites u s).count = s.count
    ∧ (markWrites u s).dma = s.dma ∧ (∀ x, (markWrites u s).site x = s.site x) ∧ (∀ x, (markWrites u s).tile x = s.tile x)
    ∧ (∀ x, (markWrites u s).pin x = s.pin x) ∧ (∀ x, (markWrites u s).awOf x = s.awOf x)
    ∧ (∀ x, (markWrites u s).wmOf x = s.wmOf x) ∧ (∀ x, (markWrites u s).pgOf x = s.pgOf x)
    ∧ (∀ x, (markWrites u s).aqOf x = s.aqOf x) ∧ (∀ x, (markWrites u s).tuOf x = s.tuOf x) := by
  refine ⟨fun _ => rfl, fun _ _ => rfl, fun _ _ => rfl, fun _ => rfl, fun _ _ => rfl, fun _ => rfl, fun _ => rfl, fun _ => rfl, rfl, rfl, rfl, rfl, fun _ => rfl, fun _ => rfl, fun _ => rfl, fun _ => rfl, fun _ => rfl, fun _ => rfl, fun _ => rfl, fun _ => rfl⟩

@[simp] theorem holdAccess_reads (u : Nat) (c : Instr) (s : State) :
    (∀ x, (holdAccess u c s).reg x = s.reg x) ∧ (∀ b g, (holdAccess u c s).rd b g = s.rd b g)
    ∧ (∀ b g, (holdAccess u c s).flag b g = s.flag b g) ∧ (∀ x, (holdAccess u c s).shd x = s.shd x)
    ∧ (∀ b g, (holdAccess u c s).rdS b g = s.rdS b g) ∧ (∀ x, (holdAccess u c s).ring x = s.ring x)
    ∧ (∀ x, (holdAccess u c s).running x = s.running x) ∧ (∀ x, (holdAccess u c s).keySlot x = s.keySlot x)
    ∧ (holdAccess u c s).coarseNow = s.coarseNow ∧ (holdAccess u c s).unow = s.unow ∧ (holdAccess u c s).count = s.count
    ∧ (holdAccess u c s).dma = s.dma ∧ (∀ x, (holdAccess u c s).site x = s.site x)
    ∧ (∀ x, (holdAccess u c s).tile x = s.tile x) ∧ (∀ x, (holdAccess u c s).pin x = s.pin x)
    ∧ (∀ x, (holdAccess u c s).awOf x = s.awOf x) ∧ (∀ x, (holdAccess u c s).wmOf x = s.wmOf x)
    ∧ (∀ x, (holdAccess u c s).pgOf x = s.pgOf x) ∧ (∀ x, (holdAccess u c s).aqOf x = s.aqOf x)
    ∧ (∀ x, (holdAccess u c s).tuOf x = s.tuOf x) := by
  refine ⟨fun _ => rfl, fun _ _ => rfl, fun _ _ => rfl, fun _ => rfl, fun _ _ => rfl, fun _ => rfl, fun _ => rfl, fun _ => rfl, rfl, rfl, rfl, rfl, fun _ => rfl, fun _ => rfl, fun _ => rfl, fun _ => rfl, fun _ => rfl, fun _ => rfl, fun _ => rfl, fun _ => rfl⟩

@[simp] theorem applyReg_reads (a : Nat) (s : State) :
    (∀ x, (applyReg a s).shd x = s.shd x) ∧ (∀ b g, (applyReg a s).rdS b g = s.rdS b g)
    ∧ (∀ x, (applyReg a s).ring x = s.ring x) ∧ (∀ x, (applyReg a s).running x = s.running x)
    ∧ (∀ x, (applyReg a s).keySlot x = s.keySlot x) ∧ (applyReg a s).unow = s.unow ∧ (applyReg a s).count = s.count
    ∧ (∀ x, (applyReg a s).site x = s.site x) ∧ (∀ x, (applyReg a s).tile x = s.tile x)
    ∧ (∀ x, (applyReg a s).pin x = s.pin x) ∧ (∀ x, (applyReg a s).awOf x = s.awOf x)
    ∧ (∀ x, (applyReg a s).wmOf x = s.wmOf x) ∧ (∀ x, (applyReg a s).pgOf x = s.pgOf x)
    ∧ (∀ x, (applyReg a s).aqOf x = s.aqOf x) ∧ (∀ x, (applyReg a s).tuOf x = s.tuOf x) := by
  refine ⟨fun _ => rfl, fun _ _ => rfl, fun _ => rfl, fun _ => rfl, fun _ => rfl, rfl, rfl, fun _ => rfl, fun _ => rfl, fun _ => rfl, fun _ => rfl, fun _ => rfl, fun _ => rfl, fun _ => rfl, fun _ => rfl⟩

@[simp] theorem bumpBy_reads (a : Nat) (f : Fld) (n : Nat) (s : State) :
    (∀ x, (bumpBy a f n s).shd x = s.shd x) ∧ (∀ b g, (bumpBy a f n s).rdS b g = s.rdS b g)
    ∧ (∀ x, (bumpBy a f n s).ring x = s.ring x) ∧ (∀ x, (bumpBy a f n s).running x = s.running x)
    ∧ (∀ x, (bumpBy a f n s).keySlot x = s.keySlot x) ∧ (bumpBy a f n s).unow = s.unow ∧ (bumpBy a f n s).count = s.count
    ∧ (∀ x, (bumpBy a f n s).site x = s.site x) ∧ (∀ x, (bumpBy a f n s).tile x = s.tile x)
    ∧ (∀ x, (bumpBy a f n s).pin x = s.pin x) ∧ (∀ x, (bumpBy a f n s).awOf x = s.awOf x)
    ∧ (∀ x, (bumpBy a f n s).wmOf x = s.wmOf x) ∧ (∀ x, (bumpBy a f n s).pgOf x = s.pgOf x)
    ∧ (∀ x, (bumpBy a f n s).aqOf x = s.aqOf x) ∧ (∀ x, (bumpBy a f n s).tuOf x = s.tuOf x) := by
  refine ⟨fun _ => rfl, fun _ _ => rfl, fun _ => rfl, fun _ => rfl, fun _ => rfl, rfl, rfl, fun _ => rfl, fun _ => rfl, fun _ => rfl, fun _ => rfl, fun _ => rfl, fun _ => rfl, fun _ => rfl, fun _ => rfl⟩

@[simp] theorem bump_reads (a : Nat) (f : Fld) (s : State) :
    (∀ x, (bump a f s).shd x = s.shd x) ∧ (∀ b g, (bump a f s).rdS b g = s.rdS b g) ∧ (∀ x, (bump a f s).ring x = s.ring x)
    ∧ (∀ x, (bump a f s).running x = s.running x) ∧ (∀ x, (bump a f s).keySlot x = s.keySlot x) ∧ (bump a f s).unow = s.unow
    ∧ (bump a f s).count = s.count ∧ (∀ x, (bump a f s).site x = s.site x) ∧ (∀ x, (bump a f s).tile x = s.tile x)
    ∧ (∀ x, (bump a f s).pin x = s.pin x) ∧ (∀ x, (bump a f s).awOf x = s.awOf x) ∧ (∀ x, (bump a f s).wmOf x = s.wmOf x)
    ∧ (∀ x, (bump a f s).pgOf x = s.pgOf x) ∧ (∀ x, (bump a f s).aqOf x = s.aqOf x) ∧ (∀ x, (bump a f s).tuOf x = s.tuOf x) := by
  refine ⟨fun _ => rfl, fun _ _ => rfl, fun _ => rfl, fun _ => rfl, fun _ => rfl, rfl, rfl, fun _ => rfl, fun _ => rfl, fun _ => rfl, fun _ => rfl, fun _ => rfl, fun _ => rfl, fun _ => rfl, fun _ => rfl⟩

@[simp] theorem wrPair_reads (lo hi v : Nat) (s : State) :
    (∀ x, (wrPair lo hi v s).shd x = s.shd x) ∧ (∀ b g, (wrPair lo hi v s).rdS b g = s.rdS b g)
    ∧ (∀ x, (wrPair lo hi v s).ring x = s.ring x) ∧ (∀ x, (wrPair lo hi v s).running x = s.running x)
    ∧ (∀ x, (wrPair lo hi v s).keySlot x = s.keySlot x) ∧ (wrPair lo hi v s).unow = s.unow
    ∧ (wrPair lo hi v s).count = s.count ∧ (∀ x, (wrPair lo hi v s).site x = s.site x)
    ∧ (∀ x, (wrPair lo hi v s).tile x = s.tile x) ∧ (∀ x, (wrPair lo hi v s).pin x = s.pin x)
    ∧ (∀ x, (wrPair lo hi v s).awOf x = s.awOf x) ∧ (∀ x, (wrPair lo hi v s).wmOf x = s.wmOf x)
    ∧ (∀ x, (wrPair lo hi v s).pgOf x = s.pgOf x) ∧ (∀ x, (wrPair lo hi v s).aqOf x = s.aqOf x)
    ∧ (∀ x, (wrPair lo hi v s).tuOf x = s.tuOf x) := by
  refine ⟨fun _ => rfl, fun _ _ => rfl, fun _ => rfl, fun _ => rfl, fun _ => rfl, rfl, rfl, fun _ => rfl, fun _ => rfl, fun _ => rfl, fun _ => rfl, fun _ => rfl, fun _ => rfl, fun _ => rfl, fun _ => rfl⟩

@[simp] theorem nextFresh_reads (s : State) :
    (∀ x, (nextFresh s).reg x = s.reg x) ∧ (∀ b g, (nextFresh s).rd b g = s.rd b g)
    ∧ (∀ b g, (nextFresh s).flag b g = s.flag b g) ∧ (∀ x, (nextFresh s).shd x = s.shd x)
    ∧ (∀ b g, (nextFresh s).rdS b g = s.rdS b g) ∧ (∀ x, (nextFresh s).ring x = s.ring x)
    ∧ (∀ x, (nextFresh s).running x = s.running x) ∧ (∀ x, (nextFresh s).keySlot x = s.keySlot x)
    ∧ (nextFresh s).coarseNow = s.coarseNow ∧ (nextFresh s).unow = s.unow ∧ (nextFresh s).count = s.count
    ∧ (nextFresh s).dma = s.dma ∧ (∀ x, (nextFresh s).site x = s.site x) ∧ (∀ x, (nextFresh s).tile x = s.tile x)
    ∧ (∀ x, (nextFresh s).pin x = s.pin x) ∧ (∀ x, (nextFresh s).awOf x = s.awOf x) ∧ (∀ x, (nextFresh s).wmOf x = s.wmOf x)
    ∧ (∀ x, (nextFresh s).pgOf x = s.pgOf x) ∧ (∀ x, (nextFresh s).aqOf x = s.aqOf x)
    ∧ (∀ x, (nextFresh s).tuOf x = s.tuOf x) := by
  refine ⟨fun _ => rfl, fun _ _ => rfl, fun _ _ => rfl, fun _ => rfl, fun _ _ => rfl, fun _ => rfl, fun _ => rfl, fun _ => rfl, rfl, rfl, rfl, rfl, fun _ => rfl, fun _ => rfl, fun _ => rfl, fun _ => rfl, fun _ => rfl, fun _ => rfl, fun _ => rfl, fun _ => rfl⟩

@[simp] theorem emit_reads (o : Output) (s : State) :
    (∀ x, (emit o s).reg x = s.reg x) ∧ (∀ b g, (emit o s).rd b g = s.rd b g) ∧ (∀ b g, (emit o s).flag b g = s.flag b g)
    ∧ (∀ x, (emit o s).shd x = s.shd x) ∧ (∀ b g, (emit o s).rdS b g = s.rdS b g) ∧ (∀ x, (emit o s).ring x = s.ring x)
    ∧ (∀ x, (emit o s).running x = s.running x) ∧ (∀ x, (emit o s).keySlot x = s.keySlot x)
    ∧ (emit o s).coarseNow = s.coarseNow ∧ (emit o s).unow = s.unow ∧ (emit o s).count = s.count ∧ (emit o s).dma = s.dma
    ∧ (∀ x, (emit o s).site x = s.site x) ∧ (∀ x, (emit o s).tile x = s.tile x) ∧ (∀ x, (emit o s).pin x = s.pin x)
    ∧ (∀ x, (emit o s).awOf x = s.awOf x) ∧ (∀ x, (emit o s).wmOf x = s.wmOf x) ∧ (∀ x, (emit o s).pgOf x = s.pgOf x)
    ∧ (∀ x, (emit o s).aqOf x = s.aqOf x) ∧ (∀ x, (emit o s).tuOf x = s.tuOf x) := by
  refine ⟨fun _ => rfl, fun _ _ => rfl, fun _ _ => rfl, fun _ => rfl, fun _ _ => rfl, fun _ => rfl, fun _ => rfl, fun _ => rfl, rfl, rfl, rfl, rfl, fun _ => rfl, fun _ => rfl, fun _ => rfl, fun _ => rfl, fun _ => rfl, fun _ => rfl, fun _ => rfl, fun _ => rfl⟩

@[simp] theorem setClaim_reads (u n : Nat) (s : State) :
    (∀ x, (setClaim u n s).shd x = s.shd x) ∧ (∀ b g, (setClaim u n s).rdS b g = s.rdS b g)
    ∧ (∀ x, (setClaim u n s).ring x = s.ring x) ∧ (∀ x, (setClaim u n s).running x = s.running x)
    ∧ (∀ x, (setClaim u n s).keySlot x = s.keySlot x) ∧ (setClaim u n s).unow = s.unow ∧ (setClaim u n s).count = s.count
    ∧ (∀ x, (setClaim u n s).site x = s.site x) ∧ (∀ x, (setClaim u n s).tile x = s.tile x)
    ∧ (∀ x, (setClaim u n s).pin x = s.pin x) ∧ (∀ x, (setClaim u n s).awOf x = s.awOf x)
    ∧ (∀ x, (setClaim u n s).wmOf x = s.wmOf x) ∧ (∀ x, (setClaim u n s).pgOf x = s.pgOf x)
    ∧ (∀ x, (setClaim u n s).aqOf x = s.aqOf x) ∧ (∀ x, (setClaim u n s).tuOf x = s.tuOf x) := by
  refine ⟨fun _ => rfl, fun _ _ => rfl, fun _ => rfl, fun _ => rfl, fun _ => rfl, rfl, rfl, fun _ => rfl, fun _ => rfl, fun _ => rfl, fun _ => rfl, fun _ => rfl, fun _ => rfl, fun _ => rfl, fun _ => rfl⟩

@[simp] theorem modRing_reads (q : Nat) (f : Ring → Ring) (s : State) :
    (∀ x, (modRing q f s).reg x = s.reg x) ∧ (∀ b g, (modRing q f s).rd b g = s.rd b g)
    ∧ (∀ b g, (modRing q f s).flag b g = s.flag b g) ∧ (∀ x, (modRing q f s).shd x = s.shd x)
    ∧ (∀ b g, (modRing q f s).rdS b g = s.rdS b g) ∧ (∀ x, (modRing q f s).keySlot x = s.keySlot x)
    ∧ (modRing q f s).coarseNow = s.coarseNow ∧ (modRing q f s).unow = s.unow ∧ (modRing q f s).count = s.count
    ∧ (modRing q f s).dma = s.dma ∧ (∀ x, (modRing q f s).site x = s.site x) ∧ (∀ x, (modRing q f s).tile x = s.tile x)
    ∧ (∀ x, (modRing q f s).pin x = s.pin x) ∧ (∀ x, (modRing q f s).awOf x = s.awOf x)
    ∧ (∀ x, (modRing q f s).wmOf x = s.wmOf x) ∧ (∀ x, (modRing q f s).pgOf x = s.pgOf x)
    ∧ (∀ x, (modRing q f s).aqOf x = s.aqOf x) ∧ (∀ x, (modRing q f s).tuOf x = s.tuOf x) := by
  refine ⟨fun _ => rfl, fun _ _ => rfl, fun _ _ => rfl, fun _ => rfl, fun _ _ => rfl, fun _ => rfl, rfl, rfl, rfl, rfl, fun _ => rfl, fun _ => rfl, fun _ => rfl, fun _ => rfl, fun _ => rfl, fun _ => rfl, fun _ => rfl, fun _ => rfl⟩

@[simp] theorem modCmd_reads (q : Nat) (f : Cmd → Cmd) (s : State) :
    (∀ x, (modCmd q f s).reg x = s.reg x) ∧ (∀ b g, (modCmd q f s).rd b g = s.rd b g)
    ∧ (∀ b g, (modCmd q f s).flag b g = s.flag b g) ∧ (∀ x, (modCmd q f s).shd x = s.shd x)
    ∧ (∀ b g, (modCmd q f s).rdS b g = s.rdS b g) ∧ (∀ x, (modCmd q f s).keySlot x = s.keySlot x)
    ∧ (modCmd q f s).coarseNow = s.coarseNow ∧ (modCmd q f s).unow = s.unow ∧ (modCmd q f s).count = s.count
    ∧ (modCmd q f s).dma = s.dma ∧ (∀ x, (modCmd q f s).site x = s.site x) ∧ (∀ x, (modCmd q f s).tile x = s.tile x)
    ∧ (∀ x, (modCmd q f s).pin x = s.pin x) ∧ (∀ x, (modCmd q f s).awOf x = s.awOf x)
    ∧ (∀ x, (modCmd q f s).wmOf x = s.wmOf x) ∧ (∀ x, (modCmd q f s).pgOf x = s.pgOf x)
    ∧ (∀ x, (modCmd q f s).aqOf x = s.aqOf x) ∧ (∀ x, (modCmd q f s).tuOf x = s.tuOf x) := by
  refine ⟨fun _ => rfl, fun _ _ => rfl, fun _ _ => rfl, fun _ => rfl, fun _ _ => rfl, fun _ => rfl, rfl, rfl, rfl, rfl, fun _ => rfl, fun _ => rfl, fun _ => rfl, fun _ => rfl, fun _ => rfl, fun _ => rfl, fun _ => rfl, fun _ => rfl⟩

@[simp] theorem setKey_reads (k : Nat) (v : KeySlot) (s : State) :
    (∀ x, (setKey k v s).reg x = s.reg x) ∧ (∀ b g, (setKey k v s).rd b g = s.rd b g)
    ∧ (∀ b g, (setKey k v s).flag b g = s.flag b g) ∧ (∀ x, (setKey k v s).shd x = s.shd x)
    ∧ (∀ b g, (setKey k v s).rdS b g = s.rdS b g) ∧ (∀ x, (setKey k v s).ring x = s.ring x)
    ∧ (∀ x, (setKey k v s).running x = s.running x) ∧ (setKey k v s).coarseNow = s.coarseNow ∧ (setKey k v s).unow = s.unow
    ∧ (setKey k v s).count = s.count ∧ (setKey k v s).dma = s.dma ∧ (∀ x, (setKey k v s).site x = s.site x)
    ∧ (∀ x, (setKey k v s).tile x = s.tile x) ∧ (∀ x, (setKey k v s).pin x = s.pin x)
    ∧ (∀ x, (setKey k v s).awOf x = s.awOf x) ∧ (∀ x, (setKey k v s).wmOf x = s.wmOf x)
    ∧ (∀ x, (setKey k v s).pgOf x = s.pgOf x) ∧ (∀ x, (setKey k v s).aqOf x = s.aqOf x)
    ∧ (∀ x, (setKey k v s).tuOf x = s.tuOf x) := by
  refine ⟨fun _ => rfl, fun _ _ => rfl, fun _ _ => rfl, fun _ => rfl, fun _ _ => rfl, fun _ => rfl, fun _ => rfl, rfl, rfl, rfl, rfl, fun _ => rfl, fun _ => rfl, fun _ => rfl, fun _ => rfl, fun _ => rfl, fun _ => rfl, fun _ => rfl, fun _ => rfl⟩

@[simp] theorem modSite_reads (i : Nat) (f : Site → Site) (s : State) :
    (∀ x, (modSite i f s).reg x = s.reg x) ∧ (∀ b g, (modSite i f s).rd b g = s.rd b g)
    ∧ (∀ b g, (modSite i f s).flag b g = s.flag b g) ∧ (∀ x, (modSite i f s).shd x = s.shd x)
    ∧ (∀ b g, (modSite i f s).rdS b g = s.rdS b g) ∧ (∀ x, (modSite i f s).ring x = s.ring x)
    ∧ (∀ x, (modSite i f s).running x = s.running x) ∧ (∀ x, (modSite i f s).keySlot x = s.keySlot x)
    ∧ (modSite i f s).coarseNow = s.coarseNow ∧ (modSite i f s).unow = s.unow ∧ (modSite i f s).count = s.count
    ∧ (modSite i f s).dma = s.dma ∧ (∀ x, (modSite i f s).tile x = s.tile x) ∧ (∀ x, (modSite i f s).pin x = s.pin x)
    ∧ (∀ x, (modSite i f s).awOf x = s.awOf x) ∧ (∀ x, (modSite i f s).wmOf x = s.wmOf x)
    ∧ (∀ x, (modSite i f s).pgOf x = s.pgOf x) ∧ (∀ x, (modSite i f s).aqOf x = s.aqOf x)
    ∧ (∀ x, (modSite i f s).tuOf x = s.tuOf x) := by
  refine ⟨fun _ => rfl, fun _ _ => rfl, fun _ _ => rfl, fun _ => rfl, fun _ _ => rfl, fun _ => rfl, fun _ => rfl, fun _ => rfl, rfl, rfl, rfl, rfl, fun _ => rfl, fun _ => rfl, fun _ => rfl, fun _ => rfl, fun _ => rfl, fun _ => rfl, fun _ => rfl⟩

@[simp] theorem modTile_reads (k : Nat) (f : Tile → Tile) (s : State) :
    (∀ x, (modTile k f s).reg x = s.reg x) ∧ (∀ b g, (modTile k f s).rd b g = s.rd b g)
    ∧ (∀ b g, (modTile k f s).flag b g = s.flag b g) ∧ (∀ x, (modTile k f s).shd x = s.shd x)
    ∧ (∀ b g, (modTile k f s).rdS b g = s.rdS b g) ∧ (∀ x, (modTile k f s).ring x = s.ring x)
    ∧ (∀ x, (modTile k f s).running x = s.running x) ∧ (∀ x, (modTile k f s).keySlot x = s.keySlot x)
    ∧ (modTile k f s).coarseNow = s.coarseNow ∧ (modTile k f s).unow = s.unow ∧ (modTile k f s).count = s.count
    ∧ (modTile k f s).dma = s.dma ∧ (∀ x, (modTile k f s).site x = s.site x) ∧ (∀ x, (modTile k f s).pin x = s.pin x)
    ∧ (∀ x, (modTile k f s).awOf x = s.awOf x) ∧ (∀ x, (modTile k f s).wmOf x = s.wmOf x)
    ∧ (∀ x, (modTile k f s).pgOf x = s.pgOf x) ∧ (∀ x, (modTile k f s).aqOf x = s.aqOf x)
    ∧ (∀ x, (modTile k f s).tuOf x = s.tuOf x) := by
  refine ⟨fun _ => rfl, fun _ _ => rfl, fun _ _ => rfl, fun _ => rfl, fun _ _ => rfl, fun _ => rfl, fun _ => rfl, fun _ => rfl, rfl, rfl, rfl, rfl, fun _ => rfl, fun _ => rfl, fun _ => rfl, fun _ => rfl, fun _ => rfl, fun _ => rfl, fun _ => rfl⟩

@[simp] theorem modPlace_reads (f : Place → Place) (s : State) :
    (∀ x, (modPlace f s).reg x = s.reg x) ∧ (∀ b g, (modPlace f s).rd b g = s.rd b g)
    ∧ (∀ b g, (modPlace f s).flag b g = s.flag b g) ∧ (∀ x, (modPlace f s).shd x = s.shd x)
    ∧ (∀ b g, (modPlace f s).rdS b g = s.rdS b g) ∧ (∀ x, (modPlace f s).ring x = s.ring x)
    ∧ (∀ x, (modPlace f s).running x = s.running x) ∧ (∀ x, (modPlace f s).keySlot x = s.keySlot x)
    ∧ (modPlace f s).coarseNow = s.coarseNow ∧ (modPlace f s).unow = s.unow ∧ (modPlace f s).count = s.count
    ∧ (modPlace f s).dma = s.dma ∧ (∀ x, (modPlace f s).site x = s.site x) ∧ (∀ x, (modPlace f s).tile x = s.tile x)
    ∧ (∀ x, (modPlace f s).pin x = s.pin x) ∧ (∀ x, (modPlace f s).awOf x = s.awOf x)
    ∧ (∀ x, (modPlace f s).wmOf x = s.wmOf x) ∧ (∀ x, (modPlace f s).pgOf x = s.pgOf x)
    ∧ (∀ x, (modPlace f s).aqOf x = s.aqOf x) ∧ (∀ x, (modPlace f s).tuOf x = s.tuOf x) := by
  refine ⟨fun _ => rfl, fun _ _ => rfl, fun _ _ => rfl, fun _ => rfl, fun _ _ => rfl, fun _ => rfl, fun _ => rfl, fun _ => rfl, rfl, rfl, rfl, rfl, fun _ => rfl, fun _ => rfl, fun _ => rfl, fun _ => rfl, fun _ => rfl, fun _ => rfl, fun _ => rfl, fun _ => rfl⟩

@[simp] theorem modPin_reads (n : Nat) (f : Pin → Pin) (s : State) :
    (∀ x, (modPin n f s).reg x = s.reg x) ∧ (∀ b g, (modPin n f s).rd b g = s.rd b g)
    ∧ (∀ b g, (modPin n f s).flag b g = s.flag b g) ∧ (∀ x, (modPin n f s).shd x = s.shd x)
    ∧ (∀ b g, (modPin n f s).rdS b g = s.rdS b g) ∧ (∀ x, (modPin n f s).ring x = s.ring x)
    ∧ (∀ x, (modPin n f s).running x = s.running x) ∧ (∀ x, (modPin n f s).keySlot x = s.keySlot x)
    ∧ (modPin n f s).coarseNow = s.coarseNow ∧ (modPin n f s).unow = s.unow ∧ (modPin n f s).count = s.count
    ∧ (modPin n f s).dma = s.dma ∧ (∀ x, (modPin n f s).site x = s.site x) ∧ (∀ x, (modPin n f s).tile x = s.tile x)
    ∧ (∀ x, (modPin n f s).awOf x = s.awOf x) ∧ (∀ x, (modPin n f s).wmOf x = s.wmOf x)
    ∧ (∀ x, (modPin n f s).pgOf x = s.pgOf x) ∧ (∀ x, (modPin n f s).aqOf x = s.aqOf x)
    ∧ (∀ x, (modPin n f s).tuOf x = s.tuOf x) := by
  refine ⟨fun _ => rfl, fun _ _ => rfl, fun _ _ => rfl, fun _ => rfl, fun _ _ => rfl, fun _ => rfl, fun _ => rfl, fun _ => rfl, rfl, rfl, rfl, rfl, fun _ => rfl, fun _ => rfl, fun _ => rfl, fun _ => rfl, fun _ => rfl, fun _ => rfl, fun _ => rfl⟩

@[simp] theorem modAw_reads (k : Nat) (f : Aw → Aw) (s : State) :
    (∀ x, (modAw k f s).reg x = s.reg x) ∧ (∀ b g, (modAw k f s).rd b g = s.rd b g)
    ∧ (∀ b g, (modAw k f s).flag b g = s.flag b g) ∧ (∀ x, (modAw k f s).shd x = s.shd x)
    ∧ (∀ b g, (modAw k f s).rdS b g = s.rdS b g) ∧ (∀ x, (modAw k f s).ring x = s.ring x)
    ∧ (∀ x, (modAw k f s).running x = s.running x) ∧ (∀ x, (modAw k f s).keySlot x = s.keySlot x)
    ∧ (modAw k f s).coarseNow = s.coarseNow ∧ (modAw k f s).unow = s.unow ∧ (modAw k f s).count = s.count
    ∧ (modAw k f s).dma = s.dma ∧ (∀ x, (modAw k f s).site x = s.site x) ∧ (∀ x, (modAw k f s).tile x = s.tile x)
    ∧ (∀ x, (modAw k f s).pin x = s.pin x) ∧ (∀ x, (modAw k f s).wmOf x = s.wmOf x) ∧ (∀ x, (modAw k f s).pgOf x = s.pgOf x)
    ∧ (∀ x, (modAw k f s).aqOf x = s.aqOf x) ∧ (∀ x, (modAw k f s).tuOf x = s.tuOf x) := by
  refine ⟨fun _ => rfl, fun _ _ => rfl, fun _ _ => rfl, fun _ => rfl, fun _ _ => rfl, fun _ => rfl, fun _ => rfl, fun _ => rfl, rfl, rfl, rfl, rfl, fun _ => rfl, fun _ => rfl, fun _ => rfl, fun _ => rfl, fun _ => rfl, fun _ => rfl, fun _ => rfl⟩

@[simp] theorem modWm_reads (k : Nat) (f : Wm → Wm) (s : State) :
    (∀ x, (modWm k f s).reg x = s.reg x) ∧ (∀ b g, (modWm k f s).rd b g = s.rd b g)
    ∧ (∀ b g, (modWm k f s).flag b g = s.flag b g) ∧ (∀ x, (modWm k f s).shd x = s.shd x)
    ∧ (∀ b g, (modWm k f s).rdS b g = s.rdS b g) ∧ (∀ x, (modWm k f s).ring x = s.ring x)
    ∧ (∀ x, (modWm k f s).running x = s.running x) ∧ (∀ x, (modWm k f s).keySlot x = s.keySlot x)
    ∧ (modWm k f s).coarseNow = s.coarseNow ∧ (modWm k f s).unow = s.unow ∧ (modWm k f s).count = s.count
    ∧ (modWm k f s).dma = s.dma ∧ (∀ x, (modWm k f s).site x = s.site x) ∧ (∀ x, (modWm k f s).tile x = s.tile x)
    ∧ (∀ x, (modWm k f s).pin x = s.pin x) ∧ (∀ x, (modWm k f s).awOf x = s.awOf x) ∧ (∀ x, (modWm k f s).pgOf x = s.pgOf x)
    ∧ (∀ x, (modWm k f s).aqOf x = s.aqOf x) ∧ (∀ x, (modWm k f s).tuOf x = s.tuOf x) := by
  refine ⟨fun _ => rfl, fun _ _ => rfl, fun _ _ => rfl, fun _ => rfl, fun _ _ => rfl, fun _ => rfl, fun _ => rfl, fun _ => rfl, rfl, rfl, rfl, rfl, fun _ => rfl, fun _ => rfl, fun _ => rfl, fun _ => rfl, fun _ => rfl, fun _ => rfl, fun _ => rfl⟩

@[simp] theorem modPg_reads (j : Nat) (f : Pg → Pg) (s : State) :
    (∀ x, (modPg j f s).reg x = s.reg x) ∧ (∀ b g, (modPg j f s).rd b g = s.rd b g)
    ∧ (∀ b g, (modPg j f s).flag b g = s.flag b g) ∧ (∀ x, (modPg j f s).shd x = s.shd x)
    ∧ (∀ b g, (modPg j f s).rdS b g = s.rdS b g) ∧ (∀ x, (modPg j f s).ring x = s.ring x)
    ∧ (∀ x, (modPg j f s).running x = s.running x) ∧ (∀ x, (modPg j f s).keySlot x = s.keySlot x)
    ∧ (modPg j f s).coarseNow = s.coarseNow ∧ (modPg j f s).unow = s.unow ∧ (modPg j f s).count = s.count
    ∧ (modPg j f s).dma = s.dma ∧ (∀ x, (modPg j f s).site x = s.site x) ∧ (∀ x, (modPg j f s).tile x = s.tile x)
    ∧ (∀ x, (modPg j f s).pin x = s.pin x) ∧ (∀ x, (modPg j f s).awOf x = s.awOf x) ∧ (∀ x, (modPg j f s).wmOf x = s.wmOf x)
    ∧ (∀ x, (modPg j f s).aqOf x = s.aqOf x) ∧ (∀ x, (modPg j f s).tuOf x = s.tuOf x) := by
  refine ⟨fun _ => rfl, fun _ _ => rfl, fun _ _ => rfl, fun _ => rfl, fun _ _ => rfl, fun _ => rfl, fun _ => rfl, fun _ => rfl, rfl, rfl, rfl, rfl, fun _ => rfl, fun _ => rfl, fun _ => rfl, fun _ => rfl, fun _ => rfl, fun _ => rfl, fun _ => rfl⟩

@[simp] theorem modAq_reads (k : Nat) (f : Aq → Aq) (s : State) :
    (∀ x, (modAq k f s).reg x = s.reg x) ∧ (∀ b g, (modAq k f s).rd b g = s.rd b g)
    ∧ (∀ b g, (modAq k f s).flag b g = s.flag b g) ∧ (∀ x, (modAq k f s).shd x = s.shd x)
    ∧ (∀ b g, (modAq k f s).rdS b g = s.rdS b g) ∧ (∀ x, (modAq k f s).ring x = s.ring x)
    ∧ (∀ x, (modAq k f s).running x = s.running x) ∧ (∀ x, (modAq k f s).keySlot x = s.keySlot x)
    ∧ (modAq k f s).coarseNow = s.coarseNow ∧ (modAq k f s).unow = s.unow ∧ (modAq k f s).count = s.count
    ∧ (modAq k f s).dma = s.dma ∧ (∀ x, (modAq k f s).site x = s.site x) ∧ (∀ x, (modAq k f s).tile x = s.tile x)
    ∧ (∀ x, (modAq k f s).pin x = s.pin x) ∧ (∀ x, (modAq k f s).awOf x = s.awOf x) ∧ (∀ x, (modAq k f s).wmOf x = s.wmOf x)
    ∧ (∀ x, (modAq k f s).pgOf x = s.pgOf x) ∧ (∀ x, (modAq k f s).tuOf x = s.tuOf x) := by
  refine ⟨fun _ => rfl, fun _ _ => rfl, fun _ _ => rfl, fun _ => rfl, fun _ _ => rfl, fun _ => rfl, fun _ => rfl, fun _ => rfl, rfl, rfl, rfl, rfl, fun _ => rfl, fun _ => rfl, fun _ => rfl, fun _ => rfl, fun _ => rfl, fun _ => rfl, fun _ => rfl⟩

@[simp] theorem modTu_reads (k : Nat) (f : Tu → Tu) (s : State) :
    (∀ x, (modTu k f s).reg x = s.reg x) ∧ (∀ b g, (modTu k f s).rd b g = s.rd b g)
    ∧ (∀ b g, (modTu k f s).flag b g = s.flag b g) ∧ (∀ x, (modTu k f s).shd x = s.shd x)
    ∧ (∀ b g, (modTu k f s).rdS b g = s.rdS b g) ∧ (∀ x, (modTu k f s).ring x = s.ring x)
    ∧ (∀ x, (modTu k f s).running x = s.running x) ∧ (∀ x, (modTu k f s).keySlot x = s.keySlot x)
    ∧ (modTu k f s).coarseNow = s.coarseNow ∧ (modTu k f s).unow = s.unow ∧ (modTu k f s).count = s.count
    ∧ (modTu k f s).dma = s.dma ∧ (∀ x, (modTu k f s).site x = s.site x) ∧ (∀ x, (modTu k f s).tile x = s.tile x)
    ∧ (∀ x, (modTu k f s).pin x = s.pin x) ∧ (∀ x, (modTu k f s).awOf x = s.awOf x) ∧ (∀ x, (modTu k f s).wmOf x = s.wmOf x)
    ∧ (∀ x, (modTu k f s).pgOf x = s.pgOf x) ∧ (∀ x, (modTu k f s).aqOf x = s.aqOf x) := by
  refine ⟨fun _ => rfl, fun _ _ => rfl, fun _ _ => rfl, fun _ => rfl, fun _ _ => rfl, fun _ => rfl, fun _ => rfl, fun _ => rfl, rfl, rfl, rfl, rfl, fun _ => rfl, fun _ => rfl, fun _ => rfl, fun _ => rfl, fun _ => rfl, fun _ => rfl, fun _ => rfl⟩

@[simp] theorem modLens_reads (f : Lens → Lens) (s : State) :
    (∀ x, (modLens f s).reg x = s.reg x) ∧ (∀ b g, (modLens f s).rd b g = s.rd b g)
    ∧ (∀ b g, (modLens f s).flag b g = s.flag b g) ∧ (∀ x, (modLens f s).shd x = s.shd x)
    ∧ (∀ b g, (modLens f s).rdS b g = s.rdS b g) ∧ (∀ x, (modLens f s).ring x = s.ring x)
    ∧ (∀ x, (modLens f s).running x = s.running x) ∧ (∀ x, (modLens f s).keySlot x = s.keySlot x)
    ∧ (modLens f s).coarseNow = s.coarseNow ∧ (modLens f s).unow = s.unow ∧ (modLens f s).count = s.count
    ∧ (modLens f s).dma = s.dma ∧ (∀ x, (modLens f s).site x = s.site x) ∧ (∀ x, (modLens f s).tile x = s.tile x)
    ∧ (∀ x, (modLens f s).pin x = s.pin x) ∧ (∀ x, (modLens f s).awOf x = s.awOf x) ∧ (∀ x, (modLens f s).wmOf x = s.wmOf x)
    ∧ (∀ x, (modLens f s).pgOf x = s.pgOf x) ∧ (∀ x, (modLens f s).aqOf x = s.aqOf x)
    ∧ (∀ x, (modLens f s).tuOf x = s.tuOf x) := by
  refine ⟨fun _ => rfl, fun _ _ => rfl, fun _ _ => rfl, fun _ => rfl, fun _ _ => rfl, fun _ => rfl, fun _ => rfl, fun _ => rfl, rfl, rfl, rfl, rfl, fun _ => rfl, fun _ => rfl, fun _ => rfl, fun _ => rfl, fun _ => rfl, fun _ => rfl, fun _ => rfl, fun _ => rfl⟩

@[simp] theorem modPower_reads (f : Power → Power) (s : State) :
    (∀ x, (modPower f s).reg x = s.reg x) ∧ (∀ b g, (modPower f s).rd b g = s.rd b g)
    ∧ (∀ b g, (modPower f s).flag b g = s.flag b g) ∧ (∀ x, (modPower f s).shd x = s.shd x)
    ∧ (∀ b g, (modPower f s).rdS b g = s.rdS b g) ∧ (∀ x, (modPower f s).ring x = s.ring x)
    ∧ (∀ x, (modPower f s).running x = s.running x) ∧ (∀ x, (modPower f s).keySlot x = s.keySlot x)
    ∧ (modPower f s).coarseNow = s.coarseNow ∧ (modPower f s).unow = s.unow ∧ (modPower f s).count = s.count
    ∧ (modPower f s).dma = s.dma ∧ (∀ x, (modPower f s).site x = s.site x) ∧ (∀ x, (modPower f s).tile x = s.tile x)
    ∧ (∀ x, (modPower f s).pin x = s.pin x) ∧ (∀ x, (modPower f s).awOf x = s.awOf x)
    ∧ (∀ x, (modPower f s).wmOf x = s.wmOf x) ∧ (∀ x, (modPower f s).pgOf x = s.pgOf x)
    ∧ (∀ x, (modPower f s).aqOf x = s.aqOf x) ∧ (∀ x, (modPower f s).tuOf x = s.tuOf x) := by
  refine ⟨fun _ => rfl, fun _ _ => rfl, fun _ _ => rfl, fun _ => rfl, fun _ _ => rfl, fun _ => rfl, fun _ => rfl, fun _ => rfl, rfl, rfl, rfl, rfl, fun _ => rfl, fun _ => rfl, fun _ => rfl, fun _ => rfl, fun _ => rfl, fun _ => rfl, fun _ => rfl, fun _ => rfl⟩

@[simp] theorem modClk_reads (f : Clocks → Clocks) (s : State) :
    (∀ x, (modClk f s).reg x = s.reg x) ∧ (∀ b g, (modClk f s).rd b g = s.rd b g)
    ∧ (∀ b g, (modClk f s).flag b g = s.flag b g) ∧ (∀ x, (modClk f s).shd x = s.shd x)
    ∧ (∀ b g, (modClk f s).rdS b g = s.rdS b g) ∧ (∀ x, (modClk f s).ring x = s.ring x)
    ∧ (∀ x, (modClk f s).running x = s.running x) ∧ (∀ x, (modClk f s).keySlot x = s.keySlot x)
    ∧ (modClk f s).coarseNow = s.coarseNow ∧ (modClk f s).unow = s.unow ∧ (modClk f s).count = s.count
    ∧ (modClk f s).dma = s.dma ∧ (∀ x, (modClk f s).site x = s.site x) ∧ (∀ x, (modClk f s).tile x = s.tile x)
    ∧ (∀ x, (modClk f s).pin x = s.pin x) ∧ (∀ x, (modClk f s).awOf x = s.awOf x) ∧ (∀ x, (modClk f s).wmOf x = s.wmOf x)
    ∧ (∀ x, (modClk f s).pgOf x = s.pgOf x) ∧ (∀ x, (modClk f s).aqOf x = s.aqOf x) ∧ (∀ x, (modClk f s).tuOf x = s.tuOf x) := by
  refine ⟨fun _ => rfl, fun _ _ => rfl, fun _ _ => rfl, fun _ => rfl, fun _ _ => rfl, fun _ => rfl, fun _ => rfl, fun _ => rfl, rfl, rfl, rfl, rfl, fun _ => rfl, fun _ => rfl, fun _ => rfl, fun _ => rfl, fun _ => rfl, fun _ => rfl, fun _ => rfl, fun _ => rfl⟩

@[simp] theorem modRst_reads (f : ResetCtl → ResetCtl) (s : State) :
    (∀ x, (modRst f s).reg x = s.reg x) ∧ (∀ b g, (modRst f s).rd b g = s.rd b g)
    ∧ (∀ b g, (modRst f s).flag b g = s.flag b g) ∧ (∀ x, (modRst f s).shd x = s.shd x)
    ∧ (∀ b g, (modRst f s).rdS b g = s.rdS b g) ∧ (∀ x, (modRst f s).ring x = s.ring x)
    ∧ (∀ x, (modRst f s).running x = s.running x) ∧ (∀ x, (modRst f s).keySlot x = s.keySlot x)
    ∧ (modRst f s).coarseNow = s.coarseNow ∧ (modRst f s).unow = s.unow ∧ (modRst f s).count = s.count
    ∧ (modRst f s).dma = s.dma ∧ (∀ x, (modRst f s).site x = s.site x) ∧ (∀ x, (modRst f s).tile x = s.tile x)
    ∧ (∀ x, (modRst f s).pin x = s.pin x) ∧ (∀ x, (modRst f s).awOf x = s.awOf x) ∧ (∀ x, (modRst f s).wmOf x = s.wmOf x)
    ∧ (∀ x, (modRst f s).pgOf x = s.pgOf x) ∧ (∀ x, (modRst f s).aqOf x = s.aqOf x) ∧ (∀ x, (modRst f s).tuOf x = s.tuOf x) := by
  refine ⟨fun _ => rfl, fun _ _ => rfl, fun _ _ => rfl, fun _ => rfl, fun _ _ => rfl, fun _ => rfl, fun _ => rfl, fun _ => rfl, rfl, rfl, rfl, rfl, fun _ => rfl, fun _ => rfl, fun _ => rfl, fun _ => rfl, fun _ => rfl, fun _ => rfl, fun _ => rfl, fun _ => rfl⟩

@[simp] theorem modXr_reads (f : Xearn → Xearn) (s : State) :
    (∀ x, (modXr f s).reg x = s.reg x) ∧ (∀ b g, (modXr f s).rd b g = s.rd b g) ∧ (∀ b g, (modXr f s).flag b g = s.flag b g)
    ∧ (∀ x, (modXr f s).shd x = s.shd x) ∧ (∀ b g, (modXr f s).rdS b g = s.rdS b g) ∧ (∀ x, (modXr f s).ring x = s.ring x)
    ∧ (∀ x, (modXr f s).running x = s.running x) ∧ (∀ x, (modXr f s).keySlot x = s.keySlot x)
    ∧ (modXr f s).coarseNow = s.coarseNow ∧ (modXr f s).unow = s.unow ∧ (modXr f s).count = s.count ∧ (modXr f s).dma = s.dma
    ∧ (∀ x, (modXr f s).site x = s.site x) ∧ (∀ x, (modXr f s).tile x = s.tile x) ∧ (∀ x, (modXr f s).pin x = s.pin x)
    ∧ (∀ x, (modXr f s).awOf x = s.awOf x) ∧ (∀ x, (modXr f s).wmOf x = s.wmOf x) ∧ (∀ x, (modXr f s).pgOf x = s.pgOf x)
    ∧ (∀ x, (modXr f s).aqOf x = s.aqOf x) ∧ (∀ x, (modXr f s).tuOf x = s.tuOf x) := by
  refine ⟨fun _ => rfl, fun _ _ => rfl, fun _ _ => rfl, fun _ => rfl, fun _ _ => rfl, fun _ => rfl, fun _ => rfl, fun _ => rfl, rfl, rfl, rfl, rfl, fun _ => rfl, fun _ => rfl, fun _ => rfl, fun _ => rfl, fun _ => rfl, fun _ => rfl, fun _ => rfl, fun _ => rfl⟩

@[simp] theorem modSvc_reads (f : Service → Service) (s : State) :
    (∀ x, (modSvc f s).reg x = s.reg x) ∧ (∀ b g, (modSvc f s).rd b g = s.rd b g)
    ∧ (∀ b g, (modSvc f s).flag b g = s.flag b g) ∧ (∀ x, (modSvc f s).shd x = s.shd x)
    ∧ (∀ b g, (modSvc f s).rdS b g = s.rdS b g) ∧ (∀ x, (modSvc f s).ring x = s.ring x)
    ∧ (∀ x, (modSvc f s).running x = s.running x) ∧ (∀ x, (modSvc f s).keySlot x = s.keySlot x)
    ∧ (modSvc f s).coarseNow = s.coarseNow ∧ (modSvc f s).unow = s.unow ∧ (modSvc f s).count = s.count
    ∧ (modSvc f s).dma = s.dma ∧ (∀ x, (modSvc f s).site x = s.site x) ∧ (∀ x, (modSvc f s).tile x = s.tile x)
    ∧ (∀ x, (modSvc f s).pin x = s.pin x) ∧ (∀ x, (modSvc f s).awOf x = s.awOf x) ∧ (∀ x, (modSvc f s).wmOf x = s.wmOf x)
    ∧ (∀ x, (modSvc f s).pgOf x = s.pgOf x) ∧ (∀ x, (modSvc f s).aqOf x = s.aqOf x) ∧ (∀ x, (modSvc f s).tuOf x = s.tuOf x) := by
  refine ⟨fun _ => rfl, fun _ _ => rfl, fun _ _ => rfl, fun _ => rfl, fun _ _ => rfl, fun _ => rfl, fun _ => rfl, fun _ => rfl, rfl, rfl, rfl, rfl, fun _ => rfl, fun _ => rfl, fun _ => rfl, fun _ => rfl, fun _ => rfl, fun _ => rfl, fun _ => rfl, fun _ => rfl⟩

@[simp] theorem modCal_reads (f : Cal → Cal) (s : State) :
    (∀ x, (modCal f s).reg x = s.reg x) ∧ (∀ b g, (modCal f s).rd b g = s.rd b g)
    ∧ (∀ b g, (modCal f s).flag b g = s.flag b g) ∧ (∀ x, (modCal f s).shd x = s.shd x)
    ∧ (∀ b g, (modCal f s).rdS b g = s.rdS b g) ∧ (∀ x, (modCal f s).ring x = s.ring x)
    ∧ (∀ x, (modCal f s).running x = s.running x) ∧ (∀ x, (modCal f s).keySlot x = s.keySlot x)
    ∧ (modCal f s).coarseNow = s.coarseNow ∧ (modCal f s).unow = s.unow ∧ (modCal f s).count = s.count
    ∧ (modCal f s).dma = s.dma ∧ (∀ x, (modCal f s).site x = s.site x) ∧ (∀ x, (modCal f s).tile x = s.tile x)
    ∧ (∀ x, (modCal f s).pin x = s.pin x) ∧ (∀ x, (modCal f s).awOf x = s.awOf x) ∧ (∀ x, (modCal f s).wmOf x = s.wmOf x)
    ∧ (∀ x, (modCal f s).pgOf x = s.pgOf x) ∧ (∀ x, (modCal f s).aqOf x = s.aqOf x) ∧ (∀ x, (modCal f s).tuOf x = s.tuOf x) := by
  refine ⟨fun _ => rfl, fun _ _ => rfl, fun _ _ => rfl, fun _ => rfl, fun _ _ => rfl, fun _ => rfl, fun _ => rfl, fun _ => rfl, rfl, rfl, rfl, rfl, fun _ => rfl, fun _ => rfl, fun _ => rfl, fun _ => rfl, fun _ => rfl, fun _ => rfl, fun _ => rfl, fun _ => rfl⟩

@[simp] theorem modFlash_reads (f : Flash → Flash) (s : State) :
    (∀ x, (modFlash f s).reg x = s.reg x) ∧ (∀ b g, (modFlash f s).rd b g = s.rd b g)
    ∧ (∀ b g, (modFlash f s).flag b g = s.flag b g) ∧ (∀ x, (modFlash f s).shd x = s.shd x)
    ∧ (∀ b g, (modFlash f s).rdS b g = s.rdS b g) ∧ (∀ x, (modFlash f s).ring x = s.ring x)
    ∧ (∀ x, (modFlash f s).running x = s.running x) ∧ (∀ x, (modFlash f s).keySlot x = s.keySlot x)
    ∧ (modFlash f s).coarseNow = s.coarseNow ∧ (modFlash f s).unow = s.unow ∧ (modFlash f s).count = s.count
    ∧ (modFlash f s).dma = s.dma ∧ (∀ x, (modFlash f s).site x = s.site x) ∧ (∀ x, (modFlash f s).tile x = s.tile x)
    ∧ (∀ x, (modFlash f s).pin x = s.pin x) ∧ (∀ x, (modFlash f s).awOf x = s.awOf x)
    ∧ (∀ x, (modFlash f s).wmOf x = s.wmOf x) ∧ (∀ x, (modFlash f s).pgOf x = s.pgOf x)
    ∧ (∀ x, (modFlash f s).aqOf x = s.aqOf x) ∧ (∀ x, (modFlash f s).tuOf x = s.tuOf x) := by
  refine ⟨fun _ => rfl, fun _ _ => rfl, fun _ _ => rfl, fun _ => rfl, fun _ _ => rfl, fun _ => rfl, fun _ => rfl, fun _ => rfl, rfl, rfl, rfl, rfl, fun _ => rfl, fun _ => rfl, fun _ => rfl, fun _ => rfl, fun _ => rfl, fun _ => rfl, fun _ => rfl, fun _ => rfl⟩

@[simp] theorem reportAt_reads (u c k t : Nat) (s : State) :
    (∀ x, (reportAt u c k t s).reg x = s.reg x) ∧ (∀ b g, (reportAt u c k t s).rd b g = s.rd b g)
    ∧ (∀ b g, (reportAt u c k t s).flag b g = s.flag b g) ∧ (∀ x, (reportAt u c k t s).shd x = s.shd x)
    ∧ (∀ b g, (reportAt u c k t s).rdS b g = s.rdS b g) ∧ (∀ x, (reportAt u c k t s).ring x = s.ring x)
    ∧ (∀ x, (reportAt u c k t s).running x = s.running x) ∧ (∀ x, (reportAt u c k t s).keySlot x = s.keySlot x)
    ∧ (reportAt u c k t s).coarseNow = s.coarseNow ∧ (reportAt u c k t s).unow = s.unow
    ∧ (reportAt u c k t s).count = s.count ∧ (reportAt u c k t s).dma = s.dma ∧ (∀ x, (reportAt u c k t s).site x = s.site x)
    ∧ (∀ x, (reportAt u c k t s).tile x = s.tile x) ∧ (∀ x, (reportAt u c k t s).pin x = s.pin x)
    ∧ (∀ x, (reportAt u c k t s).awOf x = s.awOf x) ∧ (∀ x, (reportAt u c k t s).wmOf x = s.wmOf x)
    ∧ (∀ x, (reportAt u c k t s).pgOf x = s.pgOf x) ∧ (∀ x, (reportAt u c k t s).aqOf x = s.aqOf x)
    ∧ (∀ x, (reportAt u c k t s).tuOf x = s.tuOf x) := by
  refine ⟨fun _ => rfl, fun _ _ => rfl, fun _ _ => rfl, fun _ => rfl, fun _ _ => rfl, fun _ => rfl, fun _ => rfl, fun _ => rfl, rfl, rfl, rfl, rfl, fun _ => rfl, fun _ => rfl, fun _ => rfl, fun _ => rfl, fun _ => rfl, fun _ => rfl, fun _ => rfl, fun _ => rfl⟩

@[simp] theorem report_reads (u c k : Nat) (s : State) :
    (∀ x, (report u c k s).reg x = s.reg x) ∧ (∀ b g, (report u c k s).rd b g = s.rd b g)
    ∧ (∀ b g, (report u c k s).flag b g = s.flag b g) ∧ (∀ x, (report u c k s).shd x = s.shd x)
    ∧ (∀ b g, (report u c k s).rdS b g = s.rdS b g) ∧ (∀ x, (report u c k s).ring x = s.ring x)
    ∧ (∀ x, (report u c k s).running x = s.running x) ∧ (∀ x, (report u c k s).keySlot x = s.keySlot x)
    ∧ (report u c k s).coarseNow = s.coarseNow ∧ (report u c k s).unow = s.unow ∧ (report u c k s).count = s.count
    ∧ (report u c k s).dma = s.dma ∧ (∀ x, (report u c k s).site x = s.site x) ∧ (∀ x, (report u c k s).tile x = s.tile x)
    ∧ (∀ x, (report u c k s).pin x = s.pin x) ∧ (∀ x, (report u c k s).awOf x = s.awOf x)
    ∧ (∀ x, (report u c k s).wmOf x = s.wmOf x) ∧ (∀ x, (report u c k s).pgOf x = s.pgOf x)
    ∧ (∀ x, (report u c k s).aqOf x = s.aqOf x) ∧ (∀ x, (report u c k s).tuOf x = s.tuOf x) := by
  refine ⟨fun _ => rfl, fun _ _ => rfl, fun _ _ => rfl, fun _ => rfl, fun _ _ => rfl, fun _ => rfl, fun _ => rfl, fun _ => rfl, rfl, rfl, rfl, rfl, fun _ => rfl, fun _ => rfl, fun _ => rfl, fun _ => rfl, fun _ => rfl, fun _ => rfl, fun _ => rfl, fun _ => rfl⟩

/-! ## Registers after a write -/

theorem reg_setReg (a b : Nat) (w : Word) (s : State) : (setReg a w s).reg b = if b = a then w else s.reg b :=
  kget_kset ..

@[simp] theorem reg_setReg_same (a : Nat) (w : Word) (s : State) : (setReg a w s).reg a = w := kget_kset_same ..

theorem reg_setReg_ne {a b : Nat} (w : Word) (s : State) (h : b ≠ a) : (setReg a w s).reg b = s.reg b := kget_kset_ne _ _ _ h

@[simp] theorem shd_setShd_same (a : Nat) (w : Word) (s : State) : (setShd a w s).shd a = w := kget_kset_same ..

theorem shd_setShd_ne {a b : Nat} (w : Word) (s : State) (h : b ≠ a) : (setShd a w s).shd b = s.shd b := kget_kset_ne _ _ _ h

theorem reg_wr_ne {a b : Nat} (f : Fld) (v : Nat) (s : State) (h : b ≠ a) : (wr a f v s).reg b = s.reg b :=
  reg_setReg_ne _ _ h

theorem rd_wr_ne {a b : Nat} (f g : Fld) (v : Nat) (s : State) (h : b ≠ a) : (wr a f v s).rd b g = s.rd b g := by
  unfold State.rd
  rw [reg_wr_ne f v s h]

theorem flag_wr_ne {a b : Nat} (f g : Fld) (v : Nat) (s : State) (h : b ≠ a) : (wr a f v s).flag b g = s.flag b g := by
  unfold State.flag
  rw [rd_wr_ne f g v s h]

/-- A field reads the value written, modulo its width. -/
theorem rd_wr_same (a : Nat) (f : Fld) (v : Nat) (s : State) (h : f.ok) : (wr a f v s).rd a f = v % 2 ^ f.width := by
  unfold wr State.rd
  rw [reg_setReg_same, fget_fset_same _ _ _ h]

/-- Another field of the same register keeps its value. -/
theorem rd_wr_apart (a : Nat) (f g : Fld) (v : Nat) (s : State) (h : f.apart g) : (wr a f v s).rd a g = s.rd a g := by
  unfold wr State.rd
  rw [reg_setReg_same, fget_fset_apart _ _ _ _ h]

theorem shd_wrS_ne {a b : Nat} (f : Fld) (v : Nat) (s : State) (h : b ≠ a) : (wrS a f v s).shd b = s.shd b :=
  shd_setShd_ne _ _ h

theorem rdS_wrS_same (a : Nat) (f : Fld) (v : Nat) (s : State) (h : f.ok) : (wrS a f v s).rdS a f = v % 2 ^ f.width := by
  unfold wrS State.rdS
  rw [shd_setShd_same, fget_fset_same _ _ _ h]

theorem rdS_wrS_apart (a : Nat) (f g : Fld) (v : Nat) (s : State) (h : f.apart g) : (wrS a f v s).rdS a g = s.rdS a g := by
  unfold wrS State.rdS
  rw [shd_setShd_same, fget_fset_apart _ _ _ _ h]

/-- A counting field counts, and stops at its largest value. -/
theorem rd_bumpBy (a : Nat) (f : Fld) (n : Nat) (s : State) (h : f.ok) :
    (bumpBy a f n s).rd a f = min (2 ^ f.width - 1) (s.rd a f + n) := by
  unfold bumpBy
  rw [rd_wr_same _ _ _ _ h]
  exact Nat.mod_eq_of_lt (Nat.lt_of_le_of_lt (Nat.min_le_left ..) (Nat.sub_lt (Nat.two_pow_pos _) Nat.one_pos))

theorem coarseNow_wr_ne {a : Nat} (f : Fld) (v : Nat) (s : State) (h : a ≠ A.GN_PHASE) : (wr a f v s).coarseNow = s.coarseNow := by
  have h1 : (wr a f v s).reg A.GN_PHASE = s.reg A.GN_PHASE := reg_wr_ne f v s (fun e => h e.symm)
  simp only [State.coarseNow, State.coarseOf, State.phase, h1]
  rfl

theorem coarseNow_setReg_ne {a : Nat} (w : Word) (s : State) (h : a ≠ A.GN_PHASE) : (setReg a w s).coarseNow = s.coarseNow := by
  have h1 : (setReg a w s).reg A.GN_PHASE = s.reg A.GN_PHASE := reg_setReg_ne w s (fun e => h e.symm)
  simp only [State.coarseNow, State.coarseOf, State.phase, h1]
  rfl

/-! ## Tables after a change -/

@[simp] theorem ring_modRing_same (q : Nat) (f : Ring → Ring) (s : State) : (modRing q f s).ring q = f (s.ring q) :=
  kget_kset_same ..

theorem ring_modRing_ne {q r : Nat} (f : Ring → Ring) (s : State) (h : r ≠ q) : (modRing q f s).ring r = s.ring r :=
  kget_kset_ne _ _ _ h

@[simp] theorem ring_modCmd_same (q : Nat) (f : Cmd → Cmd) (s : State) :
    (modCmd q f s).ring q = { s.ring q with run := (s.ring q).run.map f } := ring_modRing_same ..

theorem ring_modCmd_ne {q r : Nat} (f : Cmd → Cmd) (s : State) (h : r ≠ q) : (modCmd q f s).ring r = s.ring r :=
  ring_modRing_ne _ _ h

@[simp] theorem keySlot_setKey_same (k : Nat) (v : KeySlot) (s : State) : (setKey k v s).keySlot k = v := kget_kset_same ..

theorem keySlot_setKey_ne {j k : Nat} (v : KeySlot) (s : State) (h : j ≠ k) : (setKey k v s).keySlot j = s.keySlot j :=
  kget_kset_ne _ _ _ h

@[simp] theorem site_modSite_same (i : Nat) (f : Site → Site) (s : State) : (modSite i f s).site i = f (s.site i) :=
  kget_kset_same ..

theorem site_modSite_ne {i j : Nat} (f : Site → Site) (s : State) (h : j ≠ i) : (modSite i f s).site j = s.site j :=
  kget_kset_ne _ _ _ h

@[simp] theorem tile_modTile_same (k : Nat) (f : Tile → Tile) (s : State) : (modTile k f s).tile k = f (s.tile k) :=
  kget_kset_same ..

@[simp] theorem pin_modPin_same (n : Nat) (f : Pin → Pin) (s : State) : (modPin n f s).pin n = f (s.pin n) :=
  kget_kset_same ..

theorem pin_modPin_ne {n m : Nat} (f : Pin → Pin) (s : State) (h : m ≠ n) : (modPin n f s).pin m = s.pin m :=
  kget_kset_ne _ _ _ h

@[simp] theorem awOf_modAw_same (k : Nat) (f : Aw → Aw) (s : State) : (modAw k f s).awOf k = f (s.awOf k) := kget_kset_same ..

@[simp] theorem wmOf_modWm_same (k : Nat) (f : Wm → Wm) (s : State) : (modWm k f s).wmOf k = f (s.wmOf k) := kget_kset_same ..

@[simp] theorem pgOf_modPg_same (j : Nat) (f : Pg → Pg) (s : State) : (modPg j f s).pgOf j = f (s.pgOf j) := kget_kset_same ..

@[simp] theorem aqOf_modAq_same (k : Nat) (f : Aq → Aq) (s : State) : (modAq k f s).aqOf k = f (s.aqOf k) := kget_kset_same ..

@[simp] theorem tuOf_modTu_same (k : Nat) (f : Tu → Tu) (s : State) : (modTu k f s).tuOf k = f (s.tuOf k) := kget_kset_same ..

end Sys2Proof.Machine
end

