-- ==== Sys2Proof/Laws/Commands.lean ====
section
/-! SUPPORT. The shared life of a host command: when it runs, what a failing check answers, and what its end leaves. -/

namespace Sys2Proof.Machine

/-- A served command is the running one. -/
theorem State.serves.running {s : State} {q op : Nat} {c : Cmd} (h : s.serves q op c) : s.running q = some c := by
  obtain ⟨h1, h2, -⟩ := h
  simp [State.running, h1, h2]

/-- A change of the running command depends on that command alone. -/
theorem modCmd_congr {s : State} {q : Nat} {c : Cmd} {f g : Cmd → Cmd} (h : (s.ring q).run = some c) (hf : f c = g c) :
    modCmd q f s = modCmd q g s := by
  unfold modCmd modRing
  simp [h, hf]

/-- What a command writes is marked beside its effect alone (R112). -/
theorem markWrites_rest (s t : State) : { markWrites s t with fab := t.fab } = t := rfl

/-- A command that changes no register marks none. -/
theorem markWrites_eq {s t : State} (h : t.regs = s.regs) (hs : t.shadow = s.shadow) (hf : t.fab = s.fab) : markWrites s t = t := by
  obtain ⟨⟩ := t
  subst h hs hf
  simp [markWrites]

/-- A served command whose units are free and awake holds them and runs; the registers it writes are marked. -/
theorem hostCmd_ready {s : State} {q op : Nat} {c : Cmd} {units : Cmd → State → List Nat} (us : List Nat)
    (body : Cmd → State → State) (h : s.serves q op c) (hu : s.ready q us) (he : units c s = us) :
    hostCmd q op units body s
      = let s := modCmd q (fun c => { c with held := us, want := [], waitSince := none }) s
        markWrites s (body c s) := by
  subst he
  have hr := h.running
  obtain ⟨h1, -, ho, ha, hs, -, -⟩ := h
  have hd : (List.filter s.asleep ((units c s).flatMap s.blocksOf)) = [] := by
    rw [List.filter_eq_nil_iff]
    intro b hb
    simpa using hu.2 b hb
  have hm := modCmd_congr (f := fun c => { c with held := units c s, want := [], waitSince := none })
    (g := fun x => { x with held := units c s, want := [], waitSince := none }) h1 rfl
  unfold hostCmd
  simp only [hr, ho, ha, hs, hu.1, hd]
  simp [hm]

theorem ready_nil (s : State) (q : Nat) : s.ready q [] := ⟨rfl, by simp⟩

/-- A served command that addresses no unit runs. -/
theorem simpleCmd_serves {s : State} {q op : Nat} {c : Cmd} (body : Cmd → State → State) (h : s.serves q op c) :
    simpleCmd q op body s = let s := modCmd q (fun c => { c with held := [], want := [], waitSince := none }) s
        markWrites s (body c s) :=
  hostCmd_ready (units := fun _ _ => []) [] body h (ready_nil s q) rfl

/-- Checks that all pass let the body run. -/
theorem checked_pass {q : Nat} {l : List (Bool × Nat × Nat)} (body : State → State) (s : State)
    (h : ∀ x ∈ l, x.1 = false) : checked q l body s = body s := by
  have : l.find? (·.1) = none := by
    rw [List.find?_eq_none]
    intro x hx
    simp [h x hx]
  simp [checked, firstFail, this]

theorem checkedU_pass {q : Nat} {l : List (Bool × Nat × Nat × Nat)} (body : State → State) (s : State)
    (h : ∀ x ∈ l, x.1 = false) : checkedU q l body s = body s := by
  have : l.find? (·.1) = none := by
    rw [List.find?_eq_none]
    intro x hx
    simp [h x hx]
  simp [checkedU, this]

/-- A command that ends with a status that is neither 0x0230 nor of class 3 has its reply; nothing else changes. -/
theorem finishU_eq {s : State} {q : Nat} {c : Cmd} (st d : Nat) (res : List Word) (u : Nat) (hr : s.running q = some c)
    (ho : c.orphan = false) (hl : c.late = []) (h1 : st ≠ 0x0230) (h2 : st / 256 ≠ 3) :
    finishU q st d res u s
      = modCmd q (fun c => { c with reply := some ⟨st, d, s.coarseNow, res⟩, held := [], waitSince := none }) s := by
  simp [finishU, dropLate, hr, ho, hl, h1, h2]

theorem finish_eq {s : State} {q : Nat} {c : Cmd} (st d : Nat) (res : List Word) (hr : s.running q = some c)
    (ho : c.orphan = false) (hl : c.late = []) (h1 : st ≠ 0x0230) (h2 : st / 256 ≠ 3) :
    finish q st d res s
      = modCmd q (fun c => { c with reply := some ⟨st, d, s.coarseNow, res⟩, held := [], waitSince := none }) s :=
  finishU_eq st d res 0 hr ho hl h1 h2

theorem ok_eq {s : State} {q : Nat} {c : Cmd} (res : List Word) (hr : s.running q = some c) (ho : c.orphan = false)
    (hl : c.late = []) :
    ok q res s = modCmd q (fun c => { c with reply := some ⟨0, 0, s.coarseNow, res⟩, held := [], waitSince := none }) s :=
  finish_eq 0 0 res hr ho hl (by decide) (by decide)

/-- What a served command becomes while it holds its units. -/
theorem running_taken {s : State} {q op : Nat} {c : Cmd} (us : List Nat) (h : s.serves q op c) :
    (modCmd q (fun c => { c with held := us, want := [], waitSince := none }) s).running q
      = some { c with held := us, want := [], waitSince := none } := by
  obtain ⟨h1, h2, -⟩ := h
  simp [State.running, h1, h2]

theorem flag_eq (s : State) (a : Nat) (f : Fld) : s.flag a f = (s.rd a f ≠ 0 : Bool) := rfl

/-- A served command that took its units and ends at once has replied. -/
theorem replies_fin {s : State} {q op : Nat} {c : Cmd} (us : List Nat) (st d : Nat) (res : List Word) (h : s.serves q op c)
    (h1 : st ≠ 0x0230) (h2 : st / 256 ≠ 3) :
    s.replies (finish q st d res (modCmd q (fun c => { c with held := us, want := [], waitSince := none }) s)) q c st d res := by
  have hr := running_taken us h
  obtain ⟨h3, h4, -, -, -, ho, hl⟩ := h
  rw [finish_eq st d res hr ho hl h1 h2]
  refine ⟨?_, fun r hr => ?_⟩
  · simp [h3]
  · rw [ring_modCmd_ne _ _ hr, ring_modCmd_ne _ _ hr]

/-- The same with status 0. -/
theorem replies_ok {s : State} {q op : Nat} {c : Cmd} (us : List Nat) (res : List Word) (h : s.serves q op c) :
    s.replies (ok q res (modCmd q (fun c => { c with held := us, want := [], waitSince := none }) s)) q c 0 0 res :=
  replies_fin us 0 0 res h (by decide) (by decide)

/-- A served command that takes its units and ends at once changes nothing but its ring. -/
theorem frame_fin {s : State} {q op : Nat} {c : Cmd} (us : List Nat) (st d : Nat) (res : List Word) (h : s.serves q op c)
    (h1 : st ≠ 0x0230) (h2 : st / 256 ≠ 3) :
    { finish q st d res (modCmd q (fun c => { c with held := us, want := [], waitSince := none }) s) with rings := s.rings } = s := by
  have hr := running_taken us h
  obtain ⟨h3, h4, -, -, -, ho, hl⟩ := h
  rw [finish_eq st d res hr ho hl h1 h2]; rfl

/-- The same with status 0. -/
theorem frame_ok {s : State} {q op : Nat} {c : Cmd} (us : List Nat) (res : List Word) (h : s.serves q op c) :
    { ok q res (modCmd q (fun c => { c with held := us, want := [], waitSince := none }) s) with rings := s.rings } = s :=
  frame_fin us 0 0 res h (by decide) (by decide)

/-- The end of a served command whose body made `u` and left the rings as they were once the units were taken. -/
theorem replies_fin_of {s u : State} {q op : Nat} {c : Cmd} (us : List Nat) (st d : Nat) (res : List Word) (h : s.serves q op c)
    (h1 : st ≠ 0x0230) (h2 : st / 256 ≠ 3)
    (hu : u.rings = (modCmd q (fun c => { c with held := us, want := [], waitSince := none }) s).rings) :
    s.replies (finish q st d res u) q c st d res := by
  have hr : u.running q = some { c with held := us, want := [], waitSince := none } := by
    have := running_taken us h
    unfold State.running State.ring at *
    rw [hu]; exact this
  have hg : ∀ r, u.ring r = (modCmd q (fun c => { c with held := us, want := [], waitSince := none }) s).ring r := by
    intro r; unfold State.ring; rw [hu]
  obtain ⟨h3, h4, -, -, -, ho, hl⟩ := h
  rw [finish_eq st d res hr ho hl h1 h2]
  refine ⟨?_, fun r hr => ?_⟩
  · simp [h3, hg]
  · rw [ring_modCmd_ne _ _ hr, hg, ring_modCmd_ne _ _ hr]

theorem replies_ok_of {s u : State} {q op : Nat} {c : Cmd} (us : List Nat) (res : List Word) (h : s.serves q op c)
    (hu : u.rings = (modCmd q (fun c => { c with held := us, want := [], waitSince := none }) s).rings) :
    s.replies (ok q res u) q c 0 0 res := replies_fin_of us 0 0 res h (by decide) (by decide) hu

/-- The end leaves everything but the rings as the body left it. -/
theorem fin_frame {s u : State} {q op : Nat} {c : Cmd} (us : List Nat) (st d : Nat) (res : List Word) (h : s.serves q op c)
    (h1 : st ≠ 0x0230) (h2 : st / 256 ≠ 3)
    (hu : u.rings = (modCmd q (fun c => { c with held := us, want := [], waitSince := none }) s).rings) :
    ∃ R, finish q st d res u = { u with rings := R } := by
  have hr : u.running q = some { c with held := us, want := [], waitSince := none } := by
    have := running_taken us h
    unfold State.running State.ring at *
    rw [hu]; exact this
  obtain ⟨h3, h4, -, -, -, ho, hl⟩ := h
  rw [finish_eq st d res hr ho hl h1 h2]
  exact ⟨_, rfl⟩

theorem ok_frame {s u : State} {q op : Nat} {c : Cmd} (us : List Nat) (res : List Word) (h : s.serves q op c)
    (hu : u.rings = (modCmd q (fun c => { c with held := us, want := [], waitSince := none }) s).rings) :
    ∃ R, ok q res u = { u with rings := R } := fin_frame us 0 0 res h (by decide) (by decide) hu

/-- A read that does not look at the rings is as the body left it. -/
theorem fin_keep {β : Sort _} (g : State → β) (hg : ∀ (s : State) R, g { s with rings := R } = g s) {s u : State} {q op : Nat} {c : Cmd} (us : List Nat) (st d : Nat) (res : List Word) (h : s.serves q op c)
    (h1 : st ≠ 0x0230) (h2 : st / 256 ≠ 3)
    (hu : u.rings = (modCmd q (fun c => { c with held := us, want := [], waitSince := none }) s).rings) :
    g (finish q st d res u) = g u := by
  obtain ⟨R, hR⟩ := fin_frame us st d res h h1 h2 hu
  rw [hR, hg]

/-- The same with status 0. -/
theorem ok_keep {β : Sort _} (g : State → β) (hg : ∀ (s : State) R, g { s with rings := R } = g s) {s u : State} {q op : Nat} {c : Cmd} (us : List Nat) (res : List Word) (h : s.serves q op c)
    (hu : u.rings = (modCmd q (fun c => { c with held := us, want := [], waitSince := none }) s).rings) :
    g (ok q res u) = g u := fin_keep g hg us 0 0 res h (by decide) (by decide) hu

/-- The command is still the running one where the body left the rings alone. -/
theorem run_of {s u : State} {q op : Nat} {c : Cmd} (us : List Nat) (h : s.serves q op c)
    (hu : u.rings = (modCmd q (fun c => { c with held := us, want := [], waitSince := none }) s).rings) :
    u.running q = some { c with held := us, want := [], waitSince := none } := by
  have := running_taken us h
  unfold State.running State.ring at *
  rw [hu]; exact this

/-- The end as one change of the running command. -/
theorem fin_mod {s u : State} {q op : Nat} {c : Cmd} (us : List Nat) (st d : Nat) (res : List Word) (h : s.serves q op c)
    (h1 : st ≠ 0x0230) (h2 : st / 256 ≠ 3)
    (hu : u.rings = (modCmd q (fun c => { c with held := us, want := [], waitSince := none }) s).rings) :
    finish q st d res u = modCmd q (fun c => { c with reply := some ⟨st, d, u.coarseNow, res⟩, held := [], waitSince := none }) u :=
  finish_eq st d res (run_of us h hu) h.2.2.2.2.2.1 h.2.2.2.2.2.2 h1 h2

/-- The same with status 0. -/
theorem ok_mod {s u : State} {q op : Nat} {c : Cmd} (us : List Nat) (res : List Word) (h : s.serves q op c)
    (hu : u.rings = (modCmd q (fun c => { c with held := us, want := [], waitSince := none }) s).rings) :
    ok q res u = modCmd q (fun c => { c with reply := some ⟨0, 0, u.coarseNow, res⟩, held := [], waitSince := none }) u :=
  fin_mod us 0 0 res h (by decide) (by decide) hu

/-- That change is a reply. -/
theorem replies_mod {s u : State} {q op : Nat} {c : Cmd} (us : List Nat) (st d : Nat) (res : List Word) (h : s.serves q op c)
    (hu : u.rings = (modCmd q (fun c => { c with held := us, want := [], waitSince := none }) s).rings) :
    s.replies (modCmd q (fun c => { c with reply := some ⟨st, d, u.coarseNow, res⟩, held := [], waitSince := none }) u) q c st d res := by
  have hg : ∀ r, u.ring r = (modCmd q (fun c => { c with held := us, want := [], waitSince := none }) s).ring r := by
    intro r; unfold State.ring; rw [hu]
  refine ⟨?_, fun r hr => ?_⟩
  · simp [h.1, hg]
  · rw [ring_modCmd_ne _ _ hr, hg, ring_modCmd_ne _ _ hr]

/-- What every change of a fold keeps holds after it. -/
theorem forAll_ind {α : Type} {P : State → Prop} (l : List α) (f : α → State → State) (s : State)
    (h : ∀ a ∈ l, ∀ s, P s → P (f a s)) (h0 : P s) : P (forAll l f s) := by
  unfold forAll
  induction l generalizing s with
  | nil => exact h0
  | cons a l ih => exact ih _ (fun b hb => h b (List.mem_cons_of_mem _ hb)) (h a (List.mem_cons_self ..) s h0)

/-- A read that every change of a fold keeps. -/
theorem forAll_keep {α β : Type} (g : State → β) (l : List α) (f : α → State → State) (s : State)
    (h : ∀ a ∈ l, ∀ s, g (f a s) = g s) : g (forAll l f s) = g s :=
  forAll_ind (P := fun t => g t = g s) l f s (fun a ha t ht => (h a ha t).trans ht) rfl

/-- A read that every change of a fold maps is the fold of those maps. -/
theorem forAll_fold {α β : Type} (g : State → β) (h : α → β → β) (l : List α) (f : α → State → State) (s : State)
    (hh : ∀ a ∈ l, ∀ s, g (f a s) = h a (g s)) : g (forAll l f s) = l.foldl (fun b a => h a b) (g s) := by
  unfold forAll
  induction l generalizing s with
  | nil => rfl
  | cons a l ih =>
    simp only [List.foldl_cons]
    rw [ih _ (fun b hb => hh b (List.mem_cons_of_mem _ hb)), hh a (List.mem_cons_self ..)]

/-- A fold over a mapped list. -/
theorem forAll_map {α β : Type} (k : β → α) (l : List β) (f : α → State → State) (s : State) :
    forAll (l.map k) f s = forAll l (fun b => f (k b)) s := by
  unfold forAll; rw [List.foldl_map]

end Sys2Proof.Machine
end

