-- ==== Sys2Proof/Laws/Invariants.lean ====
section
/-! SUPPORT. What the shared operations keep: the queue, the clock, the canonical form of the register tables and the bound on
generations. `Keeps` is transitive by construction: each lemma carries it through one operation, so a meaning is followed
operation by operation, without unfolding any of them. -/

namespace Sys2Proof.Machine

/-- From `s` to `t` the queue and the clock stand, and each invariant that held in `s` holds in `t`. -/
structure Keeps (s t : State) : Prop where
  queue : t.pending = s.pending
  time : t.now = s.now
  tabled : s.Tabled → t.Tabled
  calm : s.Calm → t.Calm

theorem Keeps.refl (s : State) : Keeps s s := ⟨rfl, rfl, id, id⟩

/-- A change of any other field: each equation is by rfl. -/
theorem Keeps.other {s0 s t : State} (h : Keeps s0 s) (h1 : t.pending = s.pending) (h2 : t.now = s.now) (h3 : t.regs = s.regs)
    (h4 : t.shadow = s.shadow) (h5 : t.regs0 = s.regs0) (h6 : t.shadow0 = s.shadow0) (h7 : t.sites = s.sites)
    (h8 : t.prism.flight = s.prism.flight) (h9 : t.saves = s.saves) : Keeps s0 t := by
  refine ⟨h1.trans h.queue, h2.trans h.time, fun hi => ?_, fun hi => ?_⟩
  · have := h.tabled hi
    unfold State.Tabled State.site at *
    rw [h3, h4, h5, h6, h7, h9]
    exact this
  · have := h.calm hi
    unfold State.Calm at *
    rw [h8]
    exact this

theorem keeps_ite {s0 a b : State} (c : Prop) [Decidable c] (h1 : Keeps s0 a) (h2 : Keeps s0 b) :
    Keeps s0 (if c then a else b) := by
  split <;> assumption

theorem keeps_when {s0 s : State} (c : Bool) (f : State → State) (hf : ∀ s, Keeps s0 s → Keeps s0 (f s)) (h : Keeps s0 s) :
    Keeps s0 (when c f s) := keeps_ite _ (hf s h) h

theorem keeps_forAll {α : Type} {s0 s : State} (l : List α) (f : α → State → State)
    (hf : ∀ x s, Keeps s0 s → Keeps s0 (f x s)) (h : Keeps s0 s) : Keeps s0 (forAll l f s) := by
  unfold forAll
  induction l generalizing s with
  | nil => exact h
  | cons a l ih => exact ih (hf _ _ h)

theorem keeps_setReg {s0 s : State} (a : Nat) (w : Word) (h : Keeps s0 s) : Keeps s0 (setReg a w s) :=
  ⟨h.queue, h.time, fun hi => ⟨kset_wf _ _ (h.tabled hi).1, (h.tabled hi).2⟩, h.calm⟩

theorem keeps_setShd {s0 s : State} (a : Nat) (w : Word) (h : Keeps s0 s) : Keeps s0 (setShd a w s) :=
  ⟨h.queue, h.time, fun hi => ⟨(h.tabled hi).1, kset_wf _ _ (h.tabled hi).2.1, (h.tabled hi).2.2⟩, h.calm⟩

theorem keeps_wr {s0 s : State} (a : Nat) (f : Fld) (v : Nat) (h : Keeps s0 s) : Keeps s0 (wr a f v s) := keeps_setReg _ _ h

theorem keeps_wrS {s0 s : State} (a : Nat) (f : Fld) (v : Nat) (h : Keeps s0 s) : Keeps s0 (wrS a f v s) := keeps_setShd _ _ h

theorem keeps_bump {s0 s : State} (a : Nat) (f : Fld) (h : Keeps s0 s) : Keeps s0 (bump a f s) := keeps_setReg _ _ h

theorem keeps_resetRegs {s0 s : State} (n : Nat) (covers : Nat → Bool) (h : Keeps s0 s) : Keeps s0 (resetRegs n covers s) := by
  refine ⟨h.queue, h.time, fun hi => ?_, h.calm⟩
  obtain ⟨a1, a2, a3⟩ := h.tabled hi
  exact ⟨kmap_wf (fun a w => if covers a then resetRow n a w else w) a1,
    kmap_wf (fun a w => if covers a then resetRow n a w else w) a2, a3⟩

theorem keeps_early {s0 s : State} (f : State → State) (hf : ∀ s0 s, Keeps s0 s → Keeps s0 (f s)) (h : Keeps s0 s) :
    Keeps s0 (early f s) := by
  have h1 := hf s0 s h
  have h2 := hf _ _ (Keeps.refl { s with shadow := s.shadow0 })
  refine ⟨h1.queue, h1.time, fun hi => ?_, h1.calm⟩
  have h4 := h.tabled hi
  have h3 := h1.tabled hi
  have h5 := h2.tabled ⟨h4.1, h4.2.2.2.1, h4.2.2⟩
  exact ⟨h3.1, h3.2.1, h3.2.2.1, h5.2.1, h3.2.2.2.2⟩

/-- A change of a site that captures no new bank. -/
theorem keeps_modSite {s0 s : State} (i : Nat) (f : Site → Site) (hf : ∀ x, ∀ b ∈ (f x).banks, b ∈ x.banks) (h : Keeps s0 s) :
    Keeps s0 (modSite i f s) := by
  refine ⟨h.queue, h.time, fun hi => ?_, h.calm⟩
  obtain ⟨a1, a2, a3, a4, av, a5⟩ := h.tabled hi
  refine ⟨a1, a2, a3, a4, av, fun j b hb p hp => ?_⟩
  unfold State.site modSite at hb
  rw [kget_kset] at hb
  split at hb
  · exact a5 i b (hf _ _ hb) p hp
  · exact a5 j b hb p hp

/-- Listing the entries of a bank keeps the canonical form. -/
theorem foldl_kins_wf {d : Nat → Word} (b m : KMap Word) (hb : ∀ p ∈ b, p.2 ≠ d p.1) (hm : KWf d m) :
    KWf d (b.foldl (fun m p => kins m p.1 p.2) m) := by
  induction b generalizing m with
  | nil => exact hm
  | cons p b ih => exact ih _ (fun q hq => hb q (List.mem_cons_of_mem _ hq)) (kins_wf (hb p (List.mem_cons_self ..)) hm)

theorem keeps_copyBank {s0 s : State} (covers : Nat → Bool) (h : Keeps s0 s) : Keeps s0 (copyBank covers s) := by
  refine ⟨h.queue, h.time, fun hi => ?_, h.calm⟩
  obtain ⟨a1, a2, a3, a4, av, a5⟩ := h.tabled hi
  exact ⟨foldl_kins_wf _ _ (filter_wf _ a4).2 (filter_wf _ a1), a2, a3, a4, av, a5⟩

theorem keeps_applyTile {s0 s : State} (k : Nat) (h : Keeps s0 s) : Keeps s0 (applyTile k s) :=
  keeps_setReg _ _ (keeps_copyBank _ h)

theorem keeps_captureBanks {s0 s : State} (i : Nat) (h : Keeps s0 s) : Keeps s0 (captureBanks i s) := by
  unfold captureBanks
  refine keeps_forAll _ _ (fun k s h => keeps_setReg _ _ h) ?_
  refine ⟨h.queue, h.time, fun hi => ?_, h.calm⟩
  obtain ⟨a1, a2, a3, a4, av, a5⟩ := h.tabled hi
  refine ⟨a1, a2, a3, a4, av, fun j b hb p hp => ?_⟩
  unfold State.site modSite at hb
  rw [kget_kset] at hb
  split at hb
  · simp only [List.mem_append, List.mem_singleton] at hb
    rcases hb with hb | hb
    · exact a5 i b hb p hp
    · subst hb
      exact (filter_wf _ a4).2 p hp
  · exact a5 j b hb p hp

theorem keeps_applyBank {s0 s : State} (i : Nat) (h : Keeps s0 s) : Keeps s0 (applyBank i s) := by
  unfold applyBank
  split
  · exact h
  · rename_i b rest hb
    refine ⟨h.queue, h.time, fun hi => ?_, h.calm⟩
    obtain ⟨a1, a2, a3, a4, av, a5⟩ := h.tabled hi
    refine ⟨?_, a2, a3, a4, av, fun j b' hb' p hp => ?_⟩
    · exact foldl_kins_wf _ _ (a5 i b (by rw [hb]; exact List.mem_cons_self ..)) (filter_wf _ a1)
    · simp only [State.site, modSite] at hb'
      rw [kget_kset] at hb'
      split at hb'
      · rename_i hj
        subst hj
        exact a5 j b' (by rw [hb]; exact List.mem_cons_of_mem _ hb') p hp
      · exact a5 j b' hb' p hp

theorem roundFold_wf (d : Nat → Word) (l : List (Nat × Nat)) (m : KMap Word) (h : KWf d m) :
    KWf d (l.foldl (fun m e => roundEntry d m e.1 e.2) m) := by
  induction l generalizing m with
  | nil => exact h
  | cons e l ih => exact ih _ (kset_wf _ _ (kset_wf _ _ h))

theorem keeps_roundAll {s0 s : State} (h : Keeps s0 s) : Keeps s0 (roundAll s) := by
  refine ⟨h.queue, h.time, fun hi => ?_, h.calm⟩
  obtain ⟨a1, a2, a3, a4, av, a5⟩ := h.tabled hi
  exact ⟨roundFold_wf _ _ _ a1, roundFold_wf _ _ _ a2, a3, roundFold_wf _ _ _ a4, av, a5⟩

theorem keeps_clearField {s0 s : State} (a : Nat) (i : List Nat) (f : FieldRow) (h : Keeps s0 s) :
    Keeps s0 (clearField a i f s) := by
  unfold clearField
  split
  · have h1 := keeps_setReg (s0 := s0) (s := s) a
      (fset (s.reg a) f.fld (f.rst.value i + (s.rd a f.fld - fget (s.reg0 a) f.fld))) h
    refine ⟨h1.queue, h1.time, fun hi => ?_, h1.calm⟩
    obtain ⟨a1, a2, a3, a4, av, a5⟩ := h1.tabled hi
    exact ⟨a1, a2, kset_wf _ _ a3, a4, av, a5⟩
  · exact h

theorem keeps_resetCore {s0 s : State} (n : Nat) (h : Keeps s0 s) : Keeps s0 (resetCore n s) := by
  unfold resetCore
  refine keeps_setReg _ _ (keeps_setReg _ _ ?_)
  dsimp only
  generalize (s.cal.jobs.flatMap _) = l
  have h1 : Keeps s0 (forAll l (fun u => wr (A.CAL_UNIT_STATE (calIndex u)) F.CAL_UNIT_STATE.CAL_BUSY 0)
      (resetRegs n (fun _ => true) s)) := keeps_forAll l _ (fun _ _ h => keeps_wr _ _ _ h) (keeps_resetRegs n _ h)
  generalize forAll l _ _ = t at h1 ⊢
  refine ⟨h1.queue, h1.time, fun hi => ?_, fun _ e he => by cases he⟩
  obtain ⟨a1, a2, a3, a4, -⟩ := h1.tabled hi
  refine ⟨a1, a2, a3, a4, ?_, ?_⟩
  · intro v hv; cases hv
  · intro i b hb; cases hb

theorem keeps_raiseBits {s0 s : State} (a : Nat) (f : Fld) (m : Nat) (h : Keeps s0 s) : Keeps s0 (raiseBits a f m s) := by
  refine keeps_wr _ _ _ ⟨h.queue, h.time, fun hi => ?_, h.calm⟩
  obtain ⟨a1, a2, a3, a4, av, a5⟩ := h.tabled hi
  exact ⟨a1, a2, kset_wf _ _ a3, a4, av, a5⟩

theorem keeps_raise {s0 s : State} (a : Nat) (f : Fld) (h : Keeps s0 s) : Keeps s0 (raise a f s) := keeps_raiseBits _ _ _ h

/-- An event is fired with a generation from 0 to 7 or not at all (R394). -/
theorem keeps_fireAt {s0 s : State} (p kind gen : Nat) (st : Stamp) (r : Nat) (h : Keeps s0 s) :
    Keeps s0 (fireAt p kind gen st r s) := by
  unfold fireAt
  split
  · exact keeps_bump _ _ (keeps_raise _ _ h)
  · rename_i hg
    have h1 := keeps_bump (A.PR_PSTAT p) F.PR_PSTAT.FIRED (keeps_wr (A.PR_PSTAT p) F.PR_PSTAT.LASTGEN gen h)
    refine ⟨h1.queue, h1.time, h1.tabled, fun hi e he => ?_⟩
    simp only [List.mem_append, List.mem_singleton] at he
    rcases he with he | he
    · exact h1.calm hi e he
    · subst he
      show gen ≤ 7
      omega

/-- What stays in flight was in flight. -/
theorem splitDue_sub (now n : Nat) (l : List Event) : ∀ e ∈ (splitDue now n l).2, e ∈ l := by
  induction l generalizing n with
  | nil => intro e he; cases n <;> simp [splitDue] at he
  | cons x l ih =>
    intro e he
    cases n with
    | zero => simpa [splitDue] using he
    | succ n =>
      rw [splitDue] at he
      split at he
      · exact List.mem_cons_of_mem _ (ih _ _ he)
      · simp only [List.mem_cons] at he
        rcases he with he | he
        · exact he ▸ List.mem_cons_self ..
        · exact List.mem_cons_of_mem _ (ih _ _ he)

theorem keeps_modRing {s0 s : State} (q : Nat) (f : Ring → Ring) (h : Keeps s0 s) : Keeps s0 (modRing q f s) :=
  h.other rfl rfl rfl rfl rfl rfl rfl rfl rfl

theorem keeps_modCmd {s0 s : State} (q : Nat) (f : Cmd → Cmd) (h : Keeps s0 s) : Keeps s0 (modCmd q f s) := by
  unfold modCmd
  exact keeps_modRing _ _ h

theorem keeps_reportAt {s0 s : State} (unit code key st : Nat) (h : Keeps s0 s) : Keeps s0 (reportAt unit code key st s) :=
  h.other rfl rfl rfl rfl rfl rfl rfl rfl rfl

theorem keeps_emit {s0 s : State} (o : Output) (h : Keeps s0 s) : Keeps s0 (emit o s) := h.other rfl rfl rfl rfl rfl rfl rfl rfl rfl

theorem keeps_modPin {s0 s : State} (n : Nat) (f : Pin → Pin) (h : Keeps s0 s) : Keeps s0 (modPin n f s) :=
  h.other rfl rfl rfl rfl rfl rfl rfl rfl rfl

theorem keeps_modTile {s0 s : State} (k : Nat) (f : Tile → Tile) (h : Keeps s0 s) : Keeps s0 (modTile k f s) :=
  h.other rfl rfl rfl rfl rfl rfl rfl rfl rfl

theorem keeps_setClaim {s0 s : State} (u amount : Nat) (h : Keeps s0 s) : Keeps s0 (setClaim u amount s) :=
  keeps_wr _ _ _ (h.other rfl rfl rfl rfl rfl rfl rfl rfl rfl)

theorem keeps_wakeBlock {s0 s : State} (b : Nat) (h : Keeps s0 s) : Keeps s0 (wakeBlock b s) :=
  keeps_ite _ (h.other rfl rfl rfl rfl rfl rfl rfl rfl rfl) h

theorem keeps_setKey {s0 s : State} (k : Nat) (v : KeySlot) (h : Keeps s0 s) : Keeps s0 (setKey k v s) :=
  h.other rfl rfl rfl rfl rfl rfl rfl rfl rfl

theorem keeps_closeSlot {s0 s : State} (k : Nat) (h : Keeps s0 s) : Keeps s0 (closeSlot k s) := by
  unfold closeSlot
  refine keeps_setKey _ _ (keeps_forAll _ _ (fun q s h => ?_) h)
  split
  · exact keeps_ite _ (keeps_wr _ _ _ (keeps_modRing _ _ h)) h
  · exact h

theorem keeps_doAfter {s0 s : State} (q : Nat) (a : After) (h : Keeps s0 s) : Keeps s0 (doAfter q a s) := by
  unfold doAfter
  split
  · exact h
  · exact keeps_closeSlot _ h
  · exact h.other rfl rfl rfl rfl rfl rfl rfl rfl rfl

theorem keeps_setLast {s0 s : State} (q tag status : Nat) (h : Keeps s0 s) : Keeps s0 (setLast q tag status s) :=
  keeps_wr _ _ _ (keeps_wr _ _ _ (keeps_wr _ _ _ h))

theorem keeps_dropLate {s0 s : State} (q : Nat) (h : Keeps s0 s) : Keeps s0 (dropLate q s) := by
  unfold dropLate
  split
  · exact keeps_ite _ h (keeps_modCmd _ _ (keeps_forAll _ _ (fun _ _ h => keeps_wrS _ _ _ h) h))
  · exact h

theorem keeps_replayLate {s0 s : State} (l : List (Nat × Fld × Nat × Nat)) (h : Keeps s0 s) : Keeps s0 (replayLate l s) :=
  keeps_forAll _ _ (fun _ _ h => keeps_when _ _ (fun _ h => keeps_wr _ _ _ h) (keeps_wrS _ _ _ h)) h

/-- The marks of a command's writes are no part of what is kept. -/
theorem keeps_markWrites {s0 s t : State} (h : Keeps s0 t) : Keeps s0 (markWrites s t) :=
  h.other rfl rfl rfl rfl rfl rfl rfl rfl rfl

/-- The end of a command. -/
theorem keeps_finishU {s0 s : State} (q st d : Nat) (res : List Word) (u : Nat) (h : Keeps s0 s) :
    Keeps s0 (finishU q st d res u s) := by
  unfold finishU
  split
  · exact h
  · rename_i c hc
    dsimp only
    have h1 : Keeps s0 (if st = 0x0230 then bump A.PW_REFUSED F.PW_REFUSED.COUNT s else s) := keeps_ite _ (keeps_bump _ _ h) h
    generalize (if st = 0x0230 then bump A.PW_REFUSED F.PW_REFUSED.COUNT s else s) = s1 at h1 ⊢
    have h2 := keeps_ite (st / 256 = 3) (keeps_setReg A.IL_LAST_UNIT (word u)
      (keeps_wr A.IL_LAST F.IL_LAST.STATUS st (keeps_wr A.IL_LAST F.IL_LAST.OPCODE c.opcode h1))) h1
    replace h2 := keeps_dropLate q h2
    exact keeps_ite _ (keeps_doAfter _ _ (keeps_modRing _ _ (keeps_setLast _ _ _ h2))) (keeps_modCmd _ _ h2)

theorem keeps_finish {s0 s : State} (q st d : Nat) (res : List Word) (h : Keeps s0 s) : Keeps s0 (finish q st d res s) :=
  keeps_finishU _ _ _ _ _ h

theorem keeps_ok {s0 s : State} (q : Nat) (res : List Word) (h : Keeps s0 s) : Keeps s0 (ok q res s) := keeps_finish _ _ _ _ h

theorem keeps_finishMap {s0 s : State} (q st : Nat) (d : Option Nat) (map : List (Nat × Nat)) (h : Keeps s0 s) :
    Keeps s0 (finishMap q st d map s) := keeps_finish _ _ _ _ h

/-- A host command keeps what its body keeps. -/
theorem keeps_hostCmd {s0 s : State} (q op : Nat) (units : Cmd → State → List Nat) (body : Cmd → State → State)
    (hb : ∀ c s, Keeps s0 s → Keeps s0 (body c s)) (h : Keeps s0 s) : Keeps s0 (hostCmd q op units body s) := by
  unfold hostCmd
  split
  · exact h
  · refine keeps_ite _ ?_ h
    split
    · exact keeps_modCmd _ _ h
    · exact keeps_ite _ (keeps_markWrites (hb _ _ (keeps_modCmd _ _ h))) (keeps_forAll _ _ (fun b s h => keeps_wakeBlock b h) (keeps_modCmd _ _ h))

theorem keeps_simpleCmd {s0 s : State} (q op : Nat) (body : Cmd → State → State)
    (hb : ∀ c s, Keeps s0 s → Keeps s0 (body c s)) (h : Keeps s0 s) : Keeps s0 (simpleCmd q op body s) :=
  keeps_hostCmd _ _ _ _ hb h

theorem keeps_checked {s0 s : State} (q : Nat) (l : List (Bool × Nat × Nat)) (body : State → State)
    (hb : ∀ s, Keeps s0 s → Keeps s0 (body s)) (h : Keeps s0 s) : Keeps s0 (checked q l body s) := by
  unfold checked
  split
  · exact keeps_finish _ _ _ _ h
  · exact hb _ h

theorem keeps_checkedU {s0 s : State} (q : Nat) (l : List (Bool × Nat × Nat × Nat)) (body : State → State)
    (hb : ∀ s, Keeps s0 s → Keeps s0 (body s)) (h : Keeps s0 s) : Keeps s0 (checkedU q l body s) := by
  unfold checkedU
  split
  · exact keeps_finishU _ _ _ _ _ h
  · exact hb _ h

/-- What a table held where another differs are values of it. -/
theorem mem_kold {α : Type} [DecidableEq α] (d : Nat → α) (a b : KMap α) : ∀ x ∈ kold d a b, ∃ k, x.2 = kget d a k := by
  intro x hx
  obtain ⟨k, -, rfl⟩ := List.mem_map.1 hx
  exact ⟨k, rfl⟩

/-- The state before a commit is kept beside the state after it. -/
theorem keeps_saves {s0 s t u : State} (q : Nat) (hs : Keeps s0 s) (hu : Keeps s0 u) (he : u.saves = t.saves) :
    Keeps s0 { u with saves := kins t.saves q (savedOf s t) } := by
  refine ⟨hu.queue, hu.time, fun hi => ?_, hu.calm⟩
  obtain ⟨a1, a2, a3, a4, av, a5⟩ := hu.tabled hi
  rw [he] at av
  refine ⟨a1, a2, a3, a4, fun v hv => ?_, a5⟩
  rcases mem_kins hv with rfl | hv
  · intro x hx
    obtain ⟨k, hk⟩ := mem_kold _ _ _ x hx
    rw [hk]
    exact (hs.tabled hi).2.2.2.2.2 k
  · exact av v hv

/-- A two-phase command keeps what its commit and its completion keep. -/
theorem keeps_twoPhase {s0 s : State} (q : Nat) (units : List Nat) (e : Acks) (commit : (Nat → Bool) → State → State)
    (done : State → State) (hc : ∀ p s, Keeps s0 s → Keeps s0 (commit p s)) (hd : ∀ s, Keeps s0 s → Keeps s0 (done s))
    (h : Keeps s0 s) : Keeps s0 (twoPhase q units e commit done s) := by
  unfold twoPhase
  split
  · exact keeps_finishMap _ _ _ _ h
  · have h1 := keeps_dropLate q h
    have h2 := keeps_replayLate (((s.running q).map (·.late)).getD []) (hc (fun _ => true) _ h1)
    exact keeps_ite _ (keeps_saves q h1 (keeps_modCmd _ _ h2) rfl)
      (keeps_ite _ (hd _ h2) (keeps_finishMap _ _ _ _ (keeps_ite _ h1 (hc _ _ h1))))

/-- A write to the register window that the link or the window turns away is counted, and one that meets a block in reset waits. -/
theorem keeps_barWrite {s0 s : State} (c : Instr) (a : Nat) (f : State → State) (hf : ∀ s, Keeps s0 s → Keeps s0 (f s))
    (h : Keeps s0 s) : Keeps s0 (barWrite c a f s) := by
  refine keeps_ite _ h (keeps_ite _ ?_ (keeps_bump _ _ h))
  split
  · exact h.other rfl rfl rfl rfl rfl rfl rfl rfl rfl
  · exact hf _ h

end Sys2Proof.Machine
end

