-- ==== Sys2Proof/Laws/Regs.lean ====
section
/-! SUPPORT. Where the instances of a register type lie, and what an entry of the edge tables holds after reset. -/

namespace Sys2Proof.Machine

/-- The room that the instances of a register type take. -/
def extent : List (Nat × Nat) → Nat
  | [] => 1
  | d :: ds => (d.2 - 1) * d.1 + extent ds

theorem decompose_bound (dims : List (Nat × Nat)) (off : Nat) (i : List Nat) (h : decompose dims off = some i) :
    off < extent dims := by
  induction dims generalizing off i with
  | nil =>
    unfold decompose at h
    split at h
    · rename_i h0
      subst h0
      decide
    · cases h
  | cons d ds ih =>
    unfold decompose at h
    split at h
    · rename_i hq
      obtain ⟨j, hj, -⟩ := Option.map_eq_some_iff.1 h
      have h1 := ih _ _ hj
      have h2 := Nat.div_add_mod off d.1
      have h3 : d.1 * (off / d.1) ≤ (d.2 - 1) * d.1 := by
        rw [Nat.mul_comm]
        exact Nat.mul_le_mul_right _ (by omega)
      show off < (d.2 - 1) * d.1 + extent ds
      omega
    · cases h

theorem match_bound {r : RegRow} {a : Nat} {x : RegRow × List Nat} (h : r.match? a = some x) :
    x.1 = r ∧ r.base ≤ a ∧ a < r.base + extent r.dims := by
  unfold RegRow.match? at h
  split at h
  · rename_i hb
    obtain ⟨i, hi, rfl⟩ := Option.map_eq_some_iff.1 h
    have := decompose_bound _ _ _ hi
    exact ⟨rfl, hb, by omega⟩
  · cases h

/-- Of the register types of that region only those of the edge tables have an instance from 0x500000 on, and theirs are 0 after reset. -/
theorem edge_rows : ∀ r ∈ regsPin0 ++ regsPin1,
    r.base + extent r.dims ≤ 0x500000 ∨ ∀ f ∈ r.fields, f.rst = .k 0 := by decide +kernel

/-- The region that holds the edge tables. -/
theorem regsAt_edge (a : Nat) (h1 : 0x500000 ≤ a) (h2 : a < 0x600000) : regsAt a = regsPin0 ++ regsPin1 := by
  unfold regsAt
  rw [if_neg (by omega), if_neg (by omega), if_neg (by omega), if_neg (by omega), if_neg (by omega), if_neg (by omega),
    if_neg (by omega), if_neg (by omega), if_pos h2]

theorem fset_zero (f : Fld) : fset 0 f 0 = 0 := by
  unfold fset
  simp

/-- An edge entry that nothing has written is off. -/
theorem resetWord_edge (a : Nat) (h1 : 0x500000 ≤ a) (h2 : a < 0x600000) : resetWord a = 0 := by
  unfold resetWord
  split
  · rename_i r i h
    unfold findReg at h
    obtain ⟨x, hx, hm⟩ := List.exists_of_findSome?_eq_some h
    have hc := edge_rows x (regsAt_edge a h1 h2 ▸ hx)
    obtain ⟨e, hb, hl⟩ := match_bound hm
    subst e
    dsimp only at hc hb hl
    rcases hc with hc | hc
    · omega
    · revert hc
      generalize r.fields = l
      intro hc
      have : ∀ w : Word, w = 0 → l.foldl (fun w f => fset w f.fld (f.rst.value i)) w = 0 := by
        induction l with
        | nil => intro w hw; exact hw
        | cons f l ih =>
          intro w hw
          refine ih (fun g hg => hc g (List.mem_cons_of_mem _ hg)) _ ?_
          dsimp only
          rw [hw, hc f (List.mem_cons_self ..)]
          exact fset_zero _
      exact this 0 rfl
  · rfl

end Sys2Proof.Machine
end

