-- ==== Sys2Proof/Machine/Signals.lean ====
section
/-! DEFINITION. The external signals that no register shows (R69, R473). -/

namespace Sys2Proof.Machine

/-- A reset of reach L3 or L4, or TEST_EN, holds the signals in the first column of R69. -/
def State.signalsHeld (s : State) : Bool :=
  3 ≤ s.rst.reach && [Phase.held, .straps, .sampled, .testHeld].contains s.rst.phase

/-- The ball of a pulse engine: its output, low behind a thermal shutdown and in umbra mode (R69, R307, R473). -/
def State.pgoBall (s : State) (j : Nat) : Bool :=
  s.pgActive j && !s.signalsHeld && !s.umbra && !s.power.shutDown.contains (j / 8)

/-- REFOUT runs once the MTC PLL has locked, and is quiet in reset and in umbra mode (R69). -/
def State.refoutRuns (s : State) : Bool := s.gn.running && !s.signalsHeld && !s.umbra

/-- The XO lanes are electrically idle (R69, R465). -/
def State.xoIdle (s : State) : Bool := s.xrState = 0

/-- SPI_CS_N is high and SPI_SCK low, and not under the flash controller (R69). -/
def State.spiParked (s : State) : Bool := s.signalsHeld

/-- A TIO pin is an input with its pull-down (R69, R398). -/
def State.tioPulled (s : State) (n : Nat) : Bool := s.signalsHeld || s.umbra || !s.flag (A.PR_TIO n) F.PR_TIO.OUT

/-- SMB_SCL, SMB_SDA and SMB_ALERT_N are released (R69, R460). -/
def State.smbReleased (s : State) : Bool := !s.smbusUp

end Sys2Proof.Machine
end

