-- ==== Sys2Proof/WellFormed.lean ====
section
/-! DEFINITION. Well-formed commands: every operand that numbers a ring, a site, a unit or an address lies in the range that the
spec gives it. -/

namespace Sys2Proof

/-- The numbering operands of a command, each with the number of values it has: 8 rings (R78), 16 sites (R139), 16 tiles, 256 pins, 64
monitors, 32 engines and channels of a kind, 4 dies (R39), 254 power-managed blocks (R435), 6 sensors (R443), 40 rails (R400), 26
monitored domains (R428), 32 ring positions (R347), generations 0 to 7 (R385), 4,096 segments (R117), BAR0 of 64 MiB and BAR2 of 256 MiB
(R77). -/
def Instr.bounds : Instr → List (Nat × Nat)
  | .nop q => [(q, 8)]
  | .identify q => [(q, 8)]
  | .sessionOpen q => [(q, 8)]
  | .sessionClose q => [(q, 8)]
  | .keyProvision q _ => [(q, 8)]
  | .keyRevoke q _ => [(q, 8)]
  | .keyStatus q => [(q, 8)]
  | .patternLoad q _ _ _ _ => [(q, 8)]
  | .patternFree q => [(q, 8)]
  | .placeReport q => [(q, 8)]
  | .bufferAlloc q => [(q, 8)]
  | .bufferFree q => [(q, 8)]
  | .measPlace q => [(q, 8)]
  | .measRelease q => [(q, 8)]
  | .windowBind q => [(q, 8)]
  | .ledgerRead q => [(q, 8)]
  | .siteForm q _ => [(q, 8)]
  | .siteDissolve q _ => [(q, 8)]
  | .runStart q _ => [(q, 8)]
  | .runPause q _ => [(q, 8)]
  | .runResume q _ => [(q, 8)]
  | .runStep q => [(q, 8)]
  | .runHalt q _ => [(q, 8)]
  | .runJump q => [(q, 8)]
  | .runStatus q => [(q, 8)]
  | .ucLoad q _ _ _ _ => [(q, 8)]
  | .ucClear q _ => [(q, 8)]
  | .ucStatus q => [(q, 8)]
  | .tsetPeriod q _ => [(q, 8)]
  | .tsetEdges q _ => [(q, 8)]
  | .tsetRead q => [(q, 8)]
  | .tsetApply q _ => [(q, 8)]
  | .pinModeSet q _ => [(q, 8)]
  | .levelSet q _ => [(q, 8)]
  | .levelStrobe q _ => [(q, 8)]
  | .levelRead q => [(q, 8)]
  | .formatSet q _ => [(q, 8)]
  | .pinMapSet q _ => [(q, 8)]
  | .gangSet q => [(q, 8)]
  | .hvLimitSet q _ => [(q, 8)]
  | .cmpCfgSet q _ => [(q, 8)]
  | .maskSet q _ => [(q, 8)]
  | .failCfgSet q => [(q, 8)]
  | .failRead q _ => [(q, 8)]
  | .failSummary q => [(q, 8)]
  | .pmuSet q _ => [(q, 8)]
  | .pmuMeasure q _ => [(q, 8)]
  | .awSet q _ => [(q, 8)]
  | .awSegLoad q _ => [(q, 8)]
  | .awSeqLoad q => [(q, 8)]
  | .awRun q _ => [(q, 8)]
  | .awStop q _ => [(q, 8)]
  | .awJump q => [(q, 8)]
  | .wmSet q _ => [(q, 8)]
  | .pgSet q => [(q, 8)]
  | .pgListLoad q => [(q, 8)]
  | .pgStart q _ => [(q, 8)]
  | .pgStop q _ => [(q, 8)]
  | .pgClear q _ => [(q, 8)]
  | .aqSet q => [(q, 8)]
  | .aqArm q _ => [(q, 8)]
  | .aqForce q _ => [(q, 8)]
  | .aqStop q _ => [(q, 8)]
  | .aqRead q _ _ => [(q, 8)]
  | .tuSet q => [(q, 8)]
  | .tuArm q _ => [(q, 8)]
  | .tuStop q _ => [(q, 8)]
  | .tuRead q => [(q, 8)]
  | .tuBincal q _ => [(q, 8)]
  | .xrDelaySet q => [(q, 8)]
  | .profileSet q _ _ => [(q, 8)]
  | .prismSet q => [(q, 8)]
  | .prismConsSet q => [(q, 8)]
  | .prismFire q => [(q, 8)]
  | .prismTioSet q => [(q, 8)]
  | .lensRead q => [(q, 8)]
  | .lensAck q => [(q, 8)]
  | .calRun q _ => [(q, 8)]
  | .calWrite q _ => [(q, 8)]
  | .calRead q => [(q, 8)]
  | .calStore q _ => [(q, 8)]
  | .calStatus q => [(q, 8)]
  | .calExt q => [(q, 8)]
  | .powerBudgetSet q => [(q, 8)]
  | .powerFloorSet q => [(q, 8)]
  | .powerStatus q => [(q, 8)]
  | .thermalSet q => [(q, 8)]
  | .reset q => [(q, 8)]
  | .fwLoad q _ _ => [(q, 8)]
  | .reachSet q _ => [(q, 8)]
  | .remap q _ _ _ _ _ => [(q, 8)]
  | .retire q _ => [(q, 8)]
  | .ringCtrl q => [(q, 8)]
  | .rstLogRead q => [(q, 8)]
  | .smbHistoryRead target i => [(target, 128), (i, 16)]
  | .extest _ => []
  | .samplePreload _ _ => []
  | .extestPulse _ => []
  | .extestTrain _ => []
  | .bypass code => [(code, 256)]
  | .sqTailDoorbell q _ => [(q, 8)]
  | .cqHeadDoorbell q _ => [(q, 8)]
  | .ringEnable q _ => [(q, 8)]
  | .ringDisable q _ => [(q, 8)]
  | .siteCtrlPause i => [(i, 16)]
  | .siteCtrlResume i => [(i, 16)]
  | .siteCtrlHalt i => [(i, 16)]
  | .siteCtrlStep i => [(i, 16)]
  | .evSet i => [(i, 16)]
  | .seqJumpReq i seg => [(i, 16), (seg, 4096)]
  | .tsetCtrlApply k => [(k, 16)]
  | .tsetEntryLoWrite a _ => [(a, 67108864)]
  | .tsetEntryHiWrite a _ => [(a, 67108864)]
  | .pgTimingHiWrite j w _ => [(j, 32), (w, 3)]
  | .lvlStrobeGo d mask => [(d, 4), (mask, 65536)]
  | .plWinWrite w _ => [(w, 16)]
  | .prSwfireWrite _ => []
  | .lensAckseqWrite _ => []
  | .wdKick key => [(key, 256)]
  | .trippedClear k => [(k, 6)]
  | .regReadClear bar a _ _ => [(bar, 8), (a, 268435456)]
  | .regWrite bar a _ => [(bar, 8), (a, 268435456)]
  | .commandFetch q _ _ => [(q, 8)]
  | .unitAcquire q => [(q, 8)]
  | .unitWaitTimeout q => [(q, 8)]
  | .commitAckTimeout q => [(q, 8)]
  | .completionWrite q _ => [(q, 8)]
  | .cqIrqTimeout q => [(q, 8)]
  | .streamPrimeDone q _ _ => [(q, 8)]
  | .armedStart i => [(i, 16)]
  | .resumeStart i => [(i, 16)]
  | .refillRequest k _ => [(k, 16)]
  | .refillComplete k _ _ _ _ => [(k, 16)]
  | .scrubStep _ _ => []
  | .routineDispatch i _ => [(i, 16)]
  | .microwordExec i _ => [(i, 16)]
  | .microWatchdog i => [(i, 16)]
  | .cycleRead i _ => [(i, 16)]
  | .cycleTake i => [(i, 16)]
  | .compareOutcome i _ _ => [(i, 16)]
  | .failLogWrite i => [(i, 16)]
  | .failLogHeader i => [(i, 16)]
  | .sitePark i => [(i, 16)]
  | .prismDeliver _ => []
  | .ringEventReceive origin n gen _ frac _ => [(origin, 32), (n, 4), (gen, 8), (frac, 65536)]
  | .tioInputEdge n _ => [(n, 16)]
  | .tioPulseEnd n => [(n, 16)]
  | .tickFire k => [(k, 3)]
  | .levelDacUpdate _ => []
  | .switchClose _ => []
  | .pinModeDisconnect n => [(n, 256)]
  | .modeBusyClear n => [(n, 256)]
  | .rangeBreakOpen _ => []
  | .rangeBusyClear _ => []
  | .currentLimitOnset _ => []
  | .pinDwellExpire n => [(n, 256)]
  | .pmuDwellExpire n => [(n, 256)]
  | .awDwellExpire k => [(k, 32)]
  | .senseOpenDetect _ => []
  | .pmuServoTick n _ => [(n, 256)]
  | .pmuSample q _ => [(q, 8)]
  | .pmuMeasureDone q => [(q, 8)]
  | .awBoundary k => [(k, 32)]
  | .awTrigPresent k => [(k, 32)]
  | .awJumpPresent k => [(k, 32)]
  | .wmInputCrossing k _ => [(k, 64)]
  | .wmSettleExpire k => [(k, 64)]
  | .eclipseClose k => [(k, 64)]
  | .wmTapUpdate k _ => [(k, 64)]
  | .pgGo j => [(j, 32)]
  | .pgLeadingEdge j => [(j, 32)]
  | .pgTrailingEdge j => [(j, 32)]
  | .pgTrip j => [(j, 32)]
  | .pgFault j => [(j, 32)]
  | .pgKill j => [(j, 32)]
  | .pgServoTick j => [(j, 32)]
  | .aqTrigger k => [(k, 32)]
  | .aqRecordComplete k => [(k, 32)]
  | .aqForceAct k => [(k, 32)]
  | .aqTrigEvent k => [(k, 32)]
  | .tuMeasureStart k => [(k, 32)]
  | .tuEdge k b _ _ _ => [(k, 32), (b, 2)]
  | .tuWindowClose k => [(k, 32)]
  | .tuGateClose k => [(k, 32)]
  | .bincalAuto d => [(d, 4)]
  | .bincalDone k _ => [(k, 32)]
  | .syncFrameSend _ => []
  | .syncFrameReceive origin up _ _ _ _ _ _ => [(origin, 32), (up, 32)]
  | .ovenLevelChange _ => []
  | .clockWindowCheck n _ _ => [(n, 26)]
  | .linkLaneLoss d => [(d, 4)]
  | .lensRemoteIncident _ => []
  | .powerStateEval b => [(b, 254)]
  | .powerStateEnterDone b => [(b, 254)]
  | .powerStateExitDone b => [(b, 254)]
  | .tempRead _ => []
  | .thermalShutdown k => [(k, 6)]
  | .railFault rail => [(rail, 40)]
  | .calGroupEnd d _ => [(d, 4)]
  | .calWarmExpire d => [(d, 4)]
  | .isoResetIdle _ => []
  | .isoResetTimeout _ _ _ => []
  | .brownOut rail => [(rail, 40)]
  | .fwWatchdogExpire core => [(core, 4)]
  | .doubleException core => [(core, 4)]
  | .waitClkTimeout _ => []
  | .ovenSampleFirst _ => []
  | .ovenSampleSecond _ => []
  | .strapSample boot ring _ _ _ => [(boot, 4), (ring, 32)]
  | .blockRelease _ => []
  | .bringupComplete _ => []
  | .digitizerSample k _ => [(k, 32)]
  | .tuGateOpen k => [(k, 32)]
  | .currentLimitEnd _ => []
  | .calExtSettled d => [(d, 4)]
  | .pcieLinkUp _ _ => []
  | .smbCauseRead target => [(target, 128)]
  | .idcode => []
  | .clamp => []
  | .highz => []
  | .sysReset => []
  | .tapReset => []
  | .gnNowLoRead => []
  | .windowWrite => []
  | .perstAssert => []
  | .perstRelease => []
  | .functionLevelReset => []
  | .d3hotEnter => []
  | .d0Return => []
  | .busMasterDisable => []
  | .busMasterEnable => []
  | .msixEnable _ => []
  | .commandStart => []
  | .strobeHeldRelease => []
  | .awRunStart => []
  | .awStopAct => []
  | .pgStopAct => []
  | .aqStopAct => []
  | .tuStopAct => []
  | .ringStep => []
  | .syncTimeout => []
  | .xiLockLost => []
  | .warmExpire => []
  | .refMissing => []
  | .refPresent => []
  | .holdoverExpire => []
  | .mtcPllLock => []
  | .lensReportProcess => []
  | .lensIncidentClose => []
  | .claimQueueGrant => []
  | .profileReloadDone => []
  | .softwareSourceAssert => []
  | .powerOn => []
  | .nrstInLow => []
  | .nrstInHigh => []
  | .hostWatchdogExpire => []
  | .fabricTimeout => []
  | .startTimeout => []
  | .resetSourceAssert => []
  | .resetReleaseStart => []
  | .bringupFirmwareReady => []

/-- A command is well-formed when every numbering operand is in range. -/
def Instr.wellFormed (c : Instr) : Bool := c.bounds.all (fun p => p.1 < p.2)

end Sys2Proof
end

