-- ==== Sys2Proof/Tests/Slice0.lean ====
section
/-! SUPPORT. Tests: the spec's worked examples, ill-formed commands, and for each clause of a statement a state and operands that meet
its hypotheses. -/

open Sys2Proof Sys2Proof.Machine

namespace Sys2Proof.Tests

set_option Elab.async false
set_option linter.unusedVariables false

/-- The packet words of a command: header, length, no counter, then the payload. -/
def packetOf (op : Nat) (payload : List Word) : List Word :=
  [word (2 ^ 24 + op), word ((payload.length + 4) * 2 ^ 16), 0, 0] ++ payload

/-- A command under way with this opcode and payload. -/
def cmdOf (op : Nat) (payload : List Word) : Cmd := { order := 0, entry := [], packet := packetOf op payload, core := 0 }

/-- The state with ring 0 running that command. -/
def run0 (op : Nat) (payload : List Word) (s : State) : State := { s with rings := [(0, { run := some (cmdOf op payload) })] }

/-- The state with one command fetched on ring 7, which is enabled; key slot 1 holds a key. -/
def fetched7 (e : Option Session) (p : List Word) : State :=
  wr A.HL_STATUS F.HL_STATUS.FW_READY 1 (wr (A.HL_RING_STATUS 7) F.HL_RING_STATUS.STOPPED 0
    (wr (A.HL_RING_CFG 7) F.HL_RING_CFG.ENABLE 1 {
      keys := [(1, ⟨.provisioned, List.replicate 32 7⟩)],
      rings := [(7, {
        cqHead := 5, session := e,
        fetched := [⟨0, [0, 0, word p.length, 0, 0, 0, 0, 0], some p⟩] })] }))

/-- A critical NOP of one payload word with counter 42 and its keyed check, for the key of slot 1 and the nonce 5. -/
def checkedPacket : List Word :=
  let p : List Word := [word (2 ^ 24 + 2 ^ 16), 0x00090000, 42, 0, 77]
  let m := keyedCheck (List.replicate 32 7) 5 (p ++ [0, 0, 0, 0]) 9
  p ++ (List.range 4).map (fun i => bytesWord (m.getD (4 * i) 0) (m.getD (4 * i + 1) 0) (m.getD (4 * i + 2) 0) (m.getD (4 * i + 3) 0))

/-- A Lenmas image is in force that dispatches ADV and END. -/
def lenmasOn (s : State) : State :=
  wr (A.UC_REGION 0) F.UC_REGION.VALID 1
    { s with micro := { s.micro with regions := [(0, { records := [(0, 0x80000001), (0x3F, 0x800001C1)] })] } }

/-- A container of one local segment for a site of one tile: ADV 2 and END 2, four lines (R116, R143, R148). -/
def tinyPattern : List Word :=
  [0x01000001, 0, 5000, 0xFFF, 1, 10, 2, 12, 4, 0] ++ [0x00000002, 0x3F000002] ++ List.replicate 8 0

/-- Site 0 formed over tile 0, with the Lenmas region valid and no block asleep; ring 0 loads the container. -/
def loadable : State :=
  run0 0x0101 [0, 0x1000, 0, word tinyPattern.length] (wr (A.SEQ_SITE_CFG 0) F.SEQ_SITE_CFG.FORMED 1 (lenmasOn {}))

/-- That container as the checks give it, and with its space. -/
def checkedObj : PatObj :=
  { site := 0, first := 0, width := 1, pad := false, minPeriod := 5000, keepalive := 4095, container := tinyPattern,
    segs := [{ doubleData := false, padTol := false, forceLocal := true, ctrl := [0x00000002, 0x3F000002], cycles := 4,
               lines := List.replicate 8 0, streamed := false }],
    rate := 1, vecUnits := 1, ctlUnits := 1, hbmBlocks := 1 }
def loadedObj : PatObj := { checkedObj with ctlAt := 4095 }

/-- Site `i` formed over tile `i` alone, in the run state `st`, with the object as its pattern. -/
def siteOn (i st : Nat) (s : State) : State :=
  setReg (A.SEQ_HANDLE i) 0x10050000 (wr (A.SEQ_TILE_STATUS i) F.SEQ_TILE_STATUS.IN_SITE 1
    (wr (A.SEQ_TILE_STATUS i) F.SEQ_TILE_STATUS.SITE i (wr (A.SEQ_TILE_STATUS i) F.SEQ_TILE_STATUS.LEAD 1
      (wr (A.SEQ_SITE_STATE i) F.SEQ_SITE_STATE.STATE st (wr (A.SEQ_SITE_CFG i) F.SEQ_SITE_CFG.FIRST i
        (wr (A.SEQ_SITE_CFG i) F.SEQ_SITE_CFG.FORMED 1
          { s with place := { s.place with objs := [(0, ⟨5, some { loadedObj with site := i, first := i }⟩)] } }))))))

/-- BAR0 is writable. -/
def barOpen (s : State) : State := wr A.HL_CTRL F.HL_CTRL.WINDOW_RW 1 { s with link := { s.link with up := true } }

/-- A pattern whose one segment is streamed; eight cycles of it. -/
def streamObj : PatObj :=
  { site := 15, first := 15, width := 1, pad := false, minPeriod := 5000, keepalive := 4095, container := [],
    segs := [{ doubleData := false, padTol := false, forceLocal := false, ctrl := [0x00000008], cycles := 8, lines := List.replicate 16 0, streamed := true }] }

/-- Site 15 running a streamed pattern. -/
def streaming (s : State) : State :=
  { siteOn 15 2 s with place := { s.place with objs := [(0, ⟨5, some streamObj⟩)] } }

/-- A plain routine of opcode `op` with N = 3 in timing set 0. -/
def routineOf (op : Nat) : Routine := { opcode := op, ctl := 3, ext := [], seg := 0, ofs := 0, line := 0, fromLoopEnd := false, dispatch := 0, time := 0, upc := 0 }

/-- A plain cycle of segment 0. -/
def cyc0 (num start : Nat) : QCycle := { num := num, start := start, per := 5000, seg := 0, line := 0, tset := 0 }

/-- A fail log of site 15 with 31 slots. -/
def log15 : Buffer := ⟨3, 15, 1, 100, 0, 0, []⟩

/-- A user image in mirror form: one microword at address 4096, version 7 (R185). -/
def tinyImage : List Word :=
  let m : List Word := [0x4D495241, 0x02010000, 7, 0, 1, 4096, 15, 0, 0, 0, 0, 0, 0, 0]
  m ++ [crc32 m]

/-- The mirror profile. -/
def mirrored (s : State) : State := wr A.IL_PROFILE F.IL_PROFILE.MIRROR 1 s

/-- Source channel 31 in a state, with one segment of 64 samples at 500 MS/s. -/
def awOn (st : Nat) (a : Aw) (s : State) : State :=
  wr (A.AW_STATUS 31) F.AW_STATUS.STATE st { s with aw := [(31, { a with segs := [(0, some ⟨0, List.replicate 64 5⟩)] })] }

/-- Pulse engine 31 running, pin 192 following it. -/
def pulsing (p : Pg) : State :=
  wr (A.PIN_MODE 192) F.PIN_MODE.MODE 4 (wr (A.PIN_MODE 192) F.PIN_MODE.PG_SEL 7 (setShd (A.PG_PER_LO 31) 50000 (setReg (A.PG_PER_LO 31) 50000
    (setReg (A.PG_WID_LO 31) 10000 (setReg (A.PG_CFG 31) 0x04100000 (wr (A.PG_STATUS 31) F.PG_STATUS.STATE 3 { now := 500, pg := [(31, p)] }))))))

/-- Digitizer channel 31 held by a measurement with a capture buffer. -/
def captured (a : Aq) (b : List (Nat × Word)) : State :=
  { aq := [(31, a)], place := {
    meas := [(0, ⟨5, some ⟨3, 0, 0, 0, [uAq 31], [], [], none, 0x20050000⟩⟩)]
    bufs := [(0, ⟨5, some ⟨2, 0, 64, 500, 0, 0, b⟩⟩)] } }

/-- That channel in a state, at tick 500, with POST 5 and two records. -/
def filling (st : Nat) (a : Aq) : State :=
  { setReg (A.AQ_POST 31) 5 (setReg (A.AQ_NREC 31) 2 (wr (A.AQ_STATUS 31) F.AQ_STATUS.STATE st (captured a []))) with now := 500 }

/-- Time-interval channel 31 held by an interval measurement with result queue 5 and a log buffer. -/
def timing (u : Tu) : State :=
  { tu := [(31, u)], place := {
    meas := [(0, ⟨5, some ⟨1, 0, 0, 0, [uTu 31], [], [], some 5, 0x20050000⟩⟩)]
    bufs := [(0, ⟨5, some ⟨2, 0, 64, 5000, 0, 0x40050000, []⟩⟩)] } }

/-- That channel measuring, its log taken away, at tick 500; a block of 3, falling edges at B, and 200 ticks of gate. -/
def measuring (u : Tu) : State :=
  setReg (A.TU_COUNT 31) 3 (setReg (A.TU_IN_B 31) 0x80200000 (setReg (A.TU_WCLOSE 31) 5 (wr (A.TU_STATUS 31) F.TU_STATUS.STATE 2
    { now := 500, gn := ⟨0, true, 0⟩, tu := [(31, u)], place := { meas := [(0, ⟨5, some ⟨1, 0, 0, 0, [uTu 31], [], [], some 5, 0⟩⟩)] } })))

/-- Position 31 of the ring, a member. -/
def onRing (x : Xearn) : State := setReg A.XR_CTRL 3 (wr A.XR_STATUS F.XR_STATUS.OWN_POS 31 { xr := x })

/-- The calibration engine of die 3 in a sequence of ring 7, after 24 ms. -/
def calibrating (j : CalJob) : State :=
  { cal := { jobs := [(3, some j)] }, now := 76800000, rings := [(7, { run := some { cmdOf 0x0601 [] with stage := 1 } })],
    power := { claims := [(uCal 3, 1000)] } }

/-- A cold reset held at a phase, every source released at tick 3, OVEN_WARM sampled once or not. -/
def coldReset (p : Phase) (o : Option Bool) : State :=
  { rst := { asserted := [(0, some 3)], latched := [(0, 4)], reach := 4, phase := p }, clocks := { ovenFirst := o }, now := 204803 }

/-- The reference and every PLL in lock. -/
def clockedUp (r : ResetCtl) : State :=
  wr A.CLK_STATUS F.CLK_STATUS.REF_PRESENT 1 (wr A.CLK_STATUS F.CLK_STATUS.MTC_LOCK 1 (wr A.CLK_STATUS F.CLK_STATUS.SYS_LOCK 1
    { rst := r, now := 200 }))

/-- A state at the start of a FAB cycle: its registers stand as they are. -/
def settled (s : State) : State := { s with regs0 := s.regs }

/-! ## The spec's worked examples. Each expected value stands in the example named. -/

/-- The high word of edge C1, timing set 3, of CH137 (Register Address Index, two lookups for CH137). -/
theorem test_edge_address : A.TSET_EDGE_HI 137 3 5 = 0x005890EC := by decide

/-- The register at 0x0048_9244 is CMP_FAILCNT of CH137, and 0x0048_9254 holds none (the same example). -/
theorem test_address_decode : (findReg 0x00489244).map (fun x => (x.1.name, x.2)) = some ("CMP_FAILCNT", [137])
    ∧ findReg 0x00489254 = none := by decide +kernel

/-- Every register type lies in the region that `regsAt` looks it up in. -/
theorem test_regions :
    ([(0, 0x20000, regsHost0 ++ regsHost1), (0x20000, 0x30000, regsReset0 ++ regsReset1), (0x30000, 0x40000, regsClock0 ++ regsClock1),
      (0x40000, 0x50000, regsPower0), (0x50000, 0x80000, regsPrism0 ++ regsPrism1), (0x80000, 0x100000, regsPlace0),
      (0x100000, 0x300000, regsTile0), (0x300000, 0x400000, regsSite0 ++ regsSite1 ++ regsSite2),
      (0x400000, 0x600000, regsPin0 ++ regsPin1),
      (0x600000, 0xA00000, regsInstr0 ++ regsInstr1 ++ regsInstr2 ++ regsInstr3 ++ regsInstr4), (0xA00000, 0x1000000, regsCal0)]
      : List (Nat × Nat × List RegRow)).all
      (fun g => g.2.2.all (fun r => g.1 ≤ r.base && r.base + extent r.dims ≤ g.2.1)) = true := by decide +kernel

/-- The table gives its rows no bits. -/
theorem test_no_word_spells_a_command : decodeTableWord 32 0x00000093 = none := by decide

/-- One interval block: 144 ticks plus 1,000, −600, 200 and 1,400 fine units (dead time of a half-bridge gate driver). -/
theorem test_interval_block :
    (({ x0 := 9438184, n := 4, s1 := -2000, s2 := 3360000, lo := 9436584, hi := 9438584, rejected := 1 } : TuBlock).record 0 0 false)
      = [0x10000000, 0, 0, 0, 0, 4, 0x009001F4, 0, 0x008FFDA8, 0, 0x00900578, 0, 0x377, 0, 1, 0] := by decide +kernel

/-- Block 1 of that example: NEG, SEQ 1, and a minimum of −655,360. -/
theorem test_negative_interval :
    (({ x0 := -655360, n := 1, lo := -655360, hi := -655360, marks := { neg := true } } : TuBlock).record 0 1 false).take 1 = [0x10400001]
    ∧ twoWords (-655360) = [0xFFF60000, 0xFFFFFFFF] := by decide +kernel

/-- Timing set 2 of 1,601 units under the mirror profile (three timing sets on one pin). -/
theorem test_mirror_rounding : roundMirror 1601 = 1600 ∧ roundMirror 1602 = 1604 := by decide

/-- A streamed single-data object of eight tiles at 1,250 units and control rate 1 needs 208,000 MB/s (two full-width streaming sites). -/
theorem test_stream_need : ({ streamObj with width := 8, minPeriod := 1250 } : PatObj).need = 208000 := by decide

/-- The refused second start: 8,000 MB/s above the budget give DETAIL 80 (the same example). -/
theorem test_ledger_excess : excessDetail 608000 = 80 := by decide

/-- Claims of the budget example: 3,146 mW for a PMU in range 5, 9,734 mW for a site of eight tiles, 3,450 mW for a source channel;
what is refused at 93,198 mW of 96,000 mW has DETAIL 65, and at 96,648 mW DETAIL 71 for 60 mW. -/
theorem test_claims : pmuClaim 0 5 = 3146 ∧ runClaim 8 208000 = 9734 ∧ awClaim 0 = 3450
    ∧ shortDetail (93198 + 3450 - 96000) = 65 ∧ shortDetail (96648 + 60 - 96000) = 71 := by decide

/-- PRISM_SET of the example of a fault crossing dies: PG17 and PG18 to consumers 68 and 3, and no other bit of theirs. -/
theorem test_prism_set :
    (match exec (.prismSet 0) (run0 0x0A01 [4, 0x80A10044, 0x80A10003, 0x80A20044, 0x80A20003] {}) with
      | .next t => [t.joined 161 68, t.joined 161 3, t.joined 162 68, t.joined 162 3, t.joined 161 4]
      | _ => []) = [true, true, true, true, false] := by decide +kernel

/-- PRISM_CONS_SET of that example: KMASK 0x8 on both consumers, and bit 50 of line 68's target, PG_KILL of PG02. -/
theorem test_prism_consumers :
    (match exec (.prismConsSet 0) (run0 0x0A02 [2, 0x00008044, 0x00040000, 0, 0x00008003, 0, 0] {}) with
      | .next t => [t.rd (A.PR_CCFG 68) F.PR_CCFG.KMASK, t.rd (A.PR_CCFG 3) F.PR_CCFG.KMASK, t.target 0]
      | _ => []) = [8, 8, 0x40000] := by decide +kernel

/-- KEY_STATUS after KS3 has been revoked beside the provisioned KS0 (revoking a slot on ring 2). -/
theorem test_key_status :
    (match exec (.keyStatus 0) (run0 0x0905 [] { keys := [(0, ⟨.provisioned, []⟩), (3, ⟨.revoked, []⟩)] }) with
      | .next t => (t.ring 0).run.bind (fun c => c.reply.map (fun r => wd r.results 0))
      | _ => none) = some 0x81 := by decide +kernel

/-- The first microword of the example of a customer opcode: NAC NEXT, LSEL 1, CYOP 4, WAITSRC 1, YIELD. -/
theorem test_microword :
    (let m := decodeMW (mwNumber [0, 0, 0, 0x5000, 0x60])
     (m.nac, m.lsel, m.cyop, m.wait, m.yields, m.imm)) = (0, true, 4, 1, true, 0) := by decide

/-- A doorbell at the last entry of a ring of 256: the tail 0 lies in the ring (revoking a slot on ring 2). -/
theorem test_doorbell_wraps :
    (match exec (.sqTailDoorbell 2 0) (wr (A.HL_RING_STATUS 2) F.HL_RING_STATUS.STOPPED 0 (wr (A.HL_RING_CFG 2) F.HL_RING_CFG.ENABLE 1
        { link := { up := true }, rings := [(2, { tail := 255 })] })) with
      | .next t => some (t.ring 2).tail
      | _ => none) = some 0 := by decide +kernel

/-- NOP echoes its payload through a step, and the queue moves on (R87). -/
theorem test_step_nop :
    (match step { run0 0x0000 [7, 8] {} with pending := [.nop 0, .tickFire 0] } with
      | .next t => ((t.ring 0).run.bind (fun c => c.reply.map (·.results)), t.pending)
      | _ => (none, [])) = (some [7, 8], [.tickFire 0]) := by decide +kernel

/-- One idle FAB cycle is 8 ticks. -/
theorem test_idle : (match step {} with | .next t => t.now | _ => 0) = 8 := by decide +kernel

/-! ## Witnesses of the whole-machine statements -/

theorem test_meets_LoopsEnd_1 : ∃ (_ : State) (p _ gen : Nat), p < 256 ∧ 8 ≤ gen := ⟨{}, 255, 0, 8, by decide⟩

theorem test_meets_LoopsEnd_2 : ∃ (s t : State), s.Calm ∧ step s = .next t :=
  ⟨{}, passCycle {}, ⟨fun e he => by simp at he, rfl⟩⟩

theorem test_meets_IdleCycle_1 : ∃ (s : State), s.pending = [] := ⟨State.reset, rfl⟩

theorem test_meets_IdleCycle_2 : ∃ (s : State), s.pending = [] ∧ s.rst.fabric = [] ∧ s.sites = [] ∧ (∀ d, d < 4 → s.calJob d = none)
    ∧ (∀ x ∈ s.prism.later, s.now + 8 < x.1) ∧ s.place.reads = [] := ⟨{ prism := { later := [(9, 240)] } }, by decide⟩

theorem test_meets_StepKeepsTables_1 : ∃ (s t : State), s.Tabled ∧ step s = .next t :=
  ⟨{}, passCycle {}, ⟨by unfold KWf; decide, by unfold KWf; decide, by unfold KWf; decide, by unfold KWf; decide,
    fun v h => by simp at h, fun i b hb => by cases hb⟩, rfl⟩

theorem test_meets_WholeMachineFrame_1 : ∃ (i : Instr) (s t : State), exec i s = .next t := ⟨.tickFire 0, {}, _, rfl⟩

theorem test_meets_WholeMachineFrame_2 : ∃ (i : Instr) (s t : State),
    (∀ (q : Nat) (b : Bool), i ≠ .keyProvision q b) ∧ (∀ (q : Nat) (b : Bool), i ≠ .keyRevoke q b) ∧ exec i s = .next t :=
  ⟨.tickFire 0, {}, _, ⟨fun _ _ => by simp, fun _ _ => by simp, rfl⟩⟩


/-- SHA-256 of "abc" (the first example of FIPS 180-4). -/
theorem test_sha256_abc : sha256 [0x61, 0x62, 0x63] =
    [0xba, 0x78, 0x16, 0xbf, 0x8f, 0x01, 0xcf, 0xea, 0x41, 0x41, 0x40, 0xde, 0x5d, 0xae, 0x22, 0x23,
     0xb0, 0x03, 0x61, 0xa3, 0x96, 0x17, 0x7a, 0x9c, 0xb4, 0x10, 0xff, 0x61, 0xf2, 0x00, 0x15, 0xad] := by decide +kernel

/-- HMAC-SHA-256 with the key "Jefe" (test case 2 of RFC 4231): its first eight bytes. -/
theorem test_hmac_jefe :
    (hmacSha256 [0x4a, 0x65, 0x66, 0x65]
      [0x77, 0x68, 0x61, 0x74, 0x20, 0x64, 0x6f, 0x20, 0x79, 0x61, 0x20, 0x77, 0x61, 0x6e, 0x74, 0x20,
       0x66, 0x6f, 0x72, 0x20, 0x6e, 0x6f, 0x74, 0x68, 0x69, 0x6e, 0x67, 0x3f]).take 8
      = [0x5b, 0xdc, 0xc1, 0x46, 0xbf, 0x60, 0x75, 0x4e] := by decide +kernel

/-- ECDSA over P-256 with SHA-256: the signature of "sample" (RFC 6979, A.2.5) verifies. -/
theorem test_p256_sample : P256.verifies 0x60FED4BA255A9D31C961EB74C6356D68C049B8923B61FA6CE669622E60F29FB6
    0x7903FE1008B8BC99A41AE9E95628BC64F2F1B20C2D7E9F5177A3C294D4462299
    0xEFD48B2AACB6A8FD1140DD9CD45E81D69D2C877B56AAF991C34D0EA84EAF3716
    0xF7CB1C942D657C41D436C7A1B6E29F65F3E900DBB9AFF4064DC4AB2F843ACDA8
    0xAF2BDBE1AA9B6EC1E2ADE1D694F41FC71A831D0268E9891562113D8A62ADD1BF = true := by decide +kernel

/-- It does not verify for another digest. -/
theorem test_p256_other : P256.verifies 0x60FED4BA255A9D31C961EB74C6356D68C049B8923B61FA6CE669622E60F29FB6
    0x7903FE1008B8BC99A41AE9E95628BC64F2F1B20C2D7E9F5177A3C294D4462299
    0xEFD48B2AACB6A8FD1140DD9CD45E81D69D2C877B56AAF991C34D0EA84EAF3716
    0xF7CB1C942D657C41D436C7A1B6E29F65F3E900DBB9AFF4064DC4AB2F843ACDA8
    0xAF2BDBE1AA9B6EC1E2ADE1D694F41FC71A831D0268E9891562113D8A62ADD1BE = false := by decide +kernel

/-! ## Ill-formed commands: one for each check of WellFormed, refused -/

theorem test_ill_formed_1 : (([
    .nop 8, .identify 8, .sessionOpen 8, .sessionClose 8, .keyProvision 8 false, .keyRevoke 8 false, .keyStatus 8,
    .patternLoad 8 0 none none {}, .patternFree 8, .placeReport 8, .bufferAlloc 8, .bufferFree 8, .measPlace 8, .measRelease 8,
    .windowBind 8, .ledgerRead 8, .siteForm 8 {}, .siteDissolve 8 {}, .runStart 8 {}, .runPause 8 {}, .runResume 8 {}, .runStep 8,
    .runHalt 8 {}, .runJump 8] : List Instr).all (fun c => !c.wellFormed)) = true := by decide +kernel

theorem test_ill_formed_2 : (([
    .runStatus 8, .ucLoad 8 none false none {}, .ucClear 8 {}, .ucStatus 8, .tsetPeriod 8 {}, .tsetEdges 8 {}, .tsetRead 8,
    .tsetApply 8 {}, .pinModeSet 8 {}, .levelSet 8 {}, .levelStrobe 8 {}, .levelRead 8, .formatSet 8 {}, .pinMapSet 8 {}, .gangSet 8,
    .hvLimitSet 8 {}, .cmpCfgSet 8 {}, .maskSet 8 {}, .failCfgSet 8, .failRead 8 [], .failSummary 8, .pmuSet 8 {}, .pmuMeasure 8 {},
    .awSet 8 {}] : List Instr).all (fun c => !c.wellFormed)) = true := by decide +kernel

theorem test_ill_formed_3 : (([
    .awSegLoad 8 none, .awSeqLoad 8, .awRun 8 {}, .awStop 8 {}, .awJump 8, .wmSet 8 {}, .pgSet 8, .pgListLoad 8, .pgStart 8 {},
    .pgStop 8 {}, .pgClear 8 {}, .aqSet 8, .aqArm 8 {}, .aqForce 8 {}, .aqStop 8 {}, .aqRead 8 0 none, .tuSet 8, .tuArm 8 {},
    .tuStop 8 {}, .tuRead 8, .tuBincal 8 {}, .xrDelaySet 8, .profileSet 8 false {}, .prismSet 8] : List Instr).all (fun c => !c.wellFormed)) = true := by decide +kernel

theorem test_ill_formed_4 : (([
    .prismConsSet 8, .prismFire 8, .prismTioSet 8, .lensRead 8, .lensAck 8, .calRun 8 {}, .calWrite 8 {}, .calRead 8, .calStore 8 none,
    .calStatus 8, .calExt 8, .powerBudgetSet 8, .powerFloorSet 8, .powerStatus 8, .thermalSet 8, .reset 8, .fwLoad 8 none false,
    .reachSet 8 false, .remap 8 0 [] false none {}, .retire 8 false, .ringCtrl 8, .rstLogRead 8, .smbHistoryRead 128 0,
    .smbHistoryRead 0 16] : List Instr).all (fun c => !c.wellFormed)) = true := by decide +kernel

theorem test_ill_formed_5 : (([
    .bypass 256, .sqTailDoorbell 8 0, .cqHeadDoorbell 8 0, .ringEnable 8 0, .ringDisable 8 0, .siteCtrlPause 16, .siteCtrlResume 16,
    .siteCtrlHalt 16, .siteCtrlStep 16, .evSet 16, .seqJumpReq 16 0, .seqJumpReq 0 4096, .tsetCtrlApply 16, .tsetEntryLoWrite 67108864 0,
    .tsetEntryHiWrite 67108864 0, .pgTimingHiWrite 32 0 0, .pgTimingHiWrite 0 3 0, .lvlStrobeGo 4 0, .lvlStrobeGo 0 65536,
    .plWinWrite 16 0, .wdKick 256, .trippedClear 6, .regReadClear 8 0 0 false, .regReadClear 0 268435456 0 false] : List Instr).all (fun c => !c.wellFormed)) = true := by decide +kernel

theorem test_ill_formed_6 : (([
    .regWrite 8 0 0, .regWrite 0 268435456 0, .commandFetch 8 none none, .unitAcquire 8, .unitWaitTimeout 8, .commitAckTimeout 8,
    .completionWrite 8 false, .cqIrqTimeout 8, .streamPrimeDone 8 0 [], .armedStart 16, .resumeStart 16, .refillRequest 16 false,
    .refillComplete 16 false 0 0 0, .routineDispatch 16 false, .microwordExec 16 false, .microWatchdog 16, .cycleRead 16 none,
    .cycleTake 16, .compareOutcome 16 [] [], .failLogWrite 16, .failLogHeader 16, .sitePark 16, .ringEventReceive 32 0 0 0 0 false,
    .ringEventReceive 0 4 0 0 0 false] : List Instr).all (fun c => !c.wellFormed)) = true := by decide +kernel

theorem test_ill_formed_7 : (([
    .ringEventReceive 0 0 8 0 0 false, .ringEventReceive 0 0 0 0 65536 false, .tioInputEdge 16 false, .tioPulseEnd 16, .tickFire 3,
    .pinModeDisconnect 256, .modeBusyClear 256, .pinDwellExpire 256, .pmuDwellExpire 256, .awDwellExpire 32, .pmuServoTick 256 0,
    .pmuSample 8 [], .pmuMeasureDone 8, .awBoundary 32, .awTrigPresent 32, .awJumpPresent 32, .wmInputCrossing 64 0, .wmSettleExpire 64,
    .eclipseClose 64, .wmTapUpdate 64 0, .pgGo 32, .pgLeadingEdge 32, .pgTrailingEdge 32, .pgTrip 32] : List Instr).all (fun c => !c.wellFormed)) = true := by decide +kernel

theorem test_ill_formed_8 : (([
    .pgFault 32, .pgKill 32, .pgServoTick 32, .aqTrigger 32, .aqRecordComplete 32, .aqForceAct 32, .aqTrigEvent 32, .tuMeasureStart 32,
    .tuEdge 32 0 false 0 0, .tuEdge 0 2 false 0 0, .tuWindowClose 32, .tuGateClose 32, .bincalAuto 4, .bincalDone 32 [],
    .syncFrameReceive 32 0 0 0 0 0 0 0, .syncFrameReceive 0 32 0 0 0 0 0 0, .clockWindowCheck 26 0 false, .linkLaneLoss 4,
    .powerStateEval 254, .powerStateEnterDone 254, .powerStateExitDone 254, .thermalShutdown 6, .railFault 40, .calGroupEnd 4 []] : List Instr).all (fun c => !c.wellFormed)) = true := by decide +kernel

theorem test_ill_formed_9 : (([
    .calWarmExpire 4, .brownOut 40, .fwWatchdogExpire 4, .doubleException 4, .strapSample 4 0 0 false false,
    .strapSample 0 32 0 false false, .digitizerSample 32 [], .tuGateOpen 32, .calExtSettled 4, .smbCauseRead 128] : List Instr).all (fun c => !c.wellFormed)) = true := by decide +kernel

theorem test_well_formed : (([.nop 7, .identify 0, .tickFire 2] : List Instr).all Instr.wellFormed) = true := by decide

/-! ## Witnesses -/

def switchBack : State := run0 0x0440 [0] (mirrored {})

theorem switchBack_regs : (switched false switchBack).regs = [(A.IL_PROFILE, 1)] := by decide +kernel
theorem switchBack_shadow : (switched false switchBack).shadow = [] := by decide +kernel
theorem switchBack_edges : edgeBeyond (switched false switchBack) = none := by
  have hr := switchBack_regs
  have hs := switchBack_shadow
  generalize switched false switchBack = u at hr hs
  have hz : ∀ n t e, n < 256 → t < 64 → e < 8 → u.edgeEn n t e = false ∧ u.edgeEnS n t e = false := by
    intro n t e hn ht he
    have ha : 0x500000 ≤ A.TSET_EDGE_HI n t e ∧ A.TSET_EDGE_HI n t e < 0x600000 := by unfold A.TSET_EDGE_HI; omega
    have h0 := resetWord_edge _ ha.1 ha.2
    have hp : A.TSET_EDGE_HI n t e ≠ A.IL_PROFILE := by unfold A.IL_PROFILE; omega
    constructor
    · unfold State.edgeEn State.flag State.rd State.reg
      rw [hr]
      simp only [kget, hp, if_false, h0]
      decide
    · unfold State.edgeEnS State.rdS State.shd
      rw [hs]
      simp only [kget, h0]
      decide
  unfold edgeBeyond
  rw [List.findSome?_eq_none_iff]
  intro n hn
  rw [List.findSome?_eq_none_iff]
  intro t ht
  rw [List.findSome?_eq_none_iff]
  intro e he
  obtain ⟨h1, h2⟩ := hz n t e (List.mem_range.1 hn) (List.mem_range.1 ht) (List.mem_range.1 he)
  simp [State.beyond, h1, h2]

theorem test_meets_ProfileSwitch_1 : ∃ (s : State) (q : Nat) (c : Cmd) (m : Nat), (s.serves q 0x0440 c)
    ∧ (c.payload = 1) ∧ (c.w 4 = word m) ∧ (m < 2) ∧ (s.mirror ≠ decide (m = 1)) ∧ (s.ready q profileUnits)
    ∧ (∀ (i : Nat), i < 16 → s.formed i = true → s.reserved i = false)
    ∧ (edgeBeyond (switched (decide (m = 1)) s) = none)
    ∧ (gradeClash (switched (decide (m = 1)) s) (List.range 16) (switched (decide (m = 1)) s).govTile = none) :=
  ⟨switchBack, 0, cmdOf 0x0440 [0], 0, by decide +kernel, by decide +kernel, by decide +kernel, by decide, by decide +kernel, by decide +kernel,
    by decide +kernel, switchBack_edges, by decide +kernel⟩

theorem test_meets_IdentityCommandsReply_1 : ∃ (s : State) (q : Nat) (c : Cmd), (s.serves q 0x0000 c) :=
  ⟨run0 0 [7, 8] {}, 0, cmdOf 0 [7, 8], by decide +kernel⟩

theorem test_meets_IdentityCommandsReply_2 : ∃ (s : State) (q : Nat) (c : Cmd), (s.serves q 0x0001 c)
    ∧ (c.payload = 0)
    ∧ (s.fuses.serials.length = 5) :=
  ⟨run0 1 [] {}, 0, cmdOf 1 [], by decide +kernel⟩

theorem test_meets_IdentityCommandsReply_3 : ∃ (s : State) (q : Nat) (c : Cmd), (s.serves q 0x0905 c)
    ∧ (c.payload = 0) :=
  ⟨run0 0x0905 [] { keys := [(1, ⟨.revoked, []⟩)] }, 0, cmdOf 0x0905 [], by decide +kernel⟩

theorem test_meets_SessionCommands_1 : ∃ (s : State) (q : Nat) (c : Cmd), (q < 8)
    ∧ (s.serves q 0x0901 c)
    ∧ (c.payload = 1)
    ∧ (bits (c.w 4) 31 2 = 0)
    ∧ ((s.keySlot (bits (c.w 4) 1 0)).state = .provisioned) :=
  ⟨run0 0x0901 [2] { keys := [(2, ⟨.provisioned, []⟩)] }, 0, cmdOf 0x0901 [2], by decide +kernel⟩

theorem test_meets_SessionCommands_2 : ∃ (s : State) (q : Nat) (c : Cmd), (q < 8)
    ∧ (s.serves q 0x0902 c)
    ∧ (c.payload = 0)
    ∧ ((s.ring q).session.isSome) :=
  ⟨{ rings := [(0, { run := some (cmdOf 0x0902 []), session := some ⟨5, 2, 0⟩ })] }, 0, cmdOf 0x0902 [], by decide +kernel⟩

theorem test_meets_SessionCommands_3 : ∃ (s : State) (q : Nat) (c : Cmd), (s.serves q 0x0902 c)
    ∧ (c.payload = 0)
    ∧ ((s.ring q).session = none) :=
  ⟨run0 0x0902 [] {}, 0, cmdOf 0x0902 [], by decide +kernel⟩

theorem test_meets_KeyCommands_1 : ∃ (s : State) (q : Nat) (c : Cmd) (k : Nat), (s.serves q 0x0903 c)
    ∧ (c.payload = 9)
    ∧ (c.w 4 = word k)
    ∧ (k < 4)
    ∧ ((s.keySlot k).state = .blank) :=
  ⟨run0 0x0903 (3 :: List.replicate 8 9) {}, 0, cmdOf 0x0903 (3 :: List.replicate 8 9), 3, by decide +kernel⟩

theorem test_meets_KeyCommands_2 : ∃ (s : State) (q : Nat) (c : Cmd) (k : Nat), (s.serves q 0x0903 c)
    ∧ (c.payload = 9)
    ∧ (c.w 4 = word k)
    ∧ (k < 4)
    ∧ ((s.keySlot k).state = .blank) :=
  ⟨run0 0x0903 (3 :: List.replicate 8 9) {}, 0, cmdOf 0x0903 (3 :: List.replicate 8 9), 3, by decide +kernel⟩

theorem test_meets_KeyCommands_3 : ∃ (s : State) (q : Nat) (c : Cmd) (k : Nat), (s.serves q 0x0904 c)
    ∧ (c.payload = 1)
    ∧ (c.w 4 = word k)
    ∧ (k < 4)
    ∧ ((s.keySlot k).state = .provisioned)
    ∧ ((∃ (j : Nat), j < 4 ∧ j ≠ k ∧ (s.keySlot j).state = .provisioned)) :=
  ⟨run0 0x0904 [1] { keys := [(0, ⟨.provisioned, [7]⟩), (1, ⟨.provisioned, [9]⟩)] }, 0, cmdOf 0x0904 [1], 1, by decide +kernel⟩

theorem test_meets_PrismSettings_1 : ∃ (s : State) (q : Nat) (c : Cmd) (n : Nat), (q < 8)
    ∧ (s.serves q 0x0A01 c)
    ∧ (s.ready q [uPrism])
    ∧ (c.w 4 = word n)
    ∧ (0 < n)
    ∧ (n ≤ 4096)
    ∧ (c.payload = 1 + n)
    ∧ ((∀ (i : Nat), i < n → bits (c.w (5 + i)) 30 24 = 0 ∧ bits (c.w (5 + i)) 15 8 = 0 ∧ bits (c.w (5 + i)) 7 0 < 192
      ∧ (s.bitHeld (bits (c.w (5 + i)) 23 16) (bits (c.w (5 + i)) 7 0) = true →
          s.joined (bits (c.w (5 + i)) 23 16) (bits (c.w (5 + i)) 7 0) = bit (c.w (5 + i)) 31))) :=
  ⟨run0 0x0A01 [2, 0x80F00013, 0x80F100BF] {}, 0, cmdOf 0x0A01 [2, 0x80F00013, 0x80F100BF], 2, by decide +kernel⟩

theorem test_meets_PrismSettings_2 : ∃ (s : State) (q : Nat) (c : Cmd) (n : Nat), (q < 8)
    ∧ (s.serves q 0x0A02 c)
    ∧ (s.ready q [uPrism])
    ∧ (c.w 4 = word n)
    ∧ (0 < n)
    ∧ (n ≤ 192)
    ∧ (c.payload = 1 + 3 * n)
    ∧ ((∀ (i : Nat), i < n → bits (c.w (5 + 3 * i)) 31 16 = 0 ∧ bits (c.w (5 + 3 * i)) 11 8 = 0 ∧ bits (c.w (7 + 3 * i)) 31 25 = 0
      ∧ bits (c.w (5 + 3 * i)) 7 0 < 192
      ∧ (bits (c.w (5 + 3 * i)) 7 0 < 68 → c.w (6 + 3 * i) = 0 ∧ c.w (7 + 3 * i) = 0)
      ∧ (s.flag (A.PR_CCFG (bits (c.w (5 + 3 * i)) 7 0)) F.PR_CCFG.HELD = true →
        s.rd (A.PR_CCFG (bits (c.w (5 + 3 * i)) 7 0)) F.PR_CCFG.KMASK = bits (c.w (5 + 3 * i)) 15 12
        ∧ (68 ≤ bits (c.w (5 + 3 * i)) 7 0 → s.target (bits (c.w (5 + 3 * i)) 7 0 - 68)
            = (c.w (6 + 3 * i)).toNat + 2 ^ 32 * (c.w (7 + 3 * i)).toNat)))) :=
  ⟨run0 0x0A02 [1, 0x000030BF, 5, 1] {}, 0, cmdOf 0x0A02 [1, 0x000030BF, 5, 1], 1, by decide +kernel⟩

theorem test_meets_SoftwareEventsFire_1 : ∃ (s : State) (q : Nat) (c : Cmd) (m : Nat), (q < 8)
    ∧ (s.serves q 0x0A03 c)
    ∧ (s.ready q [uPrism])
    ∧ (c.payload = 3)
    ∧ (c.w 4 = word m)
    ∧ (0 < m)
    ∧ (m < 256)
    ∧ (c.w 5 = 0)
    ∧ (c.w 6 = 0)
    ∧ ((∀ x ∈ s.prism.later, s.now < x.1)) :=
  ⟨run0 0x0A03 [0x81, 0, 0] {}, 0, cmdOf 0x0A03 [0x81, 0, 0], 0x81, by decide +kernel⟩

theorem test_meets_SoftwareEventsFire_2 : ∃ (s : State) (q : Nat) (c : Cmd) (m : Nat) (at_ : Nat), (q < 8)
    ∧ (s.serves q 0x0A03 c)
    ∧ (s.ready q [uPrism])
    ∧ (c.payload = 3)
    ∧ (c.w 4 = word m)
    ∧ (0 < m)
    ∧ (m < 256)
    ∧ ((c.w 5).toNat + 2 ^ 32 * (c.w 6).toNat = at_)
    ∧ (s.coarseNow < at_)
    ∧ ((∀ x ∈ s.prism.later, s.now < x.1)) :=
  ⟨run0 0x0A03 [0x81, 1003, 0] { now := 16, gn := { origin := 0, running := true } }, 0, cmdOf 0x0A03 [0x81, 1003, 0], 0x81, 1003, by decide +kernel⟩

theorem test_meets_SoftwareEventsFire_3 : ∃ (s : State) (r : Nat) (n : Nat), (s.prism.later = [(r, 240 + n)])
    ∧ (n < 8)
    ∧ (r ≤ s.now) :=
  ⟨{ now := 808, gn := { running := true }, prism := { later := [(800, 247)] } }, 800, 7, by decide +kernel⟩

theorem test_meets_SoftwareEventsFire_4 : ∃ (s : State) (w : Word), (s.link.up = true)
    ∧ (s.flag A.HL_CTRL F.HL_CTRL.WINDOW_RW = true)
    ∧ (s.fabricWait A.PR_SWFIRE = none) :=
  ⟨wr A.HL_CTRL F.HL_CTRL.WINDOW_RW 1 { link := { up := true } }, 0xFFFFFF81, by decide +kernel⟩

theorem test_meets_EventProducers_1 : ∃ (s : State) (q : Nat) (c : Cmd) (n : Nat), (q < 8)
    ∧ (s.serves q 0x0A04 c)
    ∧ (c.w 4 = word n)
    ∧ (0 < n)
    ∧ (n ≤ 16)
    ∧ (c.payload = 1 + n)
    ∧ (s.ready q ((List.range n).map (fun i => uTio (bits (c.w (5 + i)) 31 28))))
    ∧ ((∀ (i : Nat), i < n → bits (c.w (5 + i)) 27 18 = 0 ∧ bits (c.w (5 + i)) 7 1 = 0 ∧ (bit (c.w (5 + i)) 0 = true → bits (c.w (5 + i)) 15 8 ≠ 0))) :=
  ⟨run0 0x0A04 [2, 0xF0030A01, 0x00020B00] {}, 0, cmdOf 0x0A04 [2, 0xF0030A01, 0x00020B00], 2, by decide +kernel⟩

theorem test_meets_EventProducers_2 : ∃ (s : State) (n : Nat) (rising : Bool), (n < 16)
    ∧ (s.flag (A.PR_TIO n) F.PR_TIO.OUT = false)
    ∧ ((s.rd (A.PR_TIO n) F.PR_TIO.EDGE = 3 ∨ (s.rd (A.PR_TIO n) F.PR_TIO.EDGE = 1 ∧ rising = true)
      ∨ (s.rd (A.PR_TIO n) F.PR_TIO.EDGE = 2 ∧ rising = false))) :=
  ⟨wr (A.PR_TIO 15) F.PR_TIO.EDGE 2 {}, 15, false, by decide +kernel⟩

theorem test_meets_EventProducers_3 : ∃ (s : State) (n : Nat) (rise : Nat) (due : Nat), (s.prism.tioPulse.find? (·.1 = n) = some (n, rise, due))
    ∧ (due ≤ s.now) :=
  ⟨{ now := 9, prism := { tioPulse := [(3, 1, 9), (4, 5, 80)] } }, 3, 1, 9, by decide +kernel⟩

theorem test_meets_EventProducers_4 : ∃ (s : State) (k : Nat) (m : Nat), (k < 3)
    ∧ (s.gn.running = true)
    ∧ (kget (fun _ => 0) s.prism.nextTick k = m)
    ∧ (m * tickPeriod k ≤ s.count) :=
  ⟨{ now := 6405, gn := { running := true }, prism := { nextTick := [(0, 2)] } }, 0, 2, by decide +kernel⟩

theorem test_meets_EventProducers_5 : ∃ (s : State) (o : Nat) (n : Nat) (gen : Nat) (coarse : Nat) (frac : Nat) (h : Bool), (n < 4)
    ∧ (gen < 7)
    ∧ (s.rd A.XR_CTRL F.XR_CTRL.STATE = 3)
    ∧ (o ≠ s.rd A.XR_STATUS F.XR_STATUS.OWN_POS) :=
  ⟨wr A.XR_CTRL F.XR_CTRL.STATE 3 {}, 31, 3, 6, 77, 5, true, by decide +kernel⟩

theorem test_meets_EventProducers_6 : ∃ (s : State) (o : Nat) (n : Nat) (gen : Nat) (coarse : Nat) (frac : Nat) (h : Bool), (n < 4)
    ∧ (7 ≤ gen)
    ∧ (s.rd A.XR_CTRL F.XR_CTRL.STATE = 3)
    ∧ (o ≠ s.rd A.XR_STATUS F.XR_STATUS.OWN_POS) :=
  ⟨wr A.XR_CTRL F.XR_CTRL.STATE 3 {}, 31, 3, 7, 77, 5, false, by decide +kernel⟩

theorem test_meets_PrismDelivers_1 : ∃ (s : State) (e : Event) (n : Nat) (h : Nat), (s.inReset uPrism = false)
    ∧ (s.prism.flight = [e])
    ∧ (0 < n)
    ∧ (e.ready ≤ s.now)
    ∧ (h < 32)
    ∧ (s.takes (16 + h) e = true)
    ∧ ((∀ (k : Nat), k < 192 → k ≠ 16 + h → s.takes k e = false)) :=
  ⟨settled (setJoin 240 47 true { now := 50, prism := { flight := [⟨240, 0, 0, { coarse := 40 }, 48⟩] } }), ⟨240, 0, 0, { coarse := 40 }, 48⟩, 1, 31, by decide +kernel⟩

theorem test_meets_PrismDelivers_2 : ∃ (s : State) (e f : Event) (n : Nat) (h : Nat), (s.inReset uPrism = false)
    ∧ (s.prism.flight = [e, f])
    ∧ (1 < n)
    ∧ (e.ready ≤ s.now)
    ∧ (f.ready ≤ s.now)
    ∧ (h < 32)
    ∧ (s.takes (16 + h) e = true)
    ∧ (s.takes (16 + h) f = true)
    ∧ ((∀ (k : Nat), k < 192 → k ≠ 16 + h → s.takes k e = false ∧ s.takes k f = false)) :=
  ⟨settled (setJoin 241 47 true (setJoin 240 47 true { now := 50, prism := { flight := [⟨240, 0, 0, { coarse := 40 }, 48⟩, ⟨241, 0, 3, { coarse := 39 }, 48⟩] } })), ⟨240, 0, 0, { coarse := 40 }, 48⟩, ⟨241, 0, 3, { coarse := 39 }, 48⟩, 2, 31, by decide +kernel⟩

theorem test_meets_PrismDelivers_3 : ∃ (s : State) (e : Event) (n : Nat) (x : Nat), (s.inReset uPrism = false)
    ∧ (s.inReset (uTio x) = false)
    ∧ (s.prism.flight = [e])
    ∧ (0 < n)
    ∧ (e.ready ≤ s.now)
    ∧ (x < 16)
    ∧ (s.takes (48 + x) e = true)
    ∧ ((∀ (k : Nat), k < 192 → k ≠ 48 + x → s.takes k e = false))
    ∧ (s.flag (A.PR_TIO x) F.PR_TIO.OUT = true)
    ∧ (s.tioBusy x = false) :=
  ⟨settled (wr (A.PR_TIO 15) F.PR_TIO.WIDTH 9 (wr (A.PR_TIO 15) F.PR_TIO.OUT 1 (setJoin 240 63 true { now := 50, prism := { flight := [⟨240, 0, 0, { coarse := 40 }, 48⟩] } }))), ⟨240, 0, 0, { coarse := 40 }, 48⟩, 1, 15, by decide +kernel⟩

theorem test_meets_PrismDelivers_4 : ∃ (s : State) (e : Event) (n : Nat) (x : Nat), (s.inReset uPrism = false)
    ∧ (s.prism.flight = [e])
    ∧ (0 < n)
    ∧ (e.ready ≤ s.now)
    ∧ (x < 4)
    ∧ (s.takes (64 + x) e = true)
    ∧ ((∀ (k : Nat), k < 192 → k ≠ 64 + x → s.takes k e = false))
    ∧ (s.rd A.XR_CTRL F.XR_CTRL.STATE = 3)
    ∧ (kget (fun _ => 0) s.prism.ringOutFree x ≤ s.now) :=
  ⟨settled (wr A.XR_STATUS F.XR_STATUS.OWN_POS 5 (wr A.XR_CTRL F.XR_CTRL.STATE 3 (setJoin 240 67 true { now := 50, prism := { flight := [⟨240, 0, 0, { coarse := 40 }, 48⟩] } }))), ⟨240, 0, 0, { coarse := 40 }, 48⟩, 1, 3, by decide +kernel⟩

theorem test_meets_PrismDelivers_5 : ∃ (s : State) (e : Event) (n : Nat) (i : Nat), (s.inReset uPrism = false)
    ∧ (s.inReset (uSite i) = false)
    ∧ (s.prism.flight = [e])
    ∧ (0 < n)
    ∧ (e.ready ≤ s.now)
    ∧ (i < 16)
    ∧ (s.takes i e = true)
    ∧ ((∀ (k : Nat), k < 192 → k ≠ i → s.takes k e = false))
    ∧ (s.flag (A.SEQ_EVT i) F.SEQ_EVT.EV_FLAG = false)
    ∧ (nbit (s.rd (A.SEQ_EVT_CFG i) F.SEQ_EVT_CFG.ACT) 1 = true)
    ∧ (s.armed i = true)
    ∧ ((s.site i).priming = false)
    ∧ ((s.site i).startDue = none) :=
  ⟨settled (wr (A.SEQ_EVT_CFG 15) F.SEQ_EVT_CFG.ACT 31 (wr (A.SEQ_SITE_STATE 15) F.SEQ_SITE_STATE.ARMED 1 (setJoin 240 15 true { now := 50, prism := { flight := [⟨240, 0, 2, { coarse := 40 }, 48⟩] } }))), ⟨240, 0, 2, { coarse := 40 }, 48⟩, 1, 15, by decide +kernel⟩

theorem test_meets_PrismDelivers_6 : ∃ (s : State) (e : Event) (n : Nat) (d : Nat) (x : Nat) (b : Nat), (s.inReset uPrism = false)
    ∧ (s.inReset (uAw (8 * d + b)) = false)
    ∧ (s.prism.flight = [e])
    ∧ (0 < n)
    ∧ (e.ready ≤ s.now)
    ∧ (d < 4)
    ∧ (x < 31)
    ∧ (b < 8)
    ∧ (s.takes (68 + 31 * d + x) e = true)
    ∧ ((∀ (k : Nat), k < 192 → k ≠ 68 + 31 * d + x → s.takes k e = false))
    ∧ (s.target0 (31 * d + x) = 2 ^ b) :=
  ⟨settled (setReg (A.PR_LTGT_LO 123) 0x80 (setJoin 240 191 true { now := 50, prism := { flight := [⟨240, 0, 2, { coarse := 40 }, 48⟩] } })), ⟨240, 0, 2, { coarse := 40 }, 48⟩, 1, 3, 30, 7, by decide +kernel⟩

theorem test_meets_PrismDelivers_7 : ∃ (s : State) (e : Event) (n : Nat), (s.inReset uPrism = true)
    ∧ (s.prism.flight = [e])
    ∧ (0 < n)
    ∧ (e.ready ≤ s.now) :=
  ⟨{ now := 50, prism := { flight := [⟨240, 0, 0, { coarse := 40 }, 48⟩] }, rst := { iso := [{ ring := 0, unit := uPrism, since := 40, stamp := 40, resetAt := some 45 }] } }, ⟨240, 0, 0, { coarse := 40 }, 48⟩, 1, by decide +kernel⟩

theorem test_meets_LensRecords_1 : ∃ (s : State) (q : Nat) (c : Cmd) (n : Nat) (first : Nat), (s.serves q 0x0B01 c)
    ∧ (s.ready q [uLens])
    ∧ (c.payload = 1)
    ∧ (c.w 4 = word (n * 65536 + first))
    ∧ (first < 65536)
    ∧ (0 < n)
    ∧ (n ≤ 64)
    ∧ (first ∈ s.lens.heldSeqs) :=
  ⟨run0 0x0B01 [0x00400005] { lens := { heldSeqs := [4, 5, 6] } }, 0, cmdOf 0x0B01 [0x00400005], 64, 5, by decide +kernel⟩

theorem test_meets_LensRecords_2 : ∃ (s : State) (q : Nat) (c : Cmd) (m : Nat), (q < 8)
    ∧ (s.serves q 0x0B02 c)
    ∧ (s.ready q [uLens])
    ∧ (c.payload = 1)
    ∧ (c.w 4 = word m)
    ∧ (m < 65536)
    ∧ (m ∈ s.lens.heldSeqs)
    ∧ (s.lens.heldSeqs.length ≤ 64)
    ∧ (m ∉ s.openSeqs) :=
  ⟨run0 0x0B02 [5] { lens := { heldSeqs := [4, 5, 6], openInc := [⟨some 4, 0, 1, 2, 3, 1, 2, 1, 8, false, false, 0⟩] } }, 0, cmdOf 0x0B02 [5], 5, by decide +kernel⟩

theorem test_meets_LensRecords_3 : ∃ (s : State) (w : Word), (s.link.up = true)
    ∧ (s.flag A.HL_CTRL F.HL_CTRL.WINDOW_RW = true)
    ∧ (s.fabricWait A.LENS_ACKSEQ = none)
    ∧ (bits w 15 0 ∈ s.lens.heldSeqs)
    ∧ (s.lens.heldSeqs.length ≤ 64)
    ∧ (bits w 15 0 ∉ s.openSeqs) :=
  ⟨wr A.HL_CTRL F.HL_CTRL.WINDOW_RW 1 { link := { up := true }, lens := { heldSeqs := [4, 5, 6] } }, 5, by decide +kernel⟩

theorem test_meets_LensRecords_4 : ∃ (s : State) (r : Report), (s.inReset uLens = false)
    ∧ (s.lens.reports = [r])
    ∧ (r.stamp + 1600 ≤ s.coarseNow)
    ∧ ((∀ i ∈ s.lens.openInc, i.joins r = false))
    ∧ (s.lens.heldSeqs.length < 64) :=
  ⟨{ now := 5000, gn := { running := true }, lens := { reports := [⟨uPin 3, 7, 0, 3000, 0, false⟩], heldSeqs := [9] } }, ⟨uPin 3, 7, 0, 3000, 0, false⟩, by decide +kernel⟩

theorem test_meets_LensRecords_5 : ∃ (s : State) (i : Incident) (m : Nat), (s.inReset uLens = false)
    ∧ (s.lens.openInc = [i])
    ∧ (i.firstStamp + 8000 < s.coarseNow)
    ∧ (i.seq = some m)
    ∧ (m < 65536)
    ∧ ((∀ r ∈ s.lens.reports, i.joins r = false))
    ∧ (s.flag A.LENS_CFG F.LENS_CFG.REMOTE_EN = false) :=
  ⟨{ now := 9000, gn := { running := true }, lens := { heldSeqs := [9], openInc := [⟨some 9, 0, 1, 2, 3, 1, 2, 1, 8, false, false, 0⟩] } }, ⟨some 9, 0, 1, 2, 3, 1, 2, 1, 8, false, false, 0⟩, 9, by decide +kernel⟩

theorem test_meets_LensRecords_6 : ∃ (s : State) (rec : List Word), (s.flag A.LENS_CFG F.LENS_CFG.REMOTE_EN = true)
    ∧ (s.rd A.XR_CTRL F.XR_CTRL.STATE = 3)
    ∧ (s.lens.heldSeqs = [])
    ∧ (s.lens.openInc = [])
    ∧ (bits (wd rec 12) 15 0 ≠ s.rd A.XR_STATUS F.XR_STATUS.OWN_POS) :=
  ⟨wr A.LENS_CFG F.LENS_CFG.REMOTE_EN 1 (wr A.XR_CTRL F.XR_CTRL.STATE 3 {}), [0x70000000, 0x30010001, 7, 100, 0, 0x00020000, 100, 0, 1, 0, 0, 0, 3, 4, 0, 0], by decide +kernel⟩

theorem test_meets_RingPairs_1 : ∃ (s : State) (q : Nat) (v : Word), (q < 8)
    ∧ (s.link.up = true)
    ∧ (s.flag (A.HL_RING_CFG q) F.HL_RING_CFG.ENABLE = true)
    ∧ (v.toNat < s.ringSize q) :=
  ⟨wr (A.HL_RING_CFG 7) F.HL_RING_CFG.ENABLE 1 { link := { perst := false, up := true } }, 7, 15, by decide +kernel⟩

theorem test_meets_RingPairs_2 : ∃ (s : State) (q : Nat) (v : Word), (q < 8)
    ∧ (s.link.up = true)
    ∧ (s.flag (A.HL_RING_CFG q) F.HL_RING_CFG.ENABLE = true)
    ∧ (v.toNat < s.ringSize q) :=
  ⟨wr (A.HL_RING_CFG 7) F.HL_RING_CFG.ENABLE 1 { link := { perst := false, up := true } }, 7, 15, by decide +kernel⟩

theorem test_meets_RingPairs_3 : ∃ (s : State) (q : Nat) (v : Word), (q < 8)
    ∧ (s.link.up = true)
    ∧ (s.flag (A.HL_RING_CFG q) F.HL_RING_CFG.ENABLE = true)
    ∧ (s.ringSize q ≤ v.toNat) :=
  ⟨wr (A.HL_RING_CFG 7) F.HL_RING_CFG.ENABLE 1 { link := { perst := false, up := true } }, 7, 16, by decide +kernel⟩

theorem test_meets_RingPairs_4 : ∃ (s : State) (q : Nat) (v : Word), (q < 8)
    ∧ (s.link.up = true)
    ∧ (s.flag (A.HL_RING_CFG q) F.HL_RING_CFG.ENABLE = false) :=
  ⟨{ link := { perst := false, up := true } }, 7, 16, by decide +kernel⟩

theorem test_meets_RingPairs_5 : ∃ (s : State) (q : Nat) (v : Word) (w : Word), (s.link.up = false) :=
  ⟨{}, 7, 16, 0, by decide +kernel⟩

theorem test_meets_RingPairs_6 : ∃ (s : State) (q : Nat) (w : Word), (q < 8)
    ∧ (s.link.up = true)
    ∧ ((∀ (c : Cmd), (s.ring q).run = some c → c.orphan = true))
    ∧ (s.ringsAllowed = true)
    ∧ (s.flag (A.HL_RING_CFG q) F.HL_RING_CFG.ENABLE = false)
    ∧ (s.flag (A.HL_RING_STATUS q) F.HL_RING_STATUS.STOPPED = true)
    ∧ (fget w F.HL_RING_CFG.IRQ_COUNT ≠ 0)
    ∧ (fget w F.HL_RING_CFG.VECTOR < 8)
    ∧ (4 ≤ fget w F.HL_RING_CFG.SIZE_LOG2)
    ∧ (fget w F.HL_RING_CFG.SIZE_LOG2 ≤ 12) :=
  ⟨wr A.HL_STATUS F.HL_STATUS.FW_READY 1 { link := { perst := false, up := true } }, 7, 0x0040472B, by decide +kernel⟩

theorem test_meets_RingPairs_7 : ∃ (s : State) (q : Nat) (w : Word), (q < 8)
    ∧ (s.link.up = true)
    ∧ ((∀ (c : Cmd), (s.ring q).run = some c → c.orphan = true))
    ∧ (s.flag (A.HL_RING_CFG q) F.HL_RING_CFG.ENABLE = true) :=
  ⟨wr (A.HL_RING_CFG 7) F.HL_RING_CFG.ENABLE 1 { link := { perst := false, up := true } }, 7, 0, by decide +kernel⟩

theorem test_meets_RingPairs_8 : ∃ (s : State) (q : Nat) (w : Word) (c : Cmd), (q < 8)
    ∧ (s.link.up = true)
    ∧ ((s.ring q).run = some c)
    ∧ (c.orphan = false)
    ∧ (s.flag (A.HL_RING_CFG q) F.HL_RING_CFG.ENABLE = true) :=
  ⟨wr (A.HL_RING_STATUS 7) F.HL_RING_STATUS.STOPPED 0 (wr (A.HL_RING_CFG 7) F.HL_RING_CFG.ENABLE 1 { link := { perst := false, up := true }, rings := [(7, { run := some (cmdOf 0 []) })] }), 7, 0, cmdOf 0 [], by decide +kernel⟩

theorem test_meets_CommandFetching_1 : ∃ (s : State) (q : Nat) (e : List Word) (p : Option (List Word)), (q < 8)
    ∧ (s.ringLive q = true)
    ∧ (s.dma = true)
    ∧ (s.rd (A.HL_RING_STATUS q) F.HL_RING_STATUS.SQ_HEAD ≠ (s.ring q).tail)
    ∧ (badEntry e = false)
    ∧ (s.ringSize q ≤ 4096) :=
  ⟨wr (A.HL_RING_STATUS 7) F.HL_RING_STATUS.SQ_HEAD 15 (wr (A.HL_RING_STATUS 7) F.HL_RING_STATUS.STOPPED 0 (wr (A.HL_RING_CFG 7) F.HL_RING_CFG.ENABLE 1 { link := { perst := false, up := true, busMaster := true } })), 7, [0x1000, 0, 4, 0, 0x2000, 0, 4, 0], none, by decide +kernel⟩

theorem test_meets_CommandFetching_2 : ∃ (s : State) (q : Nat) (e : Option (List Word)) (p : Option (List Word)), (q < 8)
    ∧ (s.ringLive q = true)
    ∧ (s.dma = true)
    ∧ (s.rd (A.HL_RING_STATUS q) F.HL_RING_STATUS.SQ_HEAD ≠ (s.ring q).tail)
    ∧ ((∀ x ∈ e, badEntry x = true)) :=
  ⟨wr (A.HL_RING_STATUS 7) F.HL_RING_STATUS.SQ_HEAD 15 (wr (A.HL_RING_STATUS 7) F.HL_RING_STATUS.STOPPED 0 (wr (A.HL_RING_CFG 7) F.HL_RING_CFG.ENABLE 1 { link := { perst := false, up := true, busMaster := true } })), 7, some [0x1001, 0, 4, 0, 0x2000, 0, 4, 0], none, by decide +kernel⟩

theorem test_meets_CommandStarting_1 : ∃ (s : State) (q : Nat) (core : Nat) (f : Fetched) (rest : List Fetched) (p : List Word), (s.freeCore = some core)
    ∧ (s.nextRing = some q)
    ∧ ((s.ring q).fetched = f :: rest)
    ∧ (f.packet = some p)
    ∧ (bits (wd p 0) 31 24 = 1)
    ∧ (bits (wd p 0) 23 19 = 0)
    ∧ (bit (wd p 0) 16 = false)
    ∧ (4 ≤ bits (wd p 1) 31 16)
    ∧ (bits (wd p 1) 31 16 = bits (wd f.entry 2) 15 0)
    ∧ (wd p 2 = 0)
    ∧ (wd p 3 = 0)
    ∧ (opcodes.contains (bits (wd p 0) 15 0) = true)
    ∧ (s.flag A.HL_STATUS F.HL_STATUS.UMBRA = false)
    ∧ (s.flag A.HL_STATUS F.HL_STATUS.BOOT_WAIT = false)
    ∧ (s.criticalOp (bits (wd p 0) 15 0) p = false) :=
  ⟨fetched7 none [word (2 ^ 24 + 0x0001), 0x00040000, 0, 0], 7, 0, ⟨0, [0, 0, 4, 0, 0, 0, 0, 0], some [word (2 ^ 24 + 0x0001), 0x00040000, 0, 0]⟩, [], [word (2 ^ 24 + 0x0001), 0x00040000, 0, 0], by decide +kernel⟩

theorem test_meets_CommandStarting_2 : ∃ (s : State) (q : Nat) (core : Nat) (f : Fetched) (rest : List Fetched) (p : List Word), (s.freeCore = some core)
    ∧ (s.nextRing = some q)
    ∧ ((s.ring q).fetched = f :: rest)
    ∧ (f.packet = some p)
    ∧ (bits (wd p 0) 31 24 ≠ 1) :=
  ⟨fetched7 none [word (2 ^ 25 + 0x0001), 0x00040000, 0, 0], 7, 0, ⟨0, [0, 0, 4, 0, 0, 0, 0, 0], some [word (2 ^ 25 + 0x0001), 0x00040000, 0, 0]⟩, [], [word (2 ^ 25 + 0x0001), 0x00040000, 0, 0], by decide +kernel⟩

theorem test_meets_CommandStarting_3 : ∃ (s : State) (q : Nat) (core : Nat) (f : Fetched) (rest : List Fetched) (p : List Word) (e : Session), (s.freeCore = some core)
    ∧ (s.nextRing = some q)
    ∧ ((s.ring q).fetched = f :: rest)
    ∧ (f.packet = some p)
    ∧ (bits (wd p 0) 31 24 = 1)
    ∧ (bits (wd p 0) 23 19 = 0)
    ∧ (bit (wd p 0) 16 = true)
    ∧ (8 ≤ bits (wd p 1) 31 16)
    ∧ (bits (wd p 1) 31 16 = bits (wd f.entry 2) 15 0)
    ∧ (opcodes.contains (bits (wd p 0) 15 0) = true)
    ∧ (s.flag A.HL_STATUS F.HL_STATUS.UMBRA = false)
    ∧ (s.flag A.HL_STATUS F.HL_STATUS.BOOT_WAIT = false)
    ∧ ((s.ring q).session = some e)
    ∧ (e.counter < (wd p 2).toNat + 2 ^ 32 * (wd p 3).toNat)
    ∧ (keyedCheck (s.keySlot e.slot).key e.nonce p (bits (wd p 1) 31 16)
      = ((p.drop (bits (wd p 1) 31 16 - 4)).take 4).flatMap wordBytes) :=
  ⟨fetched7 (some ⟨5, 1, 41⟩) checkedPacket, 7, 0, ⟨0, [0, 0, 9, 0, 0, 0, 0, 0], some checkedPacket⟩, [], checkedPacket, ⟨5, 1, 41⟩, by decide +kernel⟩

theorem test_meets_CommandStarting_4 : ∃ (s : State) (q : Nat) (core : Nat) (f : Fetched) (rest : List Fetched) (p : List Word) (e : Session), (s.freeCore = some core)
    ∧ (s.nextRing = some q)
    ∧ ((s.ring q).fetched = f :: rest)
    ∧ (f.packet = some p)
    ∧ (bits (wd p 0) 31 24 = 1)
    ∧ (bits (wd p 0) 23 19 = 0)
    ∧ (bit (wd p 0) 16 = true)
    ∧ (8 ≤ bits (wd p 1) 31 16)
    ∧ (bits (wd p 1) 31 16 = bits (wd f.entry 2) 15 0)
    ∧ (opcodes.contains (bits (wd p 0) 15 0) = true)
    ∧ (s.flag A.HL_STATUS F.HL_STATUS.UMBRA = false)
    ∧ (s.flag A.HL_STATUS F.HL_STATUS.BOOT_WAIT = false)
    ∧ ((s.ring q).session = some e)
    ∧ ((wd p 2).toNat + 2 ^ 32 * (wd p 3).toNat ≤ e.counter)
    ∧ (s.rd (A.HL_RING_SEC q) F.HL_RING_SEC.FAIL_COUNT < 7) :=
  ⟨fetched7 (some ⟨5, 1, 42⟩) checkedPacket, 7, 0, ⟨0, [0, 0, 9, 0, 0, 0, 0, 0], some checkedPacket⟩, [], checkedPacket, ⟨5, 1, 42⟩, by decide +kernel⟩

theorem test_meets_CommandCompletion_1 : ∃ (s : State) (q : Nat) (c : Cmd) (r : Reply), (q < 8)
    ∧ (s.flag (A.HL_RING_CFG q) F.HL_RING_CFG.ENABLE = true)
    ∧ ((s.ring q).run = some c)
    ∧ (c.reply = some r)
    ∧ (c.after = .none)
    ∧ (s.dma = true)
    ∧ (s.cqFull q = false)
    ∧ (s.ringSize q ≤ 4096)
    ∧ (s.rd (A.HL_RING_STATUS q) F.HL_RING_STATUS.CQ_TAIL < s.ringSize q)
    ∧ (r.status < 65536) :=
  ⟨wr (A.HL_RING_CFG 7) F.HL_RING_CFG.ENABLE 1 $ wr (A.HL_RING_STATUS 7) F.HL_RING_STATUS.CQ_TAIL 15 { link := { perst := false, up := true, busMaster := true }, rings := [(7, { run := some { cmdOf 0 [] with entry := [0, 0, 0, 0, 0x40, 0, 4, 0], reply := some ⟨1, 2, 3, []⟩ }, cqHead := 7 })] }, 7, { cmdOf 0 [] with entry := [0, 0, 0, 0, 0x40, 0, 4, 0], reply := some ⟨1, 2, 3, []⟩ }, ⟨1, 2, 3, []⟩, by decide +kernel⟩

theorem test_meets_CommandCompletion_2 : ∃ (s : State) (q : Nat) (c : Cmd) (r : Reply), (q < 8)
    ∧ (s.flag (A.HL_RING_CFG q) F.HL_RING_CFG.ENABLE = true)
    ∧ ((s.ring q).run = some c)
    ∧ (c.reply = some r)
    ∧ (c.after = .none)
    ∧ (s.dma = true)
    ∧ (s.cqFull q = false) :=
  ⟨wr (A.HL_RING_CFG 7) F.HL_RING_CFG.ENABLE 1 $ wr (A.HL_RING_STATUS 7) F.HL_RING_STATUS.CQ_TAIL 15 { link := { perst := false, up := true, busMaster := true }, rings := [(7, { run := some { cmdOf 0 [] with entry := [0, 0, 0, 0, 0x40, 0, 4, 0], reply := some ⟨1, 2, 3, []⟩ }, cqHead := 7 })] }, 7, { cmdOf 0 [] with entry := [0, 0, 0, 0, 0x40, 0, 4, 0], reply := some ⟨1, 2, 3, []⟩ }, ⟨1, 2, 3, []⟩, by decide +kernel⟩

theorem test_meets_CommandCompletion_3 : ∃ (s : State) (q : Nat) (c : Cmd) (r : Reply), (q < 8)
    ∧ (s.flag (A.HL_RING_CFG q) F.HL_RING_CFG.ENABLE = false)
    ∧ (s.flag (A.HL_RING_STATUS q) F.HL_RING_STATUS.STOPPED = false)
    ∧ ((s.ring q).run = some c)
    ∧ (c.reply = some r)
    ∧ (c.after = .none)
    ∧ (s.dma = true)
    ∧ (s.cqFull q = false) :=
  ⟨wr (A.HL_RING_STATUS 7) F.HL_RING_STATUS.STOPPED 0 $ wr (A.HL_RING_STATUS 7) F.HL_RING_STATUS.CQ_TAIL 15 { link := { perst := false, up := true, busMaster := true }, rings := [(7, { run := some { cmdOf 0 [] with entry := [0, 0, 0, 0, 0x40, 0, 4, 0], reply := some ⟨1, 2, 3, []⟩ }, cqHead := 7 })] }, 7, { cmdOf 0 [] with entry := [0, 0, 0, 0, 0x40, 0, 4, 0], reply := some ⟨1, 2, 3, []⟩ }, ⟨1, 2, 3, []⟩, by decide +kernel⟩

theorem test_meets_CommandCompletion_4 : ∃ (s : State) (q : Nat), (q < 8)
    ∧ (0 < s.rd (A.HL_RING_CFG q) F.HL_RING_CFG.IRQ_TIME)
    ∧ (0 < (s.ring q).unsignalled)
    ∧ ((s.ring q).oldest + 3200 * s.rd (A.HL_RING_CFG q) F.HL_RING_CFG.IRQ_TIME ≤ s.now)
    ∧ (s.link.msix = true)
    ∧ (s.link.msixMask = false)
    ∧ (s.dma = true)
    ∧ (s.flag (A.MSIX_CTRL (s.rd (A.HL_RING_CFG q) F.HL_RING_CFG.VECTOR)) F.MSIX_CTRL.MASK = false) :=
  ⟨wr (A.MSIX_CTRL 7) F.MSIX_CTRL.MASK 0 (wr (A.HL_RING_CFG 7) F.HL_RING_CFG.IRQ_TIME 2 { now := 6500, link := { perst := false, up := true, busMaster := true, msix := true }, rings := [(7, { unsignalled := 3, oldest := 100 })] }), 7, by decide +kernel⟩

theorem test_meets_LinkEvents_1 : ∃ (s : State) (q : Nat), (q < 8) :=
  ⟨wr A.HL_CTRL F.HL_CTRL.WINDOW_RW 1 (wr (A.HL_RING_STATUS 7) F.HL_RING_STATUS.STOPPED 0 (wr (A.HL_RING_CFG 7) F.HL_RING_CFG.ENABLE 1 { rings := [(7, { session := some ⟨1, 2, 3⟩, run := some (cmdOf 0 []) })] })), 7, by decide +kernel⟩

theorem test_meets_LinkEvents_2 : ∃ (s : State) (q : Nat), (q < 8)
    ∧ (s.link.perst = false)
    ∧ (s.link.up = true) :=
  ⟨wr A.HL_CTRL F.HL_CTRL.WINDOW_RW 1 (wr (A.HL_RING_STATUS 7) F.HL_RING_STATUS.STOPPED 0 (wr (A.HL_RING_CFG 7) F.HL_RING_CFG.ENABLE 1 { link := { perst := false, up := true }, rings := [(7, { session := some ⟨1, 2, 3⟩, run := some (cmdOf 0 []) })] })), 7, by decide +kernel⟩

theorem test_meets_LinkEvents_4 : ∃ (s : State), (s.link.up = true) :=
  ⟨{ link := { up := true } }, by decide +kernel⟩

theorem test_meets_LinkEvents_7 : ∃ (s : State), (s.link.up = true) :=
  ⟨setReg (A.MSIX_PBA 1) 5 { link := { perst := false, up := true, msix := true } }, by decide +kernel⟩

theorem test_meets_LinkEvents_8 : ∃ (s : State) (b : Bool), (s.link.up = true)
    ∧ (s.link.msix = false)
    ∧ (s.pendingVectors = []) :=
  ⟨{ link := { up := true } }, true, by decide +kernel⟩

theorem test_meets_LinkEvents_9 : ∃ (s : State) (n : Nat) (m : Nat), (s.link.perst = false)
    ∧ (s.link.trainable = true)
    ∧ (s.link.up = false)
    ∧ (kget (fun _ => 0) s.clocks.badWindows 7 < 2)
    ∧ (n < 16)
    ∧ (m < 64) :=
  ⟨{ link := { perst := false, trainable := true } }, 4, 8, by decide +kernel⟩

theorem test_meets_UnitsAndWaiting_1 : ∃ (s : State) (q : Nat) (c : Cmd) (u : Nat), (q < 8)
    ∧ (s.serves q 0x0A01 c)
    ∧ (s.conflict q [uPrism] = some u) :=
  ⟨{ now := 4, rings := [(0, { run := some (cmdOf 0x0A01 []) }), (1, { run := some { cmdOf 0x0A02 [] with held := [uPrism] } })] }, 0, cmdOf 0x0A01 [], uPrism, by decide +kernel⟩

theorem test_meets_UnitsAndWaiting_2 : ∃ (s : State) (q : Nat) (c : Cmd), (q < 8)
    ∧ ((s.ring q).run = some c)
    ∧ (c.reply = none)
    ∧ (c.want ≠ [])
    ∧ (s.conflict q c.want = none) :=
  ⟨{ rings := [(0, { run := some { cmdOf 0x0A01 [] with want := [uPrism] } })] }, 0, { cmdOf 0x0A01 [] with want := [uPrism] }, by decide +kernel⟩

theorem test_meets_UnitsAndWaiting_3 : ∃ (s : State) (q : Nat) (c : Cmd) (u : Nat) (since : Nat), (q < 8)
    ∧ ((s.ring q).run = some c)
    ∧ (c.reply = none)
    ∧ (c.orphan = false)
    ∧ (c.want = [u])
    ∧ (c.waitSince = some since)
    ∧ (s.conflict q [u] = some u)
    ∧ (since + 32000000 ≤ s.now) :=
  ⟨{ now := 32000004, rings := [(0, { run := some { cmdOf 0x0A01 [] with want := [uPrism], waitSince := some 4 } }), (1, { run := some { cmdOf 0x0A02 [] with held := [uPrism] } })] }, 0, { cmdOf 0x0A01 [] with want := [uPrism], waitSince := some 4 }, uPrism, 4, by decide +kernel⟩

theorem test_meets_UnitsAndWaiting_4 : ∃ (s : State) (q : Nat) (c : Cmd) (e : CommitEnv), (q < 8)
    ∧ ((s.ring q).run = some c)
    ∧ (c.reply = none)
    ∧ (c.orphan = false)
    ∧ (c.opcode = 0x0420)
    ∧ (c.before = [])
    ∧ (c.ack = some e)
    ∧ (e.commit = [])
    ∧ (c.due ≤ s.now) :=
  ⟨{ now := 7, rings := [(0, { run := some { cmdOf 0x0420 [] with ack := some { silent := [uTile 1] }, ackUnits := [uTile 0, uTile 1], due := 7 } })] }, 0, { cmdOf 0x0420 [] with ack := some { silent := [uTile 1] }, ackUnits := [uTile 0, uTile 1], due := 7 }, { silent := [uTile 1] }, by decide +kernel⟩

theorem test_meets_RegisterWindow_1 : ∃ (s : State) (w : Word), (s.link.up = true)
    ∧ (s.flag A.HL_CTRL F.HL_CTRL.WINDOW_RW = true)
    ∧ (s.fabricWait A.PR_HOST_EN = none)
    ∧ (s.commandWrote 0 A.PR_HOST_EN F.PR_HOST_EN.EN = false) :=
  ⟨wr A.HL_CTRL F.HL_CTRL.WINDOW_RW 1 { link := { up := true } }, 0xFEDCBA98, by decide +kernel⟩

theorem test_meets_RegisterWindow_2 : ∃ (s : State) (w : Word), (s.link.up = true)
    ∧ (s.flag A.HL_CTRL F.HL_CTRL.WINDOW_RW = true)
    ∧ (s.fabricWait A.PR_HOST_PEND = none)
    ∧ (s.reg0 A.PR_HOST_PEND = s.reg A.PR_HOST_PEND) :=
  ⟨wr A.HL_CTRL F.HL_CTRL.WINDOW_RW 1 { link := { up := true }, regs := [(A.PR_HOST_PEND, 0xFF)], regs0 := [(A.PR_HOST_PEND, 0xFF)] }, 0xF0, by decide +kernel⟩

theorem test_meets_RegisterWindow_3 : ∃ (s : State) (a : Nat) (w : Word), (s.link.up = true)
    ∧ (s.flag A.HL_CTRL F.HL_CTRL.WINDOW_RW = false)
    ∧ ((a < 0x10000 ∨ 0x20000 ≤ a)) :=
  ⟨{ link := { up := true } }, A.PR_HOST_EN, 7, by decide +kernel⟩

theorem test_meets_RegisterWindow_4 : ∃ (s : State) (a : Nat) (w : Word), (s.link.up = true)
    ∧ (s.flag A.HL_CTRL F.HL_CTRL.WINDOW_RW = true)
    ∧ (s.fabricWait a = none)
    ∧ (findReg a = none) :=
  ⟨wr A.HL_CTRL F.HL_CTRL.WINDOW_RW 1 { link := { up := true } }, 0x4, 7, by decide +kernel⟩

theorem test_meets_RegisterWindow_5 : ∃ (s : State) (w : Word), (s.link.up = true)
    ∧ (s.flag A.HL_CTRL F.HL_CTRL.WINDOW_RW = true)
    ∧ (s.fabricWait A.PR_HOST_EN = none)
    ∧ (s.commandWrote 0 A.PR_HOST_EN F.PR_HOST_EN.EN = true) :=
  ⟨wr A.HL_CTRL F.HL_CTRL.WINDOW_RW 1 { link := { up := true }, fab := [(2 * A.PR_HOST_EN, 1)] }, 7, by decide +kernel⟩

theorem test_meets_RegisterWindow_6 : ∃ (s : State) (a u : Nat) (w : Word), (s.link.up = true)
    ∧ (s.flag A.HL_CTRL F.HL_CTRL.WINDOW_RW = true)
    ∧ (s.fabricWait a = some u) :=
  ⟨wr A.HL_CTRL F.HL_CTRL.WINDOW_RW 1 { link := { up := true }, rst := { fabric := [(uTile 3, .lvlStrobeGo 3 1)] } }, A.TSET_CTRL 3, uTile 3, 7, by decide +kernel⟩

theorem test_meets_RegisterWindow_7 : ∃ (s : State) (a : Nat) (w : Word), (s.link.up = true) :=
  ⟨{ link := { up := true } }, 64, 7, by decide +kernel⟩

theorem test_meets_RegisterWindow_8 : ∃ (s : State) (a : Nat) (w : Word), (s.link.up = true)
    ∧ ((0x80 ≤ a ∨ (a % 0x10 ≠ 0 ∧ a % 0x10 ≠ 4))) :=
  ⟨{ link := { up := true } }, 0x7C, 7, by decide +kernel⟩

theorem test_meets_RegisterWindow_9 : ∃ (s : State) (a : Nat), (s.link.up = true) :=
  ⟨{ link := { up := true } }, 0x10, by decide +kernel⟩

theorem test_meets_RegisterWindow_10 : ∃ (s : State), (s.link.up = true)
    ∧ (s.fabricWait A.PR_HOST_EN = none) :=
  ⟨setReg A.PR_HOST_EN 7 { link := { up := true } }, by decide +kernel⟩

theorem test_meets_RegisterWindow_11 : ∃ (s : State) (p : Nat), (p < 256)
    ∧ (s.link.up = true)
    ∧ (s.fabricWait (A.PR_PSTAT p) = none)
    ∧ (s.reg0 (A.PR_PSTAT p) = s.reg (A.PR_PSTAT p)) :=
  ⟨{ link := { up := true }, regs := [(A.PR_PSTAT 255, 0x20000009)], regs0 := [(A.PR_PSTAT 255, 0x20000009)] }, 255, by decide +kernel⟩

theorem test_meets_RegisterWindow_12 : ∃ (s : State) (a : Nat), (s.link.up = true)
    ∧ (s.fabricWait a = none)
    ∧ (findReg a = none)
    ∧ (s.storeRead a = none)
    ∧ (¬ (0x1000000 ≤ a ∧ a < 0x4000000)) :=
  ⟨{ link := { up := true } }, 0x4, by decide +kernel⟩

theorem test_meets_PatternObjects_1 : ∃ (s : State) (q : Nat) (c : Cmd) (ce : Nat) (data : List Word) (i : Nat) (j : Nat) (o x : PatObj), (q < 8)
    ∧ (s.serves q 0x0101 c)
    ∧ (c.payload = 4)
    ∧ (c.w 4 = word i)
    ∧ (i < 16)
    ∧ (bits (c.w 5) 1 0 = 0)
    ∧ ((c.w 7).toNat ≤ data.length)
    ∧ (s.dmaWaits = false)
    ∧ (s.hbmWaits 5 = false)
    ∧ (s.ready q (uPlace :: (s.tilesOf i).map uTile))
    ∧ ((s.loadCheck i (data.take (c.w 7).toNat)).toOption = some o)
    ∧ ((s.loadSpace (s.tilesOf i) o).toOption = some (j, x)) :=
  ⟨loadable, 0, cmdOf 0x0101 [0, 0x1000, 0, word tinyPattern.length], 3, tinyPattern, 0, 0, checkedObj, loadedObj, by decide +kernel⟩

theorem test_meets_PatternObjects_2 : ∃ (s : State) (q : Nat) (c : Cmd) (ce : Nat) (data r : List Word) (i : Nat) (st : Nat) (d : Nat), (q < 8)
    ∧ (s.serves q 0x0101 c)
    ∧ (c.payload = 4)
    ∧ (c.w 4 = word i)
    ∧ (i < 16)
    ∧ (bits (c.w 5) 1 0 = 0)
    ∧ ((c.w 7).toNat ≤ data.length)
    ∧ (s.dmaWaits = false)
    ∧ (s.hbmWaits 5 = false)
    ∧ (s.ready q (uPlace :: (s.tilesOf i).map uTile))
    ∧ (refusal (s.loadCheck i (data.take (c.w 7).toNat)) = some (st, d, r)) :=
  ⟨loadable, 0, cmdOf 0x0101 [0, 0x1000, 0, word tinyPattern.length], 3, tinyPattern.set 2 7, [], 0, 0x0110, 2, by decide +kernel⟩

theorem test_meets_PatternObjects_3 : ∃ (s : State) (q : Nat) (c : Cmd) (h : Nat), (q < 8)
    ∧ (s.serves q 0x0102 c)
    ∧ (s.ready q [uPlace])
    ∧ (c.payload = 1)
    ∧ (c.w 4 = word h)
    ∧ (h < 2 ^ 32)
    ∧ (s.handleStatus h [1] = 0)
    ∧ (s.runnerOf h = none) :=
  ⟨run0 0x0102 [0x10050000] (setReg (A.PL_WIN_HANDLE 15) 0x10050000 { place := { objs := [(0, ⟨5, some loadedObj⟩)] } }), 0, cmdOf 0x0102 [0x10050000], 0x10050000, by decide +kernel⟩

theorem test_meets_BuffersAndLedger_1 : ∃ (s : State) (q : Nat) (c : Cmd) (kind : Nat) (site : Nat) (kib : Nat) (rate : Nat) (i : Nat) (a : Nat), (q < 8)
    ∧ (s.serves q 0x0110 c)
    ∧ (s.ready q [uPlace])
    ∧ (c.payload = 3)
    ∧ (c.w 4 = word (kind + 16 * site))
    ∧ (c.w 5 = word kib)
    ∧ (c.w 6 = word rate)
    ∧ ((kind = 2 ∧ site = 0) ∨ (kind = 3 ∧ site < 16 ∧ s.failLog site = none))
    ∧ (0 < kib)
    ∧ (kib < 2 ^ 32)
    ∧ (0 < rate)
    ∧ (s.bufferRate + s.streamRate none + rate ≤ 600000)
    ∧ ((if kind = 2 then freeIndex s.place.bufs 1024 else freeIndex s.place.logs 16) = some i)
    ∧ (lowFit s.hbmUsed hbmBlocks ((kib + 63) / 64) = some a) :=
  ⟨run0 0x0110 [0x53, 100, 6000] { place := { bufs := [(0, ⟨0, some ⟨2, 0, 64, 500, 0, 0, []⟩⟩)] } }, 0, cmdOf 0x0110 [0x53, 100, 6000], 3, 5, 100, 6000, 0, 1, by decide +kernel⟩

theorem test_meets_BuffersAndLedger_2 : ∃ (s : State) (q : Nat) (c : Cmd) (h : Nat) (b : Buffer), (q < 8)
    ∧ (s.serves q 0x0111 c)
    ∧ (s.ready q [uPlace])
    ∧ (c.payload = 1)
    ∧ (c.w 4 = word h)
    ∧ (h < 2 ^ 32)
    ∧ (s.buf? h = some b)
    ∧ (b.boundTo = 0)
    ∧ ((b.kind = 3 → s.reserved b.site = false)) :=
  ⟨run0 0x0111 [0x20000000] { place := { bufs := [(0, ⟨0, some ⟨2, 0, 64, 500, 0, 0, []⟩⟩)] } }, 0, cmdOf 0x0111 [0x20000000], 0x20000000, ⟨2, 0, 64, 500, 0, 0, []⟩, by decide +kernel⟩

theorem test_meets_BuffersAndLedger_3 : ∃ (s : State) (q : Nat) (c : Cmd), (q < 8)
    ∧ (s.serves q 0x0140 c)
    ∧ (c.payload = 0) :=
  ⟨run0 0x0140 [] { place := { bufs := [(0, ⟨0, some ⟨2, 0, 64, 500, 0, 0, []⟩⟩)] } }, 0, cmdOf 0x0140 [], by decide +kernel⟩

theorem test_meets_BuffersAndLedger_4 : ∃ (s : State) (q : Nat) (c : Cmd) (h : Nat) (b : Buffer), (q < 8)
    ∧ (s.serves q 0x0103 c)
    ∧ (s.ready q [uPlace])
    ∧ (s.hbmWaits 5 = false)
    ∧ (c.payload = 1)
    ∧ (c.w 4 = word h)
    ∧ (h < 2 ^ 32)
    ∧ (s.buf? h = some b) :=
  ⟨run0 0x0103 [0x20000000] { place := { bufs := [(0, ⟨0, some ⟨2, 0, 64, 500, 3, 0, []⟩⟩)] } }, 0, cmdOf 0x0103 [0x20000000], 0x20000000, ⟨2, 0, 64, 500, 3, 0, []⟩, by decide +kernel⟩

theorem test_meets_BuffersAndLedger_5 : ∃ (s : State) (q : Nat) (c : Cmd) (h : Nat) (o : PatObj), (q < 8)
    ∧ (s.serves q 0x0103 c)
    ∧ (s.ready q [uPlace])
    ∧ (s.hbmWaits 5 = false)
    ∧ (c.payload = 1)
    ∧ (c.w 4 = word h)
    ∧ (h < 2 ^ 32)
    ∧ (s.obj? h = some o) :=
  ⟨run0 0x0103 [0x10050000] { place := { objs := [(0, ⟨5, some loadedObj⟩)] } }, 0, cmdOf 0x0103 [0x10050000], 0x10050000, loadedObj, by decide +kernel⟩

theorem test_meets_BuffersAndLedger_6 : ∃ (s : State) (q : Nat) (c : Cmd) (h : Nat) (m : Meas), (q < 8)
    ∧ (s.serves q 0x0103 c)
    ∧ (s.ready q [uPlace])
    ∧ (s.hbmWaits 5 = false)
    ∧ (c.payload = 1)
    ∧ (c.w 4 = word h)
    ∧ (h < 2 ^ 32)
    ∧ (s.meas? h = some m) :=
  ⟨run0 0x0103 [0x40000000] { place := { meas := [(0, ⟨0, some ⟨2, 1, uPin 1, 0, [uMeas 0, uTu 3], [(5, 150)], [150], some 2, 0⟩⟩)] } }, 0, cmdOf 0x0103 [0x40000000], 0x40000000, ⟨2, 1, uPin 1, 0, [uMeas 0, uTu 3], [(5, 150)], [150], some 2, 0⟩, by decide +kernel⟩

theorem test_meets_LocalMemoryWindows_1 : ∃ (s : State) (q : Nat) (c : Cmd) (x : Nat) (ofs : Nat) (h : Nat), (q < 8)
    ∧ (s.serves q 0x0130 c)
    ∧ (s.ready q [uPlace])
    ∧ (c.payload = 2)
    ∧ (c.w 4 = word (256 * x + ofs))
    ∧ (x < 16)
    ∧ (ofs < 256)
    ∧ (c.w 5 = word h)
    ∧ (h < 2 ^ 32)
    ∧ ((h = 0 ∨ (s.handleStatus h [1, 2, 3] = 0 ∧ ofs * 2 ^ 24 < s.dataBytes h))) :=
  ⟨run0 0x0130 [0xF00, 0x20000000] { place := { bufs := [(0, ⟨0, some ⟨2, 0, 64, 500, 3, 0, []⟩⟩)] } }, 0, cmdOf 0x0130 [0xF00, 0x20000000], 15, 0, 0x20000000, by decide +kernel⟩

theorem test_meets_LocalMemoryWindows_2 : ∃ (s : State) (x : Nat) (v : Word), (x < 16)
    ∧ (s.link.up = true)
    ∧ (s.flag A.HL_CTRL F.HL_CTRL.WINDOW_RW = true)
    ∧ (s.fabricWait (A.PL_WIN_HANDLE x) = none)
    ∧ ((v = 0 ∨ (s.handleStatus v.toNat [1, 2, 3] = 0 ∧ s.rd (A.PL_WIN x) F.PL_WIN.OFS16 * 2 ^ 24 < s.dataBytes v.toNat))) :=
  ⟨wr A.HL_CTRL F.HL_CTRL.WINDOW_RW 1 { link := { up := true }, place := { bufs := [(0, ⟨0, some ⟨2, 0, 64, 500, 3, 0, []⟩⟩)] } }, 15, 0x20000000, by decide +kernel⟩

theorem test_meets_LocalMemoryWindows_3 : ∃ (s : State), (s.link.up = true) :=
  ⟨{ link := { up := true } }, by decide +kernel⟩

theorem test_meets_PlacedMeasurements_1 : ∃ (s : State) (q : Nat) (c : Cmd) (n : Nat) (edge : Nat) (k : Nat) (x : Nat), (q < 8)
    ∧ (s.serves q 0x0120 c)
    ∧ (s.ready q [uPlace])
    ∧ (c.payload = 4)
    ∧ (c.w 4 = word (2 + 16 * edge))
    ∧ (0 < edge)
    ∧ (edge < 4)
    ∧ (c.w 5 = word (uPin n))
    ∧ (n < 256)
    ∧ (c.w 6 = 0)
    ∧ (c.w 7 = 0)
    ∧ (s.mode n ≠ 7)
    ∧ (s.retired n = false)
    ∧ ((kget (fun _ => {}) s.place.meas 0).val = none)
    ∧ (s.freeTu (n / 64) = some k)
    ∧ (s.freeSlot? = some x) :=
  ⟨run0 0x0120 [0x32, 0x010000FF, 0, 0] {}, 0, cmdOf 0x0120 [0x32, 0x010000FF, 0, 0], 255, 3, 24, 0, by decide +kernel⟩

theorem test_meets_PlacedMeasurements_2 : ∃ (s : State) (q : Nat) (c : Cmd) (n : Nat) (m : Nat) (ea : Nat) (eb : Nat) (k : Nat) (x : Nat), (q < 8)
    ∧ (s.serves q 0x0120 c)
    ∧ (s.ready q [uPlace])
    ∧ (c.payload = 4)
    ∧ (c.w 4 = word (1 + 16 * ea + 64 * eb))
    ∧ (0 < ea)
    ∧ (ea < 4)
    ∧ (0 < eb)
    ∧ (eb < 4)
    ∧ (c.w 5 = word (uPin n))
    ∧ (n < 256)
    ∧ (c.w 6 = word (uPin m))
    ∧ (m < 256)
    ∧ (m / 64 = n / 64)
    ∧ (c.w 7 = 0)
    ∧ (s.mode n ≠ 7)
    ∧ (s.retired n = false)
    ∧ (s.mode m ≠ 7)
    ∧ (s.retired m = false)
    ∧ ((kget (fun _ => {}) s.place.meas 0).val = none)
    ∧ (s.freeTu (n / 64) = some k)
    ∧ (s.freeSlot? = some x) :=
  ⟨run0 0x0120 [0xB1, 0x010000FF, 0x010000FE, 0] {}, 0, cmdOf 0x0120 [0xB1, 0x010000FF, 0x010000FE, 0], 255, 254, 3, 2, 24, 0, by decide +kernel⟩

theorem test_meets_PlacedMeasurements_3 : ∃ (s : State) (q : Nat) (c : Cmd) (n : Nat) (edge : Nat) (k : Nat) (x : Nat) (l : Nat), (q < 8)
    ∧ (s.serves q 0x0120 c)
    ∧ (s.ready q [uPlace])
    ∧ (c.payload = 4)
    ∧ (c.w 4 = word (2 + 16 * edge))
    ∧ (0 < edge)
    ∧ (edge < 4)
    ∧ (c.w 5 = word (uTio n))
    ∧ (n < 16)
    ∧ (c.w 6 = 0)
    ∧ (c.w 7 = 0)
    ∧ ((kget (fun _ => {}) s.place.meas 0).val = none)
    ∧ (s.freeTu 0 = some k)
    ∧ (s.freeSlot? = some x)
    ∧ (s.freeLine 0 [] = some l) :=
  ⟨run0 0x0120 [0x32, 0x0F00000F, 0, 0] {}, 0, cmdOf 0x0120 [0x32, 0x0F00000F, 0, 0], 15, 3, 0, 0, 68, by decide +kernel⟩

theorem test_meets_PlacedMeasurements_4 : ∃ (s : State) (q : Nat) (c : Cmd) (n : Nat) (h : Nat) (k : Nat), (q < 8)
    ∧ (s.serves q 0x0120 c)
    ∧ (s.ready q [uPlace])
    ∧ (c.payload = 4)
    ∧ (c.w 4 = 3)
    ∧ (c.w 5 = word (uPin n))
    ∧ (n < 256)
    ∧ (c.w 6 = 0)
    ∧ (c.w 7 = word h)
    ∧ (h < 2 ^ 32)
    ∧ (s.handleStatus h [2] = 0)
    ∧ ((s.buf? h).map (·.boundTo) = some 0)
    ∧ (s.mode n ≠ 7)
    ∧ (s.retired n = false)
    ∧ ((kget (fun _ => {}) s.place.meas 0).val = none)
    ∧ (s.freeUnit uAq 8 (n / 64) = some k) :=
  ⟨run0 0x0120 [3, 0x010000FF, 0, 0x20000000] { place := { bufs := [(0, ⟨0, some ⟨2, 0, 64, 500, 3, 0, []⟩⟩)] } }, 0, cmdOf 0x0120 [3, 0x010000FF, 0, 0x20000000], 255, 0x20000000, 24, by decide +kernel⟩

theorem test_meets_PlacedMeasurements_5 : ∃ (s : State) (q : Nat) (c : Cmd) (n : Nat) (k : Nat), (q < 8)
    ∧ (s.serves q 0x0120 c)
    ∧ (s.ready q [uPlace])
    ∧ (c.payload = 4)
    ∧ (c.w 4 = 4)
    ∧ (c.w 5 = word (uPin n))
    ∧ (n < 256)
    ∧ (c.w 6 = 0)
    ∧ (c.w 7 = 0)
    ∧ (s.mode n ≠ 7)
    ∧ (s.retired n = false)
    ∧ ((kget (fun _ => {}) s.place.meas 0).val = none)
    ∧ (s.freeUnit uWm 16 (n / 64) = some k) :=
  ⟨run0 0x0120 [4, 0x010000FF, 0, 0] {}, 0, cmdOf 0x0120 [4, 0x010000FF, 0, 0], 255, 48, by decide +kernel⟩

theorem test_meets_PlacedMeasurements_6 : ∃ (s : State) (q : Nat) (c : Cmd) (n : Nat) (k : Nat), (q < 8)
    ∧ (s.serves q 0x0120 c)
    ∧ (s.ready q [uPin n, uPlace])
    ∧ (c.payload = 4)
    ∧ (c.w 4 = 5)
    ∧ (c.w 5 = word (uPin n))
    ∧ (n < 256)
    ∧ (c.w 6 = 0)
    ∧ (c.w 7 = 0)
    ∧ (s.mode n ≠ 7)
    ∧ (s.retired n = false)
    ∧ (s.rd (A.PMU_CFG n) F.PMU_CFG.FORCE = 0)
    ∧ (s.rd (A.PMU_CFG n) F.PMU_CFG.RANGE ≤ 5)
    ∧ ((kget (fun _ => {}) s.place.meas 0).val = none)
    ∧ (s.freeUnit uAw 8 (n / 64) = some k) :=
  ⟨run0 0x0120 [5, 0x010000FF, 0, 0] {}, 0, cmdOf 0x0120 [5, 0x010000FF, 0, 0], 255, 24, by decide +kernel⟩

theorem test_meets_PlacedMeasurements_7 : ∃ (s : State) (q : Nat) (c : Cmd) (h : Nat) (m : Meas), (q < 8)
    ∧ (s.serves q 0x0121 c)
    ∧ (s.ready q [uPlace])
    ∧ (c.payload = 1)
    ∧ (c.w 4 = word h)
    ∧ (h < 2 ^ 32)
    ∧ (s.meas? h = some m)
    ∧ (m.units.find? s.unitRuns = none)
    ∧ ((∀ l ∈ m.links, l.1 < 256 ∧ l.2 < 192))
    ∧ ((∀ l ∈ m.lines, l < 192))
    ∧ ((∀ x ∈ m.slot, x < 64)) :=
  ⟨setJoin 5 150 true (run0 0x0121 [0x40000000] { place := { meas := [(0, ⟨0, some ⟨2, 1, uPin 1, 0, [uMeas 0, uTu 3], [(5, 150)], [150], some 2, 0⟩⟩)] } }), 0, cmdOf 0x0121 [0x40000000], 0x40000000, ⟨2, 1, uPin 1, 0, [uMeas 0, uTu 3], [(5, 150)], [150], some 2, 0⟩, by decide +kernel⟩

theorem test_meets_SitesFormAndDissolve_1 : ∃ (s : State) (q : Nat) (c : Cmd) (i : Nat) (a : Nat) (n : Nat), (q < 8)
    ∧ (s.serves q 0x0401 c)
    ∧ (c.payload = 1)
    ∧ (c.w 4 = word (256 * i + 16 * a + (n - 1)))
    ∧ (i < 16)
    ∧ (0 < n)
    ∧ (a + n ≤ 16)
    ∧ (s.ready q ((List.range n).map (fun j => uTile (a + j))))
    ∧ (s.formed i = false)
    ∧ ((∀ (j : Nat), j < n → s.siteOfTile (a + j) = none))
    ∧ ((s.mirror = true → n = 4 ∧ a % 4 = 0))
    ∧ (gradeClash s ((List.range n).map (a + ·)) (fun _ => a) = none) :=
  ⟨run0 0x0401 [0xFD2] {}, 0, cmdOf 0x0401 [0xFD2], 15, 13, 3, by decide +kernel⟩

theorem test_meets_SitesFormAndDissolve_2 : ∃ (s : State) (q : Nat) (c : Cmd) (i : Nat) (a : Nat) (n : Nat) (j : Nat) (st : Nat), (q < 8)
    ∧ (s.serves q 0x0401 c)
    ∧ (c.payload = 1)
    ∧ (c.w 4 = word (256 * i + 16 * a + (n - 1)))
    ∧ (i < 16)
    ∧ (0 < n)
    ∧ (a + n ≤ 16)
    ∧ (s.ready q ((List.range n).map (fun j => uTile (a + j))))
    ∧ (s.formed i = false)
    ∧ ((∀ (j : Nat), j < n → s.siteOfTile (a + j) = none))
    ∧ (s.mirror = false)
    ∧ (s.gradeB = false)
    ∧ (j < n)
    ∧ (st / 256 = 6) :=
  ⟨run0 0x0401 [0xFD2] {}, 0, cmdOf 0x0401 [0xFD2], 15, 13, 3, 1, 0x0602, by decide +kernel⟩

theorem test_meets_SitesFormAndDissolve_3 : ∃ (s : State) (q : Nat) (c : Cmd) (i : Nat) (h : Nat) (o : PatObj), (q < 8)
    ∧ (s.serves q 0x0402 c)
    ∧ (c.payload = 1)
    ∧ (c.w 4 = word i)
    ∧ (i < 16)
    ∧ (s.ready q ((s.tilesOf i).map uTile))
    ∧ (s.formed i = true)
    ∧ (s.reserved i = false)
    ∧ (s.lead i + s.width i ≤ 16)
    ∧ (gradeClash s (s.tilesOf i) id = none)
    ∧ (h < 2 ^ 32)
    ∧ (s.obj? h = some o)
    ∧ (o.site = i) :=
  ⟨run0 0x0402 [15] (siteOn 15 5 {}), 0, cmdOf 0x0402 [15], 15, 0x10050000, { loadedObj with site := 15, first := 15 }, by decide +kernel⟩

theorem test_meets_RunsStart_1 : ∃ (s : State) (q : Nat) (c : Cmd) (i : Nat) (h : Nat) (r : Nat) (arm : Nat) (stop : Nat) (more : Nat), (q < 8)
    ∧ (s.serves q 0x0410 c)
    ∧ (c.payload = 2)
    ∧ (i < 16)
    ∧ (arm < 2)
    ∧ (stop < 2)
    ∧ (c.w 4 = word (2 ^ i + 2 ^ 16 * arm + 2 ^ 17 * stop))
    ∧ (c.w 5 = word h)
    ∧ (h < 2 ^ 32)
    ∧ (s.ready q ((s.tilesOf i).map uTile))
    ∧ ((∀ n ∈ s.pinsOf i, uPin n ∉ s.inCalRun))
    ∧ (s.formed i = true)
    ∧ (s.reserved i = false)
    ∧ (s.lead i + s.width i ≤ 16)
    ∧ (s.handleStatus h [1] = 0)
    ∧ ((s.obj? h).map (fun o => (o.bound, o.site)) = some (true, i))
    ∧ (more < 2)
    ∧ ((runPlan s [(i, h)] []).toOption = some [(i, h, r, decide (more = 1))]) :=
  ⟨run0 0x0410 [0x38000, 0x10050000] (siteOn 15 5 { regs := (List.range 16).flatMap (fun j => [(A.PIN_PAIR (240 + j), 0x3280), (A.PIN_FORMAT (240 + j) 0, 5)]) }), 0, cmdOf 0x0410 [0x38000, 0x10050000], 15, 0x10050000, 0, 1, 1, 0, by decide +kernel⟩

theorem test_meets_RunsStart_2 : ∃ (s : State) (q : Nat) (c : Cmd) (i : Nat) (r : Nat) (arm : Nat) (ce : Nat) (o : PatObj), (q < 8)
    ∧ ((s.ring q).run = some c)
    ∧ (c.reply = none)
    ∧ (c.opcode = 0x0410)
    ∧ (c.stage = 1)
    ∧ (c.orphan = false)
    ∧ (c.late = [])
    ∧ (i < 16)
    ∧ (arm < 2)
    ∧ (c.data = [Int.ofNat (2 ^ i), Int.ofNat arm, Int.ofNat r])
    ∧ ((s.site i).priming = true)
    ∧ ((s.site i).block = none)
    ∧ (s.runObj i = some o)
    ∧ (s.lead i + s.width i ≤ 16) :=
  ⟨{ siteOn 15 1 {} with rings := [(0, { run := some { cmdOf 0x0410 [0x8000, 0x10050000] with stage := 1, data := [0x8000, 0, 7] } })], sites := [(15, { priming := true })], now := 5 }, 0, { cmdOf 0x0410 [0x8000, 0x10050000] with stage := 1, data := [0x8000, 0, 7] }, 15, 7, 0, 5, { loadedObj with site := 15, first := 15 }, by decide +kernel⟩

theorem test_meets_RunsStart_3 : ∃ (s : State) (i : Nat) (n : Nat), (i < 16)
    ∧ ((s.site i).startDue = some n)
    ∧ (n ≤ s.now) :=
  ⟨{ siteOn 15 0 {} with sites := [(15, { startDue := some 7 })], now := 7 }, 15, 7, by decide +kernel⟩

theorem test_meets_RunsStart_4 : ∃ (s : State) (i : Nat) (n : Nat), (i < 16)
    ∧ ((s.site i).resumeDue = some n)
    ∧ (n ≤ s.now) :=
  ⟨{ siteOn 15 4 {} with sites := [(15, { resumeDue := some 7 })], now := 7 }, 15, 7, by decide +kernel⟩

theorem test_meets_RunControl_1 : ∃ (s : State) (q : Nat) (c : Cmd) (i : Nat), (q < 8)
    ∧ (s.serves q 0x0411 c)
    ∧ (c.payload = 1)
    ∧ (c.w 4 = word (2 ^ i))
    ∧ (i < 16)
    ∧ (s.ready q ((s.tilesOf i).map uTile))
    ∧ (s.formed i = true)
    ∧ (s.runs i = true) :=
  ⟨run0 0x0411 [0x8000] (siteOn 15 3 {}), 0, cmdOf 0x0411 [0x8000], 15, by decide +kernel⟩

theorem test_meets_RunControl_2 : ∃ (s : State) (q : Nat) (c : Cmd) (i : Nat), (q < 8)
    ∧ (s.serves q 0x0412 c)
    ∧ (c.payload = 1)
    ∧ (c.w 4 = word (2 ^ i))
    ∧ (i < 16)
    ∧ (s.ready q ((s.tilesOf i).map uTile))
    ∧ (s.formed i = true)
    ∧ (s.siteState i = 4) :=
  ⟨run0 0x0412 [0x8000] (siteOn 15 4 {}), 0, cmdOf 0x0412 [0x8000], 15, by decide +kernel⟩

theorem test_meets_RunControl_3 : ∃ (s : State) (q : Nat) (c : Cmd) (i : Nat) (n : Nat), (q < 8)
    ∧ (s.serves q 0x0413 c)
    ∧ (c.payload = 1)
    ∧ (c.w 4 = word (65536 * n + i))
    ∧ (i < 16)
    ∧ (0 < n)
    ∧ (n < 65536)
    ∧ (s.ready q ((s.tilesOf i).map uTile))
    ∧ (s.formed i = true)
    ∧ (s.siteState i = 4) :=
  ⟨run0 0x0413 [0xFFFF000F] (siteOn 15 4 {}), 0, cmdOf 0x0413 [0xFFFF000F], 15, 65535, by decide +kernel⟩

theorem test_meets_RunControl_4 : ∃ (s : State) (q : Nat) (c : Cmd) (i : Nat), (q < 8)
    ∧ (s.serves q 0x0414 c)
    ∧ (c.payload = 1)
    ∧ (c.w 4 = word (2 ^ i))
    ∧ (i < 16)
    ∧ (s.ready q ((s.tilesOf i).map uTile))
    ∧ (s.formed i = true)
    ∧ (s.active i = true)
    ∧ ((s.site i).stop = none) :=
  ⟨run0 0x0414 [0x8000] { siteOn 15 1 {} with sites := [(15, { queue := [{ seg := 0, line := 0, tset := 0, start := 100000 }, { seg := 0, line := 0, tset := 0, start := 300000 }], nextStart := 400000 })] }, 0, cmdOf 0x0414 [0x8000], 15, by decide +kernel⟩

theorem test_meets_RunControl_5 : ∃ (s : State) (q : Nat) (c : Cmd) (i : Nat), (q < 8)
    ∧ (s.serves q 0x0414 c)
    ∧ (c.payload = 1)
    ∧ (c.w 4 = word (2 ^ i))
    ∧ (i < 16)
    ∧ (s.ready q ((s.tilesOf i).map uTile))
    ∧ (s.formed i = true)
    ∧ (s.active i = false)
    ∧ (s.armed i = true) :=
  ⟨run0 0x0414 [0x8000] (wr (A.SEQ_SITE_STATE 15) F.SEQ_SITE_STATE.ARMED 1 { siteOn 15 0 {} with power := { claims := [(uSite 15, 1000)] } }), 0, cmdOf 0x0414 [0x8000], 15, by decide +kernel⟩

theorem test_meets_RunControl_6 : ∃ (s : State) (q : Nat) (c : Cmd) (i : Nat), (q < 8)
    ∧ (s.serves q 0x0414 c)
    ∧ (c.payload = 1)
    ∧ (c.w 4 = word (2 ^ i))
    ∧ (i < 16)
    ∧ (s.ready q ((s.tilesOf i).map uTile))
    ∧ (s.formed i = true)
    ∧ (s.reserved i = false) :=
  ⟨run0 0x0414 [0x8000] (siteOn 15 5 {}), 0, cmdOf 0x0414 [0x8000], 15, by decide +kernel⟩

theorem test_meets_RunControl_7 : ∃ (s : State) (q : Nat) (c : Cmd) (i : Nat) (n : Nat) (o : PatObj), (q < 8)
    ∧ (s.serves q 0x0415 c)
    ∧ (c.payload = 1)
    ∧ (c.w 4 = word (65536 * n + i))
    ∧ (i < 16)
    ∧ (n < 4096)
    ∧ (s.ready q ((s.tilesOf i).map uTile))
    ∧ (s.formed i = true)
    ∧ (s.active i = true)
    ∧ (s.runObj i = some o)
    ∧ (n < o.segs.length)
    ∧ (jumpBad o s.decl n = false) :=
  ⟨run0 0x0415 [0x0000000F] (siteOn 15 4 {}), 0, cmdOf 0x0415 [0x0000000F], 15, 0, { loadedObj with site := 15, first := 15 }, by decide +kernel⟩

theorem test_meets_RunControl_8 : ∃ (s : State) (q : Nat) (c : Cmd) (i : Nat), (q < 8)
    ∧ (s.serves q 0x0418 c)
    ∧ (c.payload = 1)
    ∧ (c.w 4 = word i)
    ∧ (i < 16)
    ∧ (s.formed i = true) :=
  ⟨run0 0x0418 [15] (siteOn 15 4 {}), 0, cmdOf 0x0418 [15], 15, by decide +kernel⟩

theorem test_meets_SiteRegisterRequests_1 : ∃ (s : State) (i : Nat), (i < 16)
    ∧ (s.link.up = true)
    ∧ (s.flag A.HL_CTRL F.HL_CTRL.WINDOW_RW = true)
    ∧ (s.fabricWait (A.SEQ_SITE_CTRL i) = none)
    ∧ (s.runs i = true) :=
  ⟨barOpen (siteOn 15 2 {}), 15, by decide +kernel⟩

theorem test_meets_SiteRegisterRequests_2 : ∃ (s : State) (i : Nat), (i < 16)
    ∧ (s.link.up = true)
    ∧ (s.flag A.HL_CTRL F.HL_CTRL.WINDOW_RW = true)
    ∧ (s.fabricWait (A.SEQ_SITE_CTRL i) = none)
    ∧ (s.siteState i = 4) :=
  ⟨barOpen (siteOn 15 4 {}), 15, by decide +kernel⟩

theorem test_meets_SiteRegisterRequests_3 : ∃ (s : State) (i : Nat), (i < 16)
    ∧ (s.link.up = true)
    ∧ (s.flag A.HL_CTRL F.HL_CTRL.WINDOW_RW = true)
    ∧ (s.fabricWait (A.SEQ_SITE_CTRL i) = none)
    ∧ (s.siteState i = 4) :=
  ⟨barOpen (siteOn 15 4 {}), 15, by decide +kernel⟩

theorem test_meets_SiteRegisterRequests_4 : ∃ (s : State) (i : Nat), (i < 16)
    ∧ (s.link.up = true)
    ∧ (s.flag A.HL_CTRL F.HL_CTRL.WINDOW_RW = true)
    ∧ (s.fabricWait (A.SEQ_SITE_CTRL i) = none)
    ∧ (s.siteState i = 4)
    ∧ ((s.site i).stop = none) :=
  ⟨barOpen (siteOn 15 4 { now := 9 }), 15, by decide +kernel⟩

theorem test_meets_SiteRegisterRequests_5 : ∃ (s : State) (i : Nat), (i < 16)
    ∧ (s.link.up = true)
    ∧ (s.flag A.HL_CTRL F.HL_CTRL.WINDOW_RW = true)
    ∧ (s.fabricWait (A.SEQ_SITE_CTRL i) = none)
    ∧ (s.active i = false) :=
  ⟨barOpen (siteOn 15 5 {}), 15, by decide +kernel⟩

theorem test_meets_SiteRegisterRequests_6 : ∃ (s : State) (i : Nat), (i < 16)
    ∧ (s.link.up = true)
    ∧ (s.flag A.HL_CTRL F.HL_CTRL.WINDOW_RW = true)
    ∧ (s.fabricWait (A.SEQ_EVT i) = none) :=
  ⟨barOpen {}, 15, by decide +kernel⟩

theorem test_meets_SiteRegisterRequests_7 : ∃ (s : State) (i : Nat) (n : Nat) (o : PatObj), (i < 16)
    ∧ (s.link.up = true)
    ∧ (s.flag A.HL_CTRL F.HL_CTRL.WINDOW_RW = true)
    ∧ (s.fabricWait (A.SEQ_JUMP i) = none)
    ∧ (s.formed i = true)
    ∧ (s.active i = true)
    ∧ (s.runObj i = some o)
    ∧ (n < o.segs.length)
    ∧ (n < 4096)
    ∧ (jumpBad o s.decl n = false) :=
  ⟨barOpen (siteOn 15 3 {}), 15, 0, { loadedObj with site := 15, first := 15 }, by decide +kernel⟩

theorem test_meets_StreamRefills_1 : ∃ (s : State) (k : Nat) (i : Nat) (o : PatObj), (s.siteOfTile k = some i)
    ∧ (s.reserved i = true)
    ∧ (s.runObj i = some o)
    ∧ ((s.tile k).burst = false)
    ∧ ((s.tile k).fill + 2048 ≤ 65536)
    ∧ ((s.tile k).fetched < o.streamBytes) :=
  ⟨streaming {}, 15, 15, streamObj, by decide +kernel⟩

theorem test_meets_StreamRefills_2 : ∃ (s : State) (k : Nat) (i : Nat) (o : PatObj), (s.siteOfTile k = some i)
    ∧ (s.reserved i = true)
    ∧ (s.runObj i = some o)
    ∧ ((s.tile k).ctrlBurst = false)
    ∧ (s.flag (A.SEQ_TILE_STATUS k) F.SEQ_TILE_STATUS.LEAD = true)
    ∧ ((s.tile k).ctrlFill + 512 ≤ 8192)
    ∧ ((s.tile k).ctrlFetched < o.streamCtrl) :=
  ⟨streaming {}, 15, 15, streamObj, by decide +kernel⟩

theorem test_meets_StreamRefills_3 : ∃ (s : State) (k : Nat) (i : Nat) (o : PatObj) (l : Nat) (ofs : Nat) (adr : Nat), (s.siteOfTile k = some i)
    ∧ (s.runObj i = some o)
    ∧ (s.refillLevel k false = some l)
    ∧ (s.hbmWaits l = false)
    ∧ (s.hbmNext l ((s.refills.filter (·.1 = l)).map (·.2)) = some (2 * k))
    ∧ (s.place.reads = [])
    ∧ ((s.tile k).fill + 2048 ≤ 65536) :=
  ⟨streaming { tiles := [(15, { burst := true, fill := 63488 })] }, 15, 15, streamObj, 3, 0, 0, by decide +kernel⟩

theorem test_meets_StreamRefills_4 : ∃ (s : State) (k : Nat) (i : Nat) (o : PatObj) (l : Nat) (ofs : Nat) (adr : Nat), (s.siteOfTile k = some i)
    ∧ (s.runObj i = some o)
    ∧ (s.refillLevel k true = some l)
    ∧ (s.hbmWaits l = false)
    ∧ (s.hbmNext l ((s.refills.filter (·.1 = l)).map (·.2)) = some (2 * k + 1))
    ∧ (s.place.reads = []) :=
  ⟨streaming { tiles := [(15, { ctrlBurst := true })] }, 15, 15, streamObj, 1, 4, 77, by decide +kernel⟩

theorem test_meets_StreamRefills_5 : ∃ (s : State) (n : Nat), (s.power.scrubActive = false)
    ∧ (s.power.scrubAt ≤ s.now)
    ∧ (s.hbmStopped = false)
    ∧ (s.power.queue = [])
    ∧ (s.rd A.PW_GRANTED F.PW_GRANTED.MW + 600 ≤ s.effBudget)
    ∧ (s.claimOf uPlace = 0) :=
  ⟨{ power := { scrubActive := false, scrubAt := 5 }, now := 5 }, 0, by decide +kernel⟩

theorem test_meets_StreamRefills_6 : ∃ (s : State) (n : Nat), (s.power.scrubActive = true)
    ∧ (s.hbmWaits 6 = false) :=
  ⟨{ power := { scrubActive := true, scrubStep := 255 } }, 70000, by decide +kernel⟩

theorem test_meets_SequencerRuns_1 : ∃ (s : State) (i : Nat) (ok : Nat) (p : PInstr), (i < 16)
    ∧ (s.formed i = true)
    ∧ (s.runs i = true)
    ∧ ((s.site i).stop = none)
    ∧ ((s.site i).priming = false)
    ∧ ((s.site i).routine = none)
    ∧ (s.dispatchAt i ≤ s.unow)
    ∧ ((s.site i).boundary = false)
    ∧ (s.pauses i = false)
    ∧ (s.cutOff i = false)
    ∧ (s.instrAt i (s.site i).pos = some p)
    ∧ (s.mirror = false)
    ∧ (((s.runObj i).bind (fun o => (o.seg p.seg).map (fun g => g.streamed))) = some false)
    ∧ ((∀ x ∈ (s.site i).queue, x.pad = false))
    ∧ (s.lead i + s.width i ≤ 16)
    ∧ (ok < 2) :=
  ⟨{ siteOn 15 1 (lenmasOn {}) with now := 1000, sites := [(15, { nextStart := 1500000 })] }, 15, 0, ((siteOn 15 1 (lenmasOn {})).instrAt 15 (0, 0)).getD ⟨0, 0, 0, [], 0, none⟩, by decide +kernel⟩

theorem test_meets_SequencerRuns_2 : ∃ (s : State) (i : Nat), (i < 16)
    ∧ (s.formed i = true)
    ∧ (s.runs i = true)
    ∧ ((s.site i).stop = none)
    ∧ ((s.site i).priming = false)
    ∧ ((s.site i).routine = none)
    ∧ (s.cutOff i = false)
    ∧ (s.drained i = true)
    ∧ ((s.site i).boundary = false)
    ∧ (s.pauses i = true)
    ∧ ((s.site i).resumeThen = none) :=
  ⟨{ siteOn 15 1 {} with now := 1000, sites := [(15, { nextStart := 1250000, pausePend := true })] }, 15, by decide +kernel⟩

theorem test_meets_SequencerRuns_3 : ∃ (s : State) (i : Nat) (r : Routine), (i < 16)
    ∧ ((s.site i).routine = some r)
    ∧ (r.opcode = 0x00)
    ∧ (s.record 2 0x00 = none)
    ∧ (r.staged = [])
    ∧ (r.ustack = [])
    ∧ (r.repeating = false)
    ∧ (r.executed = false)
    ∧ (r.halting = false)
    ∧ (r.pausing = false)
    ∧ (r.dest = .next)
    ∧ (r.runc = 0)
    ∧ (r.sinceYield < 4096)
    ∧ (r.time ≤ s.unow)
    ∧ (s.siteState i ≠ 4)
    ∧ ((s.site i).stop = none)
    ∧ (r.time + 250000 ≤ (s.site i).nextStart)
    ∧ (s.mirror = false) :=
  ⟨{ siteOn 15 1 (lenmasOn {}) with now := 1000, sites := [(15, { nextStart := 1500000, routine := some (routineOf 0) })] }, 15, routineOf 0, by decide +kernel⟩

theorem test_meets_SequencerRuns_4 : ∃ (s : State) (i : Nat) (r : Routine), (i < 16)
    ∧ ((s.site i).routine = some r)
    ∧ (r.opcode = 0x3E ∨ r.opcode = 0x3F)
    ∧ (s.record 2 r.opcode = none)
    ∧ (r.staged = [])
    ∧ (r.ustack = [])
    ∧ (r.repeating = false)
    ∧ (r.executed = false)
    ∧ (r.halting = false)
    ∧ (r.pausing = false)
    ∧ (r.dest = .next)
    ∧ (r.sinceYield < 4096)
    ∧ (r.time ≤ s.unow)
    ∧ (s.siteState i ≠ 4)
    ∧ ((s.site i).stop = none)
    ∧ (r.time + 250000 ≤ (s.site i).nextStart)
    ∧ (s.mirror = false) :=
  ⟨{ siteOn 15 1 (lenmasOn {}) with now := 1000, sites := [(15, { nextStart := 1500000, routine := some (routineOf 0x3F) })] }, 15, routineOf 0x3F, by decide +kernel⟩

theorem test_meets_SequencerRuns_5 : ∃ (s : State) (i : Nat) (r : Routine), (i < 16)
    ∧ ((s.site i).routine = some r)
    ∧ (4096 ≤ r.sinceYield)
    ∧ (r.time ≤ s.unow)
    ∧ (s.active i = true)
    ∧ ((s.site i).stop = none)
    ∧ (r.opcode < 256)
    ∧ (r.upc < 8192) :=
  ⟨{ siteOn 15 1 {} with now := 1000, sites := [(15, { nextStart := 1500000, routine := some { routineOf 0xC0 with sinceYield := 4096, upc := 8191 } })] }, 15, { routineOf 0xC0 with sinceYield := 4096, upc := 8191 }, by decide +kernel⟩

theorem test_meets_CyclesReachPins_1 : ∃ (s : State) (i : Nat) (c : QCycle) (rest : List QCycle) (o : PatObj) (g : Seg), ((s.site i).queue = c :: rest)
    ∧ (c.start ≤ s.unow + 250000)
    ∧ (c.pad = false)
    ∧ (s.runObj i = some o)
    ∧ (o.seg c.seg = some g)
    ∧ (g.streamed = false) :=
  ⟨{ siteOn 15 1 {} with sites := [(15, { queue := [cyc0 3 250000, cyc0 4 255000] })] }, 15, cyc0 3 250000, [cyc0 4 255000], { loadedObj with site := 15, first := 15 }, (loadedObj.segs.getD 0 ⟨false, false, false, [], 0, [], false, 0, false⟩), by decide +kernel⟩

theorem test_meets_CyclesReachPins_2 : ∃ (s : State) (i : Nat) (k : Nat) (c : QCycle) (rest : List QCycle) (o : PatObj) (g : Seg), ((s.site i).queue = c :: rest)
    ∧ (c.start ≤ s.unow + 250000)
    ∧ (c.pad = false)
    ∧ (s.runObj i = some o)
    ∧ (o.seg c.seg = some g)
    ∧ (g.streamed = false)
    ∧ ((s.site i).stop = none) :=
  ⟨{ siteOn 15 1 {} with sites := [(15, { queue := [cyc0 3 250000] })] }, 15, 15, cyc0 3 250000, [], { loadedObj with site := 15, first := 15 }, (loadedObj.segs.getD 0 ⟨false, false, false, [], 0, [], false, 0, false⟩), by decide +kernel⟩

theorem test_meets_CyclesReachPins_3 : ∃ (s : State) (i : Nat) (k : Nat) (c : QCycle) (rest : List QCycle) (o : PatObj) (g : Seg), ((s.site i).queue = c :: rest)
    ∧ (c.start ≤ s.unow + 250000)
    ∧ (c.pad = false)
    ∧ (s.runObj i = some o)
    ∧ (o.seg c.seg = some g)
    ∧ (g.streamed = false) :=
  ⟨{ siteOn 15 1 {} with sites := [(15, { queue := [cyc0 3 250000] })] }, 15, 15, cyc0 3 250000, [], { loadedObj with site := 15, first := 15 }, (loadedObj.segs.getD 0 ⟨false, false, false, [], 0, [], false, 0, false⟩), by decide +kernel⟩

theorem test_meets_CyclesReachPins_4 : ∃ (s : State) (i : Nat) (n : Nat) (c : QCycle) (rest : List QCycle) (o : PatObj) (g : Seg), ((s.site i).queue = c :: rest)
    ∧ (c.start ≤ s.unow + 250000)
    ∧ (c.pad = false)
    ∧ (s.runObj i = some o)
    ∧ (o.seg c.seg = some g)
    ∧ (g.streamed = true)
    ∧ ((s.site i).padding = false)
    ∧ ((s.site i).ueAt = none)
    ∧ ((s.site i).used + n = o.streamOfs c.seg + (c.line + 1) * g.lineBytes)
    ∧ ((∀ k ∈ s.tilesOf i, n ≤ (s.tile k).fill)) :=
  ⟨streaming { tiles := [(15, { fill := 64 })], sites := [(15, { queue := [cyc0 0 250000] })] }, 15, 8, cyc0 0 250000, [], streamObj, (streamObj.segs.getD 0 ⟨false, false, false, [], 0, [], false, 0, false⟩), by decide +kernel⟩

theorem test_meets_CyclesReachPins_5 : ∃ (s : State) (i : Nat) (k : Nat) (c : QCycle) (rest : List QCycle) (o : PatObj) (g : Seg), (i < 16)
    ∧ ((s.site i).queue = c :: rest)
    ∧ (c.start ≤ s.unow + 250000)
    ∧ (c.pad = false)
    ∧ (s.runObj i = some o)
    ∧ (o.seg c.seg = some g)
    ∧ (g.streamed = true)
    ∧ ((s.site i).padding = false)
    ∧ ((s.site i).ueAt = none)
    ∧ (k ∈ s.tilesOf i)
    ∧ ((s.site i).used + (s.tile k).fill < o.streamOfs c.seg + (c.line + 1) * g.lineBytes)
    ∧ (o.pad = false)
    ∧ (s.guaranteed i = false)
    ∧ ((s.site i).stop = none) :=
  ⟨wr (A.PL_STARVE 15) F.PL_STARVE.OVERSUB 1 $ streaming { sites := [(15, { queue := [cyc0 0 250000] })] }, 15, 15, cyc0 0 250000, [], streamObj, (streamObj.segs.getD 0 ⟨false, false, false, [], 0, [], false, 0, false⟩), by decide +kernel⟩

theorem test_meets_CyclesReachPins_6 : ∃ (s : State) (i : Nat) (n : Nat) (c : QCycle) (rest : List QCycle), (i < 16)
    ∧ ((s.site i).align = c :: rest)
    ∧ (c.start ≤ s.unow + 20000)
    ∧ (c.pad = false)
    ∧ (c.apply = false)
    ∧ (s.lead i + s.width i ≤ 16)
    ∧ ((s.site i).taken = [])
    ∧ (n ∈ s.pinsOf i)
    ∧ (s.gangMember n = false) :=
  ⟨{ siteOn 15 1 {} with now := 100, sites := [(15, { align := [cyc0 0 145000] })] }, 15, 255, cyc0 0 145000, [], by decide +kernel⟩

theorem test_meets_CyclesReachPins_7 : ∃ (s : State) (i : Nat) (k : Nat) (n : Nat) (v : Word) (c : QCycle) (rest : List QCycle), (i < 16)
    ∧ ((s.site i).align = c :: rest)
    ∧ (c.start ≤ s.unow + 20000)
    ∧ (c.apply = true)
    ∧ (s.lead i + s.width i ≤ 16)
    ∧ ((s.site i).taken = [])
    ∧ (k ∈ s.tilesOf i)
    ∧ (n < 64)
    ∧ ((s.site i).banks = [[(A.TSET_PERIOD_LO k n, v)]]) :=
  ⟨{ siteOn 15 1 {} with now := 100, sites := [(15, { align := [{ cyc0 0 145000 with apply := true }], banks := [[(A.TSET_PERIOD_LO 15 63, 9000)]] })] }, 15, 15, 63, 9000, { cyc0 0 145000 with apply := true }, [], by decide +kernel⟩

theorem test_meets_CyclesReachPins_8 : ∃ (s : State) (i : Nat) (st : Stop), (i < 16)
    ∧ ((s.site i).stop = some st)
    ∧ (st.at_ ≤ s.unow)
    ∧ ((s.site i).queue = [])
    ∧ ((s.site i).align = [])
    ∧ (st.cause = 1) :=
  ⟨{ siteOn 15 1 {} with now := 100, sites := [(15, { stop := some ⟨1, 125000, true, 0⟩ })], power := { claims := [(uSite 15, 1000)] } }, 15, ⟨1, 125000, true, 0⟩, by decide +kernel⟩

theorem test_meets_CyclesReachPins_9 : ∃ (s : State) (i : Nat) (n : Nat) (st : Stop), (i < 16)
    ∧ ((s.site i).stop = some st)
    ∧ (st.at_ ≤ s.unow)
    ∧ ((s.site i).queue = [])
    ∧ ((s.site i).align = [])
    ∧ (1 < st.cause)
    ∧ (st.cause < 16)
    ∧ (s.lead i + s.width i ≤ 16)
    ∧ (n ∈ s.pinsOf i)
    ∧ ([0, 1, 4].contains (s.mode n) = true) :=
  ⟨wr (A.PIN_DRV 255) F.PIN_DRV.PARK 2 (wr (A.PIN_STATUS 255) F.PIN_STATUS.DRV_CONN 1 (setReg (A.PIN_MODE 255) 1 { siteOn 15 1 {} with now := 100, sites := [(15, { stop := some ⟨15, 125000, false, 0⟩ })] })), 15, 255, ⟨15, 125000, false, 0⟩, by decide +kernel⟩

theorem test_meets_CyclesReachPins_10 : ∃ (s : State) (i : Nat) (n : Nat) (d : Nat), (i < 16)
    ∧ ((s.site i).stop = none)
    ∧ ((s.site i).parkDue = some d)
    ∧ (s.lead i + s.width i ≤ 16)
    ∧ ((∀ m ∈ s.pinsOf i, ∀ e ∈ (s.pin m).edges, e.time ≤ s.unow))
    ∧ (n ∈ s.pinsOf i)
    ∧ ([0, 1, 4].contains (s.mode n) = true) :=
  ⟨setReg (A.PIN_MODE 255) 0 { siteOn 15 1 {} with now := 100, sites := [(15, { parkDue := some 4 })] }, 15, 255, 4, by decide +kernel⟩

theorem test_meets_ComparesAndFailLog_1 : ∃ (s : State) (i : Nat) (u : Taken) (m : Cmp) (v : Int) (tm : Nat), (i < 16)
    ∧ ((s.site i).taken = [u])
    ∧ (u.cmps = [m])
    ∧ (u.cyc.iter = none)
    ∧ (u.faulty = [])
    ∧ (u.cyc.pad = false)
    ∧ (u.cyc.num < 2 ^ 64)
    ∧ (m.window = false)
    ∧ (m.exp < 5)
    ∧ (m.pin < 256)
    ∧ (m.obit < 2)
    ∧ (u.tiles = [{ tile := m.pin / 16, mask := 0 }])
    ∧ ((s.site i).align = [])
    ∧ ((s.site i).queue = [])
    ∧ ((∀ n ∈ s.pinsOf i, (s.pin n).edges = []))
    ∧ ((s.pin m.pin).missed = [])
    ∧ (m.ts + 120000 ≤ s.unow)
    ∧ (fget (s.regAt (A.CMP_CFG m.pin) (m.ts + 100000)) F.CMP_CFG.MASK = 0)
    ∧ (s.retired m.pin = false)
    ∧ (expFails m.exp (s.comparisons m.pin (m.ts, v)).1 (s.comparisons m.pin (m.ts, v)).2 = true)
    ∧ ((s.tile (m.pin / 16)).store.length < 65536) :=
  ⟨{ siteOn 15 1 {} with now := 200, sites := [(15, { taken := [⟨cyc0 7 100000, [⟨255, 1, 5, 1, false, 110000, 0⟩], [{ tile := 15, mask := 0 }], [], []⟩] })] }, 15, ⟨cyc0 7 100000, [⟨255, 1, 5, 1, false, 110000, 0⟩], [{ tile := 15, mask := 0 }], [], []⟩, ⟨255, 1, 5, 1, false, 110000, 0⟩, 50000000, 0, by decide +kernel⟩

theorem test_meets_ComparesAndFailLog_2 : ∃ (s : State) (i : Nat) (u : Taken) (m : Cmp) (v : Int) (tm : Nat), (i < 16)
    ∧ ((s.site i).taken = [u])
    ∧ (u.cmps = [m])
    ∧ (u.cyc.iter = none)
    ∧ (u.faulty = [])
    ∧ (m.window = false)
    ∧ (m.exp < 5)
    ∧ (m.pin < 256)
    ∧ (m.obit < 2)
    ∧ (u.tiles = [{ tile := m.pin / 16, mask := 0 }])
    ∧ ((s.site i).align = [])
    ∧ ((s.site i).queue = [])
    ∧ ((∀ n ∈ s.pinsOf i, (s.pin n).edges = []))
    ∧ ((s.pin m.pin).missed = [])
    ∧ (m.ts + 120000 ≤ s.unow)
    ∧ (fget (s.regAt (A.CMP_CFG m.pin) (m.ts + 100000)) F.CMP_CFG.MASK ≠ 0 ∨ expFails m.exp (s.comparisons m.pin (m.ts, v)).1 (s.comparisons m.pin (m.ts, v)).2 = false) :=
  ⟨{ siteOn 15 1 {} with now := 200, sites := [(15, { taken := [⟨cyc0 7 100000, [⟨255, 1, 5, 2, false, 110000, 0⟩], [{ tile := 15, mask := 0 }], [], []⟩] })] }, 15, ⟨cyc0 7 100000, [⟨255, 1, 5, 2, false, 110000, 0⟩], [{ tile := 15, mask := 0 }], [], []⟩, ⟨255, 1, 5, 2, false, 110000, 0⟩, 50000000, 0, by decide +kernel⟩

theorem test_meets_ComparesAndFailLog_3 : ∃ (s : State) (i : Nat) (h : Nat) (r : List Word) (rest : List (List Word)) (b : Buffer), (i < 16)
    ∧ ((s.site i).log.queue = r :: rest)
    ∧ (s.failLog i = some h)
    ∧ (s.buf? h = some b)
    ∧ (s.hbmWaits 2 = false)
    ∧ (s.hbmNext 2 s.logsWaiting = some i)
    ∧ (s.place.reads = [])
    ∧ ((s.site i).log.gap = none)
    ∧ (r.length = 8)
    ∧ (b.slots < 2 ^ 28)
    ∧ (32 * 3200 ≤ min (65536 * 3200) ((s.site i).log.credit + b.rate * (s.now - (s.site i).log.creditAt)))
    ∧ (s.rd (A.FAIL_STAT i) F.FAIL_STAT.NEXT < b.slots) :=
  ⟨{ siteOn 15 1 {} with now := 2000, sites := [(15, { log := { queue := [[1, 2, 3, 4, 5, 6, 7, 8], [9]] } })], place := { logs := [(0, ⟨0, some log15⟩)] } }, 15, 0x30000000, [1, 2, 3, 4, 5, 6, 7, 8], [[9]], log15, by decide +kernel⟩

theorem test_meets_ComparesAndFailLog_4 : ∃ (s : State) (i : Nat) (h : Nat) (r : List Word) (rest : List (List Word)) (b : Buffer), (i < 16)
    ∧ ((s.site i).log.queue = r :: rest)
    ∧ (s.failLog i = some h)
    ∧ (s.buf? h = some b)
    ∧ (s.hbmWaits 2 = false)
    ∧ (s.hbmNext 2 s.logsWaiting = some i)
    ∧ (s.place.reads = [])
    ∧ ((s.site i).log.gap = none)
    ∧ ((s.site i).log.credit + b.rate * (s.now - (s.site i).log.creditAt) < 32 * 3200)
    ∧ (s.rd (A.FAIL_CFG i) F.FAIL_CFG.FULL_POLICY = 1 ∨ s.rd (A.FAIL_STAT i) F.FAIL_STAT.NEXT < b.slots) :=
  ⟨{ siteOn 15 1 {} with sites := [(15, { log := { queue := [[1, 2, 3, 4, 5, 6, 7, 8], [9]] } })], place := { logs := [(0, ⟨0, some log15⟩)] } }, 15, 0x30000000, [1, 2, 3, 4, 5, 6, 7, 8], [[9]], log15, by decide +kernel⟩

theorem test_meets_ComparesAndFailLog_5 : ∃ (s : State) (i : Nat) (h : Nat) (r : List Word) (rest : List (List Word)) (b : Buffer), (i < 16)
    ∧ ((s.site i).log.queue = r :: rest)
    ∧ (s.failLog i = some h)
    ∧ (s.buf? h = some b)
    ∧ (s.hbmWaits 2 = false)
    ∧ (s.hbmNext 2 s.logsWaiting = some i)
    ∧ (s.place.reads = [])
    ∧ (s.rd (A.FAIL_CFG i) F.FAIL_CFG.FULL_POLICY = 0)
    ∧ (b.slots ≤ s.rd (A.FAIL_STAT i) F.FAIL_STAT.NEXT) :=
  ⟨wr (A.FAIL_STAT 15) F.FAIL_STAT.NEXT 31 { siteOn 15 1 {} with sites := [(15, { log := { queue := [[1, 2, 3, 4, 5, 6, 7, 8], [9]] } })], place := { logs := [(0, ⟨0, some log15⟩)] } }, 15, 0x30000000, [1, 2, 3, 4, 5, 6, 7, 8], [[9]], log15, by decide +kernel⟩

theorem test_meets_ComparesAndFailLog_6 : ∃ (s : State) (i : Nat) (h : Nat) (on : Nat) (b : Buffer), (i < 16)
    ∧ (on < 2)
    ∧ ((s.site i).log.header = some (decide (on = 1)))
    ∧ (s.failLog i = some h)
    ∧ (s.buf? h = some b)
    ∧ ((s.site i).taken = [])
    ∧ ((s.site i).align = [])
    ∧ ((s.site i).log.runs = [])
    ∧ ((s.site i).log.queue = [])
    ∧ ((s.site i).log.gap = none)
    ∧ (s.hbmWaits 2 = false) :=
  ⟨{ siteOn 15 1 {} with sites := [(15, { log := { header := some true } })], place := { logs := [(0, ⟨0, some log15⟩)] } }, 15, 0x30000000, 1, log15, by decide +kernel⟩

theorem test_meets_Microcode_1 : ∃ (s : State) (q : Nat) (c : Cmd) (m : List Word), (q < 8)
    ∧ (s.serves q 0x0420 c)
    ∧ (c.payload = 4)
    ∧ (c.w 4 = 0)
    ∧ (bits (c.w 5) 1 0 = 0)
    ∧ (s.ready q ((List.range 17).map uTile))
    ∧ ((∀ (i : Nat), i < 16 → s.reserved i = false))
    ∧ (s.dmaWaits = false)
    ∧ ((c.w 7).toNat = m.length)
    ∧ (s.imageFault m m.length false = none)
    ∧ (entryClash s (loadImage m s) = none) :=
  ⟨mirrored (run0 0x0420 [0, 0x1000, 0, 15] {}), 0, cmdOf 0x0420 [0, 0x1000, 0, 15], tinyImage, by decide +kernel⟩

theorem test_meets_Microcode_2 : ∃ (s : State) (q : Nat) (c : Cmd), (q < 8)
    ∧ (s.serves q 0x0420 c)
    ∧ (c.payload = 4)
    ∧ (c.w 4 = 0)
    ∧ (bits (c.w 5) 1 0 = 0)
    ∧ (s.ready q ((List.range 17).map uTile))
    ∧ ((∀ (i : Nat), i < 16 → s.reserved i = false))
    ∧ (s.dmaWaits = false) :=
  ⟨run0 0x0420 [0, 0x1000, 0, 15] {}, 0, cmdOf 0x0420 [0, 0x1000, 0, 15], by decide +kernel⟩

theorem test_meets_Microcode_3 : ∃ (s : State) (q : Nat) (c : Cmd) (r : Nat), (q < 8)
    ∧ (s.serves q 0x0421 c)
    ∧ (c.payload = 1)
    ∧ (c.w 4 = word r)
    ∧ (r = 1 ∨ r = 2)
    ∧ (s.ready q ((List.range 17).map uTile))
    ∧ ((∀ (i : Nat), i < 16 → s.reserved i = false))
    ∧ (entryClash s (emptyRegion r false s) = none) :=
  ⟨run0 0x0421 [2] {}, 0, cmdOf 0x0421 [2], 2, by decide +kernel⟩

theorem test_meets_Microcode_4 : ∃ (s : State) (q : Nat) (c : Cmd), (q < 8)
    ∧ (s.serves q 0x0422 c)
    ∧ (c.payload = 0) :=
  ⟨run0 0x0422 [] {}, 0, cmdOf 0x0422 [], by decide +kernel⟩

theorem test_meets_TimingCommands_1 : ∃ (s : State) (q : Nat) (c : Cmd) (k : Nat) (n : Nat) (d : Nat) (wait : Nat) (note : Nat), (q < 8)
    ∧ (s.serves q 0x0301 c)
    ∧ (c.payload = 3)
    ∧ (k < 16)
    ∧ (n < 64)
    ∧ (wait < 2)
    ∧ (c.w 4 = word (2 ^ 31 * wait + 2 ^ 16 + 2 ^ k))
    ∧ (c.w 5 = word (n * 2 ^ 26 + d / 2 ^ 32))
    ∧ (c.w 6 = word d)
    ∧ (1250 ≤ d)
    ∧ (d ≤ 40000000000)
    ∧ ((s.mirror = true → d % 4 = 0))
    ∧ (s.ready q [uTile k])
    ∧ (KWf resetWord s.shadow0)
    ∧ (periodFault k n (setPeriodS k n d s) = none)
    ∧ ((setPeriodS k n d s).applyShort (decide (wait = 1)) [k] = false)
    ∧ (note = (if (s.governed k).any (fun p => (setPeriodS k n d s).tight p n) then 2 else 0) + (if wait = 0 ∧ s.tileActive k = true then 4 else 0)) :=
  ⟨run0 0x0301 [0x18000, 0xFC000009, 0x502F9000] {}, 0, cmdOf 0x0301 [0x18000, 0xFC000009, 0x502F9000], 15, 63, 40000000000, 0, 0, by decide +kernel⟩

theorem test_meets_TimingCommands_2 : ∃ (s : State) (q : Nat) (c : Cmd) (p : Nat) (n : Nat) (e : Nat) (on : Nat) (d : Nat) (wait : Nat) (note : Nat), (q < 8)
    ∧ (s.serves q 0x0302 c)
    ∧ (c.payload = 4)
    ∧ (p < 256)
    ∧ (n < 64)
    ∧ (e < 8)
    ∧ (on < 2)
    ∧ (wait < 2)
    ∧ (c.w 4 = word (2 ^ 31 * wait + 1))
    ∧ (c.w 5 = word (p * 2 ^ 16 + n * 2 ^ 10 + e * 2 ^ 7 + on))
    ∧ (c.w 6 = word d)
    ∧ (c.w 7 = word (d / 2 ^ 32))
    ∧ (d < 2 ^ 38)
    ∧ ((s.mirror = true → d % 4 = 0))
    ∧ (s.ready q [uTile (p / 16)])
    ∧ (KWf resetWord s.shadow0)
    ∧ ((setEdgeS p n e on d s).beyond p n e = false)
    ∧ ((setEdgeS p n e on d s).applyShort (decide (wait = 1)) [p / 16] = false)
    ∧ (note = (if (setEdgeS p n e on d s).tight p n then 2 else 0) + (if wait = 0 ∧ s.tileActive (p / 16) = true then 4 else 0)) :=
  ⟨run0 0x0302 [0x80000001, 0xFFFF81, 100000, 0] {}, 0, cmdOf 0x0302 [0x80000001, 0xFFFF81, 100000, 0], 255, 63, 7, 1, 100000, 1, 0, by decide +kernel⟩

theorem test_meets_TimingCommands_3 : ∃ (s : State) (q : Nat) (c : Cmd) (p : Nat) (n : Nat) (sh : Nat), (q < 8)
    ∧ (s.serves q 0x0303 c)
    ∧ (c.payload = 1)
    ∧ (p < 256)
    ∧ (n < 64)
    ∧ (sh < 2)
    ∧ (c.w 4 = word (2 ^ 31 * sh + p * 2 ^ 6 + n))
    ∧ (s.ready q [uTile (p / 16)]) :=
  ⟨run0 0x0303 [0x80003FFF] {}, 0, cmdOf 0x0303 [0x80003FFF], 255, 63, 1, by decide +kernel⟩

theorem test_meets_TimingCommands_4 : ∃ (s : State) (q : Nat) (c : Cmd) (k : Nat) (x : Nat), (q < 8)
    ∧ (s.serves q 0x0304 c)
    ∧ (c.payload = 1)
    ∧ (k < 16)
    ∧ (c.w 4 = word (2 ^ k))
    ∧ (s.ready q [uTile k])
    ∧ (s.tileActive k = false)
    ∧ (s.applyShort false [k] = false)
    ∧ (KWf resetWord s.shadow0)
    ∧ (inBank k x = true) :=
  ⟨{ run0 0x0304 [0x8000] {} with shadow0 := [(A.TSET_PERIOD_LO 15 63, 9000)] }, 0, cmdOf 0x0304 [0x8000], 15, A.TSET_PERIOD_LO 15 63, by decide +kernel⟩

theorem test_meets_TimingRegisters_1 : ∃ (s : State) (k : Nat) (x : Nat), (k < 16)
    ∧ (s.link.up = true)
    ∧ (s.flag A.HL_CTRL F.HL_CTRL.WINDOW_RW = true)
    ∧ (s.fabricWait (A.TSET_CTRL k) = none)
    ∧ (s.tileActive k = false)
    ∧ (s.applyShort false [k] = false)
    ∧ (KWf resetWord s.shadow0)
    ∧ (inBank k x = true) :=
  ⟨{ barOpen {} with shadow0 := [(A.TSET_PERIOD_LO 15 63, 9000)] }, 15, A.TSET_PERIOD_LO 15 63, by decide +kernel⟩

theorem test_meets_TimingRegisters_2 : ∃ (s : State) (k : Nat), (k < 16)
    ∧ (s.link.up = true)
    ∧ (s.flag A.HL_CTRL F.HL_CTRL.WINDOW_RW = true)
    ∧ (s.fabricWait (A.TSET_CTRL k) = none)
    ∧ (s.tileActive k = true ∨ s.applyShort false [k] = true) :=
  ⟨barOpen (siteOn 15 1 {}), 15, by decide +kernel⟩

theorem test_meets_TimingRegisters_3 : ∃ (s : State) (k : Nat) (n : Nat) (w : Word), (k < 16)
    ∧ (n < 64)
    ∧ (s.link.up = true)
    ∧ (s.flag A.HL_CTRL F.HL_CTRL.WINDOW_RW = true)
    ∧ (s.fabricWait (A.TSET_PERIOD_LO k n) = none) :=
  ⟨barOpen {}, 15, 63, 9, by decide +kernel⟩

theorem test_meets_TimingRegisters_4 : ∃ (s : State) (p : Nat) (n : Nat) (e : Nat) (w : Word), (p < 256)
    ∧ (n < 64)
    ∧ (e < 8)
    ∧ (s.link.up = true)
    ∧ (s.flag A.HL_CTRL F.HL_CTRL.WINDOW_RW = true)
    ∧ (s.fabricWait (A.TSET_EDGE_LO p n e) = none) :=
  ⟨barOpen {}, 255, 63, 7, 9, by decide +kernel⟩

theorem test_meets_TimingRegisters_5 : ∃ (s : State) (k : Nat) (n : Nat) (d : Nat) (w : Word), (k < 16)
    ∧ (n < 64)
    ∧ (s.link.up = true)
    ∧ (s.flag A.HL_CTRL F.HL_CTRL.WINDOW_RW = true)
    ∧ (s.fabricWait (A.TSET_PERIOD_HI k n) = none)
    ∧ ((s.tile k).latch = some (A.TSET_PERIOD_LO k n, word d))
    ∧ (bits w 3 0 = d / 2 ^ 32)
    ∧ (1250 ≤ d)
    ∧ (d ≤ 40000000000)
    ∧ ((s.mirror = true → d % 4 = 0))
    ∧ (periodFault k n (setPeriodS k n d s) = none) :=
  ⟨{ barOpen {} with tiles := [(15, { latch := some (A.TSET_PERIOD_LO 15 63, 1250) })] }, 15, 63, 1250, 0, by decide +kernel⟩

theorem test_meets_TimingRegisters_6 : ∃ (s : State) (k : Nat) (n : Nat) (d : Nat) (w : Word), (k < 16)
    ∧ (n < 64)
    ∧ (s.link.up = true)
    ∧ (s.flag A.HL_CTRL F.HL_CTRL.WINDOW_RW = true)
    ∧ (s.fabricWait (A.TSET_PERIOD_HI k n) = none)
    ∧ ((s.tile k).latch = some (A.TSET_PERIOD_LO k n, word d))
    ∧ (bits w 3 0 = d / 2 ^ 32)
    ∧ (d < 1250 ∨ 40000000000 < d) :=
  ⟨{ barOpen {} with tiles := [(15, { latch := some (A.TSET_PERIOD_LO 15 63, 1249) })] }, 15, 63, 1249, 0, by decide +kernel⟩

theorem test_meets_TimingRegisters_7 : ∃ (s : State) (p : Nat) (n : Nat) (e : Nat) (d : Nat) (w : Word), (p < 256)
    ∧ (n < 64)
    ∧ (e < 8)
    ∧ (s.link.up = true)
    ∧ (s.flag A.HL_CTRL F.HL_CTRL.WINDOW_RW = true)
    ∧ (s.fabricWait (A.TSET_EDGE_HI p n e) = none)
    ∧ ((s.tile (p / 16)).latch = none)
    ∧ ((s.shd (A.TSET_EDGE_LO p n e)).toNat + 2 ^ 32 * bits w 5 0 = d)
    ∧ ((s.mirror = true → d % 4 = 0))
    ∧ ((setEdgeS p n e (bits w 31 31) d s).beyond p n e = false) :=
  ⟨barOpen {}, 255, 63, 7, 0, 0x80000000, by decide +kernel⟩

theorem test_meets_PinConfiguration_1 : ∃ (s : State) (q : Nat) (c : Cmd) (n : Nat) (m : Nat) (g : Nat) (park : Nat) (en : Nat) (dw : Nat) (sl : Nat), (q < 8)
    ∧ (s.serves q 0x0201 c)
    ∧ (c.payload = 2)
    ∧ (c.w 4 = 1)
    ∧ (c.w 5 = word (n * 2 ^ 24 + m * 2 ^ 21 + g * 2 ^ 18 + park * 2 ^ 16 + en * 2 ^ 15 + dw * 2 ^ 12 + sl * 2 ^ 6))
    ∧ (n < 256)
    ∧ (m < 6)
    ∧ (g < 8)
    ∧ (park < 4)
    ∧ (en < 2)
    ∧ (dw < 4)
    ∧ (0 < sl)
    ∧ (sl ≤ 50)
    ∧ (s.ready q [uPin n])
    ∧ (s.mode n ≠ m)
    ∧ (s.mode n ≠ 7)
    ∧ (s.siteHolds n = none)
    ∧ (s.retired n = false)
    ∧ (s.gangMember n = false)
    ∧ (s.gangLeader n = false)
    ∧ ((m = 1 ∨ m = 4 → s.anyDdr n = false))
    ∧ (s.pinHeld n = none)
    ∧ ((m = 4 → s.pgLive (8 * (n / 64) + g) = false))
    ∧ (s.shortfall [(uPin n, s.changeClaim n m)] = 0) :=
  ⟨run0 0x0201 [1, 0xFF5EBC80] {}, 0, cmdOf 0x0201 [1, 0xFF5EBC80], 255, 2, 7, 2, 1, 3, 50, by decide +kernel⟩

theorem test_meets_PinConfiguration_2 : ∃ (s : State) (q : Nat) (c : Cmd) (n : Nat) (m : Nat) (g : Nat) (park : Nat) (en : Nat) (dw : Nat) (sl : Nat), (q < 8)
    ∧ (s.serves q 0x0201 c)
    ∧ (c.payload = 2)
    ∧ (c.w 4 = 1)
    ∧ (c.w 5 = word (n * 2 ^ 24 + m * 2 ^ 21 + g * 2 ^ 18 + park * 2 ^ 16 + en * 2 ^ 15 + dw * 2 ^ 12 + sl * 2 ^ 6))
    ∧ (n < 256)
    ∧ (m < 6)
    ∧ (g < 8)
    ∧ (park < 4)
    ∧ (en < 2)
    ∧ (dw < 4)
    ∧ (0 < sl)
    ∧ (sl ≤ 50)
    ∧ (s.ready q [uPin n])
    ∧ (s.mode n = m)
    ∧ (s.retired n = false)
    ∧ ((m = 4 ∧ g ≠ s.rd (A.PIN_MODE n) F.PIN_MODE.PG_SEL → s.pgLive (s.engineOf n) = false ∧ s.pgLive (8 * (n / 64) + g) = false)) :=
  ⟨run0 0x0201 [1, 0xFF9EBC80] (setReg (A.PIN_MODE 255) 4 {}), 0, cmdOf 0x0201 [1, 0xFF9EBC80], 255, 4, 7, 2, 1, 3, 50, by decide +kernel⟩

theorem test_meets_PinConfiguration_3 : ∃ (s : State) (n : Nat) (d : Nat), (n < 256)
    ∧ ((s.pin n).partAt = some d)
    ∧ (d + 1600 ≤ s.now) :=
  ⟨wr (A.PIN_STATUS 255) F.PIN_STATUS.DRV_CONN 1 { now := 1600, pins := [(255, { partAt := some 0, modeAt := some 0 })], power := { claims := [(uPin 255, 300)] } }, 255, 0, by decide +kernel⟩

theorem test_meets_PinConfiguration_4 : ∃ (s : State) (n : Nat) (d : Nat), (n < 256)
    ∧ ((s.pin n).modeAt = some d)
    ∧ ((s.pin n).partAt = none)
    ∧ (d + 160000 ≤ s.now) :=
  ⟨wr (A.PIN_STATUS 255) F.PIN_STATUS.MODE_BUSY 1 { now := 160000, pins := [(255, { modeAt := some 0 })] }, 255, 0, by decide +kernel⟩

theorem test_meets_PinConfiguration_5 : ∃ (s : State) (q : Nat) (c : Cmd) (n : Nat) (k : Nat) (em : Nat) (fm : Nat) (wait : Nat), (q < 8)
    ∧ (s.serves q 0x0205 c)
    ∧ (c.payload = 2)
    ∧ (c.w 4 = word (2 ^ 31 * wait + 1))
    ∧ (c.w 5 = word (n * 2 ^ 16 + k * 2 ^ 10 + em * 8 + fm))
    ∧ (n < 256)
    ∧ (k < 64)
    ∧ (em < 2)
    ∧ (fm < 6)
    ∧ (wait < 2)
    ∧ (s.ready q [uTile (n / 16)])
    ∧ (s.mode n ≠ 7)
    ∧ (s.retired n = false)
    ∧ (KWf resetWord s.shadow0)
    ∧ (s.applyShort (decide (wait = 1)) [n / 16] = false)
    ∧ ((fm = 5 → s.mode n ≠ 1 ∧ s.mode n ≠ 4 ∧ (s.gradeB = true → 2500 ≤ s.periodS (s.govTile (n / 16)) k) ∧ s.covers n = true)) :=
  ⟨run0 0x0205 [1, 0xFFFC0D] {}, 0, cmdOf 0x0205 [1, 0xFFFC0D], 255, 63, 1, 5, 0, by decide +kernel⟩

theorem test_meets_PinConfiguration_6 : ∃ (s : State) (q : Nat) (c : Cmd) (n : Nat) (b : Nat) (w : Word) (wait : Nat), (q < 8)
    ∧ (s.serves q 0x0206 c)
    ∧ (c.payload = 3)
    ∧ (c.w 4 = word (2 ^ 31 * wait + 1))
    ∧ (c.w 5 = word (n * 2 ^ 16 + b))
    ∧ (c.w 6 = w)
    ∧ (n < 256)
    ∧ (b < 2 ^ 16)
    ∧ (wait < 2)
    ∧ (s.ready q [uTile (n / 16)])
    ∧ ((∀ (i : Nat), i < 4 → badMap (w.toNat / 256 ^ i % 256) = false))
    ∧ (s.mode n ≠ 7)
    ∧ (s.retired n = false)
    ∧ (s.applyShort (decide (wait = 1)) [n / 16] = false)
    ∧ ((∀ o ∈ s.objects, o.2.bound = true → s.siteOfPin n ≠ some o.2.site))
    ∧ (KWf resetWord s.shadow0) :=
  ⟨run0 0x0206 [0x80000001, 0xFFBEEF, 0x20184401] {}, 0, cmdOf 0x0206 [0x80000001, 0xFFBEEF, 0x20184401], 255, 0xBEEF, 0x20184401, 1, by decide +kernel⟩

theorem test_meets_PinConfiguration_7 : ∃ (s : State) (q : Nat) (c : Cmd) (m : Nat) (b : Nat), (q < 8)
    ∧ (s.serves q 0x0207 c)
    ∧ (c.payload = 1)
    ∧ (c.w 4 = word (m * 256 + b))
    ∧ (m < 32)
    ∧ (b < 256)
    ∧ (s.ready q ((List.range 8).map (fun i => uPin (8 * m + i))))
    ∧ (s.siteHolds (8 * m) = none)
    ∧ ((∀ i ∈ bitList 8 b, s.mode (8 * m + i) ≠ 7 ∧ s.retired (8 * m + i) = false))
    ∧ ((2 ≤ (bitList 8 b).length → (∀ i ∈ bitList 8 b, s.mode (8 * m + i) = 1) ∨ (∀ i ∈ bitList 8 b, s.mode (8 * m + i) = 4))) :=
  ⟨run0 0x0207 [0x1F90] (setReg (A.PIN_MODE 255) 4 (setReg (A.PIN_MODE 252) 4 {})), 0, cmdOf 0x0207 [0x1F90], 31, 0x90, by decide +kernel⟩

theorem test_meets_LevelsAndStrobes_1 : ∃ (s : State) (q : Nat) (c : Cmd) (n : Nat) (i : Nat) (g : Nat) (d : Nat), (q < 8)
    ∧ (s.serves q 0x0202 c)
    ∧ (c.payload = 2)
    ∧ (c.w 4 = 1)
    ∧ (c.w 5 = word (i * 2 ^ 28 + g * 2 ^ 24 + n * 2 ^ 16 + d))
    ∧ (n < 256)
    ∧ (i < 10)
    ∧ (g < 16)
    ∧ (d < 2 ^ 16)
    ∧ (s.ready q [uPin n])
    ∧ (s.mode n ≠ 7)
    ∧ (s.retired n = false)
    ∧ (s.codeOk n i d = true)
    ∧ (s.overCeil n i d = false)
    ∧ ((LevelRec.put ⟨5, i, g, n, d⟩ s).relationFails n i = false) :=
  ⟨run0 0x0202 [1, 0x7FFF9C40] {}, 0, cmdOf 0x0202 [1, 0x7FFF9C40], 255, 7, 15, 40000, by decide +kernel⟩

theorem test_meets_LevelsAndStrobes_2 : ∃ (s : State) (q : Nat) (c : Cmd) (n : Nat) (i : Nat) (g : Nat) (d : Nat), (q < 8)
    ∧ (s.serves q 0x0202 c)
    ∧ (c.payload = 2)
    ∧ (c.w 4 = 0x80000001)
    ∧ (c.w 5 = word (i * 2 ^ 28 + g * 2 ^ 24 + n * 2 ^ 16 + d))
    ∧ (n < 256)
    ∧ (i < 10)
    ∧ (g < 16)
    ∧ (d < 2 ^ 16)
    ∧ (s.ready q [uPin n])
    ∧ (s.mode n ≠ 7)
    ∧ (s.retired n = false)
    ∧ (s.codeOk n i d = true)
    ∧ (s.overCeil n i d = false)
    ∧ ((LevelRec.put ⟨5, i, g, n, d⟩ s).relationFails n i = false)
    ∧ (s.modeBusy n = false)
    ∧ (s.calBusy (uPin n) = false)
    ∧ ((i = 9 → s.rangeBusy n = false))
    ∧ (s.prepared = []) :=
  ⟨run0 0x0202 [0x80000001, 0x7FFF9C40] {}, 0, cmdOf 0x0202 [0x80000001, 0x7FFF9C40], 255, 7, 15, 40000, by decide +kernel⟩

theorem test_meets_LevelsAndStrobes_3 : ∃ (s : State) (q : Nat) (c : Cmd) (d : Nat) (g : Nat), (q < 8)
    ∧ (s.serves q 0x0203 c)
    ∧ (c.payload = 2)
    ∧ (d < 4)
    ∧ (g < 16)
    ∧ (c.w 4 = (if d < 2 then word (2 ^ (16 * d + g)) else 0))
    ∧ (c.w 5 = (if d < 2 then 0 else word (2 ^ (16 * (d - 2) + g))))
    ∧ (s.ready q [uGroup (16 * d + g)])
    ∧ (s.prepared = []) :=
  ⟨run0 0x0203 [0, 0x80000000] {}, 0, cmdOf 0x0203 [0, 0x80000000], 3, 15, by decide +kernel⟩

theorem test_meets_LevelsAndStrobes_4 : ∃ (s : State) (d : Nat) (g : Nat), (d < 4)
    ∧ (g < 16)
    ∧ (s.link.up = true)
    ∧ (s.flag A.HL_CTRL F.HL_CTRL.WINDOW_RW = true)
    ∧ (s.fabricWait (A.LVL_STROBE d) = none)
    ∧ (s.prepared = []) :=
  ⟨barOpen {}, 3, 15, by decide +kernel⟩

theorem test_meets_LevelsAndStrobes_5 : ∃ (s : State) (d : Nat) (g : Nat), (d < 4)
    ∧ (g < 16)
    ∧ (s.link.up = true)
    ∧ (s.flag A.HL_CTRL F.HL_CTRL.WINDOW_RW = true)
    ∧ (s.fabricWait (A.LVL_STROBE d) = none)
    ∧ (s.prepared.contains (d, g) = true) :=
  ⟨wrBoth (A.PIN_LEVEL 255 0) F.PIN_LEVEL.GROUP 15 (barOpen { rings := [(0, { run := some { cmdOf 0x0202 [1, 0x00FF0000] with ack := some {} } })] }), 3, 15, by decide +kernel⟩

theorem test_meets_LevelsAndStrobes_6 : ∃ (s : State) (d : Nat) (g : Nat), (d < 4)
    ∧ (g < 16)
    ∧ (s.rd (A.LVL_STROBE_STAT d) F.LVL_STROBE_STAT.PEND = 2 ^ g)
    ∧ ((∀ (e : Nat), e < 4 → e ≠ d → s.rd (A.LVL_STROBE_STAT e) F.LVL_STROBE_STAT.PEND = 0))
    ∧ (s.prepared = []) :=
  ⟨wr (A.LVL_STROBE 3) F.LVL_STROBE.GO 0x8000 (wr (A.LVL_STROBE_STAT 3) F.LVL_STROBE_STAT.PEND 0x8000 {}), 3, 15, by decide +kernel⟩

theorem test_meets_LevelsAndStrobes_7 : ∃ (s : State) (n : Nat) (i : Nat) (d : Nat) (due : Nat), (s.levels.strobes = [⟨due, [.level n i d]⟩])
    ∧ (due ≤ 1250 * s.now)
    ∧ (n < 256)
    ∧ (i < 10)
    ∧ (d < 2 ^ 16)
    ∧ (s.modeBusy n = false)
    ∧ (s.mode n ≠ 7)
    ∧ (s.retired n = false)
    ∧ ((i = 9 → s.rangeBusy n = false)) :=
  ⟨{ now := 500, levels := { strobes := [⟨512000, [.level 255 9 65535]⟩] } }, 255, 9, 65535, 512000, by decide +kernel⟩

theorem test_meets_LevelsAndStrobes_8 : ∃ (s : State) (q : Nat) (c : Cmd) (n : Nat) (sh : Nat), (q < 8)
    ∧ (s.serves q 0x0204 c)
    ∧ (c.payload = 1)
    ∧ (c.w 4 = word (256 * sh + n))
    ∧ (n < 256)
    ∧ (sh < 2)
    ∧ (s.ready q [uPin n]) :=
  ⟨run0 0x0204 [0x1FF] {}, 0, cmdOf 0x0204 [0x1FF], 255, 1, by decide +kernel⟩

theorem test_meets_LevelsAndStrobes_9 : ∃ (s : State) (q : Nat) (c : Cmd) (m : Nat) (d : Nat), (q < 8)
    ∧ (s.serves q 0x0208 c)
    ∧ (c.payload = 1)
    ∧ (c.w 4 = word (m * 2 ^ 16 + d))
    ∧ (0 < m)
    ∧ (m < 16)
    ∧ (40000 ≤ d)
    ∧ (d ≤ 52500)
    ∧ (s.ready q ((bitList 4 m).map uDie))
    ∧ (s.aboveCeil (bitList 4 m) d = none) :=
  ⟨run0 0x0208 [0x89C40] {}, 0, cmdOf 0x0208 [0x89C40], 8, 40000, by decide +kernel⟩

theorem test_meets_LevelsAndStrobes_10 : ∃ (s : State) (n : Nat) (d : Nat), (n < 256)
    ∧ ((s.pin n).closeAt = some d)
    ∧ (d ≤ 1250 * s.now)
    ∧ (s.pinReady n = true) :=
  ⟨wr (A.PIN_STATUS 255) F.PIN_STATUS.LOADED 127 { now := 1, pins := [(255, { closeAt := some 1250, en := true })] }, 255, 1250, by decide +kernel⟩

theorem test_meets_LevelsAndStrobes_11 : ∃ (s : State) (k : Nat) (d : Nat), (k < 32)
    ∧ ((s.awOf k).closeAt = some d)
    ∧ (d ≤ 1250 * s.now)
    ∧ (s.awReady k = true) :=
  ⟨wr (A.AW_STATUS 31) F.AW_STATUS.LOADED 1 (wr (A.AW_CFG 31) F.AW_CFG.ENABLE 1 { now := 1, aw := [(31, { closeAt := some 1250 })] }), 31, 1250, by decide +kernel⟩

theorem test_meets_CurrentLimits_1 : ∃ (s : State) (n : Nat), (n < 256)
    ∧ (s.pinConn n = true)
    ∧ (s.mode n = 1 ∨ s.mode n = 4 ∨ (s.mode n = 2 ∧ s.force n = 0))
    ∧ ((s.pin n).limitAt = none) :=
  ⟨wr (A.PIN_STATUS 255) F.PIN_STATUS.DRV_CONN 1 (setReg (A.PIN_MODE 255) 2 {}), 255, by decide +kernel⟩

theorem test_meets_CurrentLimits_2 : ∃ (s : State) (k : Nat), (k < 32)
    ∧ (s.flag (A.AW_STATUS k) F.AW_STATUS.DRV_CONN = true)
    ∧ ((s.awOf k).limitAt = none) :=
  ⟨wr (A.AW_STATUS 31) F.AW_STATUS.DRV_CONN 1 {}, 31, by decide +kernel⟩

theorem test_meets_CurrentLimits_3 : ∃ (s : State) (n : Nat), (n < 256)
    ∧ (s.pinConn n = true)
    ∧ (s.mode n = 2)
    ∧ (s.force n = 1) :=
  ⟨wr (A.PMU_CFG 255) F.PMU_CFG.FORCE 1 (wr (A.PIN_STATUS 255) F.PIN_STATUS.DRV_CONN 1 (setReg (A.PIN_MODE 255) 2 {})), 255, by decide +kernel⟩

theorem test_meets_CurrentLimits_4 : ∃ (s : State) (n : Nat), (n < 256) :=
  ⟨wr (A.PMU_STATUS 255) F.PMU_STATUS.CLAMPING 1 (wr (A.PMU_CFG 255) F.PMU_CFG.FORCE 1 (setReg (A.PIN_MODE 255) 2 {})), 255, by decide +kernel⟩

theorem test_meets_CurrentLimits_5 : ∃ (s : State) (k : Nat), (k < 32) :=
  ⟨{}, 31, by decide +kernel⟩

theorem test_meets_CurrentLimits_6 : ∃ (s : State) (n : Nat) (d : Nat) (g : List Nat), (n < 256)
    ∧ (s.mode n = 1 ∨ s.mode n = 4)
    ∧ ((s.pin n).limitAt = some d)
    ∧ (d + 32000 * 10 ^ s.rd (A.PIN_DRV n) F.PIN_DRV.DWELL ≤ s.now)
    ∧ (g = s.gangOf (if s.gangMember n then s.rd (A.PIN_GANG n) F.PIN_GANG.LEADER else n)) :=
  ⟨wr (A.PIN_GANG 252) F.PIN_GANG.MASK 0x90 (wr (A.PIN_STATUS 252) F.PIN_STATUS.GANG_LEADER 1 (wr (A.PIN_GANG 255) F.PIN_GANG.LEADER 252 (wr (A.PIN_STATUS 255) F.PIN_STATUS.GANG_MEMBER 1 (wr (A.PIN_DRV 255) F.PIN_DRV.DWELL 3 (wr (A.PIN_STATUS 255) F.PIN_STATUS.DRV_CONN 1 (setReg (A.PIN_MODE 255) 4 { now := 32000000, pins := [(255, { limitAt := some 0 })] })))))), 255, 0, [252, 255], by decide +kernel⟩

theorem test_meets_CurrentLimits_7 : ∃ (s : State) (n : Nat) (d : Nat), (n < 256)
    ∧ (s.mode n = 2)
    ∧ ((s.pin n).limitAt = some d)
    ∧ (d + 32000 * 10 ^ s.rd (A.PIN_DRV n) F.PIN_DRV.DWELL ≤ s.now) :=
  ⟨wr (A.PIN_DRV 255) F.PIN_DRV.DWELL 3 (wr (A.PIN_STATUS 255) F.PIN_STATUS.DRV_CONN 1 (setReg (A.PIN_MODE 255) 2 { now := 32000000, pins := [(255, { limitAt := some 0 })] })), 255, 0, by decide +kernel⟩

theorem test_meets_CurrentLimits_8 : ∃ (s : State) (k : Nat) (d : Nat), (k < 32)
    ∧ ((s.awOf k).limitAt = some d)
    ∧ (d + 32000 * 10 ^ s.rd (A.AW_CFG k) F.AW_CFG.DWELL ≤ s.now) :=
  ⟨wr (A.AW_CFG 31) F.AW_CFG.DWELL 3 { now := 32000000, aw := [(31, { limitAt := some 0 })] }, 31, 0, by decide +kernel⟩

theorem test_meets_ParametricUnit_1 : ∃ (s : State) (q : Nat) (c : Cmd) (n : Nat) (fo : Nat) (me : Nat) (ra : Nat) (se : Nat) (sv : Nat) (aw : Nat) (sel : Nat) (g : Nat) (d : Nat) (st : Nat) (br : Bool), (q < 8)
    ∧ (s.serves q 0x0210 c)
    ∧ (c.payload = 3)
    ∧ (c.w 4 = word (2 ^ 31 * st + 1))
    ∧ (c.w 5 = word (n * 2 ^ 24 + fo * 2 ^ 22 + me * 2 ^ 21 + ra * 2 ^ 18 + se * 2 ^ 17 + sv * 2 ^ 16 + aw * 2 ^ 15 + sel * 2 ^ 12 + g * 2 ^ 8))
    ∧ (c.w 6 = word d)
    ∧ (n < 256)
    ∧ (fo < 3)
    ∧ (me < 2)
    ∧ (ra < 6)
    ∧ (se < 2)
    ∧ (sv < 2)
    ∧ (aw < 2)
    ∧ (sel < 8)
    ∧ (g < 16)
    ∧ (d < 2 ^ 16)
    ∧ (st < 2)
    ∧ ((fo = 2 → me = 0))
    ∧ ((sv = 1 ∨ aw = 1 → fo = 0))
    ∧ (pmufOk fo d = true)
    ∧ ((fo = 0 → d ≤ s.rd (A.LVL_HV_CEIL (n / 64)) F.LVL_HV_CEIL.CEIL))
    ∧ (s.mode n ≠ 7)
    ∧ (s.retired n = false)
    ∧ (s.ready q [uPin n])
    ∧ ((s.pin n).partAt = none)
    ∧ (s.prepared = [])
    ∧ ((s.mode n = 2 → s.shortfall [(uPin n, max (s.claimOf (uPin n)) (pmuClaim fo ra))] = 0))
    ∧ (br = (decide (s.mode n = 2) && (s.force n != fo || s.rd (A.PMU_CFG n) F.PMU_CFG.RANGE != ra
      || s.rd (A.PMU_CFG n) F.PMU_CFG.AWSRC != aw || s.rd (A.PMU_CFG n) F.PMU_CFG.AW_SEL != sel))) :=
  ⟨run0 0x0210 [0x80000001, 0xFF35FF00, 0] (setReg (A.PIN_MODE 255) 2 {}), 0, cmdOf 0x0210 [0x80000001, 0xFF35FF00, 0], 255, 0, 1, 5, 0, 1, 1, 7, 15, 0, 1, true, by decide +kernel⟩

theorem test_meets_ParametricUnit_2 : ∃ (s : State) (n : Nat) (d : Nat), (n < 256)
    ∧ ((s.pin n).breakAt = some d)
    ∧ ((s.pin n).partAt = none)
    ∧ (d + 1600 ≤ s.now) :=
  ⟨wr (A.PIN_STATUS 255) F.PIN_STATUS.LOADED 1023 (setReg (A.PIN_MODE 255) 2 { now := 1600, pins := [(255, { breakAt := some 0, rangeAt := some 0, zeroed := true })] }), 255, 0, by decide +kernel⟩

theorem test_meets_ParametricUnit_3 : ∃ (s : State) (n : Nat) (d : Nat), (n < 256)
    ∧ ((s.pin n).rangeAt = some d)
    ∧ ((s.pin n).breakAt = none)
    ∧ (d + 64000 ≤ s.now)
    ∧ (s.levels.late = []) :=
  ⟨wr (A.PMU_STATUS 255) F.PMU_STATUS.RANGE_BUSY 1 { now := 64000, pins := [(255, { rangeAt := some 0 })] }, 255, 0, by decide +kernel⟩

theorem test_meets_ParametricUnit_4 : ∃ (s : State) (n : Nat) (d : Nat) (e : Nat) (g : Nat), (n < 256)
    ∧ (e < 4)
    ∧ (g < 16)
    ∧ ((s.pin n).rangeAt = some d)
    ∧ ((s.pin n).breakAt = none)
    ∧ (d + 64000 ≤ s.now)
    ∧ (s.levels.late = [([uPin n], [(e, g)])])
    ∧ (s.prepared = []) :=
  ⟨wr (A.PMU_STATUS 255) F.PMU_STATUS.RANGE_BUSY 1 { now := 64000, pins := [(255, { rangeAt := some 0 })], levels := { late := [([uPin 255], [(3, 15)])] } }, 255, 0, 3, 15, by decide +kernel⟩

theorem test_meets_ParametricUnit_5 : ∃ (s : State) (k : Nat) (d : Nat), (k < 32)
    ∧ ((s.awOf k).offAt = some d)
    ∧ (d + 1600 ≤ s.now)
    ∧ ((s.awOf k).breakAt = none)
    ∧ (s.awState k = 0) :=
  ⟨{ now := 1600, aw := [(31, { offAt := some 0 })], power := { claims := [(uAw 31, 390)] } }, 31, 0, by decide +kernel⟩

theorem test_meets_ParametricUnit_6 : ∃ (s : State) (k : Nat) (d : Nat), (k < 32)
    ∧ ((s.awOf k).breakAt = some d)
    ∧ (d + 1600 ≤ s.now)
    ∧ ((s.awOf k).offAt = none)
    ∧ (s.awState k ≠ 0) :=
  ⟨wr (A.AW_STATUS 31) F.AW_STATUS.STATE 2 { now := 1600, aw := [(31, { breakAt := some 0, rangeAt := some 0 })], power := { claims := [(uAw 31, 3450)] } }, 31, 0, by decide +kernel⟩

theorem test_meets_ParametricUnit_7 : ∃ (s : State) (k : Nat) (d : Nat), (k < 32)
    ∧ ((s.awOf k).rangeAt = some d)
    ∧ ((s.awOf k).breakAt = none)
    ∧ (d + 64000 ≤ s.now)
    ∧ (s.levels.late = []) :=
  ⟨{ now := 64000, aw := [(31, { rangeAt := some 0 })] }, 31, 0, by decide +kernel⟩

theorem test_meets_ParametricUnit_8 : ∃ (s : State) (n : Nat), (n < 256)
    ∧ (s.mode n = 2)
    ∧ (s.flag (A.PMU_CFG n) F.PMU_CFG.SENSE = true)
    ∧ (s.pinConn n = true) :=
  ⟨wr (A.PMU_CFG 255) F.PMU_CFG.SENSE 1 (wr (A.PIN_STATUS 255) F.PIN_STATUS.DRV_CONN 1 (setReg (A.PIN_MODE 255) 2 {})), 255, by decide +kernel⟩

theorem test_meets_ParametricUnit_9 : ∃ (s : State) (k : Nat), (k < 32)
    ∧ (s.flag (A.AW_CFG k) F.AW_CFG.SENSE = true)
    ∧ (s.flag (A.AW_STATUS k) F.AW_STATUS.DRV_CONN = true) :=
  ⟨wr (A.AW_CFG 31) F.AW_CFG.SENSE 1 (wr (A.AW_STATUS 31) F.AW_STATUS.DRV_CONN 1 {}), 31, by decide +kernel⟩

theorem test_meets_ParametricUnit_10 : ∃ (s : State) (n : Nat) (m : Int), (n < 256)
    ∧ (s.flag (A.PMU_CFG n) F.PMU_CFG.SERVO = true)
    ∧ (s.force n = 0)
    ∧ (s.mode n = 2)
    ∧ (s.pinConn n = true)
    ∧ ((s.pin n).servoAt + 3200 ≤ s.now) :=
  ⟨wr (A.PMU_CFG 255) F.PMU_CFG.SERVO 1 (wr (A.PIN_STATUS 255) F.PIN_STATUS.DRV_CONN 1 (setReg (A.PIN_MODE 255) 2 { now := 3200 })), 255, 900000, by decide +kernel⟩

theorem test_meets_ParametricUnit_11 : ∃ (s : State) (q : Nat) (c : Cmd) (n : Nat) (num : Nat) (dly : Nat), (q < 8)
    ∧ (s.serves q 0x0211 c)
    ∧ (c.payload = 9)
    ∧ (c.w 4 = word (num * 2 ^ 16 + dly))
    ∧ (0 < num)
    ∧ (num ≤ 8192)
    ∧ (dly ≤ 1000)
    ∧ (n < 256)
    ∧ (maskPins c = [n])
    ∧ (s.mode n = 2)
    ∧ (s.retired n = false)
    ∧ (s.ready q [uPin n]) :=
  ⟨run0 0x0211 [0x200003E8, 0, 0, 0, 0, 0, 0, 0, 0x80000000] (setReg (A.PIN_MODE 255) 2 {}), 0, cmdOf 0x0211 [0x200003E8, 0, 0, 0, 0, 0, 0, 0, 0x80000000], 255, 8192, 1000, by decide +kernel⟩

theorem test_meets_ParametricUnit_12 : ∃ (s : State) (q : Nat) (c : Cmd) (x : PmuSample) (num : Nat), (q < 8)
    ∧ ((s.ring q).run = some c)
    ∧ (c.reply = none)
    ∧ (c.opcode = 0x0211)
    ∧ (c.stage = 1)
    ∧ (c.due ≤ 1250 * s.now)
    ∧ (bits (c.w 4) 31 16 = num)
    ∧ (0 < num)
    ∧ (maskPins c = [x.pin])
    ∧ (c.data = [0, 0, 0, 0]) :=
  ⟨{ rings := [(0, { run := some { cmdOf 0x0211 [0x00020000, 0, 0, 0, 0, 0, 0, 0, 0x80000000] with stage := 1, data := [0, 0, 0, 0] } })] }, 0, { cmdOf 0x0211 [0x00020000, 0, 0, 0, 0, 0, 0, 0, 0x80000000] with stage := 1, data := [0, 0, 0, 0] }, ⟨255, 1000, false, true⟩, 2, by decide +kernel⟩

theorem test_meets_ParametricUnit_13 : ∃ (s : State) (q : Nat) (c : Cmd) (n : Nat) (num : Nat) (stamp : Nat) (sum : Int) (fl : Nat), (q < 8)
    ∧ ((s.ring q).run = some c)
    ∧ (c.reply = none)
    ∧ (c.opcode = 0x0211)
    ∧ (c.stage = 1)
    ∧ (c.orphan = false)
    ∧ (c.late = [])
    ∧ (bits (c.w 4) 31 16 = num)
    ∧ (maskPins c = [n])
    ∧ (c.data = [Int.ofNat num, Int.ofNat stamp, sum, Int.ofNat fl])
    ∧ (fl < 128)
    ∧ (n < 256) :=
  ⟨{ rings := [(0, { run := some { cmdOf 0x0211 [0x00020000, 0, 0, 0, 0, 0, 0, 0, 0x80000000] with stage := 1, data := [2, 50, 2001, 5] } })] }, 0, { cmdOf 0x0211 [0x00020000, 0, 0, 0, 0, 0, 0, 0, 0x80000000] with stage := 1, data := [2, 50, 2001, 5] }, 255, 2, 50, 2001, 5, by decide +kernel⟩

theorem test_meets_CompareCommands_1 : ∃ (s : State) (q : Nat) (c : Cmd) (n : Nat) (only : Nat) (ref : Nat) (win : Nat) (mk : Nat), (q < 8)
    ∧ (s.serves q 0x0430 c)
    ∧ (c.payload = 2)
    ∧ (c.w 4 = 1)
    ∧ (c.w 5 = word (only * 2 ^ 31 + n * 2 ^ 16 + ref * 4 + win * 2 + mk))
    ∧ (n < 256)
    ∧ (only < 2)
    ∧ (ref < 2)
    ∧ (win < 2)
    ∧ (mk < 2)
    ∧ (s.ready q [uTile (n / 16)])
    ∧ ((only = 0 → s.retired n = false ∧ s.pinBusy n = false)) :=
  ⟨run0 0x0430 [1, 0x00FF0007] {}, 0, cmdOf 0x0430 [1, 0x00FF0007], 255, 0, 1, 1, 1, by decide +kernel⟩

theorem test_meets_CompareCommands_2 : ∃ (s : State) (q : Nat) (c : Cmd) (k : Nat) (x : Nat) (pins : Nat) (wait : Nat), (q < 8)
    ∧ (s.serves q 0x0431 c)
    ∧ (c.payload = 2)
    ∧ (c.w 4 = word (2 ^ 31 * wait + 1))
    ∧ (c.w 5 = word (x * 2 ^ 24 + k * 2 ^ 16 + pins))
    ∧ (0 < x)
    ∧ (x < 16)
    ∧ (k < 16)
    ∧ (pins < 2 ^ 16)
    ∧ (wait < 2)
    ∧ (s.ready q [uTile k])
    ∧ (s.applyShort (decide (wait = 1)) [k] = false)
    ∧ (KWf resetWord s.shadow0) :=
  ⟨run0 0x0431 [1, 0x0F0F8001] {}, 0, cmdOf 0x0431 [1, 0x0F0F8001], 15, 15, 0x8001, 0, by decide +kernel⟩

theorem test_meets_CompareCommands_3 : ∃ (s : State) (q : Nat) (c : Cmd) (i : Nat) (m : Nat) (p : Nat), (q < 8)
    ∧ (s.serves q 0x0432 c)
    ∧ (c.payload = 1)
    ∧ (c.w 4 = word (i * 256 + m * 16 + p * 8))
    ∧ (i < 16)
    ∧ (m < 3)
    ∧ (p < 2)
    ∧ (s.ready q ((s.tilesOf i).map uTile))
    ∧ (s.reserved i = false) :=
  ⟨run0 0x0432 [0xF28] (siteOn 15 5 {}), 0, cmdOf 0x0432 [0xF28], 15, 2, 1, by decide +kernel⟩

theorem test_meets_CompareCommands_4 : ∃ (s : State) (q : Nat) (c : Cmd) (k : Nat) (n : Nat) (first : Nat) (m : Nat) (l : List (List Word)), (q < 8)
    ∧ (s.serves q 0x0B10 c)
    ∧ (c.payload = 2)
    ∧ (c.w 4 = word k)
    ∧ (k < 16)
    ∧ (c.w 5 = word (n * 2 ^ 16 + first))
    ∧ (0 < n)
    ∧ (n ≤ 8191)
    ∧ (first < 2 ^ 16)
    ∧ (c.data = [Int.ofNat m])
    ∧ (l = ((s.tile k).store.take m).drop first)
    ∧ (s.ready q [uTile k]) :=
  ⟨{ rings := [(0, { run := some { cmdOf 0x0B10 [15, 0x1FFF0001] with data := [2] } })], tiles := [(15, { store := [[1, 2], [3, 4], [5, 6]] })] }, 0, { cmdOf 0x0B10 [15, 0x1FFF0001] with data := [2] }, 15, 8191, 1, 2, [[3, 4]], by decide +kernel⟩

theorem test_meets_CompareCommands_5 : ∃ (s : State) (q : Nat) (c : Cmd) (k : Nat) (first : Nat) (m : Nat) (r : List Word), (q < 8)
    ∧ (s.serves q 0x0B10 c)
    ∧ (c.payload = 2)
    ∧ (c.w 4 = word k)
    ∧ (k < 16)
    ∧ (c.w 5 = word (2 ^ 16 + first))
    ∧ (first < 2 ^ 16)
    ∧ (c.data = [Int.ofNat m])
    ∧ (((s.tile k).store.take m)[first]? = some r)
    ∧ (s.ready q [uTile k]) :=
  ⟨{ rings := [(0, { run := some { cmdOf 0x0B10 [15, 0x00010001] with data := [2] } })], tiles := [(15, { store := [[1, 2], [3, 4], [5, 6]] })] }, 0, { cmdOf 0x0B10 [15, 0x00010001] with data := [2] }, 15, 1, 2, [3, 4], by decide +kernel⟩

theorem test_meets_CompareCommands_6 : ∃ (s : State) (q : Nat) (c : Cmd) (i : Nat), (q < 8)
    ∧ (s.serves q 0x0B11 c)
    ∧ (c.payload = 1)
    ∧ (c.w 4 = word i)
    ∧ (i < 16)
    ∧ (s.formed i = true) :=
  ⟨run0 0x0B11 [15] (siteOn 15 1 {}), 0, cmdOf 0x0B11 [15], 15, by decide +kernel⟩

theorem test_meets_SourceChannels_1 : ∃ (s : State) (q : Nat) (c : Cmd) (k : Nat) (ra : Nat) (il : Nat) (se : Nat) (dw : Nat) (g : Nat) (d : Nat), (q < 8)
    ∧ (s.serves q 0x0501 c)
    ∧ (c.payload = 2)
    ∧ (c.w 4 = 1)
    ∧ (c.w 5 = word (k * 2 ^ 27 + 2 ^ 26 + ra * 2 ^ 25 + il * 2 ^ 24 + se * 2 ^ 23 + dw * 2 ^ 20 + g * 2 ^ 16 + d))
    ∧ (k < 32)
    ∧ (ra < 2)
    ∧ (il < 2)
    ∧ (se < 2)
    ∧ (dw < 4)
    ∧ (g < 16)
    ∧ (d < 2 ^ 16)
    ∧ (awCodeOk d = true)
    ∧ (s.ready q [uAw k])
    ∧ (s.awState k = 0)
    ∧ (s.shortfall [(uAw k, max (if il = 0 then 3450 else 390) (s.claimOf (uAw k)))] = 0) :=
  ⟨run0 0x0501 [1, 0xFFBF8300] {}, 0, cmdOf 0x0501 [1, 0xFFBF8300], 31, 1, 1, 1, 3, 15, 0x8300, by decide +kernel⟩

theorem test_meets_SourceChannels_2 : ∃ (s : State) (q : Nat) (c : Cmd) (k : Nat) (w : Word), (q < 8)
    ∧ (s.serves q 0x0501 c)
    ∧ (c.payload = 2)
    ∧ (c.w 4 = 1)
    ∧ (c.w 5 = w)
    ∧ (bits w 31 27 = k)
    ∧ (bits w 26 26 = 0)
    ∧ (bits w 22 20 < 4)
    ∧ (awCodeOk (bits w 15 0) = true)
    ∧ (s.ready q [uAw k])
    ∧ (s.awState k ≠ 0)
    ∧ ((s.awState k = 2 ∨ s.awState k = 3 → s.rd (A.AW_CFG k) F.AW_CFG.RANGE = bits w 25 25 ∧ s.rd (A.AW_CFG k) F.AW_CFG.ILIM = bits w 24 24)) :=
  ⟨run0 0x0501 [1, 0xF8000000] (awOn 3 {} {}), 0, cmdOf 0x0501 [1, 0xF8000000], 31, 0xF8000000, by decide +kernel⟩

theorem test_meets_SourceChannels_3 : ∃ (s : State) (q : Nat) (c : Cmd) (k : Nat) (ra : Nat) (il : Nat) (se : Nat) (dw : Nat) (g : Nat) (d : Nat) (br : Bool), (q < 8)
    ∧ (s.serves q 0x0501 c)
    ∧ (c.payload = 2)
    ∧ (c.w 4 = 1)
    ∧ (c.w 5 = word (k * 2 ^ 27 + 2 ^ 26 + ra * 2 ^ 25 + il * 2 ^ 24 + se * 2 ^ 23 + dw * 2 ^ 20 + g * 2 ^ 16 + d))
    ∧ (k < 32)
    ∧ (ra < 2)
    ∧ (il < 2)
    ∧ (se < 2)
    ∧ (dw < 4)
    ∧ (g < 16)
    ∧ (d < 2 ^ 16)
    ∧ (awCodeOk d = true)
    ∧ (s.ready q [uAw k])
    ∧ (s.awState k ≠ 0)
    ∧ (br = (s.rd (A.AW_CFG k) F.AW_CFG.RANGE != ra || s.rd (A.AW_CFG k) F.AW_CFG.ILIM != il))
    ∧ ((br = true → s.awState k = 1 ∨ s.awState k = 4))
    ∧ (s.shortfall [(uAw k, max (if il = 0 then 3450 else 390) (s.claimOf (uAw k)))] = 0) :=
  ⟨run0 0x0501 [1, 0xFFBF8300] (awOn 4 {} {}), 0, cmdOf 0x0501 [1, 0xFFBF8300], 31, 1, 1, 1, 3, 15, 0x8300, true, by decide +kernel⟩

theorem test_meets_SourceChannels_4 : ∃ (s : State) (q : Nat) (c : Cmd) (k : Nat) (g : Nat) (n : Nat) (l : List Word), (q < 8)
    ∧ (s.serves q 0x0502 c)
    ∧ (c.payload = 5)
    ∧ (c.w 4 = word (k * 1024 + g))
    ∧ (k < 32)
    ∧ (g < 1024)
    ∧ ((c.w 6).toNat = n)
    ∧ (0 < n)
    ∧ (n ≤ 2097152)
    ∧ (bits (c.w 7) 1 0 = 0)
    ∧ (s.ready q [uAw k])
    ∧ (s.awState k ≠ 2)
    ∧ (s.awState k ≠ 3)
    ∧ (s.awTaken (k / 8) (some (k, g)) + (n + 63) / 64 * 64 ≤ 2097152)
    ∧ (s.dmaWaits = false)
    ∧ (n ≤ 2 * l.length)
    ∧ ((∀ d ∈ unpackSamples l n, awCodeOk d = true)) :=
  ⟨run0 0x0502 [0x7FFF, 0, 3, 0, 0] {}, 0, cmdOf 0x0502 [0x7FFF, 0, 3, 0, 0], 31, 1023, 3, [0x83000001, 0x7D00], by decide +kernel⟩

theorem test_meets_SourceChannels_5 : ∃ (s : State) (q : Nat) (c : Cmd) (k : Nat) (g : Nat) (n : Nat), (q < 8)
    ∧ (s.serves q 0x0502 c)
    ∧ (c.payload = 5)
    ∧ (c.w 4 = word (k * 1024 + g))
    ∧ (k < 32)
    ∧ (g < 1024)
    ∧ ((c.w 6).toNat = n)
    ∧ (0 < n)
    ∧ (n ≤ 2097152)
    ∧ (bits (c.w 7) 1 0 = 0)
    ∧ (s.ready q [uAw k])
    ∧ (s.awState k ≠ 2)
    ∧ (s.awState k ≠ 3)
    ∧ (s.awTaken (k / 8) (some (k, g)) + (n + 63) / 64 * 64 ≤ 2097152)
    ∧ (s.dmaWaits = false) :=
  ⟨run0 0x0502 [0x7FFF, 0, 3, 0, 0] {}, 0, cmdOf 0x0502 [0x7FFF, 0, 3, 0, 0], 31, 1023, 3, by decide +kernel⟩

theorem test_meets_SourceChannels_6 : ∃ (s : State) (q : Nat) (c : Cmd) (k : Nat) (i : Nat) (n : Nat), (q < 8)
    ∧ (s.serves q 0x0503 c)
    ∧ (c.payload = 2 + 2 * n)
    ∧ (c.w 4 = word (k * 2 ^ 27 + i))
    ∧ (k < 32)
    ∧ (i + n ≤ 4096)
    ∧ (0 < n)
    ∧ (c.w 5 = word n)
    ∧ ((∀ (m : Nat), m < n → bits (c.w (6 + 2 * m)) 28 28 = 0 ∧ bits (c.w (6 + 2 * m)) 25 24 = 0 ∧ bits (c.w (6 + 2 * m)) 11 10 = 0
      ∧ (c.w (7 + 2 * m) = 0 → bit (c.w (6 + 2 * m)) 29 = true)))
    ∧ (s.ready q [uAw k])
    ∧ (s.awState k ≠ 2)
    ∧ (s.awState k ≠ 3) :=
  ⟨run0 0x0503 [0xF8000FFE, 2, 0x20000000, 0, 0x08000000, 3] {}, 0, cmdOf 0x0503 [0xF8000FFE, 2, 0x20000000, 0, 0x08000000, 3], 31, 4094, 2, by decide +kernel⟩

theorem test_meets_SourceChannels_7 : ∃ (s : State) (q : Nat) (c : Cmd) (k : Nat) (i : Nat), (q < 8)
    ∧ (s.serves q 0x0504 c)
    ∧ (c.payload = 2)
    ∧ (c.w 4 = word (2 ^ k))
    ∧ (k < 32)
    ∧ (c.w 5 = word i)
    ∧ (i < 4096)
    ∧ (s.badStep k 4096 i = none)
    ∧ (s.ready q [uAw k])
    ∧ (s.awState k = 1 ∨ s.awState k = 4) :=
  ⟨run0 0x0504 [0x80000000, 0] (awOn 4 { steps := [(0, (0x20000000, 1))], stopAt := [512000] } {}), 0, cmdOf 0x0504 [0x80000000, 0], 31, 0, by decide +kernel⟩

theorem test_meets_SourceChannels_8 : ∃ (s : State) (k : Nat) (i : Nat) (d : Nat), (k < 32)
    ∧ (i < 4096)
    ∧ ((s.awOf k).start = some (d, i))
    ∧ (d ≤ 1250 * s.now)
    ∧ (s.awOwes k d = false)
    ∧ ((∀ (j : Nat), j < 32 → j ≠ k → (s.awOf j).start = none))
    ∧ (bit (s.awStep k i).1 31 = false) :=
  ⟨{ awOn 1 { steps := [(0, (0x60000000, 1))], start := some (512000, 0) } {} with now := 500 }, 31, 0, 512000, by decide +kernel⟩

theorem test_meets_SourceChannels_9 : ∃ (s : State) (k : Nat) (i : Nat) (d : Nat), (k < 32)
    ∧ (i < 4096)
    ∧ ((s.awOf k).start = some (d, i))
    ∧ (d ≤ 1250 * s.now)
    ∧ (s.awOwes k d = false)
    ∧ ((∀ (j : Nat), j < 32 → j ≠ k → (s.awOf j).start = none))
    ∧ (bit (s.awStep k i).1 31 = true)
    ∧ (s.rd (A.AW_STATUS k) F.AW_STATUS.TRIG_PEND = 0) :=
  ⟨{ awOn 1 { steps := [(0, (0xA0000000, 1))], start := some (512000, 0) } {} with now := 500 }, 31, 0, 512000, by decide +kernel⟩

theorem test_meets_SourceChannels_10 : ∃ (s : State) (q : Nat) (c : Cmd) (k : Nat), (q < 8)
    ∧ (s.serves q 0x0505 c)
    ∧ (c.payload = 1)
    ∧ (c.w 4 = word (2 ^ k))
    ∧ (k < 32)
    ∧ (s.ready q [uAw k])
    ∧ (s.awState k ≠ 0) :=
  ⟨run0 0x0505 [0x80000000] (awOn 4 {} {}), 0, cmdOf 0x0505 [0x80000000], 31, by decide +kernel⟩

theorem test_meets_SourceChannels_11 : ∃ (s : State) (k : Nat) (d : Nat) (r : List Nat), (k < 32)
    ∧ ((s.awOf k).stopAt = d :: r)
    ∧ (d ≤ 1250 * s.now)
    ∧ (s.awOwes k d = false)
    ∧ ((s.awOf k).start = none)
    ∧ ((∀ (j : Nat), j < 32 → j ≠ k → (s.awOf j).stopAt = []))
    ∧ (s.awState k ≠ 0)
    ∧ ((s.awState k = 3 → (s.awOf k).boundary ≠ d)) :=
  ⟨{ awOn 3 { stopAt := [512000], boundary := 600000 } {} with now := 500 }, 31, 512000, [], by decide +kernel⟩

theorem test_meets_SourceChannels_12 : ∃ (s : State) (q : Nat) (c : Cmd) (k : Nat) (i : Nat), (q < 8)
    ∧ (s.serves q 0x0506 c)
    ∧ (c.payload = 1)
    ∧ (c.w 4 = word (k * 2 ^ 27 + i))
    ∧ (k < 32)
    ∧ (i < 4096)
    ∧ (s.badStep k 4096 i = none)
    ∧ (s.ready q [uAw k])
    ∧ (s.awState k = 2 ∨ s.awState k = 3) :=
  ⟨run0 0x0506 [0xF8000000] (awOn 3 { steps := [(0, (0x20000000, 1))], jump := some (3, 4) } {}), 0, cmdOf 0x0506 [0xF8000000], 31, 0, by decide +kernel⟩

theorem test_meets_SourceChannels_13 : ∃ (s : State) (k : Nat) (i : Nat) (d : Nat) (e : Nat), (k < 32)
    ∧ (i < 4096)
    ∧ ((s.awOf k).jump = some (d, i))
    ∧ (d ≤ 1250 * s.now)
    ∧ (s.awOwes k d = false)
    ∧ (s.awState k = 2)
    ∧ (bit (s.awStep k i).1 31 = false)
    ∧ (e = max d (s.awOf k).began) :=
  ⟨{ awOn 2 { jump := some (512000, 0), began := 513000 } {} with now := 500 }, 31, 0, 512000, 513000, by decide +kernel⟩

theorem test_meets_SourceChannels_14 : ∃ (s : State) (k : Nat) (i : Nat) (d : Nat), (k < 32)
    ∧ ((s.awOf k).jump = some (d, i))
    ∧ (d ≤ 1250 * s.now)
    ∧ (s.awOwes k d = false)
    ∧ (s.awState k = 3)
    ∧ (d ≤ (s.awOf k).boundary)
    ∧ ((s.awOf k).boundary < d + 128000) :=
  ⟨{ awOn 3 { jump := some (512000, 0), boundary := 513000 } {} with now := 500 }, 31, 0, 512000, by decide +kernel⟩

theorem test_meets_SourceChannels_15 : ∃ (s : State) (k : Nat) (x : Nat) (e : Arrival) (w : Word), (k < 32)
    ∧ ((s.awOf k).trigs = [e])
    ∧ (e.due ≤ 1250 * s.now)
    ∧ (s.awOwes k e.due = false)
    ∧ (s.awState k = 2)
    ∧ (x = s.firstUpdate k e.due)
    ∧ (w = (s.awStep k (s.rd (A.AW_POS k) F.AW_POS.STEP)).1) :=
  ⟨{ awOn 2 { trigs := [⟨512000, 6, { coarse := 0 }⟩], steps := [(0, (0xC0000000, 1))] } {} with now := 500 }, 31, 512000, ⟨512000, 6, { coarse := 0 }⟩, 0xC0000000, by decide +kernel⟩

theorem test_meets_SourceChannels_16 : ∃ (s : State) (k : Nat) (e : Arrival), (k < 32)
    ∧ ((s.awOf k).trigs = [e])
    ∧ (e.due ≤ 1250 * s.now)
    ∧ (s.awOwes k e.due = false)
    ∧ (s.awState k = 3)
    ∧ ((s.awOf k).boundary ≠ e.due) :=
  ⟨wr (A.AW_STATUS 31) F.AW_STATUS.TRIG_PEND 1 { awOn 3 { trigs := [⟨512000, 1, { coarse := 0 }⟩], boundary := 513000 } {} with now := 500 }, 31, ⟨512000, 1, { coarse := 0 }⟩, by decide +kernel⟩

theorem test_meets_SourceChannels_17 : ∃ (s : State) (k : Nat) (a : Word) (b : Word), (k < 32)
    ∧ (s.awState k = 3)
    ∧ ((s.awOf k).boundary ≤ 1250 * s.now)
    ∧ (s.awOwes k (s.awOf k).boundary = false)
    ∧ ((s.awOf k).boundary ∉ (s.awOf k).stopAt)
    ∧ ((s.awOf k).jump = none)
    ∧ (s.awStep k (s.rd (A.AW_POS k) F.AW_POS.STEP) = (a, b))
    ∧ (s.rd (A.AW_REP k) F.AW_REP.DONE + 1 < 2 ^ 32)
    ∧ (bit a 29 = true ∨ s.rd (A.AW_REP k) F.AW_REP.DONE + 1 < b.toNat) :=
  ⟨{ awOn 3 { steps := [(0, (0, 2))], boundary := 512000 } {} with now := 500 }, 31, 0, 2, by decide +kernel⟩

theorem test_meets_SourceChannels_18 : ∃ (s : State) (k : Nat) (i : Nat) (a : Word) (b : Word), (k < 32)
    ∧ (s.awState k = 3)
    ∧ ((s.awOf k).boundary ≤ 1250 * s.now)
    ∧ (s.awOwes k (s.awOf k).boundary = false)
    ∧ ((s.awOf k).boundary ∉ (s.awOf k).stopAt)
    ∧ ((s.awOf k).jump = none)
    ∧ (s.awStep k (s.rd (A.AW_POS k) F.AW_POS.STEP) = (a, b))
    ∧ (s.rd (A.AW_REP k) F.AW_REP.DONE + 1 < 2 ^ 32)
    ∧ (bit a 29 = false)
    ∧ (b.toNat ≤ s.rd (A.AW_REP k) F.AW_REP.DONE + 1)
    ∧ (bits a 27 26 < 2)
    ∧ (i = (if bits a 27 26 = 0 then s.rd (A.AW_POS k) F.AW_POS.STEP + 1 else bits a 23 12))
    ∧ (i < 4096)
    ∧ (bit (s.awStep k i).1 31 = false) :=
  ⟨{ awOn 3 { steps := [(0, (0x04FFF000, 1)), (4095, (0x40000000, 1))], boundary := 512000 } {} with now := 500 }, 31, 4095, 0x04FFF000, 1, by decide +kernel⟩

theorem test_meets_SourceChannels_19 : ∃ (s : State) (k : Nat) (a : Word) (b : Word), (k < 32)
    ∧ (s.awState k = 3)
    ∧ ((s.awOf k).boundary ≤ 1250 * s.now)
    ∧ (s.awOwes k (s.awOf k).boundary = false)
    ∧ ((s.awOf k).boundary ∉ (s.awOf k).stopAt)
    ∧ ((s.awOf k).jump = none)
    ∧ (s.awStep k (s.rd (A.AW_POS k) F.AW_POS.STEP) = (a, b))
    ∧ (s.rd (A.AW_REP k) F.AW_REP.DONE + 1 < 2 ^ 32)
    ∧ (bit a 29 = false)
    ∧ (b.toNat ≤ s.rd (A.AW_REP k) F.AW_REP.DONE + 1)
    ∧ (2 ≤ bits a 27 26) :=
  ⟨{ awOn 3 { steps := [(0, (0x08000000, 1))], boundary := 512000 } {} with now := 500 }, 31, 0x08000000, 1, by decide +kernel⟩

theorem test_meets_SourceChannels_20 : ∃ (s : State) (k : Nat), (k < 32)
    ∧ (s.awState k = 3)
    ∧ ((s.awOf k).boundary ≤ 1250 * s.now)
    ∧ (s.awOwes k (s.awOf k).boundary = false)
    ∧ ((s.awOf k).boundary ∈ (s.awOf k).stopAt) :=
  ⟨{ awOn 3 { stopAt := [512000], boundary := 512000 } {} with now := 500 }, 31, by decide +kernel⟩

theorem test_meets_SourceChannels_21 : ∃ (s : State) (k : Nat) (p : Nat) (i : Nat), (k < 32)
    ∧ (i < 4096)
    ∧ (s.awState k = 3)
    ∧ ((s.awOf k).boundary ≤ 1250 * s.now)
    ∧ (s.awOwes k (s.awOf k).boundary = false)
    ∧ ((s.awOf k).boundary ∉ (s.awOf k).stopAt)
    ∧ ((s.awOf k).jump = some (p, i))
    ∧ (p + 128000 ≤ (s.awOf k).boundary)
    ∧ (bit (s.awStep k i).1 31 = false) :=
  ⟨{ awOn 3 { jump := some (384000, 9), boundary := 512000 } {} with now := 500 }, 31, 384000, 9, by decide +kernel⟩

theorem test_meets_WindowMonitors_1 : ∃ (s : State) (q : Nat) (c : Cmd) (k : Nat) (a : Word) (b : Word) (d : Word), (q < 8)
    ∧ (s.serves q 0x0520 c)
    ∧ (c.payload = 4)
    ∧ (c.w 4 = 1)
    ∧ (c.w 5 = a)
    ∧ (c.w 6 = b)
    ∧ (c.w 7 = d)
    ∧ (bits a 31 26 = k)
    ∧ (bits a 1 0 = 0)
    ∧ (bits b 31 28 = 0)
    ∧ (bits b 15 12 = 0)
    ∧ (WmRec.badAt ⟨5, k, a, b, d⟩ = 0)
    ∧ (s.ready q [uWm k])
    ∧ (s.guarded k = false)
    ∧ ((∀ n ∈ wmPin k (bits a 21 20) (bits a 19 14), s.mode n ≠ 7 ∧ s.retired n = false))
    ∧ (bits a 25 25 = 1)
    ∧ (s.wmEnabled k = false) :=
  ⟨run0 0x0520 [1, 0xFE400000, 0x08000000, 0x0] {}, 0, cmdOf 0x0520 [1, 0xFE400000, 0x08000000, 0x0], 63, 0xFE400000, 0x08000000, 0, by decide +kernel⟩

theorem test_meets_WindowMonitors_2 : ∃ (s : State) (q : Nat) (c : Cmd) (k : Nat) (a : Word) (b : Word) (d : Word), (q < 8)
    ∧ (s.serves q 0x0520 c)
    ∧ (c.payload = 4)
    ∧ (c.w 4 = 1)
    ∧ (c.w 5 = a)
    ∧ (c.w 6 = b)
    ∧ (c.w 7 = d)
    ∧ (bits a 31 26 = k)
    ∧ (bits a 1 0 = 0)
    ∧ (bits b 31 28 = 0)
    ∧ (bits b 15 12 = 0)
    ∧ (WmRec.badAt ⟨5, k, a, b, d⟩ = 0)
    ∧ (s.ready q [uWm k])
    ∧ (s.guarded k = false)
    ∧ ((∀ n ∈ wmPin k (bits a 21 20) (bits a 19 14), s.mode n ≠ 7 ∧ s.retired n = false))
    ∧ (bits a 25 25 = 0) :=
  ⟨run0 0x0520 [1, 0xFC400000, 0x08000000, 0x0] (setReg (A.WM_CFG 63) 0x02400000 {}), 0, cmdOf 0x0520 [1, 0xFC400000, 0x08000000, 0x0], 63, 0xFC400000, 0x08000000, 0, by decide +kernel⟩

theorem test_meets_WindowMonitors_3 : ∃ (s : State) (k : Nat) (d : Nat), (k < 64)
    ∧ ((s.wmOf k).settleAt = some d)
    ∧ (d ≤ s.now)
    ∧ (s.wmEnabled k = true)
    ∧ ((s.wmOf k).loaded = true)
    ∧ (s.wmLost k = false)
    ∧ (s.wmClear k (1250 * d) = true) :=
  ⟨setReg (A.WM_CFG 63) 0x02400000 (wr (A.WM_LIVE 63) F.WM_LIVE.TH_HI 3000 { now := 9, wm := [(63, { settleAt := some 9, loaded := true })] }), 63, 9, by decide +kernel⟩

theorem test_meets_WindowMonitors_4 : ∃ (s : State) (k : Nat) (x : Int) (v : Int) (hi : Int) (lo : Int) (h : Int) (ab : Bool) (bl : Bool) (out : Bool), (k < 64)
    ∧ (s.wmEnabled k = true)
    ∧ ((s.wmOf k).resolving = false)
    ∧ ((s.wmOf k).held = false)
    ∧ ((s.wmOf k).ramp = none)
    ∧ (s.calBusy (uWm k) = false)
    ∧ (s.wmLost k = false)
    ∧ (s.rd (A.WM_LIVE k) F.WM_LIVE.TH_LO ≤ wmTop (s.wmRange k))
    ∧ (v = (if s.wmRange k = 0 then x * 32 + 960 * 400000 else x * 320 + 2048 * 400000))
    ∧ (hi = (s.rd (A.WM_LIVE k) F.WM_LIVE.TH_HI : Int) * 400000)
    ∧ (lo = (s.rd (A.WM_LIVE k) F.WM_LIVE.TH_LO : Int) * 400000)
    ∧ (h = (s.rd (A.WM_SHAPE k) F.WM_SHAPE.HYS : Int) * 400000)
    ∧ ((if ab then hi < v else v < hi - h))
    ∧ ((if bl then v < lo else lo + h < v))
    ∧ (out = (if s.wmCond k = 0 then ab else if s.wmCond k = 1 then bl else if s.wmCond k = 2 then ab || bl else !ab && !bl)) :=
  ⟨setReg (A.WM_CFG 63) 0x02401000 (wr (A.WM_LIVE 63) F.WM_LIVE.TH_HI 3000 (wr (A.WM_LIVE 63) F.WM_LIVE.TH_LO 2049 { wm := [(63, { resolving := false, loaded := true })] })), 63, 1000, 819520000, 1200000000, 819600000, 0, false, true, true, by decide +kernel⟩

theorem test_meets_WindowMonitors_5 : ∃ (s : State) (k : Nat) (d : Nat), (k < 64)
    ∧ ((s.wmOf k).eclipse = some d)
    ∧ (d ≤ s.now) :=
  ⟨{ now := 9, wm := [(63, { eclipse := some 9 })] }, 63, 9, by decide +kernel⟩

theorem test_meets_WindowMonitors_6 : ∃ (s : State) (k : Nat) (m : Int), (k < 64)
    ∧ (s.flag (A.WM_TAP k) F.WM_TAP.VALID = true)
    ∧ ((s.wmOf k).tapAt + 3200 ≤ s.now) :=
  ⟨setReg (A.WM_CFG 63) 0x02400000 (wr (A.WM_TAP 63) F.WM_TAP.VALID 1 { now := 3200 }), 63, 9000, by decide +kernel⟩

theorem test_meets_PulseCommands_1 : ∃ (s : State) (q : Nat) (c : Cmd) (j : Nat), (q < 8)
    ∧ (s.serves q 0x0530 c)
    ∧ (c.payload = 10)
    ∧ (bits (c.w 4) 31 27 = j)
    ∧ (bits (c.w 4) 26 26 = 1)
    ∧ (bits (c.w 4) 23 23 = 0)
    ∧ (bits (c.w 4) 15 0 = 0)
    ∧ (bits (c.w 4) 25 24 < 3)
    ∧ (bits (c.w 7) 31 16 = 0)
    ∧ (bits (c.w 9) 31 16 = 0)
    ∧ (bits (c.w 11) 31 16 = 0)
    ∧ (bits (c.w 13) 30 28 = 0)
    ∧ (pgPairOk (bits (c.w 4) 25 24) ((c.w 6).toNat + 2 ^ 32 * bits (c.w 7) 15 0) ((c.w 8).toNat + 2 ^ 32 * bits (c.w 9) 15 0) = true)
    ∧ ((c.w 10).toNat + 2 ^ 32 * bits (c.w 11) 15 0 ≤ 40000000000000)
    ∧ ((bits (c.w 4) 25 24 = 2 → bits (c.w 5) 15 0 ≠ 0))
    ∧ (s.servoOk j c = true)
    ∧ (s.ready q [uPg j])
    ∧ (s.pgLive j = false)
    ∧ (s.shortfall [(uPg j, 60)] = 0) :=
  ⟨run0 0x0530 [0xFE000000, 0x00000001, 50000, 0, 10000, 0, 7, 0, 3, 0x00001004] (setReg (A.WM_CFG 50) 0x02000000 {}), 0, cmdOf 0x0530 [0xFE000000, 0x00000001, 50000, 0, 10000, 0, 7, 0, 3, 0x00001004], 31, by decide +kernel⟩

theorem test_meets_PulseCommands_2 : ∃ (s : State) (q : Nat) (c : Cmd) (j : Nat), (q < 8)
    ∧ (s.serves q 0x0530 c)
    ∧ (c.payload = 10)
    ∧ (bits (c.w 4) 31 27 = j)
    ∧ (bits (c.w 4) 26 26 = 0)
    ∧ (bits (c.w 4) 23 23 = 0)
    ∧ (bits (c.w 4) 15 0 = 0)
    ∧ (bits (c.w 4) 25 24 < 3)
    ∧ (bits (c.w 7) 31 16 = 0)
    ∧ (bits (c.w 9) 31 16 = 0)
    ∧ (bits (c.w 11) 31 16 = 0)
    ∧ (bits (c.w 13) 30 28 = 0)
    ∧ (pgPairOk (bits (c.w 4) 25 24) ((c.w 6).toNat + 2 ^ 32 * bits (c.w 7) 15 0) ((c.w 8).toNat + 2 ^ 32 * bits (c.w 9) 15 0) = true)
    ∧ ((c.w 10).toNat + 2 ^ 32 * bits (c.w 11) 15 0 ≤ 40000000000000)
    ∧ ((bits (c.w 4) 25 24 = 2 → bits (c.w 5) 15 0 ≠ 0))
    ∧ (s.servoOk j c = true)
    ∧ (s.ready q [uPg j])
    ∧ (s.pgLive j = false)
    ∧ (s.pgState j ≠ 0) :=
  ⟨run0 0x0530 [0xF9000000, 0, 0, 0, 0, 0, 0, 0, 0, 0] (wr (A.PG_STATUS 31) F.PG_STATUS.STATE 4 { power := { claims := [(uPg 31, 60)] } }), 0, cmdOf 0x0530 [0xF9000000, 0, 0, 0, 0, 0, 0, 0, 0, 0], 31, by decide +kernel⟩

theorem test_meets_PulseCommands_3 : ∃ (s : State) (q : Nat) (c : Cmd) (j : Nat), (q < 8)
    ∧ (s.serves q 0x0530 c)
    ∧ (c.payload = 10)
    ∧ (bits (c.w 4) 31 27 = j)
    ∧ (bits (c.w 4) 26 26 = 0)
    ∧ (bits (c.w 4) 23 23 = 0)
    ∧ (bits (c.w 4) 15 0 = 0)
    ∧ (bits (c.w 4) 25 24 < 3)
    ∧ (bits (c.w 7) 31 16 = 0)
    ∧ (bits (c.w 9) 31 16 = 0)
    ∧ (bits (c.w 11) 31 16 = 0)
    ∧ (bits (c.w 13) 30 28 = 0)
    ∧ (pgPairOk (bits (c.w 4) 25 24) ((c.w 6).toNat + 2 ^ 32 * bits (c.w 7) 15 0) ((c.w 8).toNat + 2 ^ 32 * bits (c.w 9) 15 0) = true)
    ∧ ((c.w 10).toNat + 2 ^ 32 * bits (c.w 11) 15 0 ≤ 40000000000000)
    ∧ ((bits (c.w 4) 25 24 = 2 → bits (c.w 5) 15 0 ≠ 0))
    ∧ (s.servoOk j c = true)
    ∧ (s.ready q [uPg j])
    ∧ (s.pgLive j = true)
    ∧ (s.reg (A.PG_MASK j) &&& ~~~ (c.w 5) = 0)
    ∧ (s.pgFixed j c = false) :=
  ⟨run0 0x0530 [0xFA000000, 0x00000001, 50000, 0, 10000, 0, 7, 0, 3, 0] (setReg (A.PG_CFG 31) 0x06000000 (setReg (A.PG_COUNT 31) 3 (setReg (A.PG_MASK 31) 1 (wr (A.PG_STATUS 31) F.PG_STATUS.STATE 3 {})))), 0, cmdOf 0x0530 [0xFA000000, 0x00000001, 50000, 0, 10000, 0, 7, 0, 3, 0], 31, by decide +kernel⟩

theorem test_meets_PulseCommands_4 : ∃ (s : State) (q : Nat) (c : Cmd) (j : Nat) (n : Nat), (q < 8)
    ∧ (s.serves q 0x0531 c)
    ∧ (c.payload = 1 + 4 * n)
    ∧ (c.w 4 = word (j * 2 ^ 27 + n))
    ∧ (j < 32)
    ∧ (0 < n)
    ∧ (n ≤ 64)
    ∧ ((∀ (e : Nat), e < n → bits (c.w (6 + 4 * e)) 31 16 = 0 ∧ bits (c.w (8 + 4 * e)) 31 16 = 0))
    ∧ (badEntryAt c n 0 0 = none)
    ∧ (s.ready q [uPg j])
    ∧ (s.pgLive j = false) :=
  ⟨run0 0x0531 [0xF8000002, 0, 0, 10000, 0, 20000, 0, 10000, 0] {}, 0, cmdOf 0x0531 [0xF8000002, 0, 0, 10000, 0, 20000, 0, 10000, 0], 31, 2, by decide +kernel⟩

theorem test_meets_PulseCommands_5 : ∃ (s : State) (q : Nat) (c : Cmd), (q < 8)
    ∧ (s.serves q 0x0532 c)
    ∧ (c.payload = 1)
    ∧ (c.w 4 ≠ 0)
    ∧ (s.ready q ((bitList 32 (c.w 4).toNat).map uPg))
    ∧ ((∀ j ∈ bitList 32 (c.w 4).toNat, s.pgState j = 1 ∧ (s.pgMode j = 1 → (s.pgOf j).entries ≠ 0))) :=
  ⟨run0 0x0532 [0x80000001] (setReg (A.PG_CFG 31) 0x04200000 (wr (A.PG_STATUS 0) F.PG_STATUS.STATE 1 (wr (A.PG_STATUS 31) F.PG_STATUS.STATE 1 {}))), 0, cmdOf 0x0532 [0x80000001], by decide +kernel⟩

theorem test_meets_PulseCommands_6 : ∃ (s : State) (q : Nat) (c : Cmd), (q < 8)
    ∧ (s.serves q 0x0533 c)
    ∧ (c.payload = 1)
    ∧ (c.w 4 ≠ 0)
    ∧ (s.ready q ((bitList 32 (c.w 4).toNat).map uPg)) :=
  ⟨run0 0x0533 [0x80000001] (wr (A.PG_STATUS 31) F.PG_STATUS.STATE 3 {}), 0, cmdOf 0x0533 [0x80000001], by decide +kernel⟩

theorem test_meets_PulseCommands_7 : ∃ (s : State) (q : Nat) (c : Cmd), (q < 8)
    ∧ (s.serves q 0x0534 c)
    ∧ (c.payload = 1)
    ∧ (c.w 4 ≠ 0)
    ∧ (s.ready q ((bitList 32 (c.w 4).toNat).map uPg)) :=
  ⟨run0 0x0534 [0x80000001] (wr (A.PG_STATUS 31) F.PG_STATUS.STATE 4 {}), 0, cmdOf 0x0534 [0x80000001], by decide +kernel⟩

theorem test_meets_PulseCommands_8 : ∃ (s : State) (j : Nat) (v : Word) (d : Word), (j < 32)
    ∧ (s.link.up = true)
    ∧ (s.flag A.HL_CTRL F.HL_CTRL.WINDOW_RW = true)
    ∧ (s.fabricWait (A.PG_DLY_HI j) = none)
    ∧ ((s.pgOf j).latch = some (A.PG_DLY_LO j, d))
    ∧ (d.toNat + 2 ^ 32 * bits v 15 0 ≤ 40000000000000) :=
  ⟨{ barOpen {} with pg := [(31, { latch := some (A.PG_DLY_LO 31, 77) })] }, 31, 0x0000000A, 77, by decide +kernel⟩

theorem test_meets_PulseCommands_9 : ∃ (s : State) (j : Nat) (x : Nat) (v : Word) (d : Word), (j < 32)
    ∧ (x < 2)
    ∧ (s.link.up = true)
    ∧ (s.flag A.HL_CTRL F.HL_CTRL.WINDOW_RW = true)
    ∧ (s.fabricWait (A.PG_PER_LO j + 8 * x + 4) = none)
    ∧ ((s.pgOf j).latch = some (A.PG_PER_LO j + 8 * x, d))
    ∧ (pgPairOk (s.pgMode j)
      (if x = 0 then d.toNat + 2 ^ 32 * bits v 15 0 else (s.shd (A.PG_PER_LO j)).toNat + 2 ^ 32 * bits (s.shd (A.PG_PER_HI j)) 15 0)
      (if x = 1 then d.toNat + 2 ^ 32 * bits v 15 0 else (s.shd (A.PG_WID_LO j)).toNat + 2 ^ 32 * bits (s.shd (A.PG_WID_HI j)) 15 0)
      = true) :=
  ⟨setShd (A.PG_PER_LO 31) 50000 { barOpen {} with pg := [(31, { latch := some (A.PG_WID_LO 31, 40000) })] }, 31, 1, 0, 40000, by decide +kernel⟩

theorem test_meets_PulseCommands_10 : ∃ (s : State) (j : Nat) (v : Word), (j < 32)
    ∧ (s.link.up = true)
    ∧ (s.flag A.HL_CTRL F.HL_CTRL.WINDOW_RW = true)
    ∧ (s.fabricWait (A.PG_WID_HI j) = none)
    ∧ (s.pgMode j ≠ 1)
    ∧ ((s.pgOf j).latch = none)
    ∧ (pgPairOk (s.pgMode j) ((s.shd (A.PG_PER_LO j)).toNat + 2 ^ 32 * bits (s.shd (A.PG_PER_HI j)) 15 0)
      ((s.shd (A.PG_WID_LO j)).toNat + 2 ^ 32 * bits v 15 0) = false) :=
  ⟨barOpen {}, 31, 1, by decide +kernel⟩

theorem test_meets_PulseRuns_1 : ∃ (s : State) (j : Nat) (d : Nat) (g : Nat), (j < 32)
    ∧ ((s.pgOf j).go = some (d, g))
    ∧ (d ≤ 1250 * s.now)
    ∧ (s.pgOwes j (tickOf d) = false)
    ∧ (s.stopsBy j (tickOf d) = false)
    ∧ (s.pgState j = 1 ∨ s.pgState j = 2) :=
  ⟨wr (A.PG_STATUS 31) F.PG_STATUS.STATE 2 { now := 500, pg := [(31, { go := some (512000, 2) })] }, 31, 512000, 2, by decide +kernel⟩

theorem test_meets_PulseRuns_2 : ∃ (s : State) (j : Nat) (d : Nat) (here : Nat), (j < 32)
    ∧ (s.pgState j = 3)
    ∧ ((s.pgOf j).next = some d)
    ∧ (d ≤ 1250 * s.now)
    ∧ ((s.pgOf j).trail = none)
    ∧ (s.pgOwes j (tickOf d) = false)
    ∧ (s.eclipseOwed j d = false)
    ∧ (s.timingOwed j d = false)
    ∧ (s.stopsBy j (tickOf d) = false)
    ∧ ((s.pgMode j ≠ 1 → (s.reg (A.PG_COUNT j)).toNat = 0 ∨ (s.pgOf j).index < (s.reg (A.PG_COUNT j)).toNat))
    ∧ ((s.pgOf j).gen < 8)
    ∧ (here = 0xFFFF - s.selfEclipsed j)
    ∧ (bitsOf ((s.tripping j).filter (fun i => (s.wmOf (16 * (j / 8) + i)).gatedAt ≤ d)) &&& here = 0) :=
  ⟨pulsing { next := some 512000 }, 31, 512000, 0xFFFF, by decide +kernel⟩

theorem test_meets_PulseRuns_3 : ∃ (s : State) (j : Nat) (d : Nat) (here : Nat) (active : Nat), (j < 32)
    ∧ (s.pgState j = 3)
    ∧ ((s.pgOf j).next = some d)
    ∧ (d ≤ 1250 * s.now)
    ∧ ((s.pgOf j).trail = none)
    ∧ (s.pgOwes j (tickOf d) = false)
    ∧ (s.eclipseOwed j d = false)
    ∧ (s.timingOwed j d = false)
    ∧ (s.stopsBy j (tickOf d) = false)
    ∧ ((s.pgMode j ≠ 1 → (s.reg (A.PG_COUNT j)).toNat = 0 ∨ (s.pgOf j).index < (s.reg (A.PG_COUNT j)).toNat))
    ∧ (here = 0xFFFF - s.selfEclipsed j)
    ∧ (active = bitsOf ((s.tripping j).filter (fun i => (s.wmOf (16 * (j / 8) + i)).gatedAt ≤ d)) &&& here)
    ∧ (active ≠ 0)
    ∧ (active &&& s.faultMask j = 0)
    ∧ ((s.nextEdge j (s.pgOf j).index d).isSome = true) :=
  ⟨setReg (A.PG_MASK 31) 0x00000002 (wr (A.WM_STATUS 49) F.WM_STATUS.GATED 1 (pulsing { next := some 512000 })), 31, 512000, 0xFFFF, 2, by decide +kernel⟩

theorem test_meets_PulseRuns_4 : ∃ (s : State) (j : Nat) (d : Nat), (j < 32)
    ∧ (s.pgState j = 3)
    ∧ ((s.pgOf j).next = some d)
    ∧ (d ≤ 1250 * s.now)
    ∧ ((s.pgOf j).trail = none)
    ∧ (s.pgOwes j (tickOf d) = false)
    ∧ (s.eclipseOwed j d = false)
    ∧ (s.timingOwed j d = false)
    ∧ (s.stopsBy j (tickOf d) = false)
    ∧ (s.pgMode j ≠ 1)
    ∧ ((s.reg (A.PG_COUNT j)).toNat ≠ 0)
    ∧ ((s.reg (A.PG_COUNT j)).toNat ≤ (s.pgOf j).index)
    ∧ ((s.pgOf j).gen < 8) :=
  ⟨setReg (A.PG_COUNT 31) 3 (pulsing { next := some 512000, index := 3, gen := 2 }), 31, 512000, by decide +kernel⟩

theorem test_meets_PulseRuns_5 : ∃ (s : State) (j : Nat) (d : Nat), (j < 32)
    ∧ ((s.pgOf j).trail = some d)
    ∧ (d ≤ 1250 * s.now)
    ∧ (s.pgOwes j (tickOf d) = false)
    ∧ (s.eclipseOwed j (1250 * tickOf d) = false)
    ∧ (s.stopsBy j (tickOf d) = false)
    ∧ (((s.tripAt j).map (fun u => decide (tickOf u ≤ tickOf d))).getD false = false)
    ∧ ((s.pgOf j).gen < 8) :=
  ⟨pulsing { trail := some 512000, gen := 1 }, 31, 512000, by decide +kernel⟩

theorem test_meets_PulseRuns_6 : ∃ (s : State) (j : Nat) (u : Nat), (j < 32)
    ∧ (s.tripDue j = some u)
    ∧ (s.trippers j u &&& s.faultMask j = 0)
    ∧ ((s.pgOf j).gen < 8) :=
  ⟨setReg (A.PG_MASK 31) 0x00000002 (wr (A.WM_STATUS 49) F.WM_STATUS.GATED 1 (pulsing { trail := some 712000, next := some 900000 })), 31, 0, by decide +kernel⟩

theorem test_meets_PulseRuns_7 : ∃ (s : State) (j : Nat) (u : Nat), (j < 32)
    ∧ (s.tripDue j = some u)
    ∧ (s.trippers j u &&& s.faultMask j ≠ 0)
    ∧ (s.pgState j = 3)
    ∧ ((s.pgOf j).gen < 8) :=
  ⟨setReg (A.PG_MASK 31) 0x00020000 (wr (A.WM_STATUS 49) F.WM_STATUS.GATED 1 (pulsing { trail := some 712000, next := some 900000 })), 31, 0, by decide +kernel⟩

theorem test_meets_PulseRuns_8 : ∃ (s : State) (j : Nat) (e : Arrival), (j < 32)
    ∧ ((s.pgOf j).kills = [e])
    ∧ (e.due ≤ 1250 * s.now)
    ∧ (s.pgOwes j (tickOf e.due) = false)
    ∧ (s.pgState j = 1 ∨ s.pgState j = 2 ∨ s.pgState j = 3)
    ∧ ((s.pgOf j).trail = none)
    ∧ (e.gen < 7)
    ∧ ((s.pgOf j).gen < 8) :=
  ⟨pulsing { kills := [⟨512000, 1, { coarse := 0 }⟩], next := some 900000 }, 31, ⟨512000, 1, { coarse := 0 }⟩, by decide +kernel⟩

theorem test_meets_PulseRuns_9 : ∃ (s : State) (d : Nat) (j : Nat) (r : List (Nat × Bool)) (dis : Bool), (j < 32)
    ∧ ((s.pgOf j).stops = (d, dis) :: r)
    ∧ (d ≤ s.now)
    ∧ (s.pgOwes j d = false)
    ∧ ((∀ (i : Nat), i < 32 → i ≠ j → (s.pgOf i).stops = []))
    ∧ (s.pgState j = 3)
    ∧ ((s.pgOf j).go = none)
    ∧ (((s.tripAt j).map (fun u => decide (tickOf u ≤ d))).getD false = false)
    ∧ ((s.pgOf j).gen < 8) :=
  ⟨pulsing { stops := [(410, true)], trail := some 712000, next := some 900000 }, 410, 31, [], true, by decide +kernel⟩

theorem test_meets_PulseRuns_10 : ∃ (s : State) (d : Nat) (j : Nat) (r : List (Nat × Bool)) (dis : Bool), (j < 32)
    ∧ ((s.pgOf j).stops = (d, dis) :: r)
    ∧ (d ≤ s.now)
    ∧ (s.pgOwes j d = false)
    ∧ ((∀ (i : Nat), i < 32 → i ≠ j → (s.pgOf i).stops = []))
    ∧ (s.pgState j = 2)
    ∧ ((s.pgOf j).trail = none) :=
  ⟨wr (A.PG_STATUS 31) F.PG_STATUS.STATE 2 (pulsing { stops := [(410, false)] }), 410, 31, [], false, by decide +kernel⟩

theorem test_meets_PulseRuns_11 : ∃ (s : State) (j : Nat) (m : Nat), (j < 32)
    ∧ (s.pgState j = 3)
    ∧ ((s.pgOf j).servoAt + 3200 ≤ s.now)
    ∧ (bit (s.reg (A.PG_SERVO j)) 31 = true)
    ∧ (m = 16 * (j / 8) + bits (s.reg (A.PG_SERVO j)) 27 24) :=
  ⟨setReg (A.PG_SERVO 31) 0x821F4004 { pulsing {} with now := 3200 }, 31, 50, by decide +kernel⟩

theorem test_meets_DigitizerChannels_1 : ∃ (s : State) (q : Nat) (c : Cmd) (k : Nat), (q < 8)
    ∧ (s.serves q 0x0510 c)
    ∧ (c.payload = 10)
    ∧ (s.aqHandle (c.w 4).toNat = 0)
    ∧ (s.aqChan (c.w 4).toNat = k)
    ∧ (k < 32)
    ∧ (bits (c.w 5) 15 0 = 0)
    ∧ (aqSourceOk (bits (c.w 5) 31 29) (bits (c.w 5) 28 23) (bits (c.w 5) 22 21) = true)
    ∧ ((bits (c.w 5) 31 29 ≤ 1 → s.mode (64 * (k / 8) + bits (c.w 5) 28 23) ≠ 7 ∧ s.retired (64 * (k / 8) + bits (c.w 5) 28 23) = false))
    ∧ ((∀ (i : Nat), i < 4 → bits (c.w (7 + 2 * i)) 31 16 = 0 ∧ bits (c.w (6 + 2 * i)) 31 28 < 8
      ∧ (bits (c.w (6 + 2 * i)) 31 28 = 4 ∨ bits (c.w (6 + 2 * i)) 31 28 = 5 →
        sext 16 (bits (c.w (6 + 2 * i)) 15 0) < sext 16 (bits (c.w (7 + 2 * i)) 15 0))
      ∧ (bits (c.w (6 + 2 * i)) 31 28 = 7 → bits (c.w (6 + 2 * i)) 15 0 < 8 ∧ bits (c.w (6 + 2 * i)) 15 0 ≠ k % 8)))
    ∧ (s.ready q [uAq k])
    ∧ (s.aqLive k = false) :=
  ⟨run0 0x0510 [0x40050000, 0x0FA00000, 0x40100010, 0x00000020, 0, 0, 0, 0, 0x70000006, 0] (captured {} []), 0, cmdOf 0x0510 [0x40050000, 0x0FA00000, 0x40100010, 0x00000020, 0, 0, 0, 0, 0x70000006, 0], 31, by decide +kernel⟩

theorem test_meets_DigitizerChannels_2 : ∃ (s : State) (q : Nat) (c : Cmd) (k : Nat) (n : Nat) (b : Buffer), (q < 8)
    ∧ (s.serves q 0x0511 c)
    ∧ (c.payload = 5)
    ∧ (c.w 4 = 1)
    ∧ (s.aqHandle (c.w 5).toNat = 0)
    ∧ (s.aqChan (c.w 5).toNat = k)
    ∧ (k < 32)
    ∧ (s.buf? (s.aqBuffer k) = some b)
    ∧ (c.w 8 = word n)
    ∧ (0 < n)
    ∧ (n ≤ 1024)
    ∧ (c.w 7 ≠ 0)
    ∧ ((c.w 6).toNat + (c.w 7).toNat ≤ (slotSize b.kib n - 64) / 2)
    ∧ (s.aqRate k ≤ b.rate)
    ∧ (s.ready q [uAq k])
    ∧ (s.aqLive k = false) :=
  ⟨run0 0x0511 [1, 0x40050000, 3, 5, 2] (captured {} []), 0, cmdOf 0x0511 [1, 0x40050000, 3, 5, 2], 31, 2, ⟨2, 0, 64, 500, 0, 0, []⟩, by decide +kernel⟩

theorem test_meets_DigitizerChannels_3 : ∃ (s : State) (k : Nat) (y : Nat) (l : List Int), (k < 32)
    ∧ (s.aqLive k = true)
    ∧ ((s.aqOf k).next ≤ 1250 * s.now)
    ∧ (l.length = 2 ^ s.aqDecim k)
    ∧ ((s.aqOf k).stop = none)
    ∧ ((s.aqOf k).met = 0)
    ∧ ((s.aqOf k).forced = false)
    ∧ ((∀ e ∈ (s.aqOf k).events, (s.aqOf k).next < e.due))
    ∧ ((s.aqState k = 2 → (s.aqOf k).post < (s.reg (A.AQ_POST k)).toNat))
    ∧ ((s.buf? (s.aqBuffer k)).isSome = true)
    ∧ (y = (s.aqOf k).record * (s.aqOf k).slot + 64 + 2 * ((s.aqOf k).count % max 1 (s.aqOf k).cap)) :=
  ⟨filling 2 { cap := 480, slot := 1024, post := 1, next := 600000, record := 1, count := 481 }, 31, 1090, [40000], by decide +kernel⟩

theorem test_meets_DigitizerChannels_4 : ∃ (s : State) (q : Nat) (c : Cmd) (k : Nat), (q < 8)
    ∧ (s.serves q 0x0512 c)
    ∧ (c.payload = 2)
    ∧ (c.w 4 = 1)
    ∧ (s.aqHandle (c.w 5).toNat = 0)
    ∧ (s.aqChan (c.w 5).toNat = k)
    ∧ (k < 32)
    ∧ (s.ready q [uAq k])
    ∧ (s.aqState k = 1) :=
  ⟨run0 0x0512 [1, 0x40050000] (filling 1 {}), 0, cmdOf 0x0512 [1, 0x40050000], 31, by decide +kernel⟩

theorem test_meets_DigitizerChannels_5 : ∃ (s : State) (q : Nat) (c : Cmd) (k : Nat), (q < 8)
    ∧ (s.serves q 0x0513 c)
    ∧ (c.payload = 2)
    ∧ (c.w 4 = 1)
    ∧ (s.aqHandle (c.w 5).toNat = 0)
    ∧ (s.aqChan (c.w 5).toNat = k)
    ∧ (k < 32)
    ∧ (s.ready q [uAq k]) :=
  ⟨run0 0x0513 [1, 0x40050000] (filling 2 {}), 0, cmdOf 0x0513 [1, 0x40050000], 31, by decide +kernel⟩

theorem test_meets_DigitizerChannels_6 : ∃ (s : State) (k : Nat), (k < 32)
    ∧ (s.aqState k = 1)
    ∧ ((s.aqOf k).met ≠ 0 ∨ (s.aqOf k).forced = true) :=
  ⟨filling 1 { met := 2, count := 9, next := 616000 }, 31, by decide +kernel⟩

theorem test_meets_DigitizerChannels_7 : ∃ (s : State) (k : Nat), (k < 32)
    ∧ (s.aqState k = 1)
    ∧ ((s.aqOf k).forced = true) :=
  ⟨filling 1 { forced := true, count := 9, next := 616000 }, 31, by decide +kernel⟩

theorem test_meets_DigitizerChannels_8 : ∃ (s : State) (k : Nat) (e : Arrival), (k < 32)
    ∧ ((s.aqOf k).events = [e])
    ∧ (e.due ≤ 1250 * s.now)
    ∧ (s.aqState k = 1)
    ∧ ((s.aqOf k).present = none)
    ∧ (e.due ≤ (s.aqOf k).next)
    ∧ ((s.aqOf k).met = 0)
    ∧ ((s.aqOf k).forced = false) :=
  ⟨filling 1 { events := [⟨512000, 1, { coarse := 0 }⟩], next := 512000 }, 31, ⟨512000, 1, { coarse := 0 }⟩, by decide +kernel⟩

theorem test_meets_DigitizerChannels_9 : ∃ (s : State) (k : Nat) (e : Arrival), (k < 32)
    ∧ ((s.aqOf k).events = [e])
    ∧ (e.due ≤ 1250 * s.now)
    ∧ (s.aqState k = 2)
    ∧ (e.due ≤ (s.aqOf k).next)
    ∧ (s.aqOwes k = false) :=
  ⟨filling 2 { events := [⟨512000, 1, { coarse := 0 }⟩], next := 512000 }, 31, ⟨512000, 1, { coarse := 0 }⟩, by decide +kernel⟩

theorem test_meets_DigitizerChannels_10 : ∃ (s : State) (k : Nat) (r : AqTrig), (k < 32)
    ∧ (s.aqState k = 2)
    ∧ ((s.reg (A.AQ_POST k)).toNat ≤ (s.aqOf k).post)
    ∧ ((s.aqOf k).trig = some r)
    ∧ ((s.buf? (s.aqBuffer k)).isSome = true) :=
  ⟨filling 2 { post := 5, cap := 480, slot := 1024, trig := some ⟨1, false, { coarse := 0 }, 4, false⟩, count := 9, next := 600000 }, 31, ⟨1, false, { coarse := 0 }, 4, false⟩, by decide +kernel⟩

theorem test_meets_DigitizerChannels_11 : ∃ (s : State) (k : Nat) (d : Nat), (k < 32)
    ∧ ((s.aqOf k).stop = some d)
    ∧ (d ≤ (s.aqOf k).next)
    ∧ ((s.aqOf k).next ≤ 1250 * s.now)
    ∧ (s.aqLive k = true)
    ∧ (s.aqOwes k = false)
    ∧ ((∀ (i : Nat), i < 32 → i ≠ k → (s.aqOf i).stop = none)) :=
  ⟨filling 2 { stop := some 512000, post := 1, cap := 480, slot := 1024, trig := some ⟨1, false, { coarse := 0 }, 4, false⟩, count := 9, next := 600000 }, 31, 512000, by decide +kernel⟩

theorem test_meets_DigitizerChannels_12 : ∃ (s : State) (q : Nat) (c : Cmd) (k : Nat) (r : Nat) (b : Buffer), (q < 8)
    ∧ (s.serves q 0x0514 c)
    ∧ (c.payload = 4)
    ∧ (s.aqHandle (c.w 4).toNat = 0)
    ∧ (s.aqChan (c.w 4).toNat = k)
    ∧ (k < 32)
    ∧ (c.w 5 = word r)
    ∧ (r < bits (s.reg (A.AQ_NREC k)) 10 0)
    ∧ (r < 1024)
    ∧ ((c.w 7).toNat ≤ 131038)
    ∧ (s.ready q [uAq k])
    ∧ (s.hbmWaits 5 = false)
    ∧ (s.buf? (s.aqBuffer k) = some b)
    ∧ (b.word (r * (s.aqOf k).slot / 4) = 0) :=
  ⟨run0 0x0514 [0x40050000, 0, 0, 4] (setReg (A.AQ_NREC 31) 2 (captured { slot := 1024 } [(0, 0)])), 0, cmdOf 0x0514 [0x40050000, 0, 0, 4], 31, 0, ⟨2, 0, 64, 500, 0, 0, [(0, 0)]⟩, by decide +kernel⟩

theorem test_meets_DigitizerChannels_13 : ∃ (s : State) (q : Nat) (c : Cmd) (k : Nat) (r : Nat) (n : Nat) (y : Nat) (b : Buffer), (q < 8)
    ∧ (s.serves q 0x0514 c)
    ∧ (c.payload = 4)
    ∧ (s.aqHandle (c.w 4).toNat = 0)
    ∧ (s.aqChan (c.w 4).toNat = k)
    ∧ (k < 32)
    ∧ (c.w 5 = word r)
    ∧ (r < bits (s.reg (A.AQ_NREC k)) 10 0)
    ∧ (r < 1024)
    ∧ ((c.w 7).toNat = n)
    ∧ (n ≤ 131038)
    ∧ (s.ready q [uAq k])
    ∧ (s.hbmWaits 5 = false)
    ∧ (y = r * (s.aqOf k).slot / 4)
    ∧ (s.buf? (s.aqBuffer k) = some b)
    ∧ (b.word y ≠ 0)
    ∧ ((c.w 6).toNat + n ≤ (b.word (y + 8)).toNat + (b.word (y + 9)).toNat) :=
  ⟨run0 0x0514 [0x40050000, 0, 1, 3] (setReg (A.AQ_NREC 31) 2 (captured { slot := 1024, cap := 480 } [(0, 0x50100000), (8, 2), (9, 2), (10, 0), (11, 480)])), 0, cmdOf 0x0514 [0x40050000, 0, 1, 3], 31, 0, 3, 0, ⟨2, 0, 64, 500, 0, 0, [(0, 0x50100000), (8, 2), (9, 2), (10, 0), (11, 480)]⟩, by decide +kernel⟩

theorem test_meets_DigitizerChannels_14 : ∃ (s : State) (q : Nat) (c : Cmd) (k : Nat) (r : Nat) (n : Nat) (y : Nat) (u : Nat) (b : Buffer), (q < 8)
    ∧ (s.serves q 0x0514 c)
    ∧ (c.payload = 4)
    ∧ (s.aqHandle (c.w 4).toNat = 0)
    ∧ (s.aqChan (c.w 4).toNat = k)
    ∧ (k < 32)
    ∧ (c.w 5 = word r)
    ∧ (r < bits (s.reg (A.AQ_NREC k)) 10 0)
    ∧ (r < 1024)
    ∧ ((c.w 7).toNat = n)
    ∧ (n ≤ 131038)
    ∧ (s.ready q [uAq k])
    ∧ (s.hbmWaits 5 = false)
    ∧ (y = r * (s.aqOf k).slot / 4)
    ∧ (s.buf? (s.aqBuffer k) = some b)
    ∧ (b.word y ≠ 0)
    ∧ (u < 2 ^ 32)
    ∧ ((c.w 6).toNat + n ≤ (b.word (y + 8)).toNat + (b.word (y + 9)).toNat) :=
  ⟨run0 0x0514 [0x40050000, 0, 1, 3] (setReg (A.AQ_NREC 31) 2 (captured { slot := 1024, cap := 480 } [(0, 0x50100000), (8, 2), (9, 2), (10, 0), (11, 480)])), 0, cmdOf 0x0514 [0x40050000, 0, 1, 3], 31, 0, 3, 0, 77, ⟨2, 0, 64, 500, 0, 0, [(0, 0x50100000), (8, 2), (9, 2), (10, 0), (11, 480)]⟩, by decide +kernel⟩

theorem test_meets_TimeIntervals_1 : ∃ (s : State) (q : Nat) (c : Cmd) (h : Nat) (k : Nat) (m : Nat), (q < 8)
    ∧ (s.serves q 0x0540 c)
    ∧ (c.payload = 9)
    ∧ ((c.w 4).toNat = h)
    ∧ (s.tuHandle h = 0)
    ∧ (s.tuChan h = k)
    ∧ (k < 32)
    ∧ ((s.meas? h).map (·.kind) = some m)
    ∧ (bits (c.w 5) 13 12 = 0)
    ∧ (bits (c.w 7) 29 24 = 0)
    ∧ (bits (c.w 7) 19 16 = 0)
    ∧ (tuInputOk (c.w 5) = true)
    ∧ (4 ≤ bits (c.w 7) 15 0)
    ∧ ((m = 2 → 1000 ≤ (c.w 10).toNat))
    ∧ ((m ≠ 2 → bits (c.w 6) 13 12 = 0 ∧ tuInputOk (c.w 6) = true ∧ (c.w 8).toInt < (c.w 9).toInt
      ∧ (if bit (c.w 7) 31 then -1048576 else 0) ≤ (c.w 8).toInt ∧ 1 ≤ (c.w 10).toNat ∧ (c.w 10).toNat ≤ 16777216))
    ∧ ((c.w 12 ≠ 0 → s.handleStatus (c.w 12).toNat [2] = 0
      ∧ (((s.buf? (c.w 12).toNat).map (·.boundTo)).getD 0 = 0 ∨ ((s.buf? (c.w 12).toNat).map (·.boundTo)).getD 0 = h)))
    ∧ ((bits (c.w 5) 31 29 ≤ 1 → s.mode (64 * (k / 8) + bits (c.w 5) 28 23) ≠ 7 ∧ s.retired (64 * (k / 8) + bits (c.w 5) 28 23) = false))
    ∧ ((m ≠ 2 → bits (c.w 6) 31 29 ≤ 1 →
      s.mode (64 * (k / 8) + bits (c.w 6) 28 23) ≠ 7 ∧ s.retired (64 * (k / 8) + bits (c.w 6) 28 23) = false))
    ∧ (s.ready q [uTu k])
    ∧ (s.tuLive k = false) :=
  ⟨run0 0x0540 [0x40050000, 0x00300000, 0x00100000, 0x00000004, 0, 10, 1, 0, 0x20050000] (timing {}), 0, cmdOf 0x0540 [0x40050000, 0x00300000, 0x00100000, 0x00000004, 0, 10, 1, 0, 0x20050000], 0x40050000, 31, 1, by decide +kernel⟩

theorem test_meets_TimeIntervals_2 : ∃ (s : State) (q : Nat) (c : Cmd) (k : Nat), (q < 8)
    ∧ (s.serves q 0x0541 c)
    ∧ (c.payload = 2)
    ∧ (c.w 4 = 1)
    ∧ (s.tuHandle (c.w 5).toNat = 0)
    ∧ (s.tuChan (c.w 5).toNat = k)
    ∧ (k < 32)
    ∧ (s.ready q [uTu k])
    ∧ (s.tuLive k = false)
    ∧ (s.flag (A.TU_STATUS k) F.TU_STATUS.BINCAL_BUSY = false)
    ∧ (s.flag (A.TU_STATUS k) F.TU_STATUS.BIN_FAIL = false)
    ∧ ((s.tuLog k ≠ 0 → s.logRate k ≤ ((s.buf? (s.tuLog k)).map (·.rate)).getD 0)) :=
  ⟨run0 0x0541 [1, 0x40050000] (timing { done := 3 }), 0, cmdOf 0x0541 [1, 0x40050000], 31, by decide +kernel⟩

theorem test_meets_TimeIntervals_3 : ∃ (s : State) (q : Nat) (c : Cmd) (k : Nat), (q < 8)
    ∧ (s.serves q 0x0542 c)
    ∧ (c.payload = 2)
    ∧ (c.w 4 = 1)
    ∧ (s.tuHandle (c.w 5).toNat = 0)
    ∧ (s.tuChan (c.w 5).toNat = k)
    ∧ (k < 32)
    ∧ (s.ready q [uTu k]) :=
  ⟨run0 0x0542 [1, 0x40050000] (timing {}), 0, cmdOf 0x0542 [1, 0x40050000], 31, by decide +kernel⟩

theorem test_meets_TimeIntervals_4 : ∃ (s : State) (k : Nat) (d : Nat), (k < 32)
    ∧ ((s.tuOf k).start = some d)
    ∧ (d ≤ s.now)
    ∧ (s.tuState k = 1) :=
  ⟨wr (A.TU_STATUS 31) F.TU_STATUS.STATE 1 { timing { start := some 400 } with now := 500 }, 31, 400, by decide +kernel⟩

theorem test_meets_TimeIntervals_5 : ∃ (s : State) (k : Nat) (b : Nat) (tick : Nat) (bin : Nat) (u : Nat) (g : Nat) (n : Nat) (rising : Bool) (m : TuMarks), (k < 32)
    ∧ (b < 2)
    ∧ (s.tuFreq k = false)
    ∧ (bits (s.tuIn k b) 31 29 < 6)
    ∧ (s.tuState k = 2)
    ∧ ((s.tuOf k).start = some u)
    ∧ (u ≤ tick)
    ∧ ((s.tuOf k).stopAt = none)
    ∧ ((s.tuOf k).openAt = none)
    ∧ (tick ≤ s.now)
    ∧ ((bits (s.tuIn k b) 31 29 ≤ 3 → (s.tuOf k).validAt ≤ tick))
    ∧ (bits (s.tuIn k b) (if rising then 20 else 21) (if rising then 20 else 21) = 1)
    ∧ ((s.tuOf k).gate = none)
    ∧ (bin < 512)
    ∧ ((s.tuOf k).bins.getD bin 0 ≠ 0)
    ∧ (((s.tuOf k).input b).last = none)
    ∧ ((b = 0 → ((s.tuOf k).input b).edges % 2 ^ bits (s.reg (A.TU_CTRL k)) 23 20 = 0))
    ∧ ((s.tuOf k).drained ≤ 1250 * tick)
    ∧ (s.tuLog k = 0)
    ∧ (n = (65536 * (s.countAt tick : Int) + binCentre (s.tuOf k).bins bin 0 + s.phase
      - (if b = 0 then s.rd (A.TU_SKEW_A k) F.TU_SKEW_A.SKEW else s.rd (A.TU_SKEW_B k) F.TU_SKEW_B.SKEW)).toNat)
    ∧ (g = (s.regAt A.GN_STATUS (1250 * tick)).toNat)
    ∧ (m = { warm := fget (word g) F.GN_STATUS.WARMING = 1, offRing := fget (word g) F.GN_STATUS.RING_TIME = 0 }) :=
  ⟨measuring { start := some 400, bins := List.replicate 512 2048 }, 31, 1, 450, 511, 400, 264, 29753088, false, { warm := true, offRing := true }, by decide +kernel⟩

theorem test_meets_TimeIntervals_6 : ∃ (s : State) (k : Nat) (a : Nat) (m : TuMarks), (k < 32)
    ∧ (s.tuState k = 2)
    ∧ (s.tuFreq k = false)
    ∧ ((s.tuOf k).starts = [(a, m)])
    ∧ ((a : Int) + s.tuClose k ≤ s.fineNow)
    ∧ ((s.tuOf k).stops = []) :=
  ⟨measuring { starts := [(6553600, {})] }, 31, 6553600, {}, by decide +kernel⟩

theorem test_meets_TimeIntervals_7 : ∃ (s : State) (k : Nat) (a : Nat) (b : Nat) (m : TuMarks) (n : TuMarks) (x : Int), (k < 32)
    ∧ (s.tuState k = 2)
    ∧ (s.tuFreq k = false)
    ∧ ((s.tuOf k).starts = [(a, m)])
    ∧ ((a : Int) + s.tuClose k ≤ s.fineNow)
    ∧ ((s.tuOf k).stops = [(⟨b, false⟩, n)])
    ∧ ((a : Int) + s.tuOpen k ≤ b)
    ∧ ((b : Int) < a + s.tuClose k)
    ∧ (512 ≤ ((b : Int) - a).natAbs)
    ∧ ((s.tuOf k).block.n + 1 < (s.reg (A.TU_COUNT k)).toNat)
    ∧ (x = (if (s.tuOf k).block.n = 0 then 0 else (b : Int) - a - (s.tuOf k).block.x0)) :=
  ⟨measuring { starts := [(6553600, {})], stops := [(⟨6554600, false⟩, {})] }, 31, 6553600, 6554600, {}, {}, 0, by decide +kernel⟩

theorem test_meets_TimeIntervals_8 : ∃ (s : State) (k : Nat) (m : Nat) (g : TuGate) (r : List Word), (k < 32)
    ∧ (m < 32)
    ∧ (s.tuState k = 2)
    ∧ ((s.tuOf k).gate = some g)
    ∧ (g.opened + (s.reg (A.TU_COUNT k)).toNat ≤ s.coarseNow)
    ∧ (s.tuSlot k = some m)
    ∧ ((kget (fun _ => []) s.results m).length < 256)
    ∧ (g.gen < 8)
    ∧ (bits (s.reg (A.TU_CTRL k)) 30 30 = 0)
    ∧ ((s.reg (A.TU_REPS k) = 0 ∨ (s.tuOf k).done + 1 < (s.reg (A.TU_REPS k)).toNat))
    ∧ (r = ({ g with marks := g.marks.or { warm := s.warming, offRing := !s.ringTime, stale := s.binStale k } } : TuGate).record (s.tuMeas k)
      (s.tuOf k).done (bits (s.reg (A.TU_CTRL k)) 23 20) (g.opened + (s.reg (A.TU_COUNT k)).toNat) false (Config.freeWord s.fresh 3).toNat) :=
  ⟨measuring { gate := some { opened := 100, n := 3, si := 3, st := 30, sii := 5, sit := 50, stt := 500 } }, 31, 5, { opened := 100, n := 3, si := 3, st := 30, sii := 5, sit := 50, stt := 500 }, ({ opened := 100, n := 3, si := 3, st := 30, sii := 5, sit := 50, stt := 500, marks := { warm := true, offRing := true } } : TuGate).record 0x40050000 0 0 103 false (Config.freeWord 0 3).toNat, by decide +kernel⟩

theorem test_meets_TimeIntervals_9 : ∃ (s : State) (k : Nat) (d : Nat) (g : Nat), (k < 32)
    ∧ ((s.tuOf k).openAt = some (d, g))
    ∧ (d ≤ s.now)
    ∧ (s.tuState k = 2) :=
  ⟨measuring { openAt := some (400, 3) }, 31, 400, 3, by decide +kernel⟩

theorem test_meets_TimeIntervals_10 : ∃ (s : State) (k : Nat) (d : Nat), (k < 32)
    ∧ ((s.tuOf k).stopAt = some d)
    ∧ (d ≤ s.now)
    ∧ (s.tuLive k = true)
    ∧ ((∀ (i : Nat), i < 32 → i ≠ k → (s.tuOf i).stopAt = none)) :=
  ⟨measuring { stopAt := some 400, starts := [(6553600, {})] }, 31, 400, by decide +kernel⟩

theorem test_meets_TimeIntervals_11 : ∃ (s : State) (q : Nat) (c : Cmd) (k : Nat) (n : Nat) (m : Nat) (l : List (List Word)), (q < 8)
    ∧ (s.serves q 0x0543 c)
    ∧ (c.payload = 2)
    ∧ (s.tuHandle (c.w 4).toNat = 0)
    ∧ (s.tuChan (c.w 4).toNat = k)
    ∧ (c.w 5 = word n)
    ∧ (0 < n)
    ∧ (n ≤ 64)
    ∧ (s.ready q [uTu k])
    ∧ ((s.meas? (c.w 4).toNat).bind (·.slot) = some m)
    ∧ (m < 32)
    ∧ (kget (fun _ => []) s.results m = l)
    ∧ (l.length ≤ 256) :=
  ⟨{ run0 0x0543 [0x40050000, 64] (timing {}) with results := [(5, [[1, 2], [3, 4]])] }, 0, cmdOf 0x0543 [0x40050000, 64], 31, 64, 5, [[1, 2], [3, 4]], by decide +kernel⟩

theorem test_meets_BinCalibration_1 : ∃ (s : State) (q : Nat) (c : Cmd), (q < 8)
    ∧ (s.serves q 0x0544 c)
    ∧ (c.payload = 1)
    ∧ (c.w 4 ≠ 0)
    ∧ (s.ready q ((bitList 32 (c.w 4).toNat).map uTu))
    ∧ ((∀ k ∈ bitList 32 (c.w 4).toNat, s.tuLive k = false)) :=
  ⟨run0 0x0544 [0x80000001] {}, 0, cmdOf 0x0544 [0x80000001], by decide +kernel⟩

theorem test_meets_BinCalibration_2 : ∃ (s : State) (d : Nat), (d < 4)
    ∧ (kget (fun _ => 3200000000) s.power.binCheck d ≤ s.now)
    ∧ (s.drifted d ≠ [])
    ∧ (s.claimOf (uDie d) = 0)
    ∧ (s.power.queue = [])
    ∧ (s.rd A.PW_GRANTED F.PW_GRANTED.MW + 200 ≤ s.effBudget) :=
  ⟨wr (A.TH_TEMP 4) F.TH_TEMP.TEMP 300 { now := 3200000000 }, 3, by decide +kernel⟩

theorem test_meets_BinCalibration_3 : ∃ (s : State) (k : Nat) (d : Nat) (l : List Nat), (k < 32)
    ∧ ((s.tuOf k).calAt = some d)
    ∧ (d + 48000000 ≤ s.now)
    ∧ (l.length = 512)
    ∧ (l.sum = 1048576)
    ∧ ((∀ h ∈ l, h ≤ 8192))
    ∧ ((∀ (q : Nat), q < 8 → s.running q = none))
    ∧ ((∀ (i : Nat), i < 8 → 8 * (k / 8) + i ≠ k → s.flag (A.TU_STATUS (8 * (k / 8) + i)) F.TU_STATUS.BINCAL_BUSY = false)) :=
  ⟨{ now := 48000000, tu := [(31, { calAt := some 0 })] }, 31, 0, List.replicate 512 2048, by decide +kernel⟩

theorem test_meets_BinCalibration_4 : ∃ (s : State) (k : Nat) (d : Nat) (l : List Nat), (k < 32)
    ∧ ((s.tuOf k).calAt = some d)
    ∧ (d + 48000000 ≤ s.now)
    ∧ (l.length = 512)
    ∧ (l.sum = 1048576)
    ∧ ((∃ h ∈ l, 8192 < h)) :=
  ⟨{ now := 48000000, tu := [(31, { calAt := some 0 })] }, 31, 0, 8193 :: 2047 :: 0 :: 0 :: 0 :: List.replicate 507 2048, by decide +kernel⟩

theorem test_meets_BinCalibration_5 : ∃ (s : State) (q : Nat) (c : Cmd) (k : Nat) (d : Nat) (l : List Nat), (q < 8)
    ∧ (s.running q = some c)
    ∧ (c.opcode = 0x0544)
    ∧ (c.stage = 1)
    ∧ (c.orphan = false)
    ∧ (c.w 4 = word (2 ^ k))
    ∧ (k < 32)
    ∧ ((s.tuOf k).calAt = some d)
    ∧ (d + 48000000 ≤ s.now)
    ∧ (l.length = 512)
    ∧ (l.sum = 1048576)
    ∧ ((∀ h ∈ l, h ≤ 8192)) :=
  ⟨{ now := 48000000, tu := [(31, { calAt := some 0 })], rings := [(7, { run := some { cmdOf 0x0544 [0x80000000] with stage := 1 } })] }, 7, { cmdOf 0x0544 [0x80000000] with stage := 1 }, 31, 0, List.replicate 512 2048, by decide +kernel⟩

theorem test_meets_RingTime_1 : ∃ (s : State) (q : Nat) (c : Cmd), (q < 8)
    ∧ (s.serves q 0x0548 c)
    ∧ (c.payload = 64)
    ∧ ((∀ (i : Nat), i < 64 → bits (c.w (4 + i)) 31 24 = 0))
    ∧ (s.ready q [uGnomon]) :=
  ⟨run0 0x0548 [1, 8, 15, 22, 29, 36, 43, 50, 57, 64, 71, 78, 85, 92, 99, 106, 113, 120, 127, 134, 141, 148, 155, 162, 169, 176, 183, 190, 197, 204, 211, 218, 225, 232, 239, 246, 253, 260, 267, 274, 281, 288, 295, 302, 309, 316, 323, 330, 337, 344, 351, 358, 365, 372, 379, 386, 393, 400, 407, 414, 421, 428, 435, 442] {}, 0, cmdOf 0x0548 [1, 8, 15, 22, 29, 36, 43, 50, 57, 64, 71, 78, 85, 92, 99, 106, 113, 120, 127, 134, 141, 148, 155, 162, 169, 176, 183, 190, 197, 204, 211, 218, 225, 232, 239, 246, 253, 260, 267, 274, 281, 288, 295, 302, 309, 316, 323, 330, 337, 344, 351, 358, 365, 372, 379, 386, 393, 400, 407, 414, 421, 428, 435, 442], by decide +kernel⟩

theorem test_meets_RingTime_2 : ∃ (s : State) (q : Nat) (c : Cmd), (q < 8)
    ∧ (s.serves q 0x0830 c)
    ∧ (c.payload = 1)
    ∧ (c.w 4 = 1)
    ∧ (s.ready q [uXearn 0, uXearn 1])
    ∧ (s.flag A.HL_STATUS F.HL_STATUS.UMBRA = false)
    ∧ (s.xrState < 2)
    ∧ (s.ownPos ∉ s.xr.members) :=
  ⟨run0 0x0830 [1] { (setReg A.XR_CTRL 1 (wr A.XR_STATUS F.XR_STATUS.OWN_POS 31 {})) with xr := { members := [2, 3], onTime := [3] } }, 0, cmdOf 0x0830 [1], by decide +kernel⟩

theorem test_meets_RingTime_3 : ∃ (s : State) (q : Nat) (c : Cmd), (q < 8)
    ∧ (s.serves q 0x0830 c)
    ∧ (c.payload = 1)
    ∧ (c.w 4 = 1)
    ∧ (s.ready q [uXearn 0, uXearn 1])
    ∧ (s.flag A.HL_STATUS F.HL_STATUS.UMBRA = false)
    ∧ (s.xrState < 2)
    ∧ (s.ownPos ∈ s.xr.members)
    ∧ (s.flag A.GN_STATUS F.GN_STATUS.RING_DUP = false) :=
  ⟨run0 0x0830 [1] { (setReg A.XR_CTRL 1 (wr A.XR_STATUS F.XR_STATUS.OWN_POS 31 {})) with xr := { members := [2, 31], onTime := [31] } }, 0, cmdOf 0x0830 [1], by decide +kernel⟩

theorem test_meets_RingTime_4 : ∃ (s : State) (q : Nat) (c : Cmd), (q < 8)
    ∧ (s.serves q 0x0830 c)
    ∧ (c.payload = 1)
    ∧ (c.w 4 = 0)
    ∧ (s.ready q [uXearn 0, uXearn 1])
    ∧ (s.flag A.HL_STATUS F.HL_STATUS.UMBRA = false)
    ∧ (2 ≤ s.xrState) :=
  ⟨run0 0x0830 [0] (onRing { members := [2, 31] }), 0, cmdOf 0x0830 [0], by decide +kernel⟩

theorem test_meets_RingTime_5 : ∃ (s : State) (x : Nat), (s.xrState = 3)
    ∧ (s.flag A.GN_STATUS F.GN_STATUS.MASTER = true)
    ∧ (s.xr.sent + 3200000 ≤ s.now) :=
  ⟨{ wr A.GN_STATUS F.GN_STATUS.MASTER 1 (onRing {}) with now := 3200000 }, 77, by decide +kernel⟩

theorem test_meets_RingTime_6 : ∃ (s : State) (p : Nat) (a : Int) (r : Nat) (m : Nat) (o : Nat) (x : Nat) (y : Nat), (s.xrState = 1)
    ∧ (p < 32) :=
  ⟨setReg A.XR_CTRL 1 {}, 31, -5, 9, 3, 1, 2, 3, by decide +kernel⟩

theorem test_meets_RingTime_7 : ∃ (s : State) (p : Nat) (a : Int) (r : Nat) (x : Nat) (y : Nat) (d : Int), (s.xrState = 3)
    ∧ (p < s.ownPos)
    ∧ (s.ringTime = true)
    ∧ (s.xr.members = [p, s.ownPos])
    ∧ (d = a + (s.pathDelay r p : Nat) - s.fullNow x)
    ∧ (d.natAbs ≤ 65536) :=
  ⟨wr A.GN_STATUS F.GN_STATUS.RING_TIME 1 (onRing { members := [30, 31] }), 30, 70, 3, 5, 6, 68, by decide +kernel⟩

theorem test_meets_RingTime_8 : ∃ (s : State) (p : Nat) (a : Int) (r : Nat) (x : Nat) (y : Nat) (d : Int), (s.xrState = 3)
    ∧ (p < s.ownPos)
    ∧ (s.ringTime = false)
    ∧ (s.xr.members = [p, s.ownPos])
    ∧ (d = a + (s.pathDelay r p : Nat) - s.fullNow x) :=
  ⟨onRing { members := [0, 31] }, 0, 7000000, 3, 5, 6, 6999998, by decide +kernel⟩

theorem test_meets_RingTime_9 : ∃ (s : State) (p : Nat) (a : Int) (r : Nat) (x : Nat) (y : Nat) (d : Int), (s.xrState = 3)
    ∧ (p < s.ownPos)
    ∧ (s.ringTime = true)
    ∧ (s.xr.members = [p, s.ownPos])
    ∧ (d = a + (s.pathDelay r p : Nat) - s.fullNow x)
    ∧ (65536 < d.natAbs) :=
  ⟨wr A.GN_STATUS F.GN_STATUS.RING_TIME 1 (onRing { members := [30, 31] }), 30, 70000, 3, 5, 6, 69998, by decide +kernel⟩

theorem test_meets_RingTime_10 : ∃ (s : State) (p : Nat) (a : Int) (r : Nat) (x : Nat) (y : Nat) (g : Int), (s.xrState = 3)
    ∧ (p < 32)
    ∧ (s.masterPos = s.ownPos)
    ∧ (s.xr.members = [s.ownPos])
    ∧ (s.xr.onTime = [s.ownPos])
    ∧ (s.ringTime = true)
    ∧ (g = s.fullNow x - a)
    ∧ (r + fineOf (((List.range 32).map s.seg).sum
      + (((List.range 32).filter (fun p => p ≠ s.ownPos)).map s.byp).sum) = y)
    ∧ (10486 < (g - (y : Nat)).natAbs) :=
  ⟨wr A.GN_STATUS F.GN_STATUS.RING_TIME 1 (onRing { members := [31], onTime := [31] }), 31, -20000, 3, 5, 3, 20005, by decide +kernel⟩

theorem test_meets_RingTime_11 : ∃ (s : State) (d : Int), (s.xr.stepWait = some d)
    ∧ (s.busyForStep = false)
    ∧ (s.xrState = 3) :=
  ⟨{ onRing { stepWait := some (-70000) } with gn := ⟨0, true, 0⟩, now := 100 }, -70000, by decide +kernel⟩

theorem test_meets_RingTime_12 : ∃ (s : State) (d : Nat), (s.xr.lastSync = some d)
    ∧ (d + 32000000 ≤ s.now) :=
  ⟨{ wr A.GN_STATUS F.GN_STATUS.RING_TIME 1 (onRing { lastSync := some 0 }) with now := 32000000 }, 0, by decide +kernel⟩

theorem test_meets_RingTime_13 : ∃ (s : State), (s.xrState = 3)
    ∧ (s.xr.lockLost = false) :=
  ⟨onRing {}, by decide +kernel⟩

theorem test_meets_ClocksAndLinks_1 : ∃ (s : State) (d : Nat), (s.clocks.warmUntil = some d)
    ∧ (d ≤ s.now) :=
  ⟨{ clocks := { warmUntil := some 5 }, now := 5 }, 5, by decide +kernel⟩

theorem test_meets_ClocksAndLinks_2 : ∃ (s : State), (s.tapOnly = false)
    ∧ (s.flag A.CLK_STATUS F.CLK_STATUS.REF_PRESENT = true) :=
  ⟨wr A.CLK_STATUS F.CLK_STATUS.REF_PRESENT 1 {}, by decide +kernel⟩

theorem test_meets_ClocksAndLinks_3 : ∃ (s : State), (s.tapOnly = false) :=
  ⟨{}, by decide +kernel⟩

theorem test_meets_ClocksAndLinks_4 : ∃ (s : State) (d : Nat), (s.tapOnly = false)
    ∧ (s.clocks.missingSince = some d)
    ∧ (s.rd A.CLK_HOLD F.CLK_HOLD.HOLD_MS ≠ 0)
    ∧ (d + 2880000 * s.rd A.CLK_HOLD F.CLK_HOLD.HOLD_MS ≤ s.now) :=
  ⟨wr A.CLK_HOLD F.CLK_HOLD.HOLD_MS 1 { clocks := { missingSince := some 5 }, now := 2880005 }, 5, by decide +kernel⟩

theorem test_meets_ClocksAndLinks_5 : ∃ (s : State), (s.tapOnly = false)
    ∧ (s.flag A.CLK_STATUS F.CLK_STATUS.REF_PRESENT = true)
    ∧ (s.flag A.GN_STATUS F.GN_STATUS.LOCK = false) :=
  ⟨wr A.CLK_STATUS F.CLK_STATUS.REF_PRESENT 1 { now := 5 }, by decide +kernel⟩

theorem test_meets_ClocksAndLinks_6 : ∃ (s : State) (v : Bool), (s.tapOnly = false)
    ∧ (s.flag A.ID_STRAP F.ID_STRAP.OVEN_WIRED = true) :=
  ⟨wr A.ID_STRAP F.ID_STRAP.OVEN_WIRED 1 { now := 5 }, false, by decide +kernel⟩

theorem test_meets_ClocksAndLinks_7 : ∃ (s : State) (n : Nat) (x : Nat), (s.tapOnly = false)
    ∧ (2 ≤ n)
    ∧ (n < 22)
    ∧ (s.checks n = true)
    ∧ (s.expected n = x) :=
  ⟨wr A.CLK_STATUS F.CLK_STATUS.REF_PRESENT 1 {}, 21, 3200, by decide +kernel⟩

theorem test_meets_ClocksAndLinks_8 : ∃ (s : State) (n : Nat) (x : Nat) (lost : Bool), (s.tapOnly = false)
    ∧ (2 ≤ n)
    ∧ (n < 22)
    ∧ (n ≠ 7)
    ∧ (n ≠ 8)
    ∧ (n ≠ 9)
    ∧ (s.checks n = true)
    ∧ (lost = true ∨ 201 * s.expected n < 200 * x ∨ 200 * x < 199 * s.expected n)
    ∧ (kget (fun _ => 0) s.clocks.badWindows n = 1) :=
  ⟨wr A.CLK_STATUS F.CLK_STATUS.REF_PRESENT 1 { clocks := { badWindows := [(21, 1)] } }, 21, 3217, false, by decide +kernel⟩

theorem test_meets_ClocksAndLinks_9 : ∃ (s : State) (n : Nat) (x : Nat), (s.tapOnly = false)
    ∧ (n = 8 ∨ n = 9)
    ∧ (s.checks n = true)
    ∧ (kget (fun _ => 0) s.clocks.badWindows n = 1) :=
  ⟨wr A.XR_STATUS F.XR_STATUS.MEMBERS 2 (wr A.CLK_STATUS F.CLK_STATUS.REF_PRESENT 1 { clocks := { badWindows := [(9, 1)] } }), 9, 5, by decide +kernel⟩

theorem test_meets_ClocksAndLinks_10 : ∃ (s : State) (n : Nat) (x : Nat) (lost : Bool), (s.tapOnly = false)
    ∧ (2 ≤ n)
    ∧ (n ≤ 23)
    ∧ (s.checks n = false) :=
  ⟨{}, 21, 5, true, by decide +kernel⟩

theorem test_meets_ClocksAndLinks_11 : ∃ (s : State) (d : Nat) (i : Nat), (s.tapOnly = false)
    ∧ (d < 4)
    ∧ (d ∉ s.clocks.linksDown)
    ∧ (i < 16)
    ∧ (s.formed i = true)
    ∧ ((s.tilesOf i).any (fun k => k / 4 = d) = true)
    ∧ (s.active i = false)
    ∧ (s.armed i = true)
    ∧ ((∀ (j : Nat), j < 16 → j ≠ i → s.formed j = false)) :=
  ⟨wr (A.SEQ_SITE_STATE 15) F.SEQ_SITE_STATE.ARMED 1 (siteOn 15 0 {}), 3, 15, by decide +kernel⟩

theorem test_meets_ClocksAndLinks_12 : ∃ (s : State) (d : Nat) (i : Nat), (s.tapOnly = false)
    ∧ (d < 4)
    ∧ (d ∉ s.clocks.linksDown)
    ∧ (i < 16)
    ∧ (s.formed i = true)
    ∧ ((s.tilesOf i).any (fun k => k / 4 = d) = true)
    ∧ (s.siteState i = 4)
    ∧ ((s.site i).stop = none)
    ∧ ((∀ (j : Nat), j < 16 → j ≠ i → s.formed j = false)) :=
  ⟨siteOn 15 4 { now := 500 }, 3, 15, by decide +kernel⟩

theorem test_meets_ClocksAndLinks_13 : ∃ (s : State) (d : Nat), (s.tapOnly = false)
    ∧ (d < 4)
    ∧ (d ∉ s.clocks.linksDown)
    ∧ ((∀ (j : Nat), j < 16 → s.formed j = false)) :=
  ⟨{}, 3, by decide +kernel⟩

theorem test_meets_Calibration_1 : ∃ (s : State) (q : Nat) (c : Cmd) (d : Nat) (kind : Nat), (q < 8)
    ∧ (s.serves q 0x0601 c)
    ∧ (c.payload = 9)
    ∧ (bits (c.w 4) 31 28 = kind)
    ∧ (kind ≤ 6)
    ∧ (bits (c.w 4) 26 0 = 0)
    ∧ ((bit (c.w 4) 27 = true → kind = 2 ∨ kind = 6))
    ∧ (d < 4)
    ∧ (calMask c ≠ [])
    ∧ ((∀ i ∈ calMask c, i / kindPerDie kind = d))
    ∧ ((∀ i ∈ calMask c, s.calReady kind i = true ∧ (kind ≤ 2 → s.retired i = false ∧ s.mode i ≠ 7)))
    ∧ (s.ready q (uCal d :: (calMask c).map (kindUnit kind)))
    ∧ (s.shortfall [(uCal d, 1000)] = 0) :=
  ⟨run0 0x0601 [0x30000000, 0x81000000, 0, 0, 0, 0, 0, 0, 0] {}, 0, cmdOf 0x0601 [0x30000000, 0x81000000, 0, 0, 0, 0, 0, 0, 0], 3, 3, by decide +kernel⟩

theorem test_meets_Calibration_2 : ∃ (s : State) (d : Nat) (j : CalJob), (d < 4)
    ∧ (s.calJob d = some j)
    ∧ (j.opened = true)
    ∧ (j.groups.length = 1)
    ∧ (j.kind ≤ 3)
    ∧ (j.since + groupTime j.kind ≤ s.now)
    ∧ ((∀ i ∈ j.groups.headD [], i / kindPerDie j.kind = d))
    ∧ ((∀ (e : Nat), e < 4 → e ≠ d → s.calJob e = none))
    ∧ (s.levels.calHeld = []) :=
  ⟨calibrating { ring := 7, kind := 0, anchor := false, groups := [[192, 255]], since := 0, opened := true, conn := [255] }, 3, { ring := 7, kind := 0, anchor := false, groups := [[192, 255]], since := 0, opened := true, conn := [255] }, by decide +kernel⟩

theorem test_meets_Calibration_3 : ∃ (s : State) (q : Nat) (c : Cmd) (d : Nat) (j : CalJob), (q < 8)
    ∧ (d < 4)
    ∧ (s.calJob d = some j)
    ∧ (j.ring = q)
    ∧ (j.opened = true)
    ∧ (j.groups = [])
    ∧ (j.since + 6400 ≤ s.now)
    ∧ (j.failed ≠ [])
    ∧ ((∀ (e : Nat), e < 4 → e ≠ d → s.calJob e = none))
    ∧ (s.running q = some c)
    ∧ (c.opcode = 0x0601)
    ∧ (c.stage = 1)
    ∧ (c.orphan = false) :=
  ⟨calibrating { ring := 7, kind := 0, anchor := false, groups := [], since := 76793600, opened := true, failed := [192, 255] }, 7, { cmdOf 0x0601 [] with stage := 1 }, 3, { ring := 7, kind := 0, anchor := false, groups := [], since := 76793600, opened := true, failed := [192, 255] }, by decide +kernel⟩

theorem test_meets_Calibration_4 : ∃ (s : State) (q : Nat) (c : Cmd) (d : Nat) (i : Nat) (a : Int) (b : Int) (x : Int) (y : Int) (j : CalJob), (q < 8)
    ∧ (d < 4)
    ∧ (s.calJob d = some j)
    ∧ (j.ring = q)
    ∧ (j.kind = 5)
    ∧ (j.groups = [[i]])
    ∧ (i / 16 = d)
    ∧ (j.since + 6400000 ≤ s.now)
    ∧ (j.done = 0)
    ∧ (j.failed = [])
    ∧ ((∀ (e : Nat), e < 4 → e ≠ d → s.calJob e = none))
    ∧ (s.running q = some c)
    ∧ (c.opcode = 0x0601)
    ∧ (c.stage = 1)
    ∧ (c.orphan = false)
    ∧ (s.levels.calHeld = [])
    ∧ ((∀ v ∈ [a, b, x, y], -511 ≤ v ∧ v ≤ 511)) :=
  ⟨calibrating { ring := 7, kind := 5, anchor := false, groups := [[63]], since := 0 }, 7, { cmdOf 0x0601 [] with stage := 1 }, 3, 63, -511, 511, 3, -4, { ring := 7, kind := 5, anchor := false, groups := [[63]], since := 0 }, by decide +kernel⟩

theorem test_meets_Calibration_5 : ∃ (s : State) (q : Nat) (c : Cmd) (n : Nat), (q < 8)
    ∧ (s.serves q 0x0602 c)
    ∧ (c.payload = 1 + 3 * n)
    ∧ (c.w 4 = word n)
    ∧ (0 < n)
    ∧ (n ≤ 1024)
    ∧ ((∀ (i : Nat), i < n → s.ready q [(c.w (5 + 3 * i)).toNat]
      ∧ definedEntry (c.w (5 + 3 * i)).toNat (bits (c.w (6 + 3 * i)) 31 24) (bits (c.w (6 + 3 * i)) 23 16) = true
      ∧ fitsFormat (bits (c.w (6 + 3 * i)) 31 24) (bits (c.w (6 + 3 * i)) 23 16) (c.w (7 + 3 * i)) = true
      ∧ (uclass (c.w (5 + 3 * i)).toNat = 1 → s.retired (uindex (c.w (5 + 3 * i)).toNat) = false ∧ s.mode (uindex (c.w (5 + 3 * i)).toNat) ≠ 7)
      ∧ (bits (c.w (6 + 3 * i)) 31 24 = 1 → s.siteHolds (uindex (c.w (5 + 3 * i)).toNat) = none)
      ∧ (bits (c.w (6 + 3 * i)) 31 24 = 2 → ∀ p ∈ pinsOfDie (uindex (c.w (5 + 3 * i)).toNat), s.pinFree p = true))) :=
  ⟨run0 0x0602 [2, 0x0800001F, 0x06000000, 5, 0x010000FF, 0x010B0000, 0x80000000] {}, 0, cmdOf 0x0602 [2, 0x0800001F, 0x06000000, 5, 0x010000FF, 0x010B0000, 0x80000000], 2, by decide +kernel⟩

theorem test_meets_Calibration_6 : ∃ (s : State) (q : Nat) (c : Cmd) (u : Nat) (item : Nat) (e : Nat), (q < 8)
    ∧ (s.serves q 0x0602 c)
    ∧ (c.payload = 4)
    ∧ (c.w 4 = word (2 ^ 31 + 1))
    ∧ ((c.w 5).toNat = u)
    ∧ (bits (c.w 6) 31 24 = item)
    ∧ (bits (c.w 6) 23 16 = e)
    ∧ (definedEntry u item e = true)
    ∧ (fitsFormat item e (c.w 7) = true)
    ∧ ((uclass u = 1 → s.retired (uindex u) = false ∧ s.mode (uindex u) ≠ 7))
    ∧ ((item = 1 → s.siteHolds (uindex u) = none))
    ∧ ((item = 2 → ∀ p ∈ pinsOfDie (uindex u), s.pinFree p = true))
    ∧ (s.ready q [u]) :=
  ⟨run0 0x0602 [0x80000001, 0x010000FF, 0x010B0000, 5] {}, 0, cmdOf 0x0602 [0x80000001, 0x010000FF, 0x010B0000, 5], 0x010000FF, 1, 11, by decide +kernel⟩

theorem test_meets_Calibration_7 : ∃ (s : State) (q : Nat) (c : Cmd) (u : Nat) (item : Nat) (first : Nat) (n : Nat), (q < 8)
    ∧ (s.serves q 0x0603 c)
    ∧ (c.payload = 2)
    ∧ ((c.w 4).toNat = u)
    ∧ (c.w 5 = word (item * 2 ^ 24 + first * 2 ^ 16 + n * 2 ^ 8))
    ∧ (item < 256)
    ∧ (first < 256)
    ∧ (0 < n)
    ∧ (n ≤ 64)
    ∧ ((∀ (i : Nat), i < n → definedEntry u item (first + i) = true))
    ∧ (s.ready q [u]) :=
  ⟨run0 0x0603 [0x15000000, 0x0B004000] { cal := { entries := [(calKey uGnomon 0x0B 63, some ⟨77, 0⟩)] } }, 0, cmdOf 0x0603 [0x15000000, 0x0B004000], 0x15000000, 0x0B, 0, 64, by decide +kernel⟩

theorem test_meets_Calibration_8 : ∃ (s : State) (q : Nat) (c : Cmd) (n : Nat), (q < 8)
    ∧ (s.serves q 0x0604 c)
    ∧ (c.payload = 0)
    ∧ (([0, 1].filterMap (fun i => bankSeq (s.bank i))).foldl max 0 + 1 = n)
    ∧ (n < 2 ^ 32 - 1) :=
  ⟨run0 0x0604 [] (wr A.CAL_STATUS F.CAL_STATUS.BANK_USED 1 { cal := { entries := [(calKey uGnomon 0x0B 63, some ⟨77, 0⟩)] } }), 0, cmdOf 0x0604 [], 1, by decide +kernel⟩

theorem test_meets_Calibration_9 : ∃ (s : State) (q : Nat) (c : Cmd), (q < 8)
    ∧ (s.serves q 0x0605 c)
    ∧ (c.payload = 0) :=
  ⟨run0 0x0605 [] {}, 0, cmdOf 0x0605 [], by decide +kernel⟩

theorem test_meets_Calibration_10 : ∃ (s : State) (q : Nat) (c : Cmd) (d : Nat) (m : Nat) (i : Nat), (q < 8)
    ∧ (s.serves q 0x0606 c)
    ∧ (c.payload = 1)
    ∧ (c.w 4 = word (d * 2 ^ 9 + m * 2 ^ 6 + i))
    ∧ (d < 4)
    ∧ (m ≤ 4)
    ∧ (i ≤ extTop m)
    ∧ ((m = 1 → s.retired (64 * d + i) = false ∧ s.mode (64 * d + i) ≠ 7))
    ∧ (s.ready q [uDie d])
    ∧ ((s.rd (A.CAL_EXT d) F.CAL_EXT.TYPE ≠ m ∨ s.rd (A.CAL_EXT d) F.CAL_EXT.INDEX ≠ i))
    ∧ (kget (fun _ => none) s.cal.settle d = none) :=
  ⟨run0 0x0606 [0x0000067F] (setReg (A.CAL_EXT 3) 0 {}), 0, cmdOf 0x0606 [0x0000067F], 3, 1, 63, by decide +kernel⟩

theorem test_meets_Calibration_11 : ∃ (s : State) (q : Nat) (c : Cmd) (d : Nat) (m : Nat) (i : Nat) (u : Nat), (d < 4)
    ∧ (kget (fun _ => none) s.cal.settle d = some (u, m, i))
    ∧ (u ≤ s.now)
    ∧ (m < 8)
    ∧ (i < 64)
    ∧ (q < 8)
    ∧ (s.running q = some c)
    ∧ (c.opcode = 0x0606)
    ∧ (c.stage = 1)
    ∧ (bits (c.w 4) 10 9 = d)
    ∧ (c.orphan = false)
    ∧ ((∀ (r : Nat), r < q → s.running r = none)) :=
  ⟨{ cal := { settle := [(3, some (5, 1, 63))] }, now := 5, rings := [(7, { run := some { cmdOf 0x0606 [0x0000067F] with stage := 1 } })] }, 7, { cmdOf 0x0606 [0x0000067F] with stage := 1 }, 3, 1, 63, 5, by decide +kernel⟩

theorem test_meets_Calibration_12 : ∃ (s : State) (d : Nat) (u : Nat), (kget (fun _ => 0) s.power.islandWarm d = u)
    ∧ (0 < u)
    ∧ (u ≤ s.now) :=
  ⟨{ power := { islandWarm := [(3, 9)] }, now := 9 }, 3, 9, by decide +kernel⟩

theorem test_meets_PowerStates_1 : ∃ (s : State) (q : Nat) (c : Cmd) (n : Nat), (q < 8)
    ∧ (s.serves q 0x0701 c)
    ∧ (c.payload = 1)
    ∧ (c.w 4 = word n)
    ∧ (58000 ≤ n)
    ∧ (n ≤ 110000)
    ∧ (s.rd A.PW_GRANTED F.PW_GRANTED.MW ≤ n)
    ∧ (s.ready q [uArbiter]) :=
  ⟨run0 0x0701 [110000] (wr A.PW_GRANTED F.PW_GRANTED.MW 110000 {}), 0, cmdOf 0x0701 [110000], 110000, by decide +kernel⟩

theorem test_meets_PowerStates_2 : ∃ (s : State) (q : Nat) (c : Cmd) (n : Nat), (q < 8)
    ∧ (s.serves q 0x0702 c)
    ∧ (c.payload = 1 + n)
    ∧ (c.w 4 = word n)
    ∧ (0 < n)
    ∧ (n ≤ 254)
    ∧ (s.ready q [uArbiter])
    ∧ ((∀ (i : Nat), i < n → bits (c.w (5 + i)) 31 16 = 0 ∧ bits (c.w (5 + i)) 7 3 = 0 ∧ bits (c.w (5 + i)) 15 8 ≤ 253 ∧ bits (c.w (5 + i)) 2 0 ≤ 4)) :=
  ⟨run0 0x0702 [3, 0x0000FD04, 0x00000001, 0x0000FD03] {}, 0, cmdOf 0x0702 [3, 0x0000FD04, 0x00000001, 0x0000FD03], 3, by decide +kernel⟩

theorem test_meets_PowerStates_3 : ∃ (s : State) (q : Nat) (c : Cmd), (q < 8)
    ∧ (s.serves q 0x0703 c)
    ∧ (c.payload = 0)
    ∧ (s.ready q [uArbiter]) :=
  ⟨run0 0x0703 [] (setReg A.PW_REFUSED 9 (settled (setReg A.PW_REFUSED 7 {}))), 0, cmdOf 0x0703 [], by decide +kernel⟩

theorem test_meets_PowerStates_4 : ∃ (s : State) (q : Nat) (c : Cmd) (k : Nat), (q < 8)
    ∧ (s.serves q 0x0704 c)
    ∧ (c.payload = 2)
    ∧ (c.w 4 = word k)
    ∧ (k < 6)
    ∧ (s.ready q [uArbiter])
    ∧ (limitsOk k (bits (c.w 5) 31 16) (bits (c.w 5) 15 0) = true) :=
  ⟨run0 0x0704 [5, 0x034702F8] {}, 0, cmdOf 0x0704 [5, 0x034702F8], 5, by decide +kernel⟩

theorem test_meets_PowerStates_5 : ∃ (s : State) (b : Nat), (b < 254)
    ∧ (s.transition b = none)
    ∧ (s.powerState b < s.selected b)
    ∧ (s.blockHeld b = false) :=
  ⟨wr (A.PW_BLOCK 121) F.PW_BLOCK.FLOOR 3 {}, 121, by decide +kernel⟩

theorem test_meets_PowerStates_6 : ∃ (s : State) (b : Nat), (b < 254)
    ∧ (s.transition b = none)
    ∧ (s.selected b < s.powerState b) :=
  ⟨wr (A.PW_BLOCK 121) F.PW_BLOCK.STATE 4 (wr (A.PW_BLOCK 121) F.PW_BLOCK.FLOOR 0 {}), 121, by decide +kernel⟩

theorem test_meets_PowerStates_7 : ∃ (s : State) (b : Nat) (p : Nat) (d : Nat), (b < 254)
    ∧ (s.transition b = some ⟨p, d, true⟩)
    ∧ (d ≤ s.now)
    ∧ (p ≤ 4)
    ∧ (s.blockHeld b = false) :=
  ⟨{ power := { moving := [(253, ⟨4, 9, true⟩)] }, now := 9 }, 253, 4, 9, by decide +kernel⟩

theorem test_meets_PowerStates_8 : ∃ (s : State) (b : Nat) (p : Nat) (d : Nat), (b < 254)
    ∧ (s.transition b = some ⟨p, d, true⟩)
    ∧ (d ≤ s.now)
    ∧ (0 < p)
    ∧ (p ≤ 4)
    ∧ (s.blockHeld b = true) :=
  ⟨{ power := { moving := [(253, ⟨4, 9, true⟩)] }, now := 9, rings := [(0, { run := some { cmdOf 0x0201 [] with want := [uPin 255] } })] }, 253, 4, 9, by decide +kernel⟩

theorem test_meets_PowerStates_9 : ∃ (s : State) (b : Nat) (p : Nat) (d : Nat), (b < 254)
    ∧ (s.transition b = some ⟨p, d, false⟩)
    ∧ (d ≤ s.now)
    ∧ (p ≤ 4) :=
  ⟨wr (A.PW_BLOCK 253) F.PW_BLOCK.STATE 3 { power := { moving := [(253, ⟨0, 9, false⟩)] }, now := 9 }, 253, 0, 9, by decide +kernel⟩

theorem test_meets_PowerStates_10 : ∃ (s : State), (s.power.queue = [⟨uPlace, 600⟩])
    ∧ (s.rd A.PW_GRANTED F.PW_GRANTED.MW + 600 ≤ s.effBudget) :=
  ⟨{ power := { queue := [⟨uPlace, 600⟩] } }, by decide +kernel⟩

theorem test_meets_PowerStates_11 : ∃ (s : State) (w : Waiting) (l : List Waiting), (s.power.queue = w :: l)
    ∧ (s.effBudget < s.rd A.PW_GRANTED F.PW_GRANTED.MW + w.amount) :=
  ⟨wr A.PW_GRANTED F.PW_GRANTED.MW 96000 { power := { queue := [⟨uDie 3, 200⟩] } }, ⟨uDie 3, 200⟩, [], by decide +kernel⟩

theorem test_meets_ThermalAndRails_1 : ∃ (s : State) (l : List Int), (s.tapOnly = false)
    ∧ (s.power.tempAt + 320000 ≤ s.now)
    ∧ (l.length = 6) :=
  ⟨{ now := 320000 }, [100, 200, 300, -400, 900, 681], by decide +kernel⟩

theorem test_meets_ThermalAndRails_2 : ∃ (s : State) (k : Nat) (l : List Int), (s.tapOnly = false)
    ∧ (s.power.tempAt + 320000 ≤ s.now)
    ∧ (l.length = 6)
    ∧ (1 ≤ k)
    ∧ (k ≤ 4)
    ∧ (sext 16 (s.rd (A.TH_LIMIT k) F.TH_LIMIT.CRIT) ≤ l.getD k 0)
    ∧ ((∀ (i : Nat), i < 6 → s.flag (A.TH_TEMP i) F.TH_TEMP.CRIT = false))
    ∧ ((∀ (i : Nat), i < 6 → i ≠ k → l.getD i 0 < sext 16 (s.rd (A.TH_LIMIT i) F.TH_LIMIT.CRIT)))
    ∧ (s.calJob (k - 1) = none) :=
  ⟨{ wr (A.PIN_MODE 255) F.PIN_MODE.MODE 1 (wr (A.PIN_STATUS 255) F.PIN_STATUS.DRV_CONN 1 (wr (A.PG_STATUS 31) F.PG_STATUS.STATE 3 (wr (A.AW_STATUS 31) F.AW_STATUS.STATE 3 {}))) with now := 320000 }, 4, [100, 200, 300, -400, 1000, 681], by decide +kernel⟩

theorem test_meets_ThermalAndRails_3 : ∃ (s : State) (k : Nat), (k < 6)
    ∧ (s.link.up = true)
    ∧ (s.flag A.HL_CTRL F.HL_CTRL.WINDOW_RW = true)
    ∧ (s.fabricWait (A.TH_TEMP k) = none) :=
  ⟨settled (wr (A.TH_TEMP 5) F.TH_TEMP.TRIPPED 1 (barOpen {})), 5, by decide +kernel⟩

theorem test_meets_ThermalAndRails_4 : ∃ (s : State) (k : Nat), (k < 6) :=
  ⟨wr (A.PIN_STATUS 255) F.PIN_STATUS.DRV_CONN 1 { pg := [(31, { trail := some 900 })] }, 4, by decide +kernel⟩

theorem test_meets_ThermalAndRails_5 : ∃ (s : State) (r : Nat), (s.tapOnly = false)
    ∧ (r < 14 ∨ (16 ≤ r ∧ r < 40)) :=
  ⟨{}, 39, by decide +kernel⟩

theorem test_meets_ProfileSwitch_2 : ∃ (s : State) (q : Nat) (c : Cmd) (m : Nat), (q < 8)
    ∧ (s.serves q 0x0440 c)
    ∧ (c.payload = 1)
    ∧ (c.w 4 = word m)
    ∧ (m < 2)
    ∧ (s.mirror = decide (m = 1))
    ∧ (s.ready q profileUnits) :=
  ⟨run0 0x0440 [0] {}, 0, cmdOf 0x0440 [0], 0, by decide +kernel⟩

theorem test_meets_ProfileSwitch_3 : ∃ (s : State) (q : Nat) (c : Cmd), (q < 8)
    ∧ (s.running q = some c)
    ∧ (c.opcode = 0x0440)
    ∧ (c.stage = 1)
    ∧ (c.orphan = false)
    ∧ ((∀ (r : Nat), r < q → s.running r = none)) :=
  ⟨{ rings := [(7, { run := some { cmdOf 0x0440 [1] with stage := 1, data := [5, 6, 7] } })] }, 7, { cmdOf 0x0440 [1] with stage := 1, data := [5, 6, 7] }, by decide +kernel⟩

theorem test_meets_ResetSources_2 : ∃ (s : State) (r : Nat), (r < 256) :=
  ⟨{}, 39, by decide +kernel⟩

theorem test_meets_ResetSources_3 : ∃ (s : State), (2 ∉ s.assertedNow) :=
  ⟨{}, by decide +kernel⟩

theorem test_meets_ResetSources_4 : ∃ (s : State), (2 ∈ s.assertedNow) :=
  ⟨{ rst := { asserted := [(2, none), (4, some 9)] } }, by decide +kernel⟩

theorem test_meets_ResetSources_5 : ∃ (s : State) (n : Nat), (n < 4)
    ∧ (s.rst.fwUp = true)
    ∧ (n ∉ s.link.coresDown) :=
  ⟨{ rst := { fwUp := true } }, 3, by decide +kernel⟩

theorem test_meets_ResetSources_6 : ∃ (s : State), (s.flag A.WD_CTRL F.WD_CTRL.ENABLE = true)
    ∧ (s.rst.kickAt + 2880000 * s.rd A.WD_CTRL F.WD_CTRL.TIMEOUT_MS ≤ s.now) :=
  ⟨wr A.WD_CTRL F.WD_CTRL.ENABLE 1 (wr A.WD_CTRL F.WD_CTRL.TIMEOUT_MS 1 { now := 2880000 }), by decide +kernel⟩

theorem test_meets_ResetSources_7 : ∃ (s : State) (k : Nat), (s.link.up = true)
    ∧ (s.flag A.HL_CTRL F.HL_CTRL.WINDOW_RW = true)
    ∧ (s.fabricWait A.WD_KICK = none)
    ∧ (k % 256 = 0xA5) :=
  ⟨{ barOpen {} with now := 7 }, 0x1A5, by decide +kernel⟩

theorem test_meets_ResetSources_8 : ∃ (s : State) (k : Nat), (s.link.up = true)
    ∧ (s.flag A.HL_CTRL F.HL_CTRL.WINDOW_RW = true)
    ∧ (s.fabricWait A.WD_KICK = none)
    ∧ (k % 256 ≠ 0xA5) :=
  ⟨barOpen {}, 0xA4, by decide +kernel⟩

theorem test_meets_ResetSources_9 : ∃ (s : State) (n : Nat), (n < 4)
    ∧ (n ∉ s.link.coresDown) :=
  ⟨{}, 3, by decide +kernel⟩

theorem test_meets_ResetSources_11 : ∃ (s : State), (s.rst.phase = .release)
    ∧ (s.rst.since + 5760000000 ≤ s.now) :=
  ⟨{ rst := { phase := .release }, now := 5760000000 }, by decide +kernel⟩

theorem test_meets_ResetSources_12 : ∃ (s : State) (u : Nat) (d : Nat), (s.rst.waiting = [(u, d)])
    ∧ (d + 5760000 ≤ s.now) :=
  ⟨{ rst := { waiting := [(uDie 3, 0)] }, now := 5760000 }, uDie 3, 0, by decide +kernel⟩

theorem test_meets_ResetSources_13 : ∃ (s : State) (d : Nat) (r : Nat) (q : Nat), (s.rst.software = some (d, r, q))
    ∧ (d ≤ s.now) :=
  ⟨{ rst := { software := some (5, 3, 7) }, now := 5 }, 5, 3, 7, by decide +kernel⟩

theorem test_meets_ResetSequence_1 : ∃ (s : State) (n : Nat) (r : Nat), (s.rst.news = [n])
    ∧ (s.rst.latched = [])
    ∧ (s.sourceReach n = r)
    ∧ (2 ≤ r)
    ∧ (r ≤ 4) :=
  ⟨wr (A.PIN_STATUS 255) F.PIN_STATUS.DRV_CONN 1 { rst := { news := [3], phase := .release }, gn := ⟨0, true, 0⟩, now := 9 }, 3, 3, by decide +kernel⟩

theorem test_meets_ResetSequence_2 : ∃ (s : State) (v : Bool), (s.sampling 16 = true)
    ∧ (s.clocks.ovenFirst = none) :=
  ⟨coldReset .held none, true, by decide +kernel⟩

theorem test_meets_ResetSequence_3 : ∃ (s : State) (a : Bool) (v : Bool), (s.clocks.ovenFirst = some a)
    ∧ (s.sampling 32 = true) :=
  ⟨coldReset .held (some true), true, true, by decide +kernel⟩

theorem test_meets_ResetSequence_4 : ∃ (s : State) (b : Nat) (n : Nat) (m : Nat) (ref : Bool) (test : Bool), (s.rst.phase = .straps)
    ∧ (s.sinceP 64 = true)
    ∧ (b < 4)
    ∧ (n < 32)
    ∧ (m < 4) :=
  ⟨coldReset .straps (some true), 3, 31, 3, true, false, by decide +kernel⟩

theorem test_meets_ResetSequence_5 : ∃ (s : State) (p : Nat), (s.released = some p)
    ∧ (p ≤ s.now)
    ∧ (s.rst.phase = (if s.rst.reach = 4 then .sampled else .held))
    ∧ (s.fails < 4) :=
  ⟨{ rst := { asserted := [(4, some 5)], latched := [(4, 3)], reach := 3, phase := .held, stamp := 4294967297, subs := [(4, 3)] }, now := 6 }, 5, by decide +kernel⟩

theorem test_meets_ResetSequence_6 : ∃ (s : State) (p : Nat), (s.released = some p)
    ∧ (p ≤ s.now)
    ∧ (s.rst.phase = (if s.rst.reach = 4 then .sampled else .held))
    ∧ (4 ≤ s.fails) :=
  ⟨wr A.RST_STATUS F.RST_STATUS.FAILS 4 { rst := { asserted := [(4, some 5)], latched := [(4, 3)], reach := 3, phase := .held }, now := 6 }, 5, by decide +kernel⟩

theorem test_meets_ResetSequence_7 : ∃ (s : State), (s.rst.iso = [])
    ∧ (s.rst.phase = .release)
    ∧ (s.rst.waiting.any (·.1 = uGnomon) = true)
    ∧ (s.flag A.CLK_STATUS F.CLK_STATUS.REF_PRESENT = true)
    ∧ (s.flag A.CLK_STATUS F.CLK_STATUS.MTC_LOCK = true) :=
  ⟨clockedUp { phase := .release, waiting := [(uGnomon, 0)] }, by decide +kernel⟩

theorem test_meets_ResetSequence_8 : ∃ (s : State) (d : Nat), (s.rst.iso = [])
    ∧ (s.rst.phase = .release)
    ∧ (d < 4)
    ∧ (s.rst.waiting.any (·.1 = uDie d) = true)
    ∧ (s.flag A.CLK_STATUS F.CLK_STATUS.REF_PRESENT = true)
    ∧ (s.flag A.CLK_STATUS F.CLK_STATUS.MTC_LOCK = true) :=
  ⟨clockedUp { phase := .release, waiting := [(uDie 3, 0)], reach := 4 }, 3, by decide +kernel⟩

theorem test_meets_ResetSequence_9 : ∃ (s : State) (n : Nat), (s.rst.phase = .release)
    ∧ (s.rst.waiting = [])
    ∧ (s.rst.fwUp = false)
    ∧ (s.umbra = false)
    ∧ (s.rst.reach = 2)
    ∧ (s.hostBoot = false)
    ∧ (s.fwTaken = some n) :=
  ⟨{ rst := { phase := .release, reach := 2 }, svc := { retired := [255] }, flash := { fw := [(1, some ⟨7, 9, [], [], true, 5, 6⟩)] } }, 1, by decide +kernel⟩

theorem test_meets_ResetSequence_10 : ∃ (s : State), (s.rst.phase = .release)
    ∧ (s.rst.waiting = [])
    ∧ (s.rst.fwUp = false)
    ∧ (s.umbra = false)
    ∧ (s.rst.reach = 2)
    ∧ (s.hostBoot = true) :=
  ⟨wr A.ID_STRAP F.ID_STRAP.BOOT 1 { rst := { phase := .release, reach := 2 } }, by decide +kernel⟩

theorem test_meets_ResetSequence_11 : ∃ (s : State), (s.rst.phase = .release)
    ∧ (s.rst.waiting = [])
    ∧ (s.rst.fwUp = false)
    ∧ (s.umbra = false)
    ∧ (s.rst.reach = 2)
    ∧ (s.hostBoot = false)
    ∧ (s.fwTaken = none) :=
  ⟨{ rst := { phase := .release, reach := 2 } }, by decide +kernel⟩

theorem test_meets_ResetSequence_12 : ∃ (s : State) (x : Nat), (s.rst.phase = .release)
    ∧ (s.rst.fwUp = true)
    ∧ ((∀ (k : Nat), k < 32 → s.flag (A.TU_STATUS k) F.TU_STATUS.BINCAL_BUSY = false))
    ∧ (s.umbra = false)
    ∧ (s.rst.reach = 2)
    ∧ ((loadProfile s).lenmasBad = false) :=
  ⟨{ rst := { phase := .release, reach := 2, fwUp := true, latched := [(4, 2)] } }, 5, by decide +kernel⟩

theorem test_meets_ResetSequence_13 : ∃ (s : State) (x : Nat), (s.rst.phase = .release)
    ∧ (s.rst.fwUp = true)
    ∧ ((∀ (k : Nat), k < 32 → s.flag (A.TU_STATUS k) F.TU_STATUS.BINCAL_BUSY = false))
    ∧ (s.umbra = false)
    ∧ (3 ≤ s.rst.reach)
    ∧ (s.flash.images = []) :=
  ⟨{ rst := { phase := .release, reach := 3, fwUp := true, latched := [(4, 3)] } }, 99, by decide +kernel⟩

theorem test_meets_ResetSequence_14 : ∃ (s : State) (x : Nat), (s.rst.phase = .release)
    ∧ (s.rst.fwUp = true)
    ∧ ((∀ (k : Nat), k < 32 → s.flag (A.TU_STATUS k) F.TU_STATUS.BINCAL_BUSY = false))
    ∧ (s.umbra = true) :=
  ⟨wr A.HL_STATUS F.HL_STATUS.UMBRA 1 { rst := { phase := .release, reach := 3, fwUp := true, latched := [(4, 3)] } }, 99, by decide +kernel⟩

theorem test_meets_IsolatedResets_1 : ∃ (s : State) (q : Nat) (c : Cmd) (u : Nat) (r : Nat), (q < 8)
    ∧ (s.serves q 0x0801 c)
    ∧ (c.payload = 2)
    ∧ (c.w 4 = word (r * 2 ^ 31))
    ∧ (r < 2)
    ∧ ((c.w 5).toNat = u)
    ∧ (isUnit u (uclass u) (isoUnits (uclass u)) = true)
    ∧ (s.ready q [u])
    ∧ ((∀ i ∈ s.haltedBy u, s.reserved i = false)) :=
  ⟨run0 0x0801 [0x80000000, 0x06000003] (wr A.RST_STATUS F.RST_STATUS.FAILS 3 {}), 0, cmdOf 0x0801 [0x80000000, 0x06000003], 0x06000003, 1, by decide +kernel⟩

theorem test_meets_IsolatedResets_2 : ∃ (s : State) (q : Nat) (c : Cmd) (i : Nat), (q < 8)
    ∧ (s.serves q 0x0801 c)
    ∧ (c.payload = 2)
    ∧ (c.w 4 = 1)
    ∧ (c.w 5 = word (uSite i))
    ∧ (i < 16)
    ∧ (s.formed i = true)
    ∧ (s.ready q (uSite i :: (s.tilesOf i).map uTile))
    ∧ (s.reserved i = false)
    ∧ (s.reachRow.2 / 2 ^ 21 % 8 ≠ 0) :=
  ⟨run0 0x0801 [1, 0x0E00000F] (siteOn 15 0 {}), 0, cmdOf 0x0801 [1, 0x0E00000F], 15, by decide +kernel⟩

theorem test_meets_IsolatedResets_3 : ∃ (s : State) (q : Nat) (c : Cmd) (r : Nat), (q < 8)
    ∧ (s.serves q 0x0801 c)
    ∧ (c.payload = 2)
    ∧ (c.w 4 = word r)
    ∧ (2 ≤ r)
    ∧ (r ≤ 3)
    ∧ (c.w 5 = 0)
    ∧ (r ≤ s.reachRow.2 / 2 ^ 21 % 8) :=
  ⟨run0 0x0801 [3, 0] {}, 0, cmdOf 0x0801 [3, 0], 3, by decide +kernel⟩

theorem test_meets_IsolatedResets_4 : ∃ (s : State) (u : Nat) (x : IsoReset), (s.isoOf u = some x)
    ∧ (s.quiet u = true)
    ∧ (s.coreBusy u = false) :=
  ⟨{ rst := { iso := [⟨7, uPin 255, 5, 4294967297, none⟩] }, now := 9 }, uPin 255, ⟨7, uPin 255, 5, 4294967297, none⟩, by decide +kernel⟩

theorem test_meets_IsolatedResets_5 : ∃ (s : State) (u : Nat) (n : Nat) (k : Nat) (x : IsoReset), (s.isoOf u = some x)
    ∧ (s.quiet u = true)
    ∧ (x.since + 3200 * s.rd A.RST_ISO_CFG F.RST_ISO_CFG.TIMEOUT ≤ s.now)
    ∧ (k < 32) :=
  ⟨{ rst := { iso := [⟨7, uAw 31, 0, 4, none⟩] }, now := 3200000 }, uAw 31, 70000, 31, ⟨7, uAw 31, 0, 4, none⟩, by decide +kernel⟩

theorem test_meets_IsolatedResets_6 : ∃ (s : State) (q : Nat) (c : Cmd) (u : Nat) (d : Nat) (x : IsoReset), (s.rst.iso = [x])
    ∧ (x.unit = u)
    ∧ (x.ring = q)
    ∧ (x.resetAt = some d)
    ∧ (d + 128 ≤ s.now)
    ∧ (s.clocked u = true)
    ∧ (s.running q = some c)
    ∧ (c.orphan = false) :=
  ⟨{ clockedUp { iso := [⟨7, uCore 3, 0, 4, some 0⟩] } with link := { coresDown := [3] }, rings := [(7, { run := some { cmdOf 0x0801 [0, 0x06000003] with stage := 1 } })] }, 7, { cmdOf 0x0801 [0, 0x06000003] with stage := 1 }, uCore 3, 0, ⟨7, uCore 3, 0, 4, some 0⟩, by decide +kernel⟩

theorem test_meets_ServiceCommands_1 : ∃ (s : State) (q : Nat) (c : Cmd) (n : Nat) (p : FwPackage), (q < 8)
    ∧ (s.serves q 0x0810 c)
    ∧ (c.payload = 4)
    ∧ (c.w 4 = word (2 * n + 1))
    ∧ (n < 2)
    ∧ (bits (c.w 5) 1 0 = 0)
    ∧ (s.dmaWaits = false)
    ∧ ((c.w 7).toNat ≤ p.words.length)
    ∧ (p.headerOk = true) :=
  ⟨run0 0x0810 [3, 0, 0, 2] {}, 0, cmdOf 0x0810 [3, 0, 0, 2], 1, ⟨[5, 6, 7], true, 9, [], [], 5, 6⟩, by decide +kernel⟩

theorem test_meets_ServiceCommands_2 : ∃ (s : State) (q : Nat) (c : Cmd) (p : FwPackage), (q < 8)
    ∧ (s.serves q 0x0810 c)
    ∧ (c.payload = 4)
    ∧ (c.w 4 = 4)
    ∧ (bits (c.w 5) 1 0 = 0)
    ∧ (s.dmaWaits = false)
    ∧ ((c.w 7).toNat ≤ p.words.length)
    ∧ (p.headerOk = true)
    ∧ (s.hostBoot = true)
    ∧ (s.rst.fwUp = false) :=
  ⟨run0 0x0810 [4, 0, 0, 2] (wr A.ID_STRAP F.ID_STRAP.BOOT 1 {}), 0, cmdOf 0x0810 [4, 0, 0, 2], ⟨[5, 6, 7], true, 9, [], [], 5, 6⟩, by decide +kernel⟩

theorem test_meets_ServiceCommands_3 : ∃ (s : State) (q : Nat) (c : Cmd) (w : Word), (q < 8)
    ∧ (s.serves q 0x0811 c)
    ∧ (c.payload = 1)
    ∧ (c.w 4 = w)
    ∧ (bits w 31 24 = 0)
    ∧ ((∀ (n : Nat), n < 8 → reachAllowed n (bits w 23 0 / 2 ^ (3 * n) % 8) = true))
    ∧ (s.fuses.reachRows.length < 7) :=
  ⟨run0 0x0811 [0x006926DC] {}, 0, cmdOf 0x0811 [0x006926DC], 0x006926DC, by decide +kernel⟩

theorem test_meets_ServiceCommands_4 : ∃ (s : State) (q : Nat) (c : Cmd) (k : Nat) (i : Nat) (p : Nat) (l : List Nat) (h : List Nat), (q < 8)
    ∧ (s.serves q 0x0820 c)
    ∧ (c.payload = 1)
    ∧ (c.w 4 = word (k * 2 ^ 16 + i))
    ∧ ((k = 2 ∧ i < 16) ∨ (k = 3 ∧ i < 128) ∨ (k = 10 ∧ i < 32))
    ∧ (s.umbra = false)
    ∧ (s.remapReady (uid k i) = true)
    ∧ (s.spares (uid k i) = p :: l)
    ∧ ((∀ n ∈ h, n ≤ 8192))
    ∧ (s.ready q [uid k i])
    ∧ (s.hbmWaits 5 = false) :=
  ⟨run0 0x0820 [0x0003007F] { svc := { remaps := [(uLane 3, 128)] } }, 0, cmdOf 0x0820 [0x0003007F], 3, 127, 129, [130, 131, 132, 133, 134, 135], [], by decide +kernel⟩

theorem test_meets_ServiceCommands_5 : ∃ (s : State) (q : Nat) (c : Cmd) (k : Nat) (i : Nat) (h : List Nat), (q < 8)
    ∧ (s.serves q 0x0820 c)
    ∧ (c.payload = 1)
    ∧ (c.w 4 = word (2 ^ 31 + k * 2 ^ 16 + i))
    ∧ ((k = 2 ∧ i < 16) ∨ (k = 3 ∧ i < 128) ∨ (k = 10 ∧ i < 32))
    ∧ (s.umbra = false)
    ∧ (s.remapReady (uid k i) = true)
    ∧ (s.svc.remaps.any (·.1 = uid k i) = true)
    ∧ (s.ready q [uid k i])
    ∧ ((∀ n ∈ h, n ≤ 8192))
    ∧ (s.hbmWaits 5 = false) :=
  ⟨run0 0x0820 [0x8002000F] { svc := { remaps := [(uTile 15, 16)] } }, 0, cmdOf 0x0820 [0x8002000F], 2, 15, [], by decide +kernel⟩

theorem test_meets_ServiceCommands_6 : ∃ (s : State) (q : Nat) (c : Cmd) (n : Nat), (q < 8)
    ∧ (s.serves q 0x0821 c)
    ∧ (c.payload = 1)
    ∧ (c.w 4 = word n)
    ∧ (n < 256)
    ∧ (s.umbra = false)
    ∧ (s.retired n = false)
    ∧ (s.gangMember n = false)
    ∧ (s.gangLeader n = false)
    ∧ (s.siteHolds n = none)
    ∧ (s.ready q [uPin n]) :=
  ⟨run0 0x0821 [0x000000FF] {}, 0, cmdOf 0x0821 [0x000000FF], 255, by decide +kernel⟩

theorem test_meets_ServiceCommands_7 : ∃ (s : State) (q : Nat) (c : Cmd) (n : Nat), (q < 8)
    ∧ (s.serves q 0x0821 c)
    ∧ (c.payload = 1)
    ∧ (c.w 4 = word (2 ^ 31 + n))
    ∧ (n < 256)
    ∧ (s.umbra = false)
    ∧ (s.retired n = true)
    ∧ (s.siteHolds n = none)
    ∧ (s.ready q [uPin n]) :=
  ⟨run0 0x0821 [0x800000FF] (wr (A.PIN_MODE 255) F.PIN_MODE.MODE 7 { svc := { retired := [255] } }), 0, cmdOf 0x0821 [0x800000FF], 255, by decide +kernel⟩

theorem test_meets_ServiceCommands_8 : ∃ (s : State) (q : Nat) (c : Cmd) (n : Nat), (q < 8)
    ∧ (s.serves q 0x0B20 c)
    ∧ (c.payload = 0)
    ∧ (s.rd A.RST_HIST_HEAD F.RST_HIST_HEAD.COUNT = n) :=
  ⟨run0 0x0B20 [] (wr A.RST_HIST_HEAD F.RST_HIST_HEAD.COUNT 2 {}), 0, cmdOf 0x0B20 [], 2, by decide +kernel⟩

theorem test_meets_ServiceCommands_9 : ∃ (s : State) (n : Nat), (s.smbusAnswers n = true) :=
  ⟨wr A.ID_STRAP F.ID_STRAP.SMBA 3 (setReg (A.RST_CAUSE 3) 7 {}), 0x5B, by decide +kernel⟩

theorem test_meets_ServiceCommands_10 : ∃ (s : State) (n : Nat) (i : Nat), (s.smbusAnswers n = true)
    ∧ (i < 16) :=
  ⟨setReg (A.RST_HIST 1 3) 7 (wr A.RST_HIST_HEAD F.RST_HIST_HEAD.COUNT 16 {}), 0x58, 15, by decide +kernel⟩

theorem test_meets_TestAccessPort_1 : ∃ (s : State) (l : List Bool), (6 ∉ s.assertedNow) :=
  ⟨{}, [true], by decide +kernel⟩

theorem test_meets_TestAccessPort_2 : ∃ (s : State) (l : List Bool) (m : List Bool), (6 ∉ s.assertedNow) :=
  ⟨{}, [true], [false], by decide +kernel⟩

theorem test_meets_TestAccessPort_3 : ∃ (s : State), (6 ∉ s.assertedNow) :=
  ⟨{}, by decide +kernel⟩

theorem test_meets_TestAccessPort_4 : ∃ (s : State), (6 ∉ s.assertedNow) :=
  ⟨{}, by decide +kernel⟩

theorem test_meets_TestAccessPort_5 : ∃ (s : State), (6 ∉ s.assertedNow) :=
  ⟨{}, by decide +kernel⟩

theorem test_meets_TestAccessPort_6 : ∃ (s : State) (l : List Bool), (6 ∉ s.assertedNow) :=
  ⟨{}, [true], by decide +kernel⟩

theorem test_meets_TestAccessPort_7 : ∃ (s : State) (l : List Bool), (6 ∉ s.assertedNow) :=
  ⟨{}, [true], by decide +kernel⟩

theorem test_meets_TestAccessPort_8 : ∃ (s : State) (n : Nat), (6 ∉ s.assertedNow)
    ∧ (n < 256)
    ∧ (6 < n)
    ∧ (n ≠ 0x40) :=
  ⟨{}, 255, by decide +kernel⟩

theorem test_meets_TestAccessPort_9 : ∃ (s : State), (6 ∉ s.assertedNow) :=
  ⟨{ tap := { ir := 0x40, cells := [true] } }, by decide +kernel⟩

theorem test_meets_TestAccessPort_10 : ∃ (s : State), (6 ∉ s.assertedNow) :=
  ⟨{}, by decide +kernel⟩

theorem test_meets_TestAccessPort_11 : ∃ (s : State), (6 ∈ s.assertedNow) :=
  ⟨{ rst := { asserted := [(6, none)] } }, by decide +kernel⟩

theorem test_meets_CounterReads_1 : ∃ (s : State), (s.link.up = true) :=
  ⟨{ now := 2 ^ 33 + 5, gn := { running := true }, link := { up := true } }, by decide +kernel⟩

theorem test_meets_CounterReads_2 : ∃ (s : State), (s.link.up = true)
    ∧ (s.fabricWait A.GN_NOW_HI = none) :=
  ⟨{ gn := { latch := 2 ^ 33 + 5 }, link := { up := true } }, by decide +kernel⟩

end Sys2Proof.Tests
end

section
/-! What every command and every step keeps: `Keeps` of each operation of the model, in the order of the model's files, then of each
command, of a FAB cycle and of a step (R10 to R13, R43, R209, R394). -/

namespace Sys2Proof.Machine

/-! ## Ways to keep -/

/-- `Keeps` looks at nothing but these fields. -/
theorem Keeps.same {s0 s t : State} (h : Keeps s0 s)
    (e : (t.pending, t.now, t.regs, t.shadow, t.regs0, t.shadow0, t.sites, t.saves, t.prism.flight)
      = (s.pending, s.now, s.regs, s.shadow, s.regs0, s.shadow0, s.sites, s.saves, s.prism.flight)) : Keeps s0 t := by
  simp only [Prod.mk.injEq] at e
  obtain ⟨hq, ht, hr, hs, hr0, hs0, hsites, hsaves, hf⟩ := e
  exact h.other hq ht hr hs hr0 hs0 hsites hf hsaves

/-- The same, where events have left the flight. -/
theorem Keeps.fewer {s0 s t : State} (h : Keeps s0 s)
    (e : (t.pending, t.now, t.regs, t.shadow, t.regs0, t.shadow0, t.sites, t.saves)
      = (s.pending, s.now, s.regs, s.shadow, s.regs0, s.shadow0, s.sites, s.saves))
    (hf : ∀ e ∈ t.prism.flight, e ∈ s.prism.flight) : Keeps s0 t := by
  have h1 : Keeps s0 { s with prism := { s.prism with flight := t.prism.flight } } :=
    ⟨h.queue, h.time, h.tabled, fun hi e he => h.calm hi e (hf e he)⟩
  simp only [Prod.mk.injEq] at e
  obtain ⟨hq, ht, hr, hs, hr0, hs0, hsites, hsaves⟩ := e
  exact h1.other hq ht hr hs hr0 hs0 hsites rfl hsaves

/-- An outcome whose next state, where it answers one, has come from `s0` as `Keeps` says. -/
def KeepsOut (s0 : State) (o : Out) : Prop := ∀ t, o = .next t → Keeps s0 t

theorem keepsOut_next {s0 t : State} (h : Keeps s0 t) : KeepsOut s0 (.next t) := by
  rintro _ ⟨⟩
  exact h

/-- A word of the live copies as they stood at the start of the FAB cycle. -/
theorem keeps_regs0 {s0 s : State} (a : Nat) (w : Word) (h : Keeps s0 s) :
    Keeps s0 { s with regs0 := kset resetWord s.regs0 a w } := by
  refine ⟨h.queue, h.time, fun hi => ?_, h.calm⟩
  obtain ⟨a1, a2, a3, a4⟩ := h.tabled hi
  exact ⟨a1, a2, kset_wf _ _ a3, a4⟩

theorem keeps_snd_ite {α : Type} {s0 : State} {x y : α × State} (c : Prop) [Decidable c] (hx : Keeps s0 x.2)
    (hy : Keeps s0 y.2) : Keeps s0 (if c then x else y).2 := by
  split <;> assumption

theorem keeps_fst_ite {α : Type} {s0 : State} {x y : State × α} (c : Prop) [Decidable c] (hx : Keeps s0 x.1)
    (hy : Keeps s0 y.1) : Keeps s0 (if c then x else y).1 := by
  split <;> assumption

theorem keeps_iteApply {s0 s : State} {f g : State → State} (c : Prop) [Decidable c] (hf : Keeps s0 (f s)) (hg : Keeps s0 (g s)) :
    Keeps s0 ((if c then f else g) s) := by
  split <;> assumption

/-- A change of the prism that leaves the events in flight alone. -/
theorem keeps_modPrism {s0 s : State} (f : Prism → Prism) (hf : ∀ p, (f p).flight = p.flight) (h : Keeps s0 s) :
    Keeps s0 { s with prism := f s.prism } := h.other rfl rfl rfl rfl rfl rfl rfl (hf _) rfl

/-- An event of a generation from 0 to 7 joins those in flight (R394). -/
theorem keeps_inFlight {s0 s : State} (e : Event) (he : e.gen ≤ 7) (h : Keeps s0 s) :
    Keeps s0 { s with prism := { s.prism with flight := s.prism.flight ++ [e] } } := by
  refine ⟨h.queue, h.time, h.tabled, fun hi x hx => ?_⟩
  rcases List.mem_append.1 hx with hx | hx
  · exact h.calm hi x hx
  · rw [List.mem_singleton.1 hx]
    exact he

/-- A predicate of every value read from a table and of every value put back holds of every value read afterwards. -/
theorem kget_kputBack_of {α : Type} [DecidableEq α] {P : α → Prop} {d : Nat → α} {old m : KMap α} (keep : Nat → Bool)
    (ho : ∀ x ∈ old, P x.2) (hm : ∀ k, P (kget d m k)) (k : Nat) : P (kget d (kputBack d old keep m) k) := by
  unfold kputBack
  induction old generalizing m with
  | nil => exact hm k
  | cons p old ih =>
    refine ih (fun x hx => ho x (List.mem_cons_of_mem _ hx)) fun j => ?_
    dsimp only
    split
    · exact hm j
    · rw [kget_kset]
      split
      · exact ho p (List.mem_cons_self ..)
      · exact hm j

/-- A read gives an unlisted key's value or a value of the table. -/
theorem kget_mem {α : Type} (d : Nat → α) (m : KMap α) (k : Nat) : kget d m k = d k ∨ ∃ p ∈ m, kget d m k = p.2 := by
  induction m with
  | nil => exact .inl rfl
  | cons p m ih =>
    unfold kget
    split
    · exact .inr ⟨p, List.mem_cons_self .., rfl⟩
    · exact ih.imp id fun ⟨x, hx, e⟩ => ⟨x, List.mem_cons_of_mem _ hx, e⟩

/-- The sites that a ring's commit has saved have canonical banks (R43). -/
theorem tabled_saved {s : State} (h : s.Tabled) (q : Nat) : ∀ x ∈ (kget (fun _ => {}) s.saves q).sites, x.2.Tabled := by
  obtain ⟨-, -, -, -, hv, -⟩ := h
  rcases kget_mem (fun _ => {}) s.saves q with e | ⟨v, hm, e⟩
  · rw [e]
    exact fun x hx => nomatch hx
  · rw [e]
    exact hv v hm

theorem keeps_kdel_saves {s0 s : State} (q : Nat) (h : Keeps s0 s) : Keeps s0 { s with saves := kdel s.saves q } := by
  refine ⟨h.queue, h.time, fun hi => ?_, h.calm⟩
  obtain ⟨a1, a2, a3, a4, av, a5⟩ := h.tabled hi
  exact ⟨a1, a2, a3, a4, fun v hv => av v (List.mem_filter.1 hv).1, a5⟩

section

variable {s0 s : State}

/-! ## The operations and commands of Machine/Ops -/

theorem keeps_wrBoth (a : Nat) (f : Fld) (v : Nat) (h : Keeps s0 s) : Keeps s0 (wrBoth a f v s) :=
  keeps_wr _ _ _ (keeps_wrS _ _ _ h)

theorem keeps_bumpBy (a : Nat) (f : Fld) (n : Nat) (h : Keeps s0 s) : Keeps s0 (bumpBy a f n s) := keeps_wr _ _ _ h

theorem keeps_clearBits (a : Nat) (f : Fld) (v : Nat) (h : Keeps s0 s) : Keeps s0 (clearBits a f v s) := keeps_wr _ _ _ h

theorem keeps_rcClear (a : Nat) (f : Fld) (v : Nat) (h : Keeps s0 s) : Keeps s0 (rcClear a f v s) :=
  keeps_regs0 a _ (keeps_wr _ _ _ h)

theorem keeps_wrPair (lo hi v : Nat) (h : Keeps s0 s) : Keeps s0 (wrPair lo hi v s) := keeps_setReg _ _ (keeps_setReg _ _ h)

theorem keeps_nextFresh (h : Keeps s0 s) : Keeps s0 (nextFresh s) := h.same rfl

theorem keeps_signal (v : Nat) (h : Keeps s0 s) : Keeps s0 (signal v s) :=
  keeps_ite _ (keeps_emit _ h) (keeps_ite _ (keeps_setReg _ _ h) h)

theorem keeps_flushMsix (h : Keeps s0 s) : Keeps s0 (flushMsix s) :=
  keeps_forAll _ _ (fun _ _ h => keeps_ite _ (keeps_emit _ (keeps_setReg _ _ h)) h) h

theorem keeps_discard (h : Keeps s0 s) : Keeps s0 (discard s) := keeps_bump _ _ h

theorem keeps_holdAccess (u : Nat) (c : Instr) (h : Keeps s0 s) : Keeps s0 (holdAccess u c s) := h.same rfl

theorem keeps_fire (p kind gen : Nat) (st : Stamp) (h : Keeps s0 s) : Keeps s0 (fire p kind gen st s) := keeps_fireAt _ _ _ _ _ h

theorem keeps_report (unit code key : Nat) (h : Keeps s0 s) : Keeps s0 (report unit code key s) := keeps_reportAt _ _ _ _ h

theorem keeps_release (u : Nat) (h : Keeps s0 s) : Keeps s0 (release u s) := keeps_setClaim _ _ h

theorem keeps_closeSession (q : Nat) (h : Keeps s0 s) : Keeps s0 (closeSession q s) := keeps_wr _ _ _ (keeps_modRing _ _ h)

theorem keeps_refuseMap (q status : Nat) (detail : Option Nat) (units : List Nat) (h : Keeps s0 s) :
    Keeps s0 (refuseMap q status detail units s) :=
  keeps_finishMap _ _ _ _ h

/-! ## The operations and commands of Machine/Lens -/

theorem keeps_writeRecord (seq : Nat) (ws : List Word) (h : Keeps s0 s) : Keeps s0 (writeRecord seq ws s) :=
  keeps_forAll _ _ (fun _ _ h => keeps_setReg _ _ h) h

theorem keeps_refreshLens (h : Keeps s0 s) : Keeps s0 (refreshLens s) :=
  keeps_wr _ _ _ (keeps_wr _ _ _ (keeps_wr _ _ _ (keeps_wr _ _ _ h)))

theorem keeps_modLens (f : Lens → Lens) (h : Keeps s0 s) : Keeps s0 (modLens f s) := h.same rfl

theorem keeps_admitIncident (i : Incident) (h : Keeps s0 s) : Keeps s0 (admitIncident i s).2 := by
  unfold admitIncident
  split
  · dsimp only
    split
    · exact keeps_bump _ _ h
    · exact keeps_signal _ (keeps_modLens _ (keeps_bump _ _ h))
  · exact keeps_wr _ _ _ (keeps_modLens _ h)

theorem keepsOut_execLensReportProcess (h : Keeps s0 s) : KeepsOut s0 (execLensReportProcess s) := by
  unfold execLensReportProcess
  refine keepsOut_next ?_
  split
  · exact h
  · refine keeps_ite _ h ?_
    extract_lets +onlyGivenNames s1
    have h1 : Keeps s0 s1 := keeps_modLens _ h
    split
    · extract_lets +onlyGivenNames _ s2
      have h2 : Keeps s0 s2 := keeps_modLens _ h1
      refine keeps_refreshLens ?_
      split
      · exact keeps_writeRecord _ _ h2
      · exact h2
    · extract_lets +onlyGivenNames _ _ s3
      have h3 : Keeps s0 s3 := keeps_modLens _ (keeps_admitIncident _ h1)
      extract_lets +onlyGivenNames s4
      have h4 : Keeps s0 s4 := by
        unfold s4
        split
        · exact keeps_writeRecord _ _ h3
        · exact h3
      exact keeps_refreshLens (keeps_fire _ _ _ _ h4)

theorem keepsOut_execLensIncidentClose (h : Keeps s0 s) : KeepsOut s0 (execLensIncidentClose s) := by
  unfold execLensIncidentClose
  refine keepsOut_next ?_
  split
  · exact h
  · extract_lets +onlyGivenNames s1
    have h1 : Keeps s0 s1 := keeps_modLens _ h
    extract_lets +onlyGivenNames s2
    have h2 : Keeps s0 s2 := by
      unfold s2
      split
      · exact keeps_signal _ (keeps_writeRecord _ _ h1)
      · exact h1
    exact keeps_refreshLens (keeps_when _ _ (fun _ h => keeps_emit _ h) h2)

theorem keepsOut_execLensRemoteIncident (rec : List Word) (h : Keeps s0 s) : KeepsOut s0 (execLensRemoteIncident rec s) := by
  unfold execLensRemoteIncident
  refine keepsOut_next ?_
  extract_lets +onlyGivenNames _ _
  refine keeps_ite _ h ?_
  extract_lets +onlyGivenNames s1
  have h1 : Keeps s0 s1 := keeps_emit _ h
  refine keeps_ite _ h1 ?_
  dsimp only
  split
  · exact keeps_refreshLens (keeps_writeRecord _ _ (keeps_modLens _ h1))
  · split
    · exact keeps_refreshLens (keeps_modLens _ h1)
    · refine keeps_refreshLens ?_
      split
      · exact keeps_signal _ (keeps_writeRecord _ _ (keeps_admitIncident _ h1))
      · exact keeps_admitIncident _ h1

theorem keeps_acknowledge (seq : Nat) (h : Keeps s0 s) : Keeps s0 (acknowledge seq s) := by
  unfold acknowledge
  extract_lets +onlyGivenNames _ _ _ s1
  have h1 : Keeps s0 s1 := keeps_modLens _ h
  refine keeps_refreshLens ?_
  split
  · exact keeps_wr _ _ _ h1
  · exact h1

theorem keepsOut_execLensRead (q : Nat) (h : Keeps s0 s) : KeepsOut s0 (execLensRead q s) :=
  keepsOut_next (keeps_hostCmd _ _ _ _ (fun _ _ h => keeps_checked _ _ _ (fun _ h => keeps_ite _ (keeps_ok _ _ h)
      (keeps_finish _ _ _ _ h)) h) h)

theorem keepsOut_execLensAck (q : Nat) (h : Keeps s0 s) : KeepsOut s0 (execLensAck q s) :=
  keepsOut_next (keeps_hostCmd _ _ _ _ (fun _ _ h => keeps_checked _ _ _ (fun _ h => keeps_ite _ (keeps_finish _ _ _ _
      (keeps_acknowledge _ h)) (keeps_ok _ _ (keeps_acknowledge _ h))) h) h)

theorem keepsOut_execLensAckseqWrite (w : Word) (h : Keeps s0 s) : KeepsOut s0 (execLensAckseqWrite w s) :=
  keepsOut_next (keeps_barWrite _ _ _ (fun _ h => keeps_ite _ (keeps_acknowledge _ h) h) h)

/-! ## The operations and commands of Machine/Prism -/

theorem keeps_setJoin (p c : Nat) (en : Bool) (h : Keeps s0 s) : Keeps s0 (setJoin p c en s) := keeps_setReg _ _ h

theorem keepsOut_execPrismSet (q : Nat) (h : Keeps s0 s) : KeepsOut s0 (execPrismSet q s) :=
  keepsOut_next (keeps_hostCmd _ _ _ _ (fun _ _ h => keeps_checked _ _ _ (fun _ h => keeps_ok _ _ (keeps_forAll _ _
      (fun _ _ h => keeps_setJoin _ _ _ h) h)) h) h)

theorem keepsOut_execPrismConsSet (q : Nat) (h : Keeps s0 s) : KeepsOut s0 (execPrismConsSet q s) := by
  unfold execPrismConsSet
  refine keepsOut_next (keeps_hostCmd _ _ _ _ (fun _ _ h => ?_) h)
  extract_lets +onlyGivenNames _ _ _ _
  refine keeps_checked _ _ _ (fun _ h => keeps_ok _ _ (keeps_forAll _ _ (fun _ _ h => ?_) h)) h
  extract_lets +onlyGivenNames s1
  have h1 : Keeps s0 s1 := keeps_wr _ _ _ h
  exact keeps_ite _ (keeps_setReg _ _ (keeps_setReg _ _ h1)) h1

theorem keeps_registerDue (h : Keeps s0 s) : Keeps s0 (registerDue s) :=
  keeps_forAll _ _ (fun _ _ h => keeps_fireAt _ _ _ _ _ h) (h.same rfl)

theorem keepsOut_execPrismFire (q : Nat) (h : Keeps s0 s) : KeepsOut s0 (execPrismFire q s) :=
  keepsOut_next (keeps_hostCmd _ _ _ _ (fun _ _ h => keeps_checked _ _ _ (fun _ h => keeps_ok _ _ (keeps_registerDue
      (h.same rfl))) h) h)

theorem keepsOut_execPrSwfireWrite (w : Word) (h : Keeps s0 s) : KeepsOut s0 (execPrSwfireWrite w s) :=
  keepsOut_next (keeps_barWrite _ _ _ (fun _ h => keeps_forAll _ _ (fun _ _ h => keeps_fire _ _ _ _ h) h) h)

theorem keeps_setTio (n edge width out : Nat) (h : Keeps s0 s) : Keeps s0 (setTio n edge width out s) := by
  unfold setTio
  extract_lets +onlyGivenNames s1
  have h1 : Keeps s0 s1 := keeps_wr _ _ _ (keeps_wr _ _ _ (keeps_wr _ _ _ h))
  exact keeps_ite _ (h1.same rfl) h1

theorem keepsOut_execPrismTioSet (q : Nat) (h : Keeps s0 s) : KeepsOut s0 (execPrismTioSet q s) :=
  keepsOut_next (keeps_hostCmd _ _ _ _ (fun _ _ h => keeps_checked _ _ _ (fun _ h => keeps_ok _ _ (keeps_forAll _ _
      (fun _ _ h => keeps_setTio _ _ _ _ h) h)) h) h)

theorem keepsOut_execTioInputEdge (n : Nat) (rising : Bool) (h : Keeps s0 s) : KeepsOut s0 (execTioInputEdge n rising s) :=
  keepsOut_next (keeps_ite _ h (keeps_ite _ (keeps_fire _ _ _ _ h) h))

theorem keepsOut_execTioPulseEnd (n : Nat) (h : Keeps s0 s) : KeepsOut s0 (execTioPulseEnd n s) := by
  unfold execTioPulseEnd
  refine keepsOut_next ?_
  split
  · exact keeps_ite _ (h.same rfl) h
  · exact h

theorem keepsOut_execTickFire (k : Nat) (h : Keeps s0 s) : KeepsOut s0 (execTickFire k s) :=
  keepsOut_next (keeps_ite _ h (keeps_fireAt _ _ _ _ _ (h.same rfl)))

theorem keepsOut_execRingEventReceive (origin n gen coarse frac : Nat) (hasFrac : Bool) (h : Keeps s0 s) :
    KeepsOut s0 (execRingEventReceive origin n gen coarse frac hasFrac s) := by
  unfold execRingEventReceive
  refine keepsOut_next ?_
  dsimp only
  refine keeps_ite _ h ?_
  have h1 := keeps_emit (.ringFrame [origin, n, gen, coarse, frac, b2n hasFrac]) h
  refine keeps_ite _ h1 ?_
  split
  · exact keeps_fireAt _ _ _ _ _ h1
  · refine keeps_inFlight _ ?_ (keeps_bump _ _ (keeps_wr _ _ _ h1))
    show gen + 1 ≤ 7
    omega

/-! ## The operations and commands of Machine/Operands -/

theorem keeps_modPlace (f : Place → Place) (h : Keeps s0 s) : Keeps s0 (modPlace f s) := h.same rfl

theorem keeps_modObj (hd : Nat) (f : PatObj → PatObj) (h : Keeps s0 s) : Keeps s0 (modObj hd f s) := by
  unfold modObj
  split
  · exact keeps_modPlace _ h
  · exact h

theorem keeps_modBuf (hd : Nat) (f : Buffer → Buffer) (h : Keeps s0 s) : Keeps s0 (modBuf hd f s) := by
  unfold modBuf
  split
  · exact keeps_ite _ (keeps_modPlace _ h) (keeps_modPlace _ h)
  · exact h

/-- What is put back of the sites captured canonical banks when the state before the commit was kept (R43). -/
theorem keeps_putBack (v : Saved) (stuck : List Nat) (hv : s0.Tabled → ∀ x ∈ v.sites, x.2.Tabled) (h : Keeps s0 s) :
    Keeps s0 (putBack v stuck s) := by
  unfold putBack
  extract_lets +onlyGivenNames s1 s2
  have h1 : Keeps s0 s1 := keeps_forAll _ _ (fun _ _ h => keeps_ite _ h (keeps_setReg _ _ (keeps_setShd _ _ h))) h
  have h2 : Keeps s0 s2 := by
    refine keeps_forAll _ _ (fun _ _ h => ?_) h1
    split
    · exact h
    · exact keeps_setClaim _ _ h
  refine ⟨h2.queue, h2.time, fun hi => ?_, h2.calm⟩
  obtain ⟨a1, a2, a3, a4, av, a5⟩ := h2.tabled hi
  refine ⟨a1, a2, a3, a4, av, fun i => ?_⟩
  exact kget_kputBack_of (P := Site.Tabled) (fun i => stuck.contains (uSite i)) (hv hi) a5 i

theorem keeps_writeProf (mirror : Bool) (h : Keeps s0 s) : Keeps s0 (writeProf mirror s) :=
  keeps_ite _ h (keeps_wr _ _ _ (h.same rfl))

theorem keeps_endSwitch (q : Nat) (h : Keeps s0 s) : Keeps s0 (endSwitch q s) :=
  keeps_ite _ h (keeps_wr _ _ _ (keeps_ite _ (keeps_writeProf _ h) h))

theorem keeps_endCommit (q : Nat) (fault : Option Nat) (h : Keeps s0 s) : Keeps s0 (endCommit q fault s) := by
  unfold endCommit
  split
  · exact h
  · split
    · exact h
    · have h0 : Keeps s0 { s with saves := kdel s.saves q } := keeps_kdel_saves q h
      extract_lets +onlyGivenNames _ _ s1
      have h1 : Keeps s0 s1 := keeps_putBack _ _ (fun hi => tabled_saved (h.tabled hi) q) h0
      extract_lets +onlyGivenNames s2
      have h2 : Keeps s0 s2 := by
        refine keeps_forAll _ _ (fun _ _ h => ?_) h1
        split
        · exact h
        · exact keeps_setClaim _ _ h
      have h3 := keeps_modCmd q (fun c => { c with ack := none }) h2
      exact keeps_ite _ (keeps_endSwitch _ (keeps_finishMap _ _ _ _ h3)) (keeps_finishMap _ _ _ _ h3)

theorem keeps_coreFault (q : Nat) (h : Keeps s0 s) : Keeps s0 (coreFault q s) := by
  unfold coreFault
  split
  · exact h
  · refine keeps_ite _ (keeps_endCommit _ _ h) ?_
    extract_lets +onlyGivenNames _ s1
    have h1 : Keeps s0 s1 := keeps_finish _ _ _ _ h
    exact keeps_ite _ (keeps_endSwitch _ h1) h1

theorem keeps_setPeriodS (k t v : Nat) (h : Keeps s0 s) : Keeps s0 (setPeriodS k t v s) := keeps_setShd _ _ (keeps_wrS _ _ _ h)

theorem keeps_markBank (k : Nat) (h : Keeps s0 s) : Keeps s0 (markBank k s) := keeps_wr _ _ _ h

/-! ## The operations and commands of Machine/Timing -/

theorem keeps_noteEnd (q d : Nat) (h : Keeps s0 s) : Keeps s0 (noteEnd q d s) :=
  keeps_ite _ (keeps_ok _ _ h) (keeps_finish _ _ _ _ h)

theorem keeps_commitTiles (defer : Bool) (tiles : List Nat) (write : Nat → State → State) (p : Nat → Bool)
    (hw : ∀ k s0 s, Keeps s0 s → Keeps s0 (write k s)) (h : Keeps s0 s) : Keeps s0 (commitTiles defer tiles write p s) :=
  keeps_forAll _ _ (fun k _ h => keeps_ite _ (keeps_markBank _ (hw k _ _ h))
    (keeps_applyTile _ (keeps_markBank _ (keeps_early _ (hw k) h)))) h

theorem keeps_timingCommit (q : Nat) (env : Acks) (defer : Bool) (tiles : List Nat) (write : Nat → State → State)
    (done : State → State) (hw : ∀ k s0 s, Keeps s0 s → Keeps s0 (write k s)) (hd : ∀ s, Keeps s0 s → Keeps s0 (done s))
    (h : Keeps s0 s) : Keeps s0 (timingCommit q env defer tiles write done s) :=
  keeps_ite _ (keeps_ite _ (keeps_finish _ _ _ _ h) (keeps_refuseMap _ _ _ _ h))
    (keeps_twoPhase _ _ _ _ _ (fun _ _ h => keeps_commitTiles _ _ _ _ hw h) hd h)

theorem keepsOut_execTsetPeriod (q : Nat) (env : CommitEnv) (h : Keeps s0 s) : KeepsOut s0 (execTsetPeriod q env s) :=
  keepsOut_next (keeps_hostCmd _ _ _ _ (fun _ _ h => keeps_checked _ _ _ (fun _ h => keeps_ite _ (keeps_refuseMap _ _ _ _ h)
      (keeps_timingCommit _ _ _ _ _ _ (fun _ _ _ h => keeps_forAll _ _ (fun _ _ h => keeps_setPeriodS _ _ _ h) h)
      (fun _ h => keeps_noteEnd _ _ h) h)) h) h)

theorem keeps_setEdgeS (n t e en ofs : Nat) (h : Keeps s0 s) : Keeps s0 (setEdgeS n t e en ofs s) :=
  keeps_setShd _ _ (keeps_wrS _ _ _ (keeps_wrS _ _ _ h))

theorem keepsOut_execTsetEdges (q : Nat) (env : CommitEnv) (h : Keeps s0 s) : KeepsOut s0 (execTsetEdges q env s) :=
  keepsOut_next (keeps_hostCmd _ _ _ _ (fun _ _ h => keeps_checked _ _ _ (fun _ h => keeps_timingCommit _ _ _ _ _ _
      (fun _ _ _ h => keeps_forAll _ _ (fun _ _ h => keeps_setEdgeS _ _ _ _ _ h) h) (fun _ h => keeps_noteEnd _ _ h) h) h) h)

theorem keepsOut_execTsetRead (q : Nat) (h : Keeps s0 s) : KeepsOut s0 (execTsetRead q s) :=
  keepsOut_next (keeps_hostCmd _ _ _ _ (fun _ _ h => keeps_checked _ _ _ (fun _ h => keeps_ok _ _ h) h) h)

theorem keepsOut_execTsetApply (q : Nat) (env : CommitEnv) (h : Keeps s0 s) : KeepsOut s0 (execTsetApply q env s) :=
  keepsOut_next (keeps_hostCmd _ _ _ _ (fun _ _ h => keeps_checked _ _ _ (fun _ h => keeps_checkedU _ _ _ (fun _ h => keeps_ite _
      (keeps_ite _ (keeps_finish _ _ _ _ h) (keeps_refuseMap _ _ _ _ h)) (keeps_twoPhase _ _ _ _ _ (fun _ _ h => keeps_forAll _ _
      (fun _ _ h => keeps_applyTile _ h) h) (fun _ h => keeps_ok _ _ h) h)) h) h) h)

theorem keepsOut_execTsetCtrlApply (k : Nat) (h : Keeps s0 s) : KeepsOut s0 (execTsetCtrlApply k s) :=
  keepsOut_next (keeps_barWrite _ _ _ (fun _ h => keeps_ite _ (keeps_discard h) (keeps_applyTile _ h)) h)

theorem keepsOut_execTsetEntryLoWrite (a : Nat) (w : Word) (h : Keeps s0 s) : KeepsOut s0 (execTsetEntryLoWrite a w s) := by
  unfold execTsetEntryLoWrite
  refine keepsOut_next ?_
  split
  · exact keeps_barWrite _ _ _ (fun _ h => keeps_modTile _ _ h) h
  · exact h

theorem keeps_entryPut (e : Entry) (lo hi : Word) (h : Keeps s0 s) : Keeps s0 (e.put lo hi s).1 := by
  cases e with
  | period k t => exact keeps_setPeriodS _ _ _ h
  | edge n t d => exact keeps_setEdgeS _ _ _ _ _ h

theorem keepsOut_execTsetEntryHiWrite (a : Nat) (w : Word) (h : Keeps s0 s) : KeepsOut s0 (execTsetEntryHiWrite a w s) := by
  unfold execTsetEntryHiWrite
  refine keepsOut_next ?_
  split
  · refine keeps_barWrite _ _ _ (fun _ h => ?_) h
    extract_lets +onlyGivenNames _ s1
    have h1 : Keeps s0 s1 := keeps_modTile _ _ h
    exact keeps_ite _ (keeps_markBank _ (keeps_entryPut _ _ _ h1)) (keeps_discard h1)
  · exact h

/-! ## The operations and commands of Machine/Place -/

theorem keeps_refreshLedger (h : Keeps s0 s) : Keeps s0 (refreshLedger s) := keeps_wr _ _ _ h

theorem keeps_served (level x : Nat) (h : Keeps s0 s) : Keeps s0 (served level x s) := keeps_modPlace _ h

theorem keeps_hbmCorrected (n : Nat) (h : Keeps s0 s) : Keeps s0 (hbmCorrected n s) := keeps_ite _ h (keeps_bumpBy _ _ _ h)

theorem keeps_hbmError (addr : Nat) (h : Keeps s0 s) : Keeps s0 (hbmError addr s) :=
  keeps_report _ _ _ (keeps_setReg _ _ (keeps_bump _ _ h))

theorem keepsOut_execPatternLoad (q ce : Nat) (data : Option (List Word)) (ue : Option Nat) (env : CommitEnv) (h : Keeps s0 s) :
    KeepsOut s0 (execPatternLoad q ce data ue env s) := by
  unfold execPatternLoad
  refine keepsOut_next (keeps_hostCmd _ _ _ _ (fun _ _ h => ?_) h)
  dsimp only
  refine keeps_checked _ _ _ (fun _ h => keeps_ite _ h (keeps_ite _ (keeps_refuseMap _ _ _ _ h) ?_)) h
  split
  · exact keeps_finishU _ _ _ _ _ h
  · split
    · exact keeps_refuseMap _ _ _ _ h
    · split
      · exact keeps_refuseMap _ _ _ _ (keeps_hbmError _ (keeps_hbmCorrected _ h))
      · exact keeps_twoPhase _ _ _ _ _ (fun _ _ h => keeps_iteApply _ (keeps_modPlace _ h) h) (fun _ h => keeps_ok _ _ h)
          (keeps_hbmCorrected _ h)

theorem keeps_unbind (hd : Nat) (h : Keeps s0 s) : Keeps s0 (unbind hd s) :=
  keeps_forAll _ _ (fun _ _ h => keeps_ite _ (keeps_setReg _ _ h) h) h

theorem keepsOut_execPatternFree (q : Nat) (h : Keeps s0 s) : KeepsOut s0 (execPatternFree q s) :=
  keepsOut_next (keeps_hostCmd _ _ _ _ (fun _ _ h => keeps_checked _ _ _ (fun _ h => keeps_checkedU _ _ _ (fun _ h => keeps_ok _ _
      (keeps_unbind _ (keeps_modPlace _ h))) h) h) h)

theorem keeps_refreshNoLog (i : Nat) (h : Keeps s0 s) : Keeps s0 (refreshNoLog i s) := keeps_wr _ _ _ h

theorem keepsOut_execBufferFree (q : Nat) (h : Keeps s0 s) : KeepsOut s0 (execBufferFree q s) :=
  keepsOut_next (keeps_hostCmd _ _ _ _ (fun _ _ h => keeps_checked _ _ _ (fun _ h => keeps_checkedU _ _ _ (fun _ h => keeps_ok _ _
      (keeps_refreshLedger (keeps_unbind _ (keeps_ite _ (keeps_modPlace _ h) (keeps_refreshNoLog _
      (keeps_modPlace _ h)))))) h) h) h)

theorem keepsOut_execPlaceReport (q : Nat) (h : Keeps s0 s) : KeepsOut s0 (execPlaceReport q s) :=
  keepsOut_next (keeps_hostCmd _ _ _ _ (fun _ _ h => keeps_checked _ _ _ (fun _ h => keeps_ite _ h (keeps_ok _ _ h)) h) h)

theorem keepsOut_execBufferAlloc (q : Nat) (h : Keeps s0 s) : KeepsOut s0 (execBufferAlloc q s) :=
  keepsOut_next (keeps_hostCmd _ _ _ _ (fun _ _ h => keeps_checked _ _ _ (fun _ h => keeps_ok _ _ (keeps_refreshLedger (keeps_ite _
      (keeps_modPlace _ h) (keeps_refreshNoLog _ (keeps_modPlace _ h))))) h) h)

theorem keepsOut_execLedgerRead (q : Nat) (h : Keeps s0 s) : KeepsOut s0 (execLedgerRead q s) :=
  keepsOut_next (keeps_hostCmd _ _ _ _ (fun _ _ h => keeps_checked _ _ _ (fun _ h => keeps_ok _ _ h) h) h)

theorem keeps_bindWindow (w ofs hd : Nat) (h : Keeps s0 s) : Keeps s0 (bindWindow w ofs hd s) := keeps_setReg _ _ (keeps_wr _ _ _ h)

theorem keepsOut_execWindowBind (q : Nat) (h : Keeps s0 s) : KeepsOut s0 (execWindowBind q s) :=
  keepsOut_next (keeps_hostCmd _ _ _ _ (fun _ _ h => keeps_checked _ _ _ (fun _ h => keeps_ok _ _ (keeps_bindWindow _ _ _ h)) h) h)

theorem keepsOut_execPlWinWrite (w : Nat) (v : Word) (h : Keeps s0 s) : KeepsOut s0 (execPlWinWrite w v s) :=
  keepsOut_next (keeps_barWrite _ _ _ (fun _ h => keeps_ite _ (keeps_discard h) (keeps_setReg _ _ h)) h)

theorem keeps_serveRead (r : WinRead) (h : Keeps s0 s) : Keeps s0 (serveRead r s) := by
  unfold serveRead
  split
  · exact keeps_emit _ h
  · split
    · exact keeps_emit _ h
    · extract_lets +onlyGivenNames s1
      have h1 : Keeps s0 s1 := keeps_hbmCorrected _ h
      exact keeps_ite _ (keeps_emit _ (keeps_hbmError _ h1)) (keeps_emit _ h1)

theorem keeps_serveReads (h : Keeps s0 s) : Keeps s0 (serveReads s) :=
  keeps_ite _ h (keeps_forAll _ _ (fun _ _ h => keeps_serveRead _ h) (keeps_modPlace _ h))

theorem keeps_windowRead (r : WinRead) (h : Keeps s0 s) : Keeps s0 (windowRead r s) :=
  keeps_ite _ (keeps_modPlace _ h) (keeps_serveRead _ h)

theorem keepsOut_execWindowWrite (h : Keeps s0 s) : KeepsOut s0 (execWindowWrite s) :=
  keepsOut_next (keeps_ite _ (keeps_discard h) h)

/-! ## The operations and commands of Machine/Sites -/

theorem keeps_setSiteState (i n : Nat) (h : Keeps s0 s) : Keeps s0 (setSiteState i n s) := keeps_wr _ _ _ h

theorem keeps_raiseIrq (i b : Nat) (h : Keeps s0 s) : Keeps s0 (raiseIrq i b s) := by
  unfold raiseIrq
  extract_lets +onlyGivenNames _ s1
  have h1 : Keeps s0 s1 := keeps_raiseBits _ _ _ h
  exact keeps_ite _ (keeps_signal _ h1) h1

theorem keeps_fireStatus (i cond gen : Nat) (st : Stamp) (h : Keeps s0 s) : Keeps s0 (fireStatus i cond gen st s) :=
  keeps_ite _ (keeps_fire _ _ _ _ h) h

theorem keeps_setEvFlag (i : Nat) (b : Bool) (h : Keeps s0 s) : Keeps s0 (setEvFlag i b s) :=
  keeps_ite _ (keeps_raise _ _ h) (keeps_wr _ _ _ h)

theorem keeps_setCtrl (i m : Nat) (h : Keeps s0 s) : Keeps s0 (setCtrl i m s) := keeps_setReg _ _ h

theorem keeps_clearCtrl (i m : Nat) (h : Keeps s0 s) : Keeps s0 (clearCtrl i m s) := keeps_setReg _ _ h

theorem keeps_refreshDepth (i : Nat) (h : Keeps s0 s) : Keeps s0 (refreshDepth i s) := keeps_wr _ _ _ (keeps_wr _ _ _ h)

theorem keeps_lapseJump (i : Nat) (h : Keeps s0 s) : Keeps s0 (lapseJump i s) := keeps_wr _ _ _ (keeps_wr _ _ _ h)

theorem keeps_releaseSite (i : Nat) (h : Keeps s0 s) : Keeps s0 (releaseSite i s) :=
  keeps_refreshLedger (keeps_release _ (keeps_modPlace _ h))

theorem keeps_setTileSite (k : Nat) (site : Option (Nat × Bool)) (h : Keeps s0 s) : Keeps s0 (setTileSite k site s) := by
  unfold setTileSite
  split
  · exact keeps_wr _ _ _ (keeps_wr _ _ _ (keeps_wr _ _ _ h))
  · exact keeps_wr _ _ _ (keeps_wr _ _ _ (keeps_wr _ _ _ h))

theorem keeps_formSite (i a w : Nat) (h : Keeps s0 s) : Keeps s0 (formSite i a w s) :=
  keeps_forAll _ _ (fun _ _ h => keeps_setTileSite _ _ h) (keeps_wr _ _ _ (keeps_wr _ _ _ (keeps_wr _ _ _ h)))

theorem keeps_unbindObjs (i : Nat) (h : Keeps s0 s) : Keeps s0 (unbindObjs i s) :=
  keeps_forAll _ _ (fun _ _ h => keeps_modObj _ _ h) h

theorem keeps_dissolveSite (i : Nat) (h : Keeps s0 s) : Keeps s0 (dissolveSite i s) :=
  keeps_forAll _ _ (fun _ _ h => keeps_setTileSite _ _ h) (keeps_wr _ _ _ (keeps_wr _ _ _ (keeps_wr _ _ _ (keeps_unbindObjs _ h))))

theorem keepsOut_execSiteForm (q : Nat) (env : CommitEnv) (h : Keeps s0 s) : KeepsOut s0 (execSiteForm q env s) :=
  keepsOut_next (keeps_hostCmd _ _ _ _ (fun _ _ h => keeps_checked _ _ _ (fun _ h => keeps_checkedU _ _ _
      (fun _ h => keeps_twoPhase _ _ _ _ _ (fun _ _ h => keeps_iteApply _ (keeps_formSite _ _ _ h) h)
      (fun _ h => keeps_ok _ _ h) h) h) h) h)

theorem keepsOut_execSiteDissolve (q : Nat) (env : CommitEnv) (h : Keeps s0 s) : KeepsOut s0 (execSiteDissolve q env s) :=
  keepsOut_next (keeps_hostCmd _ _ _ _ (fun _ _ h => keeps_checked _ _ _ (fun _ h => keeps_checkedU _ _ _
      (fun _ h => keeps_twoPhase _ _ _ _ _ (fun _ _ h => keeps_iteApply _ (keeps_dissolveSite _ h) h)
      (fun _ h => keeps_ok _ _ h) h) h) h) h)

theorem keeps_issueCycle (i : Nat) (c : QCycle) (h : Keeps s0 s) : Keeps s0 (issueCycle i c s) := by
  unfold issueCycle
  exact keeps_modSite _ _ (fun _ _ h => h) h

theorem keeps_topUp (i u : Nat) (cap : Option Nat) (fuel : Nat) (h : Keeps s0 s) : Keeps s0 (topUp i u cap fuel s) := by
  induction fuel generalizing s with
  | zero => exact h
  | succ fuel ih =>
    unfold topUp
    split
    · exact keeps_ite _ (ih (keeps_modSite _ _ (fun _ _ h => h) (keeps_issueCycle _ _ h))) h
    · exact h

theorem keeps_cutCycles (i u : Nat) (h : Keeps s0 s) : Keeps s0 (cutCycles i u s) := by
  unfold cutCycles
  exact keeps_modSite _ _ (fun _ _ h => h) h

theorem keeps_requestStop (i : Nat) (st : Stop) (h : Keeps s0 s) : Keeps s0 (requestStop i st s) := by
  unfold requestStop
  split
  · exact keeps_ite _ h (keeps_modSite _ _ (fun _ _ h => h) (keeps_cutCycles _ _ h))
  · exact keeps_modSite _ _ (fun _ _ h => h) (keeps_cutCycles _ _ h)

theorem keeps_haltAt (i cause th gen : Nat) (h : Keeps s0 s) : Keeps s0 (haltAt i cause th gen s) :=
  keeps_ite _ (keeps_requestStop _ _ h) (keeps_requestStop _ _ (keeps_topUp _ _ _ _ h))

theorem keeps_pauseRequest (i gen : Nat) (h : Keeps s0 s) : Keeps s0 (pauseRequest i gen s) := keeps_modSite _ _ (fun _ _ h => h) h

theorem keeps_resumeRequest (i : Nat) (steps : Option Nat) (h : Keeps s0 s) : Keeps s0 (resumeRequest i steps s) :=
  keeps_setSiteState _ _ (keeps_modSite _ _ (fun _ _ h => h) h)

theorem keeps_resume (i : Nat) (steps : Option Nat) (h : Keeps s0 s) : Keeps s0 (resume i steps s) :=
  keeps_ite _ (keeps_resumeRequest _ _ h) (keeps_modSite _ _ (fun _ _ h => h) h)

theorem keeps_disarm (i : Nat) (h : Keeps s0 s) : Keeps s0 (disarm i s) :=
  keeps_wr _ _ _ (keeps_wr _ _ _ (keeps_lapseJump _ (keeps_releaseSite _ (keeps_modSite _ _ (fun _ _ h => h) h))))

theorem keeps_hostHalt (i : Nat) (h : Keeps s0 s) : Keeps s0 (hostHalt i s) :=
  keeps_ite _ (keeps_haltAt _ _ _ _ h) (keeps_ite _ (keeps_disarm _ h) h)

theorem keeps_clearRegs (l : List Nat) (h : Keeps s0 s) : Keeps s0 (clearRegs l s) :=
  keeps_forAll _ _ (fun _ _ h => keeps_setReg _ _ h) h

theorem keeps_runStart (i hd reservation : Nat) (oversub stopOnFail arm : Bool) (h : Keeps s0 s) :
    Keeps s0 (runStart i hd reservation oversub stopOnFail arm s) :=
  keeps_refreshLedger (keeps_refreshDepth _ (keeps_modSite _ _ (fun _ _ h => nomatch h) (keeps_setReg _ _ (keeps_lapseJump _
      (keeps_setEvFlag _ _ (keeps_setSiteState _ _ (keeps_wr _ _ _ (keeps_wr _ _ _ (keeps_wr _ _ _ (keeps_wr _ _ _ (keeps_wr _ _ _
      (keeps_wr _ _ _ (keeps_wr _ _ _ (keeps_wr _ _ _ (keeps_wr _ _ _ (keeps_wr _ _ _ (keeps_wr _ _ _ (keeps_wr _ _ _
      (keeps_forAll _ _ (fun _ _ h => keeps_modTile _ _ h) (keeps_clearRegs _ (keeps_setClaim _ _
      (keeps_modPlace _ h))))))))))))))))))))))

theorem keepsOut_execRunStart (q : Nat) (env : CommitEnv) (h : Keeps s0 s) : KeepsOut s0 (execRunStart q env s) := by
  unfold execRunStart
  refine keepsOut_next (keeps_hostCmd _ _ _ _ (fun _ _ h => ?_) h)
  dsimp only
  refine keeps_checked _ _ _ (fun _ h => keeps_checkedU _ _ _ (fun _ h => keeps_checked _ _ _ (fun _ h => ?_) h) h) h
  split
  · exact keeps_ite _ (keeps_finishU _ _ _ _ _ h) (keeps_refuseMap _ _ _ _ h)
  · exact keeps_twoPhase _ _ _ _ _ (fun _ _ h => keeps_forAll _ _ (fun _ _ h => keeps_runStart _ _ _ _ _ _ h) h)
      (fun _ h => keeps_modCmd _ _ h) h

theorem keeps_primeErrors (i : Nat) (ues : List (Nat × Bool × Nat × Nat)) (h : Keeps s0 s) : Keeps s0 (primeErrors i ues s) := by
  refine keeps_forAll _ _ (fun _ _ h => keeps_hbmError _ (keeps_modSite _ _ (fun _ _ hb => ?_) h)) h
  split at hb <;> exact hb

theorem keeps_primeSite (i : Nat) (h : Keeps s0 s) : Keeps s0 (primeSite i s) := by
  unfold primeSite
  split
  · exact h
  · exact keeps_modObj _ _ (keeps_modTile _ _ (keeps_modSite _ _ (fun _ _ h => h) (keeps_forAll _ _ (fun _ _ h => keeps_wr _ _ _
      (keeps_modTile _ _ h)) h)))

theorem keeps_beginRun (i t : Nat) (h : Keeps s0 s) : Keeps s0 (beginRun i t s) :=
  keeps_modSite _ _ (fun _ _ h => h) (keeps_setSiteState _ _ h)

theorem keepsOut_execStreamPrimeDone (q ce : Nat) (ues : List (Nat × Bool × Nat × Nat)) (h : Keeps s0 s) :
    KeepsOut s0 (execStreamPrimeDone q ce ues s) := by
  unfold execStreamPrimeDone
  refine keepsOut_next ?_
  split
  · refine keeps_ite _ ?_ h
    extract_lets +onlyGivenNames _ s1
    have h1 : Keeps s0 s1 := keeps_forAll _ _ (fun _ _ h => keeps_primeErrors _ _ (keeps_primeSite _ h)) (keeps_hbmCorrected _ h)
    exact keeps_ok _ _ (keeps_ite _ (keeps_forAll _ _ (fun _ _ h => keeps_beginRun _ _ h) h1) h1)
  · exact h

theorem keepsOut_execArmedStart (i : Nat) (h : Keeps s0 s) : KeepsOut s0 (execArmedStart i s) := by
  unfold execArmedStart
  refine keepsOut_next ?_
  split
  · exact keeps_ite _ (keeps_modSite _ _ (fun _ _ h => h) h) h
  · exact h

theorem keepsOut_execResumeStart (i : Nat) (h : Keeps s0 s) : KeepsOut s0 (execResumeStart i s) := by
  unfold execResumeStart
  refine keepsOut_next ?_
  split
  · exact keeps_ite _ (keeps_clearCtrl _ _ (keeps_modSite _ _ (fun _ _ h => h) h)) h
  · exact h

theorem keeps_maskCmd (q op : Nat) (env : CommitEnv) (own : List Nat → State → List (Bool × Nat × Nat × Nat))
    (act : Nat → State → State) (done : List Nat → State → State → State) (ha : ∀ i s, Keeps s0 s → Keeps s0 (act i s))
    (hd : ∀ l t s, Keeps s0 s → Keeps s0 (done l t s)) (h : Keeps s0 s) : Keeps s0 (maskCmd q op env own act done s) :=
  keeps_hostCmd _ _ _ _ (fun _ _ h => keeps_checked _ _ _ (fun _ h => keeps_checkedU _ _ _ (fun _ h =>
    keeps_twoPhase _ _ _ _ _ (fun _ _ h => keeps_forAll _ _ ha h) (hd _ _) h) h) h) h

theorem keepsOut_execRunPause (q : Nat) (env : CommitEnv) (h : Keeps s0 s) : KeepsOut s0 (execRunPause q env s) :=
  keepsOut_next (keeps_maskCmd _ _ _ _ _ _ (fun _ _ h => keeps_pauseRequest _ _ h) (fun _ _ _ h => keeps_ok _ _ h) h)

theorem keepsOut_execRunResume (q : Nat) (env : CommitEnv) (h : Keeps s0 s) : KeepsOut s0 (execRunResume q env s) :=
  keepsOut_next (keeps_maskCmd _ _ _ _ _ _ (fun _ _ h => keeps_resume _ _ h) (fun _ _ _ h => keeps_ok _ _ h) h)

theorem keepsOut_execRunHalt (q : Nat) (env : CommitEnv) (h : Keeps s0 s) : KeepsOut s0 (execRunHalt q env s) :=
  keepsOut_next (keeps_maskCmd _ _ _ _ _ _ (fun _ _ h => keeps_hostHalt _ h)
    (fun _ _ _ h => keeps_iteApply _ (keeps_ok _ _ h) (keeps_finish _ _ _ _ h)) h)

theorem keepsOut_execRunStep (q : Nat) (h : Keeps s0 s) : KeepsOut s0 (execRunStep q s) :=
  keepsOut_next (keeps_hostCmd _ _ _ _ (fun _ _ h => keeps_checked _ _ _ (fun _ h => keeps_checkedU _ _ _ (fun _ h => keeps_ok _ _
      (keeps_resume _ _ h)) h) h) h)

theorem keeps_jumpRequest (i seg : Nat) (h : Keeps s0 s) : Keeps s0 (jumpRequest i seg s) :=
  keeps_wr _ _ _ (keeps_wr _ _ _ (keeps_wr _ _ _ (keeps_modSite _ _ (fun _ _ h => h) h)))

theorem keepsOut_execRunJump (q : Nat) (h : Keeps s0 s) : KeepsOut s0 (execRunJump q s) := by
  unfold execRunJump
  refine keepsOut_next (keeps_hostCmd _ _ _ _ (fun _ _ h => ?_) h)
  extract_lets +onlyGivenNames _ _ _
  refine keeps_checked _ _ _ (fun _ h => keeps_checkedU _ _ _ (fun _ h => keeps_checked _ _ _ (fun _ h => keeps_checkedU _ _ _
      (fun _ h => ?_) h) h) h) h
  extract_lets +onlyGivenNames _ s1
  have h1 : Keeps s0 s1 := keeps_jumpRequest _ _ h
  exact keeps_ite _ (keeps_finish _ _ _ _ h1) (keeps_ok _ _ h1)

theorem keepsOut_execRunStatus (q : Nat) (h : Keeps s0 s) : KeepsOut s0 (execRunStatus q s) :=
  keepsOut_next (keeps_hostCmd _ _ _ _ (fun _ _ h => keeps_checked _ _ _ (fun _ h => keeps_checkedU _ _ _
      (fun _ h => keeps_ok _ _ h) h) h) h)

theorem keepsOut_execSiteCtrlPause (i : Nat) (h : Keeps s0 s) : KeepsOut s0 (execSiteCtrlPause i s) :=
  keepsOut_next (keeps_barWrite _ _ _ (fun _ h => keeps_ite _ (keeps_setCtrl _ _ (keeps_pauseRequest _ _ h)) (keeps_discard h)) h)

theorem keepsOut_execSiteCtrlResume (i : Nat) (h : Keeps s0 s) : KeepsOut s0 (execSiteCtrlResume i s) :=
  keepsOut_next (keeps_barWrite _ _ _ (fun _ h => keeps_ite _ (keeps_setCtrl _ _ (keeps_resume _ _ h)) (keeps_discard h)) h)

theorem keepsOut_execSiteCtrlHalt (i : Nat) (h : Keeps s0 s) : KeepsOut s0 (execSiteCtrlHalt i s) :=
  keepsOut_next (keeps_barWrite _ _ _ (fun _ h => keeps_ite _ (keeps_setCtrl _ _ (keeps_haltAt _ _ _ _ h)) (keeps_discard h)) h)

theorem keepsOut_execSiteCtrlStep (i : Nat) (h : Keeps s0 s) : KeepsOut s0 (execSiteCtrlStep i s) :=
  keepsOut_next (keeps_barWrite _ _ _ (fun _ h => keeps_ite _ (keeps_setCtrl _ _ (keeps_resume _ _ h)) (keeps_discard h)) h)

theorem keepsOut_execEvSet (i : Nat) (h : Keeps s0 s) : KeepsOut s0 (execEvSet i s) :=
  keepsOut_next (keeps_barWrite _ _ _ (fun _ h => keeps_wr _ _ _ h) h)

theorem keepsOut_execSeqJumpReq (i seg : Nat) (h : Keeps s0 s) : KeepsOut s0 (execSeqJumpReq i seg s) :=
  keepsOut_next (keeps_barWrite _ _ _ (fun _ h => keeps_ite _ (keeps_discard h) (keeps_jumpRequest _ _ h)) h)

/-! ## The operations and commands of Machine/Edges -/

theorem keeps_refreshDrv (n : Nat) (h : Keeps s0 s) : Keeps s0 (refreshDrv n s) := keeps_wr _ _ _ h

theorem keeps_setLevel (n l : Nat) (h : Keeps s0 s) : Keeps s0 (setLevel n l s) :=
  keeps_forAll _ _ (fun _ _ h => keeps_modPin _ _ h) h

theorem keeps_setEnable (n : Nat) (on : Bool) (h : Keeps s0 s) : Keeps s0 (setEnable n on s) :=
  keeps_forAll _ _ (fun _ _ h => keeps_refreshDrv _ (keeps_modPin _ _ h)) h

theorem keeps_unpark (n : Nat) (h : Keeps s0 s) : Keeps s0 (unpark n s) := keeps_forAll _ _ (fun _ _ h => keeps_wr _ _ _ h) h

theorem keeps_recordDrop (n : Nat) (range : Bool) (e : PinEdge) (h : Keeps s0 s) : Keeps s0 (recordDrop n range e s) := by
  unfold recordDrop
  extract_lets +onlyGivenNames s1
  have h1 : Keeps s0 s1 := keeps_ite _ (keeps_bump _ _ h) (keeps_bump _ _ h)
  exact keeps_ite _ h1 (keeps_wrPair _ _ _ (keeps_setReg _ _ h1))

theorem keeps_windowEdge (n : Nat) (e : PinEdge) (h : Keeps s0 s) : Keeps s0 (windowEdge n e s) := by
  unfold windowEdge
  refine keeps_ite _ ?_ (keeps_ite _ (keeps_modPin _ _ h) h)
  split
  · exact keeps_bump _ _ (keeps_modPin _ _ h)
  · exact keeps_modPin _ _ h

theorem keeps_generate (n : Nat) (e : PinEdge) (h : Keeps s0 s) : Keeps s0 (generate n e s) := by
  unfold generate
  split
  · exact keeps_unpark _ (keeps_setEnable _ _ h)
  · exact keeps_modPin _ _ h
  · extract_lets +onlyGivenNames _ _
    refine keeps_ite _ ?_ ?_
    · extract_lets +onlyGivenNames s1
      have h1 : Keeps s0 s1 := keeps_recordDrop _ _ _ h
      exact keeps_ite _ (keeps_modPin _ _ h1) h1
    · extract_lets +onlyGivenNames s2
      have h2 : Keeps s0 s2 := keeps_unpark _ (keeps_modPin _ _ h)
      split
      · exact keeps_setLevel _ _ h2
      · exact keeps_setEnable _ _ h2
      · exact keeps_ite _ (keeps_windowEdge _ _ h2) h2
      · exact h2

theorem keeps_settlePin (t n : Nat) (h : Keeps s0 s) : Keeps s0 (settlePin t n s) :=
  keeps_forAll _ _ (fun _ _ h => keeps_generate _ _ h) (keeps_modPin _ _ h)

theorem keeps_settleSite (t i : Nat) (h : Keeps s0 s) : Keeps s0 (settleSite t i s) :=
  keeps_forAll _ _ (fun _ _ h => keeps_settlePin _ _ h) h

theorem keeps_takePin (i : Nat) (c : QCycle) (n : Nat) (h : Keeps s0 s) : Keeps s0 (takePin i c n s) := by
  unfold takePin
  refine keeps_ite _ h ?_
  extract_lets +onlyGivenNames _ _ _ _ _ _ _ s1
  have h1 : Keeps s0 s1 := by
    refine keeps_forAll _ _ (fun _ _ h => ?_) h
    extract_lets +onlyGivenNames s2
    have h2 : Keeps s0 s2 := keeps_recordDrop _ _ _ h
    exact keeps_ite _ (keeps_modPin _ _ h2) h2
  exact keeps_modPin _ _ h1

/-! ## The operations and commands of Machine/Micro -/

theorem keeps_applyOne (i : Nat) (d : Nat × Word) (h : Keeps s0 s) : Keeps s0 (applyOne i d s) :=
  keeps_ite _ (keeps_setReg _ _ h) (keeps_ite _ (keeps_setReg _ _ h) (keeps_ite _ (keeps_raiseIrq _ _ (keeps_raise _ _ h))
      (keeps_ite _ (keeps_raise _ _ h) h)))

theorem keeps_modRoutine (i : Nat) (f : Routine → Routine) (h : Keeps s0 s) : Keeps s0 (modRoutine i f s) :=
  keeps_modSite _ _ (fun _ _ h => h) h

theorem keeps_applyStaged (i : Nat) (h : Keeps s0 s) : Keeps s0 (applyStaged i s) := by
  unfold applyStaged
  split
  · exact keeps_modRoutine _ _ (keeps_forAll _ _ (fun _ _ h => keeps_applyOne _ _ h) h)
  · exact h

theorem keeps_machineCheck (i code opcode uaddr th : Nat) (h : Keeps s0 s) : Keeps s0 (machineCheck i code opcode uaddr th s) :=
  keeps_ite _ (keeps_modSite _ _ (fun _ _ h => h) (keeps_reportAt _ _ _ _ (keeps_wrPair _ _ _ (keeps_setReg _ _ h)))) (keeps_ite _
      (keeps_requestStop _ _ (keeps_modSite _ _ (fun _ _ h => h) (keeps_reportAt _ _ _ _ (keeps_wrPair _ _ _
      (keeps_setReg _ _ h))))) (keeps_haltAt _ _ _ _ (keeps_modSite _ _ (fun _ _ h => h) (keeps_reportAt _ _ _ _ (keeps_wrPair _ _ _
      (keeps_setReg _ _ h))))))

/-! ## The operations and commands of Machine/Seq -/

theorem keeps_pauseSite (i : Nat) (h : Keeps s0 s) : Keeps s0 (pauseSite i s) := by
  unfold pauseSite
  dsimp only
  split
  · exact keeps_resumeRequest _ _ (keeps_fireStatus _ _ _ _ (keeps_raiseIrq _ _ (keeps_wrPair _ _ _ (keeps_clearCtrl _ _
      (keeps_setSiteState _ _ (keeps_modSite _ _ (fun _ _ h => h) h))))))
  · exact keeps_fireStatus _ _ _ _ (keeps_raiseIrq _ _ (keeps_wrPair _ _ _ (keeps_clearCtrl _ _ (keeps_setSiteState _ _
      (keeps_modSite _ _ (fun _ _ h => h) h)))))

theorem keeps_recordStarve (i num start : Nat) (h : Keeps s0 s) : Keeps s0 (recordStarve i num start s) :=
  keeps_ite _ h (keeps_wrPair _ _ _ (keeps_wrPair _ _ _ h))

theorem keeps_supplyHalt (i cause start : Nat) (h : Keeps s0 s) : Keeps s0 (supplyHalt i cause start s) := keeps_requestStop _ _ h

theorem keeps_insertPad (i : Nat) (h : Keeps s0 s) : Keeps s0 (insertPad i s) := by
  unfold insertPad
  split
  · exact h
  · exact keeps_modSite _ _ (fun _ _ h => h) (keeps_bump _ _ (keeps_wr _ _ _ (keeps_recordStarve _ _ _ h)))

theorem keeps_appendPad (i : Nat) (h : Keeps s0 s) : Keeps s0 (appendPad i s) := by
  unfold appendPad
  split
  · exact h
  · exact keeps_modSite _ _ (fun _ _ h => h) (keeps_bump _ _ (keeps_wr _ _ _ (keeps_recordStarve _ _ _ h)))

theorem keeps_showFill (k : Nat) (fell : Bool) (h : Keeps s0 s) : Keeps s0 (showFill k fell s) := by
  unfold showFill
  extract_lets +onlyGivenNames _ s1
  have h1 : Keeps s0 s1 := keeps_wr _ _ _ h
  exact keeps_ite _ (keeps_bump _ _ h1) h1

theorem keeps_rush (i : Nat) (h : Keeps s0 s) : Keeps s0 (rush i s) := by
  unfold rush
  split
  · exact h
  · exact keeps_forAll _ _ (fun _ _ h => keeps_showFill _ _ (keeps_modTile _ _ h)) h

theorem keeps_starve (i seg num start : Nat) (pad : State → State) (hpad : ∀ (s : State), Keeps s0 s → Keeps s0 (pad s))
    (h : Keeps s0 s) :
    Keeps s0 (starve i seg num start pad s) := by
  unfold starve
  split
  · exact h
  · exact keeps_ite _ (hpad _ h) (keeps_supplyHalt _ _ _ (keeps_wr _ _ _ (keeps_recordStarve _ _ _ h)))

theorem keeps_jumpBoundary (i : Nat) (h : Keeps s0 s) : Keeps s0 (jumpBoundary i s) := by
  unfold jumpBoundary
  refine keeps_ite _ h ?_
  extract_lets +onlyGivenNames s1
  have h1 : Keeps s0 s1 := keeps_modSite _ _ (fun _ _ h => h) h
  exact keeps_ite _ h1 (keeps_ite _ (keeps_refreshDepth _ (keeps_raiseIrq _ _ (keeps_setReg _ _ (keeps_modSite _ _ (fun _ _ h => h)
      (keeps_lapseJump _ h1))))) (keeps_raise _ _ h1))

theorem keeps_takeControl (i : Nat) (p : PInstr) (h : Keeps s0 s) : Keeps s0 (takeControl i p s).1 := by
  unfold takeControl
  split
  · exact h
  · refine keeps_fst_ite _ h ?_
    have h1 := fun c => keeps_when c (rush i) (fun _ h => keeps_rush i h) h
    refine keeps_fst_ite _ (h1 _) ?_
    dsimp only
    exact keeps_modSite _ _ (fun _ _ h => h) (keeps_modTile _ _ (h1 _))

theorem keeps_startRoutine (i td : Nat) (p : PInstr) (h : Keeps s0 s) : Keeps s0 (startRoutine i td p s) :=
  keeps_when _ _ (fun _ h => keeps_captureBanks _ h) (keeps_ite _ (keeps_setSiteState _ _ (keeps_setReg _ _ (keeps_modSite _ _
      (fun _ _ h => h) h))) (keeps_setReg _ _ (keeps_modSite _ _ (fun _ _ h => h) h)))

theorem keepsOut_execRoutineDispatch (i : Nat) (parityOk : Bool) (h : Keeps s0 s) :
    KeepsOut s0 (execRoutineDispatch i parityOk s) := by
  unfold execRoutineDispatch
  refine keepsOut_next ?_
  extract_lets +onlyGivenNames _ _
  refine keeps_ite _ h (keeps_ite _ (keeps_haltAt _ _ _ _ h) (keeps_ite _ (keeps_ite _ (keeps_pauseSite _ h) h) (keeps_ite _ h ?_)))
  extract_lets +onlyGivenNames s1
  have h1 : Keeps s0 s1 := keeps_jumpBoundary _ h
  refine keeps_ite _ (keeps_ite _ (keeps_pauseSite _ h1) h1) ?_
  dsimp only
  split
  · exact h1
  · exact keeps_ite _ (keeps_supplyHalt _ _ _ h1) (keeps_ite _ (keeps_machineCheck _ _ _ _ _ h1) (keeps_ite _
      (keeps_startRoutine _ _ _ (keeps_takeControl _ _ h1)) (keeps_starve _ _ _ _ _ (fun _ h => keeps_appendPad _ h) h1)))

theorem keeps_markStatus (i : Nat) (h : Keeps s0 s) : Keeps s0 (markStatus i s) :=
  keeps_ite _ (keeps_modSite _ _ (fun _ _ h => h) h) (keeps_ite _ (keeps_modSite _ _ (fun _ _ h => h) h) (keeps_when _ _
      (fun _ h => keeps_fireAt _ _ _ _ _ h) h))

theorem keeps_issueMany (i : Nat) (w : MW) (first : Bool) (n : Nat) (h : Keeps s0 s) : Keeps s0 (issueMany i w first n s) := by
  induction n generalizing s first with
  | zero => exact h
  | succ n ih =>
    unfold issueMany
    split
    · exact h
    · exact ih false (keeps_modRoutine _ _ (keeps_issueCycle _ _ h))

theorem keeps_beginIteration (i : Nat) (h : Keeps s0 s) : Keeps s0 (beginIteration i s) := keeps_modSite _ _ (fun _ _ h => h) h

theorem keeps_closeTest (i test : Nat) (h : Keeps s0 s) : Keeps s0 (closeTest i test s) := keeps_modSite _ _ (fun _ _ h => h) h

theorem keeps_issueWord (i : Nat) (w : MW) (r : Routine) (h : Keeps s0 s) : Keeps s0 (issueWord i w r s) :=
  keeps_when _ _ (fun _ h => keeps_modRoutine _ _ h) (keeps_when _ _ (fun _ h => keeps_markStatus _ h) (keeps_issueMany _ _ _ _
      (keeps_when _ _ (fun _ h => keeps_captureBanks _ h) (keeps_when _ _ (fun _ h => keeps_closeTest _ _ h) (keeps_when _ _
      (fun _ h => keeps_beginIteration _ h) (keeps_when _ _ (fun _ h => keeps_modRoutine _ _ h) h))))))

theorem keeps_loopOp (i : Nat) (w : MW) (r : Routine) (h : Keeps s0 s) : Keeps s0 (loopOp i w r s) :=
  keeps_ite _ (keeps_modSite _ _ (fun _ _ h => h) h) (keeps_ite _ (keeps_modSite _ _ (fun _ _ h => h) h) h)

theorem keeps_stageWord (i : Nat) (w : MW) (r : Routine) (h : Keeps s0 s) : Keeps s0 (stageWord i w r s) :=
  keeps_ite _ h (keeps_modRoutine _ _ h)

theorem keeps_microOp (i : Nat) (w : MW) (h : Keeps s0 s) : Keeps s0 (microOp i w s) := keeps_modRoutine _ _ h

theorem keeps_moveOn (i : Nat) (r : Routine) (h : Keeps s0 s) : Keeps s0 (moveOn i r s) := by
  unfold moveOn
  dsimp only
  split
  · exact keeps_modSite _ _ (fun _ _ h => h) h
  · exact keeps_modSite _ _ (fun _ _ h => h) (keeps_when _ _ (fun _ h => keeps_modSite _ _ (fun _ _ h => h) h) h)
  · exact keeps_modSite _ _ (fun _ _ h => h) (keeps_modSite _ _ (fun _ _ h => h) h)
  · exact keeps_modSite _ _ (fun _ _ h => h) h
  · exact keeps_modSite _ _ (fun _ _ h => h) h
  · exact keeps_modSite _ _ (fun _ _ h => h) h
  · exact keeps_modSite _ _ (fun _ _ h => h) h
  · exact keeps_markStatus _ (keeps_modSite _ _ (fun _ _ h => h) (keeps_modSite _ _ (fun _ _ h => h) (keeps_setReg _ _ h)))
  · exact keeps_raiseIrq _ _ (keeps_raise _ _ (keeps_modSite _ _ (fun _ _ h => h) (keeps_modSite _ _ (fun _ _ h => h)
      (keeps_setReg _ _ h))))

theorem keeps_runControl (i runc : Nat) (h : Keeps s0 s) : Keeps s0 (runControl i runc s) := by
  unfold runControl
  split
  · exact keeps_modSite _ _ (fun _ _ h => h) h
  · exact keeps_requestStop _ _ h
  · exact keeps_requestStop _ _ h
  · exact h

theorem keeps_endRoutine (i : Nat) (timedOut : Bool) (h : Keeps s0 s) : Keeps s0 (endRoutine i timedOut s) := by
  unfold endRoutine
  split
  · exact h
  · exact keeps_ite _ (keeps_modSite _ _ (fun _ _ h => h) h) (keeps_refreshDepth _ (keeps_modSite _ _ (fun _ _ h => h)
      (keeps_runControl _ _ (keeps_modSite _ _ (fun _ _ h => h) (keeps_moveOn _ _ (keeps_applyStaged _ (keeps_ite _ h
      (keeps_topUp _ _ _ _ h))))))))

theorem keeps_nextWord (i upc : Nat) (ustack : List Nat) (yields : Bool) (h : Keeps s0 s) :
    Keeps s0 (nextWord i upc ustack yields s) :=
  keeps_modRoutine _ _ h

theorem keeps_applyNac (i : Nat) (w : MW) (cond timedOut : Bool) (r : Routine) (h : Keeps s0 s) :
    Keeps s0 (applyNac i w cond timedOut r s) := by
  unfold applyNac
  split
  · exact keeps_nextWord _ _ _ _ h
  · exact keeps_nextWord _ _ _ _ h
  · exact keeps_nextWord _ _ _ _ h
  · exact keeps_nextWord _ _ _ _ h
  · exact keeps_endRoutine _ _ h
  · exact keeps_nextWord _ _ _ _ h

theorem keeps_pauseWait (i : Nat) (r : Routine) (h : Keeps s0 s) : Keeps s0 (pauseWait i r s) :=
  keeps_modRoutine _ _ (keeps_modSite _ _ (fun _ _ h => h) (keeps_applyStaged _ h))

theorem keepsOut_execMicrowordExec (i : Nat) (parityOk : Bool) (h : Keeps s0 s) : KeepsOut s0 (execMicrowordExec i parityOk s) := by
  unfold execMicrowordExec
  refine keepsOut_next ?_
  split
  · exact h
  · extract_lets +onlyGivenNames _
    refine keeps_ite _ h (keeps_ite _ h (keeps_ite _ h (keeps_ite _ (keeps_machineCheck _ _ _ _ _ h) (keeps_ite _ (keeps_modSite _ _
        (fun _ _ h => h) h) ?_))))
    split
    · exact keeps_machineCheck _ _ _ _ _ h
    · extract_lets +onlyGivenNames _ s1
      have h1 : Keeps s0 s1 := keeps_ite _ h (keeps_topUp _ _ _ _ h)
      extract_lets +onlyGivenNames _ s2
      have h2 : Keeps s0 s2 := keeps_ite _ h1 (keeps_when _ _ (fun _ h => keeps_applyStaged _ h) (keeps_when _ _
          (fun _ h => keeps_issueWord _ _ _ h) (keeps_stageWord _ _ _ (keeps_microOp _ _ (keeps_loopOp _ _ _ h1)))))
      extract_lets +onlyGivenNames _ _ _
      refine keeps_ite _ (keeps_applyNac _ _ _ _ _ (keeps_modRoutine _ _ (keeps_when _ _ (fun _ h => keeps_raise _ _ h) (keeps_when _ _
          (fun _ h => keeps_setEvFlag _ _ h) h2)))) ?_
      extract_lets +onlyGivenNames s3
      have h3 : Keeps s0 s3 := keeps_modRoutine _ _ h2
      exact keeps_ite _ (keeps_pauseWait _ _ h3) h3

theorem keepsOut_execMicroWatchdog (i : Nat) (h : Keeps s0 s) : KeepsOut s0 (execMicroWatchdog i s) := by
  unfold execMicroWatchdog
  refine keepsOut_next ?_
  split
  · exact keeps_ite _ (keeps_machineCheck _ _ _ _ _ h) h
  · exact h

/-! ## The operations and commands of Machine/Cycles -/

theorem keepsOut_execRefillRequest (k : Nat) (ctrl : Bool) (h : Keeps s0 s) : KeepsOut s0 (execRefillRequest k ctrl s) := by
  unfold execRefillRequest
  refine keepsOut_next ?_
  split
  · exact h
  · exact keeps_ite _ (keeps_ite _ (keeps_modTile _ _ h) h) (keeps_ite _ (keeps_modTile _ _ h) h)

theorem keeps_burstError (err addr : Nat) (mark : State → State) (hmark : ∀ (s : State), Keeps s0 s → Keeps s0 (mark s))
    (h : Keeps s0 s) :
    Keeps s0 (burstError err addr mark s) :=
  keeps_ite _ (keeps_hbmError _ (hmark _ h)) (keeps_when _ _ (fun _ h => keeps_hbmCorrected _ h) h)

theorem keeps_arrive (i k : Nat) (o : PatObj) (ctrl : Bool) (err ofs addr : Nat) (h : Keeps s0 s) :
    Keeps s0 (arrive i k o ctrl err ofs addr s) :=
  keeps_ite _ (keeps_burstError _ _ _ (fun _ h => keeps_modSite _ _ (fun _ _ h => h) h) (keeps_modTile _ _ h)) (keeps_burstError _ _ _
      (fun _ h => keeps_modSite _ _ (fun _ _ h => h) h) (keeps_showFill _ _ (keeps_modTile _ _ h)))

theorem keepsOut_execRefillComplete (k : Nat) (ctrl : Bool) (err ofs addr : Nat) (h : Keeps s0 s) :
    KeepsOut s0 (execRefillComplete k ctrl err ofs addr s) := by
  unfold execRefillComplete
  refine keepsOut_next ?_
  split
  · exact keeps_ite _ h (keeps_serveReads (keeps_arrive _ _ _ _ _ _ _ (keeps_served _ _ h)))
  · exact h

theorem keeps_readHead (i : Nat) (h : Keeps s0 s) : Keeps s0 (readHead i s) := keeps_modSite _ _ (fun _ _ h => h) h

theorem keeps_consume (i n : Nat) (h : Keeps s0 s) : Keeps s0 (consume i n s) :=
  keeps_forAll _ _ (fun _ _ h => keeps_showFill _ _ (keeps_modTile _ _ h)) (keeps_modSite _ _ (fun _ _ h => h) h)

theorem keeps_localError (i k seg : Nat) (bad : Bool) (start : Nat) (h : Keeps s0 s) : Keeps s0 (localError i k seg bad start s) :=
  keeps_ite _ (keeps_supplyHalt _ _ _ (keeps_modObj _ _ (keeps_report _ _ _ (keeps_bump _ _ h)))) (keeps_readHead _
      (keeps_bump _ _ h))

theorem keepsOut_execCycleRead (i : Nat) (lm : Option (Nat × Bool)) (h : Keeps s0 s) : KeepsOut s0 (execCycleRead i lm s) := by
  unfold execCycleRead
  refine keepsOut_next ?_
  extract_lets +onlyGivenNames _
  split
  · split
    · exact keeps_ite _ (keeps_machineCheck _ _ _ _ _ h) h
    · exact h
  · refine keeps_ite _ h (keeps_ite _ (keeps_readHead _ h) ?_)
    split
    · exact keeps_readHead _ h
    · refine keeps_ite _ ?_ ?_
      · extract_lets +onlyGivenNames _ _
        refine keeps_ite _ (keeps_insertPad _ h) (keeps_ite _ (keeps_supplyHalt _ _ _ h) ?_)
        extract_lets +onlyGivenNames _ s1
        have h1 : Keeps s0 s1 := keeps_when _ _ (fun _ h => keeps_rush _ h) h
        exact keeps_ite _ (keeps_starve _ _ _ _ _ (fun _ h => keeps_insertPad _ h) h1) (keeps_readHead _ (keeps_consume _ _ h1))
      · split
        · exact keeps_localError _ _ _ _ _ h
        · exact keeps_readHead _ h

theorem keeps_settleCloses (i fuel : Nat) (h : Keeps s0 s) : Keeps s0 (settleCloses i fuel s) := by
  induction fuel generalizing s with
  | zero => exact h
  | succ fuel ih =>
    unfold settleCloses
    extract_lets +onlyGivenNames _
    split
    · exact h
    · exact keeps_ite _ h (ih (keeps_modSite _ _ (fun _ _ h => h)
        (keeps_when _ _ (fun _ h => keeps_wrPair _ _ _ h) (keeps_wrPair _ _ _ h))))

theorem keeps_storeRecord (tile : Nat) (r : List Word) (h : Keeps s0 s) : Keeps s0 (storeRecord tile r s) :=
  keeps_ite _ (keeps_when _ _ (fun _ h => keeps_wr _ _ _ h) (keeps_wr _ _ _ (keeps_modTile _ _ h))) (keeps_bump _ _ h)

theorem keeps_modLog (i : Nat) (f : LogState → LogState) (h : Keeps s0 s) : Keeps s0 (modLog i f s) :=
  keeps_modSite _ _ (fun _ _ h => h) h

theorem keeps_queueRecord (i : Nat) (r : List Word) (h : Keeps s0 s) : Keeps s0 (queueRecord i r s) :=
  keeps_ite _ (keeps_modLog _ _ h) h

theorem keeps_flushRun (i k : Nat) (h : Keeps s0 s) : Keeps s0 (flushRun i k s) := by
  unfold flushRun
  split
  · exact keeps_forAll _ _ (fun _ _ h => keeps_queueRecord _ _ h) (keeps_modLog _ _ h)
  · exact h

theorem keeps_runRecords (i k : Nat) (rs : List (List Word)) (h : Keeps s0 s) : Keeps s0 (runRecords i k rs s) := by
  unfold runRecords
  extract_lets +onlyGivenNames _
  split
  · refine keeps_ite _ (keeps_modLog _ _ h) ?_
    extract_lets +onlyGivenNames s1
    have h1 : Keeps s0 s1 := keeps_flushRun _ _ h
    exact keeps_ite _ h1 (keeps_modLog _ _ h1)
  · exact keeps_ite _ h (keeps_modLog _ _ h)

theorem keeps_tileRecords (i : Nat) (c : QCycle) (r : TileRes) (h : Keeps s0 s) : Keeps s0 (tileRecords i c r s) := by
  unfold tileRecords
  extract_lets +onlyGivenNames _ _ _ s1
  have h1 : Keeps s0 s1 := keeps_forAll _ _ (fun _ _ h => keeps_storeRecord _ _ h) h
  split
  · exact keeps_runRecords _ _ _ h1
  · exact keeps_forAll _ _ (fun _ _ h => keeps_queueRecord _ _ h) h1
  · exact keeps_forAll _ _ (fun _ _ h => keeps_queueRecord _ _ h) h1

theorem keeps_popTaken (i fuel : Nat) (h : Keeps s0 s) : Keeps s0 (popTaken i fuel s) := by
  induction fuel generalizing s with
  | zero => exact h
  | succ fuel ih =>
    unfold popTaken
    split
    · exact keeps_ite _ (ih (keeps_forAll _ _ (fun _ _ h => keeps_tileRecords _ _ _ h)
        (keeps_modSite _ _ (fun _ _ h => h) h))) h
    · exact h

theorem keeps_settleTaken (i : Nat) (h : Keeps s0 s) : Keeps s0 (settleTaken i s) := keeps_settleCloses _ _ (keeps_popTaken _ _ h)

theorem keeps_settleRecords (h : Keeps s0 s) : Keeps s0 (settleRecords s) := keeps_forAll _ _ (fun _ _ h => keeps_settleTaken _ h) h

theorem keeps_fireCycle (i : Nat) (c : QCycle) (h : Keeps s0 s) : Keeps s0 (fireCycle i c s) :=
  keeps_when _ _ (fun _ h => keeps_fireAt _ _ _ _ _ h) (keeps_when _ _ (fun _ h => keeps_fireAt _ _ _ _ _ h) h)

theorem keepsOut_execCycleTake (i : Nat) (h : Keeps s0 s) : KeepsOut s0 (execCycleTake i s) := by
  unfold execCycleTake
  refine keepsOut_next ?_
  split
  · exact h
  · refine keeps_ite _ h ?_
    extract_lets +onlyGivenNames s1
    have h1 : Keeps s0 s1 := keeps_modSite _ _ (fun _ _ h => h) h
    extract_lets +onlyGivenNames s2
    have h2 : Keeps s0 s2 := keeps_settleSite _ _ h1
    extract_lets +onlyGivenNames s3
    have h3 : Keeps s0 s3 := keeps_when _ _ (fun _ h => keeps_applyBank _ h) h2
    extract_lets +onlyGivenNames s4
    have h4 : Keeps s0 s4 := keeps_forAll _ _ (fun _ _ h => keeps_takePin _ _ _ h) h3
    exact keeps_settleTaken _ (keeps_modSite _ _ (fun _ _ h => h) (keeps_fireCycle _ _ (keeps_when _ _ (fun _ h => keeps_wrPair _ _ _ h)
        (keeps_ite _ h4 (keeps_wrPair _ _ _ h4)))))

theorem keeps_parkPin (n : Nat) (h : Keeps s0 s) : Keeps s0 (parkPin n s) :=
  keeps_ite _ (keeps_refreshDrv _ (keeps_wr _ _ _ (keeps_modPin _ _ h))) h

theorem keeps_dropEdges (t n : Nat) (h : Keeps s0 s) : Keeps s0 (dropEdges t n s) := keeps_modPin _ _ h

theorem keeps_finishRun (i : Nat) (st : Stop) (h : Keeps s0 s) : Keeps s0 (finishRun i st s) :=
  keeps_fireStatus _ _ _ _ (keeps_raiseIrq _ _ (keeps_releaseSite _ (keeps_lapseJump _ (keeps_when _ _
      (fun _ h => keeps_wrPair _ _ _ h) (keeps_wr _ _ _ (keeps_when _ _ (fun _ h => keeps_wr _ _ _ h) (keeps_wr _ _ _
      (keeps_clearCtrl _ _ (keeps_setSiteState _ _ (keeps_modSite _ _ (fun _ _ h => nomatch h) (keeps_forAll _ _
      (fun _ _ h => keeps_applyBank _ h) h)))))))))))

theorem keepsOut_execSitePark (i : Nat) (h : Keeps s0 s) : KeepsOut s0 (execSitePark i s) := by
  unfold execSitePark
  refine keepsOut_next ?_
  dsimp only
  split
  · exact keeps_ite _ h (keeps_ite _ (keeps_modSite _ _ (fun _ _ h => h) (keeps_finishRun _ _ h)) (keeps_finishRun _ _
      (keeps_forAll _ _ (fun _ _ h => keeps_parkPin _ (keeps_dropEdges _ _ h)) (keeps_settleSite _ _ h))))
  · exact keeps_ite _ (keeps_modSite _ _ (fun _ _ h => h) (keeps_forAll _ _ (fun _ _ h => keeps_parkPin _ h)
      (keeps_settleSite _ _ h))) h

/-! ## The operations and commands of Machine/Compare -/

theorem keeps_modRes (i cyc tile : Nat) (f : TileRes → TileRes) (h : Keeps s0 s) : Keeps s0 (modRes i cyc tile f s) :=
  keeps_modSite _ _ (fun _ _ h => h) h

theorem keeps_countFail (i : Nat) (c : QCycle) (m : Cmp) (ts : Nat) (missed fault : Bool) (h : Keeps s0 s) :
    Keeps s0 (countFail i c m ts missed fault s) := by
  unfold countFail
  refine keeps_when _ _ (fun _ h => keeps_when _ _ (fun _ h => keeps_haltAt _ _ _ _ h) (keeps_fireStatus _ _ _ _ h)) ?_
  refine keeps_modSite _ _ (fun _ _ h => h) (keeps_modRes _ _ _ _ ?_)
  refine keeps_when _ _ (fun _ h => keeps_wrPair _ _ _ (keeps_wr _ _ _ (keeps_wr _ _ _ h))) ?_
  exact keeps_when _ _ (fun _ h => keeps_wr _ _ _ h) (keeps_wr _ _ _ (keeps_bump _ _ (keeps_wr _ _ _ h)))

theorem keeps_countMatch (i it n ts : Nat) (fails missed : Bool) (h : Keeps s0 s) :
    Keeps s0 (countMatch i it n ts fails missed s) :=
  keeps_when _ _ (fun _ h => keeps_wr _ _ _ h) (keeps_modSite _ _ (fun _ _ h => h) h)

theorem keeps_countCapture (i : Nat) (c : QCycle) (m : Cmp) (ts : Nat) (missed one : Bool) (h : Keeps s0 s) :
    Keeps s0 (countCapture i c m ts missed one s) :=
  keeps_modRes _ _ _ _ h

theorem keeps_verdict (i : Nat) (c : QCycle) (m : Cmp) (ts : Nat) (fails missed fault : Bool) (h : Keeps s0 s) :
    Keeps s0 (verdict i c m ts fails missed fault s) := by
  unfold verdict
  extract_lets +onlyGivenNames s1
  have h1 : Keeps s0 s1 := by
    unfold s1
    split
    · exact keeps_countMatch _ _ _ _ _ _ h
    · exact keeps_when _ _ (fun _ h => keeps_countFail _ _ _ _ _ _ h) h
  exact keeps_when _ _ (fun _ h => keeps_modSite _ _ (fun _ _ h => h) h) h1

theorem keeps_takeOutcome (i : Nat) (l : List Sample) (cyc : Nat) (m : Cmp) (h : Keeps s0 s) : Keeps s0 (takeOutcome i l cyc m s) := by
  unfold takeOutcome
  split
  · exact h
  · exact keeps_modSite _ _ (fun _ _ h => h) (keeps_modPin _ _ (keeps_ite _ h (keeps_ite _ (keeps_countCapture _ _ _ _ _ _ h)
      (keeps_verdict _ _ _ _ _ _ _ h))))

theorem keeps_laneFault (i j num : Nat) (h : Keeps s0 s) : Keeps s0 (laneFault i j num s) := by
  unfold laneFault
  extract_lets +onlyGivenNames s1
  have h1 : Keeps s0 s1 := keeps_report _ _ _ (keeps_raise _ _ h)
  split
  · exact h1
  · exact keeps_forAll _ _ (fun _ _ h => keeps_verdict _ _ _ _ _ _ _ h) (keeps_modRes _ _ _ _ (keeps_modSite _ _ (fun _ _ h => h) h1))

theorem keeps_takeGroup (i limit : Nat) (l : List Sample) (h : Keeps s0 s) : Keeps s0 (takeGroup i limit l s) := by
  unfold takeGroup
  dsimp only
  split
  · exact h
  · exact keeps_ite _ h (keeps_forAll _ _ (fun _ _ h => keeps_takeOutcome _ _ _ _ h) h)

theorem keepsOut_execCompareOutcome (i : Nat) (l : List Sample) (faults : List (Nat × Nat)) (h : Keeps s0 s) :
    KeepsOut s0 (execCompareOutcome i l faults s) :=
  keepsOut_next (keeps_settleTaken _ (keeps_takeGroup _ _ _ (keeps_forAll _ _ (fun _ _ h => keeps_laneFault _ _ _ h)
      (keeps_settleSite _ _ h))))

theorem keeps_growCredit (i rate : Nat) (h : Keeps s0 s) : Keeps s0 (growCredit i rate s) := keeps_modLog _ _ h

theorem keeps_writeSlot (i hd slots : Nat) (r : List Word) (h : Keeps s0 s) : Keeps s0 (writeSlot i hd slots r s) :=
  keeps_bump _ _ (keeps_wr _ _ _ (keeps_when _ _ (fun _ h => keeps_wr _ _ _ h) (keeps_modBuf _ _ h)))

theorem keeps_spend (i n : Nat) (h : Keeps s0 s) : Keeps s0 (spend i n s) := keeps_modLog _ _ h

theorem keeps_writeGap (i hd slots : Nat) (h : Keeps s0 s) : Keeps s0 (writeGap i hd slots s) := by
  unfold writeGap
  split
  · exact keeps_wr _ _ _ (keeps_modLog _ _ (keeps_spend _ _ (keeps_writeSlot _ _ _ _ h)))
  · exact h

theorem keeps_loseRecord (i : Nat) (r : List Word) (h : Keeps s0 s) : Keeps s0 (loseRecord i r s) :=
  keeps_wr _ _ _ (keeps_modLog _ _ (keeps_bump _ _ h))

theorem keeps_writeLog (i hd : Nat) (b : Buffer) (r : List Word) (h : Keeps s0 s) : Keeps s0 (writeLog i hd b r s) := by
  unfold writeLog
  extract_lets +onlyGivenNames s1
  have h1 : Keeps s0 s1 := keeps_growCredit _ _ h
  exact keeps_ite _ (keeps_bump _ _ (keeps_wr _ _ _ h1)) (keeps_ite _ (keeps_ite _ (keeps_loseRecord _ _ h1) (keeps_spend _ _
      (keeps_writeSlot _ _ _ _ h1))) (keeps_ite _ (keeps_loseRecord _ _ h1) (keeps_ite _ (keeps_bump _ _ (keeps_wr _ _ _
      (keeps_writeGap _ _ _ h1))) (keeps_spend _ _ (keeps_writeSlot _ _ _ _ (keeps_writeGap _ _ _ h1))))))

theorem keepsOut_execFailLogWrite (i : Nat) (h : Keeps s0 s) : KeepsOut s0 (execFailLogWrite i s) := by
  unfold execFailLogWrite
  refine keepsOut_next ?_
  split
  · exact h
  · extract_lets +onlyGivenNames s1
    have h1 : Keeps s0 s1 := keeps_modLog _ _ h
    split
    · exact h1
    · exact keeps_ite _ h (keeps_serveReads (keeps_writeLog _ _ _ _ (keeps_served _ _ h1)))

theorem keepsOut_execFailLogHeader (i : Nat) (h : Keeps s0 s) : KeepsOut s0 (execFailLogHeader i s) := by
  unfold execFailLogHeader
  refine keepsOut_next ?_
  split
  · exact h
  · split
    · exact keeps_modLog _ _ h
    · exact keeps_ite _ h (keeps_ite _ (keeps_forAll _ _ (fun _ _ h => keeps_flushRun _ _ h) h) (keeps_ite _ h (keeps_modLog _ _
        (keeps_modBuf _ _ (keeps_ite _ (keeps_writeGap _ _ _ h) h)))))

theorem keepsOut_execCmpCfgSet (q : Nat) (env : CommitEnv) (h : Keeps s0 s) : KeepsOut s0 (execCmpCfgSet q env s) := by
  unfold execCmpCfgSet
  refine keepsOut_next (keeps_hostCmd _ _ _ _ (fun _ _ h => ?_) h)
  extract_lets +onlyGivenNames _ _ _ _ _
  refine keeps_checked _ _ _ (fun _ h => keeps_checkedU _ _ _ (fun _ h => keeps_twoPhase _ _ _ _ _ (fun _ _ h => keeps_forAll _ _
      (fun _ _ h => ?_) h) (fun _ h => keeps_ok _ _ h) h) h) h
  extract_lets +onlyGivenNames s1
  have h1 : Keeps s0 s1 := keeps_wr _ _ _ h
  exact keeps_ite _ h1 (keeps_wr _ _ _ (keeps_wr _ _ _ h1))

theorem keepsOut_execMaskSet (q : Nat) (env : CommitEnv) (h : Keeps s0 s) : KeepsOut s0 (execMaskSet q env s) :=
  keepsOut_next (keeps_hostCmd _ _ _ _ (fun _ _ h => keeps_checked _ _ _ (fun _ h => keeps_timingCommit _ _ _ _ _ _
      (fun _ _ _ h => keeps_forAll _ _ (fun _ _ h => keeps_wrS _ _ _ h) h) (fun _ h => keeps_noteEnd _ _ h) h) h) h)

theorem keepsOut_execFailCfgSet (q : Nat) (h : Keeps s0 s) : KeepsOut s0 (execFailCfgSet q s) :=
  keepsOut_next (keeps_hostCmd _ _ _ _ (fun _ _ h => keeps_checked _ _ _ (fun _ h => keeps_checkedU _ _ _ (fun _ h => keeps_ok _ _
      (keeps_wr _ _ _ (keeps_wr _ _ _ h))) h) h) h)

theorem keepsOut_execFailRead (q : Nat) (bad : List Nat) (h : Keeps s0 s) : KeepsOut s0 (execFailRead q bad s) := by
  unfold execFailRead
  refine keepsOut_next (keeps_hostCmd _ _ _ _ (fun _ _ h => ?_) h)
  extract_lets +onlyGivenNames _ _ _
  refine keeps_checked _ _ _ (fun _ h => ?_) h
  extract_lets +onlyGivenNames _ _ _ _ s1
  have h1 : Keeps s0 s1 := keeps_when _ _ (fun _ h => keeps_bumpBy _ _ _ h) h
  exact keeps_ite _ (keeps_ok _ _ h1) (keeps_finish _ _ _ _ h1)

theorem keepsOut_execFailSummary (q : Nat) (h : Keeps s0 s) : KeepsOut s0 (execFailSummary q s) :=
  keepsOut_next (keeps_hostCmd _ _ _ _ (fun _ _ h => keeps_checked _ _ _ (fun _ h => keeps_checkedU _ _ _
      (fun _ h => keeps_ok _ _ h) h) h) h)

/-! ## The operations and commands of Machine/Instruments -/

theorem keeps_modAw (k : Nat) (f : Aw → Aw) (h : Keeps s0 s) : Keeps s0 (modAw k f s) := h.same rfl

theorem keeps_modWm (k : Nat) (f : Wm → Wm) (h : Keeps s0 s) : Keeps s0 (modWm k f s) := h.same rfl

theorem keeps_modPg (j : Nat) (f : Pg → Pg) (h : Keeps s0 s) : Keeps s0 (modPg j f s) := h.same rfl

theorem keeps_followEngine (n : Nat) (h : Keeps s0 s) : Keeps s0 (followEngine n s) :=
  keeps_when _ _ (fun _ h => keeps_modPin _ _ h) h

theorem keeps_noteDrift (d : Nat) (h : Keeps s0 s) : Keeps s0 (noteDrift d s) := h.same rfl

/-! ## The operations and commands of Machine/Levels -/

theorem keeps_openPin (n : Nat) (h : Keeps s0 s) : Keeps s0 (openPin n s) :=
  keeps_refreshDrv _ (keeps_wr _ _ _ (keeps_wr _ _ _ (keeps_wr _ _ _ (keeps_modPin _ _ h))))

theorem keeps_reachPin (due n : Nat) (dacs : List Nat) (h : Keeps s0 s) : Keeps s0 (reachPin due n dacs s) :=
  keeps_ite _ (keeps_modPin _ _ h) h

theorem keeps_partAw (k : Nat) (h : Keeps s0 s) : Keeps s0 (partAw k s) := keeps_wr _ _ _ (keeps_wr _ _ _ (keeps_modAw _ _ h))

theorem keeps_openAw (k : Nat) (h : Keeps s0 s) : Keeps s0 (openAw k s) := keeps_partAw _ (keeps_modAw _ _ h)

theorem keeps_reachAw (due k : Nat) (h : Keeps s0 s) : Keeps s0 (reachAw due k s) := keeps_ite _ (keeps_modAw _ _ h) h

theorem keeps_holdStrobe (byEvent : Bool) (d g : Nat) (h : Keeps s0 s) : Keeps s0 (holdStrobe byEvent d g s) := by
  unfold holdStrobe
  extract_lets +onlyGivenNames s1
  have h1 : Keeps s0 s1 := keeps_bump _ _ (keeps_wr _ _ _ h)
  exact keeps_ite _ (h1.same rfl) h1

theorem keeps_strobe (byEvent : Bool) (groups : List (Nat × Nat)) (h : Keeps s0 s) : Keeps s0 (strobe byEvent groups s) :=
  (keeps_forAll _ _ (fun _ _ h => keeps_holdStrobe _ _ _ h) h).same rfl

theorem keepsOut_execStrobeHeldRelease (h : Keeps s0 s) : KeepsOut s0 (execStrobeHeldRelease s) := by
  unfold execStrobeHeldRelease
  refine keepsOut_next (keeps_ite _ h (keeps_strobe _ _ (keeps_forAll _ _ (fun g s h => ?_) h)))
  extract_lets +onlyGivenNames s1
  have h1 : Keeps s0 s1 := keeps_wr _ _ _ (keeps_wr _ _ _ h)
  exact h1.same rfl

theorem keeps_countClip (d : Nat) (lo hi v : Int) (h : Keeps s0 s) : Keeps s0 (countClip d lo hi v s) :=
  keeps_ite _ (keeps_bump _ _ h) h

theorem keeps_loadLevel (n i code : Nat) (h : Keeps s0 s) : Keeps s0 (loadLevel n i code s) :=
  keeps_ite _ h (keeps_countClip _ _ _ _ (keeps_modPin _ _ (keeps_wr _ _ _ (keeps_wr _ _ _ h))))

theorem keeps_loadIdle (k code : Nat) (on : Bool) (h : Keeps s0 s) : Keeps s0 (loadIdle k code on s) := by
  unfold loadIdle
  extract_lets +onlyGivenNames _ s1
  have h1 : Keeps s0 s1 := keeps_wrBoth _ _ _ (keeps_wr _ _ _ h)
  extract_lets +onlyGivenNames s2
  have h2 : Keeps s0 s2 := keeps_countClip _ _ _ _ h1
  exact keeps_ite _ h2 (keeps_when _ _ (fun _ h => keeps_wr _ _ _ h) (keeps_when _ _ (fun _ h => keeps_wr _ _ _ h) h2))

theorem keeps_loadMonitor (k : Nat) (th shape : Word) (epoch : Option Nat) (t : Nat) (h : Keeps s0 s) :
    Keeps s0 (loadMonitor k th shape epoch t s) :=
  keeps_when _ _ (fun _ h => keeps_wr _ _ _ (keeps_modWm _ _ h)) (keeps_wr _ _ _ (keeps_wr _ _ _ (keeps_setReg _ _ (keeps_setReg _ _
      (keeps_modWm _ _ h)))))

theorem keeps_loadApply (t : Nat) (l : Load) (h : Keeps s0 s) : Keeps s0 (Load.apply t l s) := by
  unfold Load.apply
  split
  · exact keeps_loadLevel _ _ _ h
  · exact keeps_ite _ h (keeps_wr _ _ _ (keeps_wr _ _ _ h))
  · exact keeps_loadIdle _ _ _ h
  · exact keeps_loadMonitor _ _ _ _ _ h
  · exact keeps_forAll _ _ (fun _ _ h => keeps_setReg _ _ h) h

theorem keeps_retrySense (close : List Nat) (loads : List Load) (h : Keeps s0 s) : Keeps s0 (retrySense close loads s) :=
  keeps_forAll _ _ (fun _ _ h => keeps_when _ _ (fun _ h => keeps_wr _ _ _ h) h) (keeps_forAll _ _ (fun _ _ h => keeps_when _ _
      (fun _ h => keeps_wr _ _ _ h) h) h)

theorem keeps_updateDacs (close : List Nat) (b : Strobe) (h : Keeps s0 s) : Keeps s0 (updateDacs close b s) :=
  keeps_forAll _ _ (fun _ _ h => keeps_reachAw _ _ h) (keeps_forAll _ _ (fun _ _ h => keeps_reachPin _ _ _ h) (keeps_retrySense _ _
      (keeps_forAll _ _ (fun _ _ h => keeps_loadApply _ _ h) h)))

theorem keepsOut_execSwitchClose (u : Nat) (h : Keeps s0 s) : KeepsOut s0 (execSwitchClose u s) := by
  unfold execSwitchClose
  refine keepsOut_next ?_
  extract_lets +onlyGivenNames _
  refine keeps_ite _ ?_ ?_
  · split
    · exact keeps_ite _ h (keeps_when _ _ (fun _ h => keeps_wr _ _ _ h) (keeps_modAw _ _ h))
    · exact h
  · split
    · refine keeps_ite _ h ?_
      extract_lets +onlyGivenNames s1
      have h1 : Keeps s0 s1 := keeps_modPin _ _ h
      exact keeps_ite _ (keeps_refreshDrv _ (keeps_wr _ _ _ (keeps_modPin _ _ h1))) h1
    · exact h

theorem keepsOut_execLevelStrobe (q : Nat) (env : CommitEnv) (h : Keeps s0 s) : KeepsOut s0 (execLevelStrobe q env s) :=
  keepsOut_next (keeps_hostCmd _ _ _ _ (fun _ _ h => keeps_checked _ _ _ (fun _ h => keeps_twoPhase _ _ _ _ _
      (fun _ _ h => keeps_strobe _ _ h) (fun _ h => keeps_ok _ _ h) h) h) h)

theorem keepsOut_execLvlStrobeGo (d mask : Nat) (h : Keeps s0 s) : KeepsOut s0 (execLvlStrobeGo d mask s) :=
  keepsOut_next (keeps_ite _ h (keeps_barWrite _ _ _ (fun _ h => keeps_wr _ _ _ (keeps_strobe _ _ h)) h))

theorem keepsOut_execLevelRead (q : Nat) (h : Keeps s0 s) : KeepsOut s0 (execLevelRead q s) :=
  keepsOut_next (keeps_hostCmd _ _ _ _ (fun _ _ h => keeps_checked _ _ _ (fun _ h => keeps_ok _ _ h) h) h)

/-! ## The operations and commands of Machine/PinModes -/

theorem keeps_claimPhase (q : Nat) (units : List Nat) (claims : List (Nat × Nat × Nat)) (map : Bool) (e : Acks) (commit :
    (Nat → Bool) → State → State) (done : State → State) (hcommit : ∀ (a : Nat → Bool) (s : State), Keeps s0 s → Keeps s0
    (commit a s)) (hdone : ∀ (s : State), Keeps s0 s → Keeps s0 (done s)) (h : Keeps s0 s) :
    Keeps s0 (claimPhase q units claims map e commit done s) :=
  keeps_ite _ (keeps_ite _ (keeps_finishMap _ _ _ _ h) (keeps_finish _ _ _ _ h)) (keeps_twoPhase _ _ _ _ _
      (fun _ _ h => hcommit _ _ h) (fun _ h => hdone _ h) (keeps_forAll _ _ (fun _ _ h => keeps_setClaim _ _ h)
      (keeps_modCmd _ _ h)))

theorem keeps_changeMode (n mode : Nat) (h : Keeps s0 s) : Keeps s0 (changeMode n mode s) := by
  unfold changeMode
  exact keeps_modPin _ _ (keeps_wr _ _ _ (keeps_wr _ _ _ (keeps_ite _ (keeps_forAll _ _ (fun _ _ h => keeps_wrBoth _ _ _ h)
      (keeps_wr _ _ _ h)) h)))

theorem keeps_modeRecPut (r : ModeRec) (h : Keeps s0 s) : Keeps s0 (ModeRec.put r s) :=
  keeps_when _ _ (fun _ h => keeps_followEngine _ h) (keeps_wrS _ _ _ (keeps_wrS _ _ _ (keeps_wrBoth _ _ _ (keeps_wrBoth _ _ _
      (keeps_wr _ _ _ (keeps_when _ _ (fun _ h => keeps_changeMode _ _ h) h))))))

theorem keepsOut_execPinModeSet (q : Nat) (env : CommitEnv) (h : Keeps s0 s) : KeepsOut s0 (execPinModeSet q env s) :=
  keepsOut_next (keeps_hostCmd _ _ _ _ (fun _ _ h => keeps_checked _ _ _ (fun _ h => keeps_checkedU _ _ _
      (fun _ h => keeps_claimPhase _ _ _ _ _ _ _ (fun _ _ h => keeps_forAll _ _ (fun _ _ h => keeps_modeRecPut _ h) h)
      (fun _ h => keeps_ok _ _ h) h) h) h) h)

theorem keepsOut_execPinModeDisconnect (n : Nat) (h : Keeps s0 s) : KeepsOut s0 (execPinModeDisconnect n s) := by
  unfold execPinModeDisconnect
  refine keepsOut_next ?_
  split
  · exact keeps_ite _ h (keeps_followEngine _ (keeps_setClaim _ _ (keeps_wr _ _ _ (keeps_openPin _ (keeps_modPin _ _ h)))))
  · exact h

theorem keepsOut_execModeBusyClear (n : Nat) (h : Keeps s0 s) : KeepsOut s0 (execModeBusyClear n s) := by
  unfold execModeBusyClear
  refine keepsOut_next ?_
  split
  · exact keeps_ite _ h (keeps_wr _ _ _ (keeps_modPin _ _ h))
  · exact h

theorem keeps_levelRecPut (r : LevelRec) (h : Keeps s0 s) : Keeps s0 (LevelRec.put r s) := keeps_wrS _ _ _ (keeps_wrBoth _ _ _ h)

theorem keepsOut_execLevelSet (q : Nat) (env : CommitEnv) (h : Keeps s0 s) : KeepsOut s0 (execLevelSet q env s) :=
  keepsOut_next (keeps_hostCmd _ _ _ _ (fun _ _ h => keeps_checked _ _ _ (fun _ h => keeps_checkedU _ _ _
      (fun _ h => keeps_twoPhase _ _ _ _ _ (fun _ _ h => keeps_ite _ (keeps_strobe _ _ (keeps_early _ (fun _ _ h => keeps_forAll _ _
      (fun _ _ h => keeps_levelRecPut _ h) h) h)) (keeps_forAll _ _ (fun _ _ h => keeps_levelRecPut _ h) h))
      (fun _ h => keeps_ok _ _ h) h) h) h) h)

theorem keepsOut_execFormatSet (q : Nat) (env : CommitEnv) (h : Keeps s0 s) : KeepsOut s0 (execFormatSet q env s) :=
  keepsOut_next (keeps_hostCmd _ _ _ _ (fun _ _ h => keeps_checked _ _ _ (fun _ h => keeps_checkedU _ _ _
      (fun _ h => keeps_timingCommit _ _ _ _ _ _ (fun _ _ _ h => keeps_forAll _ _ (fun _ _ h => keeps_setShd _ _ h) h)
      (fun _ h => keeps_noteEnd _ _ h) h) h) h) h)

theorem keepsOut_execPinMapSet (q : Nat) (env : CommitEnv) (h : Keeps s0 s) : KeepsOut s0 (execPinMapSet q env s) :=
  keepsOut_next (keeps_hostCmd _ _ _ _ (fun _ _ h => keeps_checked _ _ _ (fun _ h => keeps_checkedU _ _ _
      (fun _ h => keeps_timingCommit _ _ _ _ _ _ (fun _ _ _ h => keeps_forAll _ _ (fun _ _ h => keeps_setShd _ _
      (keeps_wr _ _ _ h)) h) (fun _ h => keeps_noteEnd _ _ h) h) h) h) h)

theorem keeps_setGang (m mask : Nat) (h : Keeps s0 s) : Keeps s0 (setGang m mask s) :=
  keeps_forAll _ _ (fun _ _ h => keeps_followEngine _ h) (keeps_forAll _ _ (fun _ _ h => keeps_wr _ _ _ (keeps_wr _ _ _
      (keeps_wr _ _ _ (keeps_wr _ _ _ h)))) h)

theorem keepsOut_execGangSet (q : Nat) (h : Keeps s0 s) : KeepsOut s0 (execGangSet q s) :=
  keepsOut_next (keeps_hostCmd _ _ _ _ (fun _ _ h => keeps_checked _ _ _ (fun _ h => keeps_checkedU _ _ _ (fun _ h => keeps_ok _ _
      (keeps_setGang _ _ h)) h) h) h)

theorem keepsOut_execHvLimitSet (q : Nat) (env : CommitEnv) (h : Keeps s0 s) : KeepsOut s0 (execHvLimitSet q env s) :=
  keepsOut_next (keeps_hostCmd _ _ _ _ (fun _ _ h => keeps_checked _ _ _ (fun _ h => keeps_checkedU _ _ _
      (fun _ h => keeps_twoPhase _ _ _ _ _ (fun _ _ h => keeps_forAll _ _ (fun _ _ h => keeps_wr _ _ _ h) h)
      (fun _ h => keeps_ok _ _ h) h) h) h) h)

theorem keepsOut_execCurrentLimitOnset (u : Nat) (h : Keeps s0 s) : KeepsOut s0 (execCurrentLimitOnset u s) :=
  keepsOut_next (keeps_ite _ (keeps_ite _ (keeps_wr _ _ _ (keeps_modAw _ _ h)) h) (keeps_ite _ (keeps_wr _ _ _ (keeps_modPin _ _ h))
      (keeps_ite _ (keeps_wr _ _ _ h) h)))

theorem keepsOut_execCurrentLimitEnd (u : Nat) (h : Keeps s0 s) : KeepsOut s0 (execCurrentLimitEnd u s) :=
  keepsOut_next (keeps_ite _ (keeps_wr _ _ _ (keeps_modAw _ _ h)) (keeps_when _ _ (fun _ h => keeps_wr _ _ _ h) (keeps_wr _ _ _
      (keeps_modPin _ _ h))))

theorem keeps_overcurrent (n : Nat) (h : Keeps s0 s) : Keeps s0 (overcurrent n s) :=
  keeps_modPin _ _ (keeps_raise _ _ (keeps_openPin _ h))

theorem keepsOut_execPinDwellExpire (n : Nat) (h : Keeps s0 s) : KeepsOut s0 (execPinDwellExpire n s) :=
  keepsOut_next (keeps_ite _ (keeps_report _ _ _ (keeps_forAll _ _ (fun _ _ h => keeps_overcurrent _ h) h)) h)

theorem keepsOut_execPmuDwellExpire (n : Nat) (h : Keeps s0 s) : KeepsOut s0 (execPmuDwellExpire n s) :=
  keepsOut_next (keeps_ite _ (keeps_report _ _ _ (keeps_overcurrent _ h)) h)

theorem keepsOut_execAwDwellExpire (k : Nat) (h : Keeps s0 s) : KeepsOut s0 (execAwDwellExpire k s) := by
  unfold execAwDwellExpire
  refine keepsOut_next ?_
  split
  · exact keeps_ite _ h (keeps_report _ _ _ (keeps_raise _ _ (keeps_openAw _ h)))
  · exact h

/-! ## The operations and commands of Machine/Pmu -/

theorem keeps_zeroPmuf (n force : Nat) (h : Keeps s0 s) : Keeps s0 (zeroPmuf n force s) := keeps_wr _ _ _ (keeps_wr _ _ _ h)

theorem keeps_clearServo (n : Nat) (h : Keeps s0 s) : Keeps s0 (clearServo n s) := keeps_wr _ _ _ (keeps_modPin _ _ h)

theorem keeps_pmuRecPut (r : PmuRec) (h : Keeps s0 s) : Keeps s0 (PmuRec.put r s) := by
  unfold PmuRec.put
  extract_lets +onlyGivenNames _ _ _ _ s1
  have h1 : Keeps s0 s1 := keeps_when _ _ (fun _ h => keeps_wr _ _ _ h) (keeps_when _ _ (fun _ h => keeps_clearServo _ h)
      (keeps_wrS _ _ _ (keeps_wrBoth _ _ _ (keeps_wr _ _ _ (keeps_wr _ _ _ (keeps_wr _ _ _ (keeps_wr _ _ _ (keeps_wr _ _ _
      (keeps_wr _ _ _ (keeps_wr _ _ _ h))))))))))
  exact keeps_ite _ (keeps_wr _ _ _ (keeps_modPin _ _ h1)) (keeps_when _ _ (fun _ h => keeps_zeroPmuf _ _ h) h1)

theorem keepsOut_execPmuSet (q : Nat) (env : CommitEnv) (h : Keeps s0 s) : KeepsOut s0 (execPmuSet q env s) :=
  keepsOut_next (keeps_hostCmd _ _ _ _ (fun _ _ h => keeps_checked _ _ _ (fun _ h => keeps_checkedU _ _ _
      (fun _ h => keeps_claimPhase _ _ _ _ _ _ _ (fun _ _ h => keeps_ite _ (keeps_forAll _ _ (fun _ _ h => keeps_pmuRecPut _ h) h)
      (keeps_ite _ (keeps_strobe _ _ (keeps_early _ (fun _ _ h => keeps_forAll _ _ (fun _ _ h => keeps_pmuRecPut _ h) h) h))
      ((keeps_forAll _ _ (fun _ _ h => keeps_pmuRecPut _ h) h).same rfl))) (fun _ h => keeps_ok _ _ h) h) h) h) h)

theorem keepsOut_execRangeBreakOpen (u : Nat) (h : Keeps s0 s) : KeepsOut s0 (execRangeBreakOpen u s) := by
  unfold execRangeBreakOpen
  refine keepsOut_next ?_
  extract_lets +onlyGivenNames _
  refine keeps_ite _ ?_ ?_
  · extract_lets +onlyGivenNames _ _ _ _
    refine keeps_ite _ h ?_
    extract_lets +onlyGivenNames s1
    have h1 : Keeps s0 s1 := keeps_partAw _ (keeps_modAw _ _ h)
    exact keeps_ite _ h1 (keeps_setClaim _ _ h1)
  · split
    · exact keeps_ite _ h (keeps_when _ _ (fun _ h => keeps_setClaim _ _ h) (keeps_when _ _ (fun _ h => keeps_zeroPmuf _ _ h)
        (keeps_clearServo _ (keeps_openPin _ (keeps_modPin _ _ h)))))
    · exact h

theorem keeps_breakEnded (u : Nat) (h : Keeps s0 s) : Keeps s0 (breakEnded u s) := by
  unfold breakEnded
  extract_lets +onlyGivenNames _ _ _ s1
  have h1 : Keeps s0 s1 := h.same rfl
  exact keeps_ite _ h1 (keeps_strobe _ _ h1)

theorem keepsOut_execRangeBusyClear (u : Nat) (h : Keeps s0 s) : KeepsOut s0 (execRangeBusyClear u s) := by
  unfold execRangeBusyClear
  refine keepsOut_next ?_
  dsimp only
  refine keeps_ite _ ?_ ?_
  · split
    · exact keeps_ite _ h (keeps_breakEnded _ (keeps_wr _ _ _ (keeps_modAw _ _ h)))
    · exact h
  · split
    · exact keeps_ite _ h (keeps_breakEnded _ (keeps_wr _ _ _ (keeps_modPin _ _ h)))
    · exact h

theorem keepsOut_execSenseOpenDetect (u : Nat) (h : Keeps s0 s) : KeepsOut s0 (execSenseOpenDetect u s) :=
  keepsOut_next (keeps_ite _ (keeps_when _ _ (fun _ h => keeps_wr _ _ _ h) h) (keeps_when _ _ (fun _ h => keeps_wr _ _ _ h) h))

theorem keepsOut_execPmuServoTick (n : Nat) (sensed : Int) (h : Keeps s0 s) : KeepsOut s0 (execPmuServoTick n sensed s) :=
  keepsOut_next (keeps_ite _ (keeps_wr _ _ _ (keeps_modPin _ _ h)) h)

theorem keepsOut_execPmuMeasure (q : Nat) (env : CommitEnv) (h : Keeps s0 s) : KeepsOut s0 (execPmuMeasure q env s) :=
  keepsOut_next (keeps_hostCmd _ _ _ _ (fun _ _ h => keeps_checked _ _ _ (fun _ h => keeps_checkedU _ _ _
      (fun _ h => keeps_twoPhase _ _ _ _ _ (fun _ _ h => keeps_forAll _ _ (fun _ _ h => keeps_modPin _ _ h) h)
      (fun _ h => keeps_modCmd _ _ h) h) h) h) h)

theorem keepsOut_execPmuSample (q : Nat) (samples : List PmuSample) (h : Keeps s0 s) : KeepsOut s0 (execPmuSample q samples s) := by
  unfold execPmuSample
  refine keepsOut_next ?_
  split
  · exact h
  · exact keeps_ite _ h (keeps_modCmd _ _ (keeps_forAll _ _ (fun _ _ h => keeps_wr _ _ _ (keeps_modPin _ _ h)) h))

theorem keepsOut_execPmuMeasureDone (q : Nat) (h : Keeps s0 s) : KeepsOut s0 (execPmuMeasureDone q s) := by
  unfold execPmuMeasureDone
  refine keepsOut_next ?_
  split
  · exact h
  · exact keeps_ite _ h (keeps_ok _ _ h)

/-! ## The operations and commands of Machine/Sources -/

theorem keeps_stopSeq (k state : Nat) (h : Keeps s0 s) : Keeps s0 (stopSeq k state s) :=
  keeps_wr _ _ _ (keeps_wr _ _ _ (keeps_wr _ _ _ (keeps_modAw _ _ h)))

theorem keeps_countPlayed (k t : Nat) (h : Keeps s0 s) : Keeps s0 (countPlayed k t s) := by
  unfold countPlayed
  split
  · exact keeps_bumpBy _ _ _ (keeps_bumpBy _ _ _ h)
  · exact h

theorem keeps_awRecPut (r : AwRec) (h : Keeps s0 s) : Keeps s0 (AwRec.put r s) := by
  unfold AwRec.put
  extract_lets +onlyGivenNames _ _ _ _ s1
  have h1 : Keeps s0 s1 := keeps_when _ _ (fun _ h => keeps_wr _ _ _ h) (keeps_wrS _ _ _ (keeps_wrBoth _ _ _ (keeps_wr _ _ _
      (keeps_wr _ _ _ (keeps_wr _ _ _ (keeps_wr _ _ _ (keeps_wr _ _ _ h)))))))
  exact keeps_ite _ (keeps_ite _ h1 (keeps_modAw _ _ (keeps_stopSeq _ _ (keeps_when _ _ (fun _ h => keeps_countPlayed _ _ h) h1))))
      (keeps_ite _ (keeps_wr _ _ _ (keeps_wr _ _ _ (keeps_modAw _ _ h1))) (keeps_ite _ (keeps_wr _ _ _ (keeps_modAw _ _ h1)) h1))

theorem keepsOut_execAwSet (q : Nat) (env : CommitEnv) (h : Keeps s0 s) : KeepsOut s0 (execAwSet q env s) :=
  keepsOut_next (keeps_hostCmd _ _ _ _ (fun _ _ h => keeps_checked _ _ _ (fun _ h => keeps_checkedU _ _ _
      (fun _ h => keeps_claimPhase _ _ _ _ _ _ _ (fun _ _ h => keeps_ite _ (keeps_forAll _ _ (fun _ _ h => keeps_awRecPut _ h) h)
      (keeps_ite _ (keeps_strobe _ _ (keeps_early _ (fun _ _ h => keeps_forAll _ _ (fun _ _ h => keeps_awRecPut _ h) h) h))
      ((keeps_forAll _ _ (fun _ _ h => keeps_awRecPut _ h) h).same rfl))) (fun _ h => keeps_ok _ _ h) h) h) h) h)

theorem keeps_refreshMem (d : Nat) (h : Keeps s0 s) : Keeps s0 (refreshMem d s) := keeps_wr _ _ _ h

theorem keepsOut_execAwSegLoad (q : Nat) (data : Option (List Word)) (h : Keeps s0 s) : KeepsOut s0 (execAwSegLoad q data s) := by
  unfold execAwSegLoad
  refine keepsOut_next (keeps_hostCmd _ _ _ _ (fun _ _ h => ?_) h)
  dsimp only
  refine keeps_checked _ _ _ (fun _ h => keeps_checkedU _ _ _ (fun _ h => keeps_ite _ h (keeps_ite _
      (keeps_finish _ _ _ _ h) ?_)) h) h
  split
  · exact keeps_finish _ _ _ _ h
  · exact keeps_ok _ _ (keeps_refreshMem _ (keeps_modAw _ _ h))

theorem keepsOut_execAwSeqLoad (q : Nat) (h : Keeps s0 s) : KeepsOut s0 (execAwSeqLoad q s) :=
  keepsOut_next (keeps_hostCmd _ _ _ _ (fun _ _ h => keeps_checked _ _ _ (fun _ h => keeps_checkedU _ _ _ (fun _ h => keeps_ok _ _
      (keeps_modAw _ _ h)) h) h) h)

theorem keeps_beginRep (k t : Nat) (h : Keeps s0 s) : Keeps s0 (beginRep k t s) := by
  unfold beginRep
  exact keeps_modAw _ _ h

theorem keeps_playStep (k i t gen : Nat) (h : Keeps s0 s) : Keeps s0 (playStep k i t gen s) :=
  keeps_beginRep _ _ (keeps_when _ _ (fun _ h => keeps_fireAt _ _ _ _ _ h) (keeps_modAw _ _ (keeps_wr _ _ _ (keeps_wr _ _ _
      (keeps_wr _ _ _ (keeps_wr _ _ _ h))))))

theorem keeps_reachStep (k i t : Nat) (h : Keeps s0 s) : Keeps s0 (reachStep k i t s) :=
  keeps_ite _ (keeps_playStep _ _ _ _ h) (keeps_ite _ (keeps_playStep _ _ _ _ (keeps_wr _ _ _ h)) (keeps_modAw _ _ (keeps_wr _ _ _
      (keeps_wr _ _ _ (keeps_wr _ _ _ (keeps_wr _ _ _ h))))))

theorem keepsOut_execAwRun (q : Nat) (env : CommitEnv) (h : Keeps s0 s) : KeepsOut s0 (execAwRun q env s) := by
  unfold execAwRun
  refine keepsOut_next (keeps_hostCmd _ _ _ _ (fun _ _ h => ?_) h)
  dsimp only
  refine keeps_checked _ _ _ (fun _ h => ?_) h
  split
  · exact keeps_finish _ _ _ _ h
  · exact keeps_checkedU _ _ _ (fun _ h => keeps_twoPhase _ _ _ _ _ (fun _ _ h => keeps_forAll _ _ (fun _ _ h => keeps_wr _ _ _
      (keeps_modAw _ _ h)) h) (fun _ h => keeps_ok _ _ h) h) h

theorem keepsOut_execAwRunStart (h : Keeps s0 s) : KeepsOut s0 (execAwRunStart s) := by
  unfold execAwRunStart
  refine keepsOut_next (keeps_forAll _ _ (fun _ _ h => ?_) h)
  split
  · exact keeps_ite _ h (keeps_reachStep _ _ _ (keeps_modAw _ _ h))
  · exact h

theorem keepsOut_execAwStop (q : Nat) (env : CommitEnv) (h : Keeps s0 s) : KeepsOut s0 (execAwStop q env s) :=
  keepsOut_next (keeps_hostCmd _ _ _ _ (fun _ _ h => keeps_checked _ _ _ (fun _ h => keeps_twoPhase _ _ _ _ _
      (fun _ _ h => keeps_forAll _ _ (fun _ _ h => keeps_when _ _ (fun _ h => keeps_wr _ _ _ (keeps_modAw _ _ h)) h) h)
      (fun _ h => keeps_ok _ _ h) h) h) h)

theorem keeps_stopNow (k t : Nat) (h : Keeps s0 s) : Keeps s0 (stopNow k t s) :=
  keeps_stopSeq _ _ (keeps_when _ _ (fun _ h => keeps_countPlayed _ _ h) h)

theorem keepsOut_execAwStopAct (h : Keeps s0 s) : KeepsOut s0 (execAwStopAct s) := by
  unfold execAwStopAct
  refine keepsOut_next (keeps_forAll _ _ (fun _ _ h => ?_) h)
  split
  · extract_lets +onlyGivenNames _
    refine keeps_ite _ h ?_
    extract_lets +onlyGivenNames s1
    have h1 : Keeps s0 s1 := keeps_modAw _ _ h
    exact keeps_ite _ h1 (keeps_stopNow _ _ h1)
  · exact h

theorem keepsOut_execAwJump (q : Nat) (h : Keeps s0 s) : KeepsOut s0 (execAwJump q s) :=
  keepsOut_next (keeps_hostCmd _ _ _ _ (fun _ _ h => keeps_checked _ _ _ (fun _ h => keeps_checkedU _ _ _
      (fun _ h => keeps_finish _ _ _ _ (keeps_wr _ _ _ (keeps_modAw _ _ h))) h) h) h)

theorem keeps_takeJump (k i t : Nat) (h : Keeps s0 s) : Keeps s0 (takeJump k i t s) :=
  keeps_reachStep _ _ _ (keeps_wr _ _ _ (keeps_modAw _ _ h))

theorem keeps_markLate (k b : Nat) (h : Keeps s0 s) : Keeps s0 (markLate k b s) := by
  unfold markLate
  split
  · exact keeps_ite _ (keeps_raise _ _ (keeps_modAw _ _ h)) h
  · exact h

theorem keepsOut_execAwJumpPresent (k : Nat) (h : Keeps s0 s) : KeepsOut s0 (execAwJumpPresent k s) := by
  unfold execAwJumpPresent
  refine keepsOut_next ?_
  split
  · exact keeps_ite _ h (keeps_ite _ (keeps_takeJump _ _ _ h) (keeps_ite _ (keeps_markLate _ _ h) h))
  · exact h

theorem keepsOut_execAwBoundary (k : Nat) (h : Keeps s0 s) : KeepsOut s0 (execAwBoundary k s) := by
  unfold execAwBoundary
  refine keepsOut_next ?_
  extract_lets +onlyGivenNames _ _
  refine keeps_ite _ h ?_
  extract_lets +onlyGivenNames s1
  have h1 : Keeps s0 s1 := keeps_bump _ _ (keeps_countPlayed _ _ h)
  refine keeps_ite _ (keeps_stopSeq _ _ (keeps_modAw _ _ h1)) ?_
  extract_lets +onlyGivenNames s2
  have h2 : Keeps s0 s2 := keeps_markLate _ _ h1
  dsimp only
  split
  · exact keeps_takeJump _ _ _ h2
  · refine keeps_ite _ (keeps_beginRep _ _ h2) ?_
    split
    · exact keeps_reachStep _ _ _ h2
    · exact keeps_reachStep _ _ _ h2
    · exact keeps_stopSeq _ _ h2
    · exact keeps_stopSeq _ _ h2

theorem keeps_inputOverrun (d i : Nat) (h : Keeps s0 s) : Keeps s0 (inputOverrun d i s) :=
  keeps_ite _ (keeps_raiseBits _ _ _ h) (keeps_raiseBits _ _ _ h)

theorem keepsOut_execAwTrigPresent (k : Nat) (h : Keeps s0 s) : KeepsOut s0 (execAwTrigPresent k s) := by
  unfold execAwTrigPresent
  refine keepsOut_next ?_
  split
  · exact h
  · refine keeps_ite _ h ?_
    extract_lets +onlyGivenNames s1
    have h1 : Keeps s0 s1 := keeps_modAw _ _ h
    split
    · exact keeps_playStep _ _ _ _ h1
    · exact keeps_ite _ (keeps_inputOverrun _ _ h1) (keeps_wr _ _ _ (keeps_modAw _ _ h1))
    · exact h1

/-! ## The operations and commands of Machine/Monitors -/

theorem keeps_refreshOut (k t : Nat) (h : Keeps s0 s) : Keeps s0 (refreshOut k t s) := by
  unfold refreshOut
  extract_lets +onlyGivenNames _ _ _ _ s1
  have h1 : Keeps s0 s1 := keeps_wr _ _ _ (keeps_wr _ _ _ (keeps_wr _ _ _ (keeps_wr _ _ _ h)))
  clear_value s1
  exact keeps_when _ _ (fun _ h => keeps_fireAt _ _ _ _ _ (keeps_bump _ _ (keeps_modWm _ _ h))) h1

theorem keeps_compareNow (k t : Nat) (h : Keeps s0 s) : Keeps s0 (compareNow k t s) :=
  keeps_refreshOut _ _ (keeps_modWm _ _ h)

theorem keeps_wmRecPut (r : WmRec) (h : Keeps s0 s) : Keeps s0 (WmRec.put r s) :=
  keeps_refreshOut _ _ (keeps_wr _ _ _ (keeps_when _ _ (fun _ h => keeps_modWm _ _ h) (keeps_when _ _ (fun _ h => keeps_modWm _ _ h)
      (keeps_when _ _ (fun _ h => keeps_wr _ _ _ h) (keeps_setShd _ _ (keeps_setShd _ _ (keeps_wrBoth _ _ _ h)))))))

theorem keepsOut_execWmSet (q : Nat) (env : CommitEnv) (h : Keeps s0 s) : KeepsOut s0 (execWmSet q env s) :=
  keepsOut_next (keeps_hostCmd _ _ _ _ (fun _ _ h => keeps_checked _ _ _ (fun _ h => keeps_checkedU _ _ _
      (fun _ h => keeps_twoPhase _ _ _ _ _ (fun _ _ h => keeps_ite _ (keeps_strobe _ _ (keeps_early _ (fun _ _ h => keeps_forAll _ _
      (fun _ _ h => keeps_wmRecPut _ h) h) h)) (keeps_forAll _ _ (fun _ _ h => keeps_wmRecPut _ h) h))
      (fun _ h => keeps_ok _ _ h) h) h) h) h)

theorem keepsOut_execWmInputCrossing (k : Nat) (v : Int) (h : Keeps s0 s) : KeepsOut s0 (execWmInputCrossing k v s) :=
  keepsOut_next (keeps_ite _ h (keeps_compareNow _ _ (keeps_modWm _ _ h)))

theorem keepsOut_execWmSettleExpire (k : Nat) (h : Keeps s0 s) : KeepsOut s0 (execWmSettleExpire k s) := by
  unfold execWmSettleExpire
  refine keepsOut_next ?_
  split
  · exact keeps_ite _ h (keeps_compareNow _ _ (keeps_modWm _ _ h))
  · exact h

theorem keeps_openEclipse (k edge : Nat) (h : Keeps s0 s) : Keeps s0 (openEclipse k edge s) := keeps_ite _ h (keeps_modWm _ _ h)

theorem keepsOut_execEclipseClose (k : Nat) (h : Keeps s0 s) : KeepsOut s0 (execEclipseClose k s) := by
  unfold execEclipseClose
  refine keepsOut_next ?_
  split
  · exact keeps_ite _ h (keeps_compareNow _ _ (keeps_modWm _ _ h))
  · exact h

theorem keepsOut_execWmTapUpdate (k : Nat) (mean : Int) (h : Keeps s0 s) : KeepsOut s0 (execWmTapUpdate k mean s) :=
  keepsOut_next (keeps_ite _ (keeps_wr _ _ _ (keeps_modWm _ _ h)) h)

theorem keepsOut_execLevelDacUpdate (close : List Nat) (h : Keeps s0 s) : KeepsOut s0 (execLevelDacUpdate close s) :=
  keepsOut_next (keeps_forAll _ _ (fun _ _ h => keeps_forAll _ _ (fun _ _ h => keeps_compareNow _ _ h) (keeps_updateDacs _ _ h))
      (h.same rfl))

/-! ## The operations and commands of Machine/Pulses -/

theorem keepsOut_execPgTimingHiWrite (j w : Nat) (v : Word) (h : Keeps s0 s) : KeepsOut s0 (execPgTimingHiWrite j w v s) := by
  unfold execPgTimingHiWrite
  refine keepsOut_next (keeps_ite _ h ?_)
  extract_lets +onlyGivenNames _
  refine keeps_barWrite _ _ _ (fun _ h => ?_) h
  extract_lets +onlyGivenNames _ s1
  have h1 : Keeps s0 s1 := keeps_modPg _ _ h
  extract_lets +onlyGivenNames s2
  have h2 : Keeps s0 s2 := keeps_setShd _ _ (keeps_setShd _ _ h1)
  exact keeps_ite _ (keeps_ite _ h2 (keeps_discard h1)) (keeps_ite _ h2 (keeps_discard h1))

theorem keeps_followOutput (j : Nat) (active : Bool) (h : Keeps s0 s) : Keeps s0 (followOutput j active s) :=
  keeps_forAll _ _ (fun _ _ h => keeps_refreshDrv _ (keeps_followEngine _ (keeps_when _ _ (fun _ h => keeps_wr _ _ _ h) h))) h

theorem keeps_outputEdge (j t : Nat) (leading : Bool) (h : Keeps s0 s) : Keeps s0 (outputEdge j t leading s) :=
  keeps_forAll _ _ (fun _ _ h => keeps_compareNow _ _ (keeps_when _ _ (fun _ h => keeps_openEclipse _ _ h) (keeps_modWm _ _ h)))
      (keeps_followOutput _ _ h)

theorem keeps_recordMap (j map : Nat) (h : Keeps s0 s) : Keeps s0 (recordMap j map s) := keeps_wr _ _ _ (keeps_wr _ _ _ h)

theorem keeps_endRun (j cause state t : Nat) (h : Keeps s0 s) : Keeps s0 (endRun j cause state t s) :=
  keeps_fireAt _ _ _ _ _ (keeps_wr _ _ _ (keeps_wr _ _ _ (keeps_modPg _ _ h)))

theorem keeps_endPulse (j t : Nat) (h : Keeps s0 s) : Keeps s0 (endPulse j t s) := keeps_outputEdge _ _ _ (keeps_modPg _ _ h)

theorem keeps_endIfLast (j t : Nat) (h : Keeps s0 s) : Keeps s0 (endIfLast j t s) := keeps_ite _ (keeps_endRun _ _ _ _ h) h

theorem keeps_faultEngine (j kind gen t : Nat) (h : Keeps s0 s) : Keeps s0 (faultEngine j kind gen t s) := by
  unfold faultEngine
  extract_lets +onlyGivenNames s1
  have h1 : Keeps s0 s1 := keeps_when _ _ (fun _ h => keeps_endPulse _ _ h) h
  exact keeps_reportAt _ _ _ _ (keeps_fireAt _ _ _ _ _ (keeps_wrPair _ _ _ (keeps_wr _ _ _ (keeps_modPg _ _ (keeps_ite _
      (keeps_endRun _ _ _ _ h1) (keeps_wr _ _ _ h1))))))

theorem keeps_monitorLost (k : Nat) (h : Keeps s0 s) : Keeps s0 (monitorLost k s) :=
  keeps_when _ _ (fun _ h => keeps_forAll _ _ (fun _ _ h => keeps_ite _ (keeps_faultEngine _ _ _ _ h) h) h) h

theorem keeps_tripPulse (j u : Nat) (h : Keeps s0 s) : Keeps s0 (tripPulse j u s) :=
  keeps_ite _ (keeps_faultEngine _ _ _ _ (keeps_recordMap _ _ h)) (keeps_endIfLast _ _ (keeps_when _ _
      (fun _ h => keeps_fireAt _ _ _ _ _ h) (keeps_bump _ _ (keeps_endPulse _ _ (keeps_recordMap _ _ h)))))

theorem keeps_tripBy (j tick : Nat) (h : Keeps s0 s) : Keeps s0 (tripBy j tick s) := by
  unfold tripBy
  split
  · exact keeps_ite _ (keeps_tripPulse _ _ h) h
  · exact h

theorem keeps_stopEngine (j : Nat) (h : Keeps s0 s) : Keeps s0 (stopEngine j s) := by
  unfold stopEngine
  split
  · exact h
  · extract_lets +onlyGivenNames _ s1
    have h1 : Keeps s0 s1 := keeps_tripBy _ _ (keeps_modPg _ _ h)
    extract_lets +onlyGivenNames s2
    have h2 : Keeps s0 s2 := keeps_when _ _ (fun _ h => keeps_raise _ _ (keeps_endPulse _ _ h)) h1
    exact keeps_when _ _ (fun _ h => keeps_release _ (keeps_wr _ _ _ (keeps_modPg _ _ h))) (keeps_ite _ (keeps_endRun _ _ _ _ h2)
        (keeps_ite _ (keeps_wr _ _ _ (keeps_modPg _ _ h2)) h2))

theorem keepsOut_execPgStopAct (h : Keeps s0 s) : KeepsOut s0 (execPgStopAct s) := by
  unfold execPgStopAct
  refine keepsOut_next (keeps_forAll _ _ (fun _ _ h => ?_) h)
  split
  · exact keeps_ite _ h (keeps_stopEngine _ h)
  · exact h

theorem keepsOut_execPgGo (j : Nat) (h : Keeps s0 s) : KeepsOut s0 (execPgGo j s) := by
  unfold execPgGo
  refine keepsOut_next ?_
  split
  · exact keeps_ite _ h (keeps_ite _ (keeps_stopEngine _ h) (keeps_ite _ (keeps_modPg _ _ h) (keeps_wr _ _ _ (keeps_wr _ _ _
      (keeps_modPg _ _ h)))))
  · exact h

theorem keepsOut_execPgLeadingEdge (j : Nat) (h : Keeps s0 s) : KeepsOut s0 (execPgLeadingEdge j s) := by
  unfold execPgLeadingEdge
  refine keepsOut_next ?_
  split
  · extract_lets +onlyGivenNames _ _
    refine keeps_ite _ h (keeps_ite _ (keeps_stopEngine _ h) (keeps_ite _ (keeps_endRun _ _ _ _ h) ?_))
    extract_lets +onlyGivenNames _ _ _ _ s1
    have h1 : Keeps s0 s1 := keeps_modPg _ _ h
    exact keeps_ite _ (keeps_faultEngine _ _ _ _ (keeps_recordMap _ _ h1)) (keeps_ite _ (keeps_endIfLast _ _ (keeps_bump _ _ h1))
        (keeps_outputEdge _ _ _ (keeps_when _ _ (fun _ h => keeps_fireAt _ _ _ _ _ h) (keeps_bump _ _ (keeps_modPg _ _ h1)))))
  · exact h

theorem keepsOut_execPgTrailingEdge (j : Nat) (h : Keeps s0 s) : KeepsOut s0 (execPgTrailingEdge j s) := by
  unfold execPgTrailingEdge
  refine keepsOut_next ?_
  split
  · exact keeps_ite _ h (keeps_ite _ (keeps_stopEngine _ h) (keeps_ite _ (keeps_tripBy _ _ h) (keeps_endIfLast _ _
      (keeps_endPulse _ _ h))))
  · exact h

theorem keepsOut_execPgTrip (j : Nat) (h : Keeps s0 s) : KeepsOut s0 (execPgTrip j s) := by
  unfold execPgTrip
  refine keepsOut_next ?_
  split
  · exact keeps_ite _ h (keeps_tripPulse _ _ h)
  · exact h

theorem keepsOut_execPgFault (j : Nat) (h : Keeps s0 s) : KeepsOut s0 (execPgFault j s) := by
  unfold execPgFault
  refine keepsOut_next ?_
  split
  · exact keeps_ite _ h (keeps_tripPulse _ _ h)
  · exact h

theorem keepsOut_execPgKill (j : Nat) (h : Keeps s0 s) : KeepsOut s0 (execPgKill j s) := by
  unfold execPgKill
  refine keepsOut_next ?_
  split
  · exact h
  · extract_lets +onlyGivenNames _
    refine keeps_ite _ h ?_
    extract_lets +onlyGivenNames s1
    have h1 : Keeps s0 s1 := keeps_tripBy _ _ (keeps_modPg _ _ h)
    exact keeps_ite _ h1 (keeps_faultEngine _ _ _ _ h1)

theorem keepsOut_execPgServoTick (j : Nat) (h : Keeps s0 s) : KeepsOut s0 (execPgServoTick j s) :=
  keepsOut_next (keeps_ite _ h (keeps_compareNow _ _ (keeps_wr _ _ _ (keeps_wr _ _ _ (keeps_modPg _ _ h)))))

theorem keeps_putEngine (j : Nat) (c : Cmd) (h : Keeps s0 s) : Keeps s0 (putEngine j c s) := by
  unfold putEngine
  extract_lets +onlyGivenNames s1
  have h1 : Keeps s0 s1 := keeps_modPg _ _ (keeps_setReg _ _ (keeps_setReg _ _ (keeps_forAll _ _ (fun _ _ h => keeps_setShd _ _ h)
      (keeps_setReg _ _ (keeps_wrBoth _ _ _ h)))))
  exact keeps_ite _ (keeps_when _ _ (fun _ h => keeps_wr _ _ _ h) h1) (keeps_ite _ (keeps_modPg _ _ h1) (keeps_ite _ h1
      (keeps_release _ (keeps_wr _ _ _ (keeps_modPg _ _ h1)))))

theorem keepsOut_execPgSet (q : Nat) (h : Keeps s0 s) : KeepsOut s0 (execPgSet q s) :=
  keepsOut_next (keeps_hostCmd _ _ _ _ (fun _ _ h => keeps_checked _ _ _ (fun _ h => keeps_checkedU _ _ _
      (fun _ h => keeps_claimPhase _ _ _ _ _ _ _ (fun _ _ h => keeps_when _ _ (fun _ h => keeps_putEngine _ _ h) h)
      (fun _ h => keeps_ok _ _ h) h) h) h) h)

theorem keepsOut_execPgListLoad (q : Nat) (h : Keeps s0 s) : KeepsOut s0 (execPgListLoad q s) :=
  keepsOut_next (keeps_hostCmd _ _ _ _ (fun _ _ h => keeps_checked _ _ _ (fun _ h => keeps_checkedU _ _ _ (fun _ h => keeps_ok _ _
      (keeps_modPg _ _ (keeps_forAll _ _ (fun _ _ h => keeps_forAll _ _ (fun _ _ h => keeps_setReg _ _ h) h) h))) h) h) h)

theorem keepsOut_execPgStart (q : Nat) (env : CommitEnv) (h : Keeps s0 s) : KeepsOut s0 (execPgStart q env s) :=
  keepsOut_next (keeps_hostCmd _ _ _ _ (fun _ _ h => keeps_checked _ _ _ (fun _ h => keeps_checkedU _ _ _
      (fun _ h => keeps_twoPhase _ _ _ _ _ (fun _ _ h => keeps_forAll _ _ (fun _ _ h => keeps_ite _ (keeps_wr _ _ _
      (keeps_modPg _ _ h)) (keeps_modPg _ _ h)) h) (fun _ h => keeps_ok _ _ h) h) h) h) h)

theorem keepsOut_execPgStop (q : Nat) (env : CommitEnv) (h : Keeps s0 s) : KeepsOut s0 (execPgStop q env s) :=
  keepsOut_next (keeps_hostCmd _ _ _ _ (fun _ _ h => keeps_checked _ _ _ (fun _ h => keeps_twoPhase _ _ _ _ _
      (fun _ _ h => keeps_forAll _ _ (fun _ _ h => keeps_when _ _ (fun _ h => keeps_modPg _ _ h) h) h)
      (fun _ h => keeps_ok _ _ h) h) h) h)

theorem keepsOut_execPgClear (q : Nat) (env : CommitEnv) (h : Keeps s0 s) : KeepsOut s0 (execPgClear q env s) :=
  keepsOut_next (keeps_hostCmd _ _ _ _ (fun _ _ h => keeps_checked _ _ _ (fun _ h => keeps_twoPhase _ _ _ _ _
      (fun _ _ h => keeps_forAll _ _ (fun _ _ h => keeps_when _ _ (fun _ h => keeps_wr _ _ _ (keeps_wr _ _ _ h)) h) h)
      (fun _ h => keeps_ok _ _ h) h) h) h)

/-! ## The operations and commands of Machine/Digitizer -/

theorem keeps_modAq (k : Nat) (f : Aq → Aq) (h : Keeps s0 s) : Keeps s0 (modAq k f s) := h.same rfl

theorem keeps_refreshSkew (k : Nat) (h : Keeps s0 s) : Keeps s0 (refreshSkew k s) := keeps_wr _ _ _ h

theorem keepsOut_execAqSet (q : Nat) (h : Keeps s0 s) : KeepsOut s0 (execAqSet q s) :=
  keepsOut_next (keeps_hostCmd _ _ _ _ (fun _ _ h => keeps_checked _ _ _ (fun _ h => keeps_checkedU _ _ _ (fun _ h => keeps_ok _ _
      (keeps_refreshSkew _ (keeps_forAll _ _ (fun _ _ h => keeps_setReg _ _ (keeps_setReg _ _ h)) (keeps_setReg _ _ h)))) h) h) h)

theorem keeps_armRecPut (r : ArmRec) (h : Keeps s0 s) : Keeps s0 (ArmRec.put r s) :=
  keeps_setReg _ _ (keeps_setReg _ _ (keeps_setReg _ _ (keeps_wr _ _ _ (keeps_wr _ _ _ (keeps_modBuf _ _ (keeps_modAq _ _ h))))))

theorem keeps_refuseRate (q : Nat) (map : Bool) (more : Nat) (units : List Nat) (h : Keeps s0 s) :
    Keeps s0 (refuseRate q map more units s) :=
  keeps_ite _ (keeps_refuseMap _ _ _ _ h) (keeps_finish _ _ _ _ h)

theorem keepsOut_execAqArm (q : Nat) (env : CommitEnv) (h : Keeps s0 s) : KeepsOut s0 (execAqArm q env s) := by
  unfold execAqArm
  refine keepsOut_next (keeps_hostCmd _ _ _ _ (fun _ _ h => ?_) h)
  dsimp only
  split
  · exact keeps_finishU _ _ _ _ _ h
  · split
    · exact keeps_refuseRate _ _ _ _ h
    · exact keeps_twoPhase _ _ _ _ _ (fun _ _ h => keeps_forAll _ _ (fun _ _ h => keeps_armRecPut _ h) h) (fun _ h => keeps_ok _ _ h) h

theorem keeps_writeSample (k : Nat) (v : Int) (h : Keeps s0 s) : Keeps s0 (writeSample k v s) := keeps_modBuf _ _ h

theorem keepsOut_execDigitizerSample (k : Nat) (raws : List Int) (h : Keeps s0 s) : KeepsOut s0 (execDigitizerSample k raws s) :=
  keepsOut_next (keeps_ite _ h (keeps_modAq _ _ (keeps_when _ _ (fun _ h => keeps_bumpBy _ _ _ h) (keeps_when _ _
      (fun _ h => keeps_bump _ _ h) (keeps_wr _ _ _ (keeps_writeSample _ _ h))))))

theorem keeps_takeTrigger (k : Nat) (h : Keeps s0 s) : Keeps s0 (takeTrigger k s) :=
  keeps_ite _ h (keeps_forAll _ _ (fun _ _ h => keeps_ite _ (keeps_bump _ _ h) (keeps_ite _ h (keeps_modAq _ _ h)))
      (keeps_fireAt _ _ _ _ _ (keeps_nextFresh (keeps_wr _ _ _ (keeps_modAq _ _ h)))))

theorem keepsOut_execAqTrigger (k : Nat) (h : Keeps s0 s) : KeepsOut s0 (execAqTrigger k s) := keepsOut_next (keeps_takeTrigger _ h)

theorem keepsOut_execAqForceAct (k : Nat) (h : Keeps s0 s) : KeepsOut s0 (execAqForceAct k s) :=
  keepsOut_next (keeps_when _ _ (fun _ h => keeps_takeTrigger _ h) h)

theorem keepsOut_execAqTrigEvent (k : Nat) (h : Keeps s0 s) : KeepsOut s0 (execAqTrigEvent k s) := by
  unfold execAqTrigEvent
  refine keepsOut_next ?_
  split
  · exact h
  · refine keeps_ite _ h ?_
    extract_lets +onlyGivenNames s1
    have h1 : Keeps s0 s1 := keeps_modAq _ _ h
    split
    · exact keeps_modAq _ _ h1
    · exact keeps_inputOverrun _ _ h1
    · exact h1

theorem keeps_closeRecord (k : Nat) (trunc : Bool) (h : Keeps s0 s) : Keeps s0 (closeRecord k trunc s) := by
  unfold closeRecord
  split
  · exact keeps_modBuf _ _ h
  · exact h

theorem keeps_endArm (k cause t : Nat) (h : Keeps s0 s) : Keeps s0 (endArm k cause t s) :=
  keeps_fireAt _ _ _ _ _ (keeps_wr _ _ _ (keeps_wr _ _ _ (keeps_modAq _ _ h)))

theorem keepsOut_execAqRecordComplete (k : Nat) (h : Keeps s0 s) : KeepsOut s0 (execAqRecordComplete k s) := by
  unfold execAqRecordComplete
  refine keepsOut_next (keeps_ite _ h ?_)
  extract_lets +onlyGivenNames _ s1
  have h1 : Keeps s0 s1 := keeps_wr _ _ _ (keeps_closeRecord _ _ h)
  exact keeps_ite _ (keeps_endArm _ _ _ h1) (keeps_wr _ _ _ (keeps_modAq _ _ h1))

theorem keeps_stopChannel (k cause t : Nat) (h : Keeps s0 s) : Keeps s0 (stopChannel k cause t s) :=
  keeps_endArm _ _ _ (keeps_when _ _ (fun _ h => keeps_wr _ _ _ (keeps_closeRecord _ _ h)) h)

theorem keepsOut_execAqStopAct (h : Keeps s0 s) : KeepsOut s0 (execAqStopAct s) := by
  unfold execAqStopAct
  refine keepsOut_next (keeps_forAll _ _ (fun _ _ h => ?_) h)
  split
  · exact keeps_ite _ (keeps_modAq _ _ h) (keeps_ite _ (keeps_stopChannel _ _ _ h) h)
  · exact h

theorem keepsOut_execAqForce (q : Nat) (env : CommitEnv) (h : Keeps s0 s) : KeepsOut s0 (execAqForce q env s) := by
  unfold execAqForce
  refine keepsOut_next (keeps_hostCmd _ _ _ _ (fun _ _ h => ?_) h)
  dsimp only
  refine keeps_checked _ _ _ (fun _ h => keeps_twoPhase _ _ _ _ _ (fun _ _ h => keeps_forAll _ _ (fun _ _ h => keeps_when _ _
      (fun _ h => keeps_modAq _ _ h) h) h) (fun _ h => ?_) h) h
  split
  · exact keeps_finishU _ _ _ _ _ h
  · exact keeps_ok _ _ h

theorem keepsOut_execAqStop (q : Nat) (env : CommitEnv) (h : Keeps s0 s) : KeepsOut s0 (execAqStop q env s) :=
  keepsOut_next (keeps_hostCmd _ _ _ _ (fun _ _ h => keeps_checked _ _ _ (fun _ h => keeps_twoPhase _ _ _ _ _
      (fun _ _ h => keeps_forAll _ _ (fun _ _ h => keeps_when _ _ (fun _ h => keeps_modAq _ _ h) h) h)
      (fun _ h => keeps_finish _ _ _ _ h) h) h) h)

theorem keepsOut_execAqRead (q ce : Nat) (bad : Option Nat) (h : Keeps s0 s) : KeepsOut s0 (execAqRead q ce bad s) := by
  unfold execAqRead
  refine keepsOut_next (keeps_hostCmd _ _ _ _ (fun _ _ h => ?_) h)
  extract_lets +onlyGivenNames _ _ _ _
  refine keeps_checked _ _ _ (fun _ h => ?_) h
  split
  · exact keeps_finish _ _ _ _ h
  · refine keeps_ite _ h ?_
    extract_lets +onlyGivenNames s1
    have h1 : Keeps s0 s1 := keeps_hbmCorrected _ h
    extract_lets +onlyGivenNames _ _ _
    refine keeps_ite _ (keeps_finish _ _ _ _ h1) ?_
    extract_lets +onlyGivenNames _ _ _ _ _ _ _ s2
    have h2 : Keeps s0 s2 := by
      unfold s2
      split
      · exact keeps_hbmError _ h1
      · exact h1
    exact keeps_ite _ (keeps_finish _ _ _ _ h2) (keeps_ok _ _ h2)

/-! ## The operations and commands of Machine/TimeUnits -/

theorem keeps_modTu (k : Nat) (f : Tu → Tu) (h : Keeps s0 s) : Keeps s0 (modTu k f s) := h.same rfl

theorem keeps_refreshTuSkew (k : Nat) (h : Keeps s0 s) : Keeps s0 (refreshTuSkew k s) := keeps_wr _ _ _ (keeps_wr _ _ _ h)

theorem keeps_bindBuffer (hd buf : Nat) (h : Keeps s0 s) : Keeps s0 (bindBuffer hd buf s) := by
  unfold bindBuffer
  split
  · exact keeps_modBuf _ _ (keeps_modPlace _ (keeps_modBuf _ _ h))
  · exact h

theorem keepsOut_execTuSet (q : Nat) (h : Keeps s0 s) : KeepsOut s0 (execTuSet q s) :=
  keepsOut_next (keeps_hostCmd _ _ _ _ (fun _ _ h => keeps_checked _ _ _ (fun _ h => keeps_checkedU _ _ _ (fun _ h => keeps_ok _ _
      (keeps_refreshTuSkew _ (keeps_bindBuffer _ _ (keeps_modTu _ _ (keeps_forAll _ _
      (fun _ _ h => keeps_setReg _ _ h) h))))) h) h) h)

theorem keeps_armTu (k : Nat) (h : Keeps s0 s) : Keeps s0 (armTu k s) :=
  keeps_wr _ _ _ (keeps_wr _ _ _ (keeps_wr _ _ _ (keeps_wr _ _ _ (keeps_wr _ _ _ (keeps_wr _ _ _ (keeps_modTu _ _ h))))))

theorem keepsOut_execTuArm (q : Nat) (env : CommitEnv) (h : Keeps s0 s) : KeepsOut s0 (execTuArm q env s) := by
  unfold execTuArm
  refine keepsOut_next (keeps_hostCmd _ _ _ _ (fun _ _ h => ?_) h)
  dsimp only
  refine keeps_checkedU _ _ _ (fun _ h => ?_) h
  split
  · exact keeps_refuseRate _ _ _ _ h
  · exact keeps_twoPhase _ _ _ _ _ (fun _ _ h => keeps_forAll _ _ (fun _ _ h => keeps_armTu _ h) h) (fun _ h => keeps_ok _ _ h) h

theorem keeps_stopTu (k : Nat) (h : Keeps s0 s) : Keeps s0 (stopTu k s) := keeps_when _ _ (fun _ h => keeps_modTu _ _ h) h

theorem keepsOut_execTuStop (q : Nat) (env : CommitEnv) (h : Keeps s0 s) : KeepsOut s0 (execTuStop q env s) :=
  keepsOut_next (keeps_hostCmd _ _ _ _ (fun _ _ h => keeps_checkedU _ _ _ (fun _ h => keeps_twoPhase _ _ _ _ _
      (fun _ _ h => keeps_forAll _ _ (fun _ _ h => keeps_stopTu _ h) h) (fun _ h => keeps_finish _ _ _ _ h) h) h) h)

theorem keeps_loseSource (k : Nat) (h : Keeps s0 s) : Keeps s0 (loseSource k s) := keeps_raise _ _ (keeps_stopTu _ h)

theorem keeps_pushResult (k gen : Nat) (st : Stamp) (ws : List Word) (h : Keeps s0 s) : Keeps s0 (pushResult k gen st ws s) := by
  unfold pushResult
  split
  · exact keeps_ite _ (keeps_bump _ _ h) (keeps_fire _ _ _ _ (keeps_wr _ _ _ (h.same rfl)))
  · exact h

theorem keeps_countDone (k : Nat) (h : Keeps s0 s) : Keeps s0 (countDone k s) := by
  unfold countDone
  extract_lets +onlyGivenNames _ _ s1
  have h1 : Keeps s0 s1 := keeps_modTu _ _ h
  exact keeps_ite _ (keeps_wr _ _ _ (keeps_modTu _ _ h1)) h1

theorem keeps_endBlock (k : Nat) (part : Bool) (h : Keeps s0 s) : Keeps s0 (endBlock k part s) :=
  keeps_countDone _ (keeps_pushResult _ _ _ _ (keeps_modTu _ _ h))

theorem keeps_addInterval (k start : Nat) (x : Int) (m : TuMarks) (h : Keeps s0 s) : Keeps s0 (addInterval k start x m s) := by
  unfold addInterval
  extract_lets +onlyGivenNames _ _ _ _ _ s1
  have h1 : Keeps s0 s1 := keeps_modTu _ _ h
  exact keeps_ite _ (keeps_endBlock _ _ h1) h1

theorem keeps_closeWindow (k : Nat) (h : Keeps s0 s) : Keeps s0 (closeWindow k s) := by
  unfold closeWindow
  dsimp only
  split
  · exact h
  · split
    · exact keeps_modTu _ _ h
    · exact keeps_addInterval _ _ _ _ (keeps_modTu _ _ h)

theorem keeps_settleStops (k : Nat) (now : Int) (h : Keeps s0 s) : Keeps s0 (settleStops k now s) := by
  unfold settleStops
  exact keeps_modTu _ _ h

theorem keeps_closeDue (k : Nat) (lim : Int) (cut : Bool) (n : Nat) (h : Keeps s0 s) : Keeps s0 (closeDue k lim cut n s) := by
  induction n generalizing s with
  | zero => exact h
  | succ n ih =>
    unfold closeDue
    split
    · exact keeps_ite _ (ih (keeps_closeWindow _ (keeps_settleStops _ _ h))) h
    · exact h

theorem keepsOut_execTuWindowClose (k : Nat) (h : Keeps s0 s) : KeepsOut s0 (execTuWindowClose k s) :=
  keepsOut_next (keeps_ite _ h (keeps_when _ _ (fun _ h => keeps_settleStops _ _ h) (keeps_closeDue _ _ _ _ h)))

theorem keeps_openGate (k count gen : Nat) (h : Keeps s0 s) : Keeps s0 (openGate k count gen s) := by
  unfold openGate
  exact keeps_modTu _ _ h

theorem keeps_closeGate (k close : Nat) (part : Bool) (h : Keeps s0 s) : Keeps s0 (closeGate k close part s) := by
  unfold closeGate
  split
  · exact h
  · exact keeps_when _ _ (fun _ h => keeps_openGate _ _ _ h) (keeps_countDone _ (keeps_pushResult _ _ _ _ (keeps_nextFresh
      (keeps_modTu _ _ h))))

theorem keeps_closeGates (k count n : Nat) (h : Keeps s0 s) : Keeps s0 (closeGates k count n s) := by
  induction n generalizing s with
  | zero => exact h
  | succ n ih =>
    unfold closeGates
    split
    · exact keeps_ite _ (ih (keeps_closeGate _ _ _ h)) h
    · exact h

theorem keepsOut_execTuGateClose (k : Nat) (h : Keeps s0 s) : KeepsOut s0 (execTuGateClose k s) :=
  keepsOut_next (keeps_closeGates _ _ _ h)

theorem keeps_startBy (k u : Nat) (h : Keeps s0 s) : Keeps s0 (startBy k u s) := by
  unfold startBy
  split
  · exact keeps_ite _ h (keeps_when _ _ (fun _ h => keeps_openGate _ _ _ h) (keeps_wr _ _ _ h))
  · exact h

theorem keepsOut_execTuMeasureStart (k : Nat) (h : Keeps s0 s) : KeepsOut s0 (execTuMeasureStart k s) :=
  keepsOut_next (keeps_startBy _ _ h)

theorem keeps_gateBy (k u : Nat) (h : Keeps s0 s) : Keeps s0 (gateBy k u s) := by
  unfold gateBy
  split
  · exact keeps_ite _ h (keeps_openGate _ _ _ h)
  · exact h

theorem keepsOut_execTuGateOpen (k : Nat) (h : Keeps s0 s) : KeepsOut s0 (execTuGateOpen k s) := keepsOut_next (keeps_gateBy _ _ h)

theorem keeps_logStamp (k b : Nat) (rising : Bool) (at_ : Nat) (m : TuMarks) (gap : Bool) (h : Keeps s0 s) :
    Keeps s0 (logStamp k b rising at_ m gap s) := by
  unfold logStamp
  split
  · exact h
  · exact keeps_ite _ h (keeps_when _ _ (fun _ h => keeps_wr _ _ _ h) (keeps_bump _ _ (keeps_modBuf _ _ h)))

theorem keeps_modIn (k b : Nat) (f : TuInput → TuInput) (h : Keeps s0 s) : Keeps s0 (modIn k b f s) := keeps_modTu _ _ h

theorem keeps_modGate (k : Nat) (f : TuGate → TuGate) (h : Keeps s0 s) : Keeps s0 (modGate k f s) := keeps_modTu _ _ h

theorem keeps_takeStamp (k b e at_ : Nat) (m : TuMarks) (h : Keeps s0 s) : Keeps s0 (takeStamp k b e at_ m s) :=
  keeps_ite _ (keeps_modGate _ _ h) (keeps_ite _ (keeps_modTu _ _ h) (keeps_modTu _ _ h))

theorem keeps_edgeAt (k b : Nat) (rising : Bool) (u at_ : Nat) (coarse : Bool) (h : Keeps s0 s) :
    Keeps s0 (edgeAt k b rising u at_ coarse s) := by
  unfold edgeAt
  extract_lets +onlyGivenNames _ s1
  have h1 : Keeps s0 s1 := keeps_when _ _ (fun _ h => keeps_closeGates _ _ _ h) h
  refine keeps_ite _ h1 ?_
  extract_lets +onlyGivenNames _ _ _ s2
  have h2 : Keeps s0 s2 := keeps_modIn _ _ _ h1
  extract_lets +onlyGivenNames s3
  have h3 : Keeps s0 s3 := keeps_ite _ (keeps_bump _ _ h2) (keeps_bump _ _ h2)
  extract_lets +onlyGivenNames s4
  have h4 : Keeps s0 s4 := keeps_when _ _ (fun _ h => keeps_modGate _ _ h) h3
  exact keeps_ite _ h4 (keeps_ite _ h4 (keeps_ite _ (keeps_modGate _ _ h4) (keeps_ite _ (keeps_modTu _ _ (keeps_bump _ _
      (keeps_modIn _ _ _ h4))) (keeps_takeStamp _ _ _ _ _ (keeps_logStamp _ _ _ _ _ _ (keeps_modTu _ _ (keeps_modIn _ _ _ h4)))))))

theorem keepsOut_execTuEdge (k b : Nat) (rising : Bool) (tick bin : Nat) (h : Keeps s0 s) :
    KeepsOut s0 (execTuEdge k b rising tick bin s) := by
  unfold execTuEdge
  refine keepsOut_next ?_
  extract_lets +onlyGivenNames _ _ s1
  have h1 : Keeps s0 s1 := keeps_gateBy _ _ (keeps_startBy _ _ h)
  extract_lets +onlyGivenNames _ _ _
  refine keeps_ite _ h1 (keeps_ite _ ?_ (keeps_ite _ h1 (keeps_edgeAt _ _ _ _ _ _ (keeps_nextFresh h1))))
  split
  · exact h1
  · extract_lets +onlyGivenNames s2
    have h2 : Keeps s0 s2 := keeps_modIn _ _ _ h1
    exact keeps_ite _ (keeps_edgeAt _ _ _ _ _ _ h2) h2

theorem keeps_endMeasuring (k t : Nat) (h : Keeps s0 s) : Keeps s0 (endMeasuring k t s) := by
  unfold endMeasuring
  extract_lets +onlyGivenNames s1
  have h1 : Keeps s0 s1 := keeps_gateBy _ _ (keeps_startBy _ _ h)
  extract_lets +onlyGivenNames _ _ _ s2
  have h2 : Keeps s0 s2 := by
    refine keeps_ite _ h1 (keeps_ite _ ?_ (keeps_when _ _ (fun _ h => keeps_endBlock _ _ h) (keeps_when _ _
        (fun _ h => keeps_settleStops _ _ h) (keeps_closeDue _ _ _ _ h1))))
    split
    · exact keeps_ite _ (keeps_closeGate _ _ _ (keeps_closeGates _ _ _ h1)) (keeps_closeGates _ _ _ h1)
    · exact keeps_closeGates _ _ _ h1
  exact keeps_wr _ _ _ (keeps_modTu _ _ h2)

theorem keepsOut_execTuStopAct (h : Keeps s0 s) : KeepsOut s0 (execTuStopAct s) := by
  unfold execTuStopAct
  refine keepsOut_next (keeps_forAll _ _ (fun _ _ h => ?_) h)
  split
  · exact keeps_ite _ h (keeps_ite _ (keeps_endMeasuring _ _ h) (keeps_modTu _ _ h))
  · exact h

theorem keepsOut_execTuRead (q : Nat) (h : Keeps s0 s) : KeepsOut s0 (execTuRead q s) := by
  unfold execTuRead
  refine keepsOut_next (keeps_hostCmd _ _ _ _ (fun _ _ h => ?_) h)
  extract_lets +onlyGivenNames _ _
  refine keeps_checked _ _ _ (fun _ h => ?_) h
  extract_lets +onlyGivenNames _ _ _ s1
  have h1 : Keeps s0 s1 := keeps_wr _ _ _ (h.same rfl)
  exact keeps_ite _ (keeps_finish _ _ _ _ h1) (keeps_ok _ _ h1)

theorem keeps_startBincal (k : Nat) (h : Keeps s0 s) : Keeps s0 (startBincal k s) :=
  keeps_ite _ h (keeps_wr _ _ _ (keeps_modTu _ _ h))

theorem keepsOut_execTuBincal (q : Nat) (env : CommitEnv) (h : Keeps s0 s) : KeepsOut s0 (execTuBincal q env s) :=
  keepsOut_next (keeps_hostCmd _ _ _ _ (fun _ _ h => keeps_checked _ _ _ (fun _ h => keeps_checkedU _ _ _
      (fun _ h => keeps_twoPhase _ _ _ _ _ (fun _ _ h => keeps_forAll _ _ (fun _ _ h => keeps_startBincal _ h) h)
      (fun _ h => keeps_modCmd _ _ h) h) h) h) h)

theorem keeps_setQueue (l : List Waiting) (h : Keeps s0 s) : Keeps s0 (setQueue l s) :=
  keeps_setReg _ _ (keeps_wr _ _ _ (keeps_wr _ _ _ (h.same rfl)))

theorem keeps_beginAuto (d : Nat) (h : Keeps s0 s) : Keeps s0 (beginAuto d s) :=
  keeps_forAll _ _ (fun _ _ h => keeps_startBincal _ h) (keeps_setClaim _ _ h)

theorem keepsOut_execBincalAuto (d : Nat) (h : Keeps s0 s) : KeepsOut s0 (execBincalAuto d s) := by
  unfold execBincalAuto
  refine keepsOut_next ?_
  extract_lets +onlyGivenNames _
  refine keeps_ite _ h ?_
  extract_lets +onlyGivenNames _ s1
  have h1 : Keeps s0 s1 := h.same rfl
  exact keeps_ite _ h1 (keeps_ite _ (keeps_beginAuto _ h1) (keeps_setQueue _ h1))

theorem keeps_endBincal (h : Keeps s0 s) : Keeps s0 (endBincal s) := by
  unfold endBincal
  refine keeps_forAll _ _ (fun _ _ h => ?_) h
  split
  · exact h
  · exact keeps_ite _ h (keeps_ite _ (keeps_ok _ _ h) (keeps_finish _ _ _ _ h))

theorem keeps_takeBins (k : Nat) (hits : List Nat) (h : Keeps s0 s) : Keeps s0 (takeBins k hits s) :=
  keeps_ite _ (keeps_report _ _ _ (keeps_wr _ _ _ h)) (keeps_wr _ _ _ (keeps_wr _ _ _ (keeps_modTu _ _ h)))

theorem keepsOut_execBincalDone (k : Nat) (hits : List Nat) (h : Keeps s0 s) : KeepsOut s0 (execBincalDone k hits s) := by
  unfold execBincalDone
  refine keepsOut_next ?_
  split
  · exact keeps_ite _ h (keeps_endBincal (keeps_when _ _ (fun _ h => keeps_release _ h) (keeps_takeBins _ _ (keeps_wr _ _ _
      (keeps_modTu _ _ h)))))
  · exact h

/-! ## The operations and commands of Machine/Measure -/

theorem keeps_senseSource (k u : Nat) (h : Keeps s0 s) : Keeps s0 (senseSource k u s) := keeps_wmRecPut _ h

theorem keeps_holdLine (p c target : Nat) (h : Keeps s0 s) : Keeps s0 (holdLine p c target s) :=
  keeps_setReg _ _ (keeps_setReg _ _ (keeps_wr _ _ _ (keeps_wr _ _ _ (keeps_setJoin _ _ _ h))))

theorem keeps_placeMeas (q i : Nat) (m : Meas) (h : Keeps s0 s) : Keeps s0 (placeMeas q i m s) := by
  unfold placeMeas
  extract_lets +onlyGivenNames _ _ s1
  have h1 : Keeps s0 s1 := keeps_modPlace _ h
  extract_lets +onlyGivenNames s2
  have h2 : Keeps s0 s2 := by
    unfold s2
    split
    · exact keeps_setReg _ _ (keeps_wr _ _ _ (h1.same rfl))
    · exact h1
  exact keeps_ok _ _ (keeps_modBuf _ _ h2)

theorem keeps_placeTime (q i kind edgeA edgeB a b : Nat) (h : Keeps s0 s) : Keeps s0 (placeTime q i kind edgeA edgeB a b s) := by
  unfold placeTime
  extract_lets +onlyGivenNames _ _
  split
  · exact keeps_finish _ _ _ _ h
  split
  · exact keeps_finish _ _ _ _ h
  extract_lets +onlyGivenNames _
  split
  · exact keeps_finish _ _ _ _ h
  split
  · exact keeps_finish _ _ _ _ h
  extract_lets +onlyGivenNames la lb
  clear_value la lb
  split
  · extract_lets +onlyGivenNames _ _ _ s1 s2 s3 s4
    have h1 : Keeps s0 s1 := by
      unfold s1
      split
      · exact keeps_senseSource _ _ h
      · exact h
    have h2 : Keeps s0 s2 := by
      unfold s2
      split
      · exact keeps_senseSource _ _ h1
      · exact h1
    have h3 : Keeps s0 s3 := by
      unfold s3
      split
      · exact keeps_holdLine _ _ _ h2
      · exact h2
    have h4 : Keeps s0 s4 := by
      unfold s4
      split
      · exact keeps_holdLine _ _ _ h3
      · exact h3
    clear_value s4
    refine keeps_placeMeas _ _ _ (keeps_modTu _ _ (keeps_refreshTuSkew _ ?_))
    iterate 7 refine keeps_setReg _ _ ?_
    exact h4
  · exact keeps_finish _ _ _ _ h

theorem keeps_placeDigit (q i a buf : Nat) (h : Keeps s0 s) : Keeps s0 (placeDigit q i a buf s) := by
  unfold placeDigit
  extract_lets +onlyGivenNames chan
  cases chan with
  | none => exact keeps_finish _ _ _ _ h
  | some k =>
    exact keeps_placeMeas _ _ _ (keeps_refreshSkew _ (keeps_forAll _ _ (fun _ _ h => keeps_setReg _ _ (keeps_setReg _ _ h))
      (keeps_setReg _ _ h)))

theorem keeps_placeSource (q i n : Nat) (h : Keeps s0 s) : Keeps s0 (placeSource q i n s) := by
  unfold placeSource
  split
  · exact keeps_finish _ _ _ _ h
  · exact keeps_ite _ (keeps_finish _ _ _ _ h) (keeps_placeMeas _ _ _ (keeps_pmuRecPut _ h))

theorem keepsOut_execMeasPlace (q : Nat) (h : Keeps s0 s) : KeepsOut s0 (execMeasPlace q s) := by
  unfold execMeasPlace
  refine keepsOut_next (keeps_hostCmd _ _ _ _ (fun _ _ h => ?_) h)
  dsimp only
  refine keeps_checked _ _ _ (fun _ h => keeps_checkedU _ _ _ (fun _ h => ?_) h) h
  split
  · exact keeps_placeTime _ _ _ _ _ _ _ h
  · exact keeps_placeTime _ _ _ _ _ _ _ h
  · exact keeps_placeDigit _ _ _ _ h
  · split
    · exact keeps_finish _ _ _ _ h
    · exact keeps_placeMeas _ _ _ h
  · exact keeps_placeSource _ _ _ h

theorem keepsOut_execMeasRelease (q : Nat) (h : Keeps s0 s) : KeepsOut s0 (execMeasRelease q s) := by
  unfold execMeasRelease
  refine keepsOut_next (keeps_hostCmd _ _ _ _ (fun _ _ h => ?_) h)
  extract_lets +onlyGivenNames _ _
  refine keeps_checked _ _ _ (fun _ h => keeps_checkedU _ _ _ (fun _ h => ?_) h) h
  split
  · exact keeps_ok _ _ h
  · extract_lets +onlyGivenNames s1
    have h1 : Keeps s0 s1 := keeps_forAll _ _ (fun _ _ h => keeps_setJoin _ _ _ h) h
    extract_lets +onlyGivenNames s2
    have h2 : Keeps s0 s2 := keeps_forAll _ _ (fun _ _ h => keeps_wr _ _ _ h) h1
    extract_lets +onlyGivenNames s3
    have h3 : Keeps s0 s3 := by
      unfold s3
      split
      · exact keeps_setReg _ _ (keeps_wr _ _ _ (h2.same rfl))
      · exact h2
    exact keeps_ok _ _ (keeps_unbind _ (keeps_modPlace _ (keeps_modBuf _ _ h3)))

/-! ## The operations and commands of Machine/Link -/

theorem keeps_ringError (q err : Nat) (h : Keeps s0 s) : Keeps s0 (ringError q err s) :=
  keeps_signal _ (keeps_wr _ _ _ (keeps_wr _ _ _ h))

theorem keeps_doorbell (q : Nat) (v : Word) (f : State → State) (hf : ∀ (s : State), Keeps s0 s → Keeps s0 (f s)) (h : Keeps s0 s) :
    Keeps s0 (doorbell q v f s) :=
  keeps_ite _ h (keeps_ite _ (keeps_discard h) (keeps_ite _ (keeps_ringError _ _ h) (hf _ h)))

theorem keeps_tailDoorbell (q : Nat) (v : Word) (h : Keeps s0 s) : Keeps s0 (tailDoorbell q v s) :=
  keeps_doorbell _ _ _ (fun _ h => keeps_modRing _ _ h) h

theorem keeps_headDoorbell (q : Nat) (v : Word) (h : Keeps s0 s) : Keeps s0 (headDoorbell q v s) :=
  keeps_doorbell _ _ _ (fun _ h => keeps_modRing _ _ h) h

theorem keepsOut_execSqTailDoorbell (q : Nat) (v : Word) (h : Keeps s0 s) : KeepsOut s0 (execSqTailDoorbell q v s) :=
  keepsOut_next (keeps_tailDoorbell _ _ h)

theorem keepsOut_execCqHeadDoorbell (q : Nat) (v : Word) (h : Keeps s0 s) : KeepsOut s0 (execCqHeadDoorbell q v s) :=
  keepsOut_next (keeps_headDoorbell _ _ h)

theorem keeps_writeRingCfg (q : Nat) (w : Word) (h : Keeps s0 s) : Keeps s0 (writeRingCfg q w s) :=
  keeps_ite _ h (keeps_ite _ (keeps_wr _ _ _ (keeps_ite _ (keeps_wr _ _ _ (keeps_ite _ (keeps_wr _ _ _ (keeps_ite _ (keeps_wr _ _ _
      (keeps_ite _ (keeps_wr _ _ _ (keeps_when _ _ (fun _ h => keeps_discard h) h)) (keeps_when _ _
      (fun _ h => keeps_discard h) h))) (keeps_ite _ (keeps_wr _ _ _ (keeps_when _ _ (fun _ h => keeps_discard h) h))
      (keeps_when _ _ (fun _ h => keeps_discard h) h)))) (keeps_ite _ (keeps_wr _ _ _ (keeps_ite _ (keeps_wr _ _ _ (keeps_when _ _
      (fun _ h => keeps_discard h) h)) (keeps_when _ _ (fun _ h => keeps_discard h) h))) (keeps_ite _ (keeps_wr _ _ _
      (keeps_when _ _ (fun _ h => keeps_discard h) h)) (keeps_when _ _ (fun _ h => keeps_discard h) h))))) (keeps_ite _
      (keeps_wr _ _ _ (keeps_ite _ (keeps_wr _ _ _ (keeps_ite _ (keeps_wr _ _ _ (keeps_when _ _ (fun _ h => keeps_discard h) h))
      (keeps_when _ _ (fun _ h => keeps_discard h) h))) (keeps_ite _ (keeps_wr _ _ _ (keeps_when _ _
      (fun _ h => keeps_discard h) h)) (keeps_when _ _ (fun _ h => keeps_discard h) h)))) (keeps_ite _ (keeps_wr _ _ _ (keeps_ite _
      (keeps_wr _ _ _ (keeps_when _ _ (fun _ h => keeps_discard h) h)) (keeps_when _ _ (fun _ h => keeps_discard h) h)))
      (keeps_ite _ (keeps_wr _ _ _ (keeps_when _ _ (fun _ h => keeps_discard h) h)) (keeps_when _ _
      (fun _ h => keeps_discard h) h)))))) (keeps_ite _ (keeps_wr _ _ _ (keeps_ite _ (keeps_wr _ _ _ (keeps_ite _ (keeps_wr _ _ _
      (keeps_ite _ (keeps_wr _ _ _ (keeps_when _ _ (fun _ h => keeps_discard h) h)) (keeps_when _ _
      (fun _ h => keeps_discard h) h))) (keeps_ite _ (keeps_wr _ _ _ (keeps_when _ _ (fun _ h => keeps_discard h) h))
      (keeps_when _ _ (fun _ h => keeps_discard h) h)))) (keeps_ite _ (keeps_wr _ _ _ (keeps_ite _ (keeps_wr _ _ _ (keeps_when _ _
      (fun _ h => keeps_discard h) h)) (keeps_when _ _ (fun _ h => keeps_discard h) h))) (keeps_ite _ (keeps_wr _ _ _
      (keeps_when _ _ (fun _ h => keeps_discard h) h)) (keeps_when _ _ (fun _ h => keeps_discard h) h))))) (keeps_ite _
      (keeps_wr _ _ _ (keeps_ite _ (keeps_wr _ _ _ (keeps_ite _ (keeps_wr _ _ _ (keeps_when _ _ (fun _ h => keeps_discard h) h))
      (keeps_when _ _ (fun _ h => keeps_discard h) h))) (keeps_ite _ (keeps_wr _ _ _ (keeps_when _ _
      (fun _ h => keeps_discard h) h)) (keeps_when _ _ (fun _ h => keeps_discard h) h)))) (keeps_ite _ (keeps_wr _ _ _ (keeps_ite _
      (keeps_wr _ _ _ (keeps_when _ _ (fun _ h => keeps_discard h) h)) (keeps_when _ _ (fun _ h => keeps_discard h) h)))
      (keeps_ite _ (keeps_wr _ _ _ (keeps_when _ _ (fun _ h => keeps_discard h) h)) (keeps_when _ _
      (fun _ h => keeps_discard h) h))))))

theorem keepsOut_execRingEnable (q : Nat) (w : Word) (h : Keeps s0 s) : KeepsOut s0 (execRingEnable q w s) :=
  keepsOut_next (keeps_ite _ h (keeps_ite _ (keeps_discard h) (keeps_ite _ h (keeps_modRing _ _ (keeps_wr _ _ _ (keeps_wr _ _ _
      (keeps_wr _ _ _ (keeps_wr _ _ _ (keeps_wr _ _ _ (keeps_wr _ _ _ (keeps_writeRingCfg _ _ h)))))))))))

theorem keeps_stopRing (q : Nat) (h : Keeps s0 s) : Keeps s0 (stopRing q s) := keeps_ite _ h (keeps_signal _ (keeps_wr _ _ _ h))

theorem keepsOut_execRingDisable (q : Nat) (w : Word) (h : Keeps s0 s) : KeepsOut s0 (execRingDisable q w s) :=
  keepsOut_next (keeps_ite _ h (keeps_ite _ (keeps_writeRingCfg _ _ h) (keeps_stopRing _ (keeps_modRing _ _ (keeps_wr _ _ _ h)))))

theorem keepsOut_execCommandFetch (q : Nat) (entry packet : Option (List Word)) (h : Keeps s0 s) :
    KeepsOut s0 (execCommandFetch q entry packet s) := by
  unfold execCommandFetch
  refine keepsOut_next (keeps_ite _ h ?_)
  split
  · exact keeps_ringError _ _ h
  · exact keeps_ite _ (keeps_ringError _ _ h) (keeps_modRing _ _ ((keeps_wr _ _ _ h).same rfl))

theorem keeps_authFail (q : Nat) (h : Keeps s0 s) : Keeps s0 (authFail q s) :=
  keeps_ite _ (keeps_signal _ (keeps_raise _ _ (keeps_closeSession _ h))) (keeps_wr _ _ _ h)

theorem keeps_packetCheck (q : Nat) (entry p : List Word) (h : Keeps s0 s) : Keeps s0 (packetCheck q entry p s).2 := by
  unfold packetCheck
  iterate 7 refine keeps_snd_ite _ h ?_
  split
  · exact h
  · refine keeps_snd_ite _ h (keeps_snd_ite _ h (keeps_snd_ite _ (keeps_authFail _ h) (keeps_snd_ite _ (keeps_authFail _ h) ?_)))
    exact keeps_wr _ _ _ (keeps_modRing _ _ h)

theorem keepsOut_execCommandStart (h : Keeps s0 s) : KeepsOut s0 (execCommandStart s) := by
  unfold execCommandStart
  refine keepsOut_next ?_
  split
  · split
    · exact h
    · extract_lets +onlyGivenNames _ s1 s2
      have h1 : Keeps s0 s1 := keeps_ite _ (h.same rfl) (h.same rfl)
      have h2 : Keeps s0 s2 := keeps_modRing _ _ h1
      clear_value s2
      split
      · exact keeps_finish _ _ _ _ h2
      · have h3 := fun q entry p => keeps_packetCheck q entry p h2
        split
        · rename_i e
          exact keeps_finish _ _ _ _ (e ▸ h3 _ _ _ :)
        · rename_i e
          exact (e ▸ h3 _ _ _ :)
  · exact h

theorem keeps_signalRing (q : Nat) (h : Keeps s0 s) : Keeps s0 (signalRing q s) :=
  keeps_ite _ (keeps_modRing _ _ (keeps_signal _ h)) (keeps_modRing _ _ h)

theorem keeps_countCompletion (q : Nat) (notify : Bool) (h : Keeps s0 s) : Keeps s0 (countCompletion q notify s) := by
  unfold countCompletion
  extract_lets +onlyGivenNames _ _ s1
  have h1 : Keeps s0 s1 := keeps_modRing _ _ h
  exact keeps_ite _ (keeps_signalRing _ h1) h1

theorem keepsOut_execCompletionWrite (q : Nat) (written : Bool) (h : Keeps s0 s) : KeepsOut s0 (execCompletionWrite q written s) := by
  unfold execCompletionWrite
  refine keepsOut_next ?_
  split
  · exact h
  · split
    · exact h
    · refine keeps_ite _ h ?_
      extract_lets +onlyGivenNames s1
      have h1 : Keeps s0 s1 := keeps_setLast _ _ _ h
      exact keeps_stopRing _ (keeps_doAfter _ _ (keeps_modRing _ _ (keeps_ite _ (keeps_ringError _ _ h1) (keeps_countCompletion _ _
          (keeps_when _ _ (fun _ h => keeps_wr _ _ _ h) (keeps_wr _ _ _ (keeps_emit _ (keeps_when _ _
          (fun _ h => keeps_emit _ h) h1))))))))

theorem keepsOut_execCqIrqTimeout (q : Nat) (h : Keeps s0 s) : KeepsOut s0 (execCqIrqTimeout q s) :=
  keepsOut_next (keeps_ite _ h (keeps_signalRing _ h))

theorem keeps_hostLinkReset (h : Keeps s0 s) : Keeps s0 (hostLinkReset s) := by
  unfold hostLinkReset
  refine keeps_forAll _ _ (fun _ _ h => ?_) (keeps_resetRegs _ _ (h.same rfl))
  split
  · split
    · exact keeps_doAfter _ _ (keeps_modRing _ _ (keeps_setLast _ _ _ h))
    · exact keeps_modRing _ _ h
  · exact keeps_modRing _ _ h

theorem keepsOut_execPerstAssert (h : Keeps s0 s) : KeepsOut s0 (execPerstAssert s) :=
  keepsOut_next (keeps_wr _ _ _ (keeps_wr _ _ _ (keeps_wr _ _ _ (keeps_wr _ _ _ (keeps_hostLinkReset (h.same rfl))))))

theorem keepsOut_execPerstRelease (h : Keeps s0 s) : KeepsOut s0 (execPerstRelease s) := keepsOut_next (h.same rfl)

theorem keepsOut_execFunctionLevelReset (h : Keeps s0 s) : KeepsOut s0 (execFunctionLevelReset s) :=
  keepsOut_next (keeps_ite _ h (keeps_wr _ _ _ (keeps_hostLinkReset (h.same rfl))))

theorem keepsOut_execD3hotEnter (h : Keeps s0 s) : KeepsOut s0 (execD3hotEnter s) :=
  keepsOut_next (keeps_ite _ (keeps_wr _ _ _ h) h)

theorem keepsOut_execD0Return (h : Keeps s0 s) : KeepsOut s0 (execD0Return s) := keepsOut_next (keeps_flushMsix (keeps_wr _ _ _ h))

theorem keepsOut_execBusMasterDisable (h : Keeps s0 s) : KeepsOut s0 (execBusMasterDisable s) := keepsOut_next (h.same rfl)

theorem keepsOut_execBusMasterEnable (h : Keeps s0 s) : KeepsOut s0 (execBusMasterEnable s) :=
  keepsOut_next (keeps_ite _ (keeps_flushMsix (h.same rfl)) h)

theorem keepsOut_execMsixEnable (mask : Bool) (h : Keeps s0 s) : KeepsOut s0 (execMsixEnable mask s) := by
  unfold execMsixEnable
  refine keepsOut_next (keeps_ite _ h ?_)
  extract_lets +onlyGivenNames _ s1
  have h1 : Keeps s0 s1 := h.same rfl
  exact keeps_ite _ (keeps_flushMsix h1) (keeps_forAll _ _ (fun _ _ h => keeps_modRing _ _ h) (keeps_forAll _ _
      (fun _ _ h => keeps_signal _ h) h1))

theorem keepsOut_execPcieLinkUp (speed width : Nat) (h : Keeps s0 s) : KeepsOut s0 (execPcieLinkUp speed width s) :=
  keepsOut_next (keeps_ite _ h (keeps_wr _ _ _ (keeps_wr _ _ _ (h.same rfl))))

/-! ## The operations and commands of Machine/Security -/

theorem keepsOut_execNop (q : Nat) (h : Keeps s0 s) : KeepsOut s0 (execNop q s) :=
  keepsOut_next (keeps_simpleCmd _ _ _ (fun _ _ h => keeps_ok _ _ h) h)

theorem keepsOut_execIdentify (q : Nat) (h : Keeps s0 s) : KeepsOut s0 (execIdentify q s) :=
  keepsOut_next (keeps_simpleCmd _ _ _ (fun _ _ h => keeps_checked _ _ _ (fun _ h => keeps_ok _ _ h) h) h)

theorem keepsOut_execSessionOpen (q : Nat) (h : Keeps s0 s) : KeepsOut s0 (execSessionOpen q s) :=
  keepsOut_next (keeps_simpleCmd _ _ _ (fun _ _ h => keeps_checked _ _ _ (fun _ h => keeps_ok _ _ (keeps_wr _ _ _ (keeps_wr _ _ _
      (keeps_wr _ _ _ (keeps_modRing _ _ (keeps_nextFresh h)))))) h) h)

theorem keepsOut_execSessionClose (q : Nat) (h : Keeps s0 s) : KeepsOut s0 (execSessionClose q s) :=
  keepsOut_next (keeps_simpleCmd _ _ _ (fun _ _ h => keeps_checked _ _ _ (fun _ h => keeps_ite _ (keeps_ok _ _
      (keeps_closeSession _ h)) (keeps_finish _ _ _ _ h)) h) h)

theorem keeps_refreshBootstrap (h : Keeps s0 s) : Keeps s0 (refreshBootstrap s) := keeps_wr _ _ _ h

theorem keeps_refreshSigners (h : Keeps s0 s) : Keeps s0 (refreshSigners s) := by
  unfold refreshSigners
  refine keeps_forAll _ _ (fun _ _ h => ?_) h
  dsimp only
  split
  · exact keeps_wr _ _ _ (keeps_wr _ _ _ (keeps_wr _ _ _ h))
  · exact keeps_setReg _ _ h

theorem keepsOut_execKeyProvision (q : Nat) (burned : Bool) (h : Keeps s0 s) : KeepsOut s0 (execKeyProvision q burned s) :=
  keepsOut_next (keeps_simpleCmd _ _ _ (fun _ _ h => keeps_checked _ _ _ (fun _ h => keeps_ite _ (keeps_ok _ _ (keeps_refreshSigners
      (keeps_refreshBootstrap (keeps_setKey _ _ h)))) (keeps_finish _ _ _ _ (keeps_setKey _ _ h))) h) h)

theorem keepsOut_execKeyRevoke (q : Nat) (burned : Bool) (h : Keeps s0 s) : KeepsOut s0 (execKeyRevoke q burned s) :=
  keepsOut_next (keeps_simpleCmd _ _ _ (fun _ _ h => keeps_checked _ _ _ (fun _ h => keeps_ite _ (keeps_ok _ _ (keeps_refreshSigners
      (keeps_setKey _ _ (keeps_modCmd _ _ h)))) (keeps_finish _ _ _ _ h)) h) h)

theorem keepsOut_execKeyStatus (q : Nat) (h : Keeps s0 s) : KeepsOut s0 (execKeyStatus q s) :=
  keepsOut_next (keeps_simpleCmd _ _ _ (fun _ _ h => keeps_checked _ _ _ (fun _ h => keeps_ok _ _ h) h) h)

/-! ## The operations and commands of Machine/Ucode -/

theorem keeps_setRegion (r : Nat) (g : Region) (valid dormant : Bool) (h : Keeps s0 s) : Keeps s0 (setRegion r g valid dormant s) :=
  keeps_setReg _ _ (keeps_setReg _ _ (keeps_wr _ _ _ (keeps_wr _ _ _ (keeps_wr _ _ _ (keeps_wr _ _ _ (keeps_wr _ _ _ (keeps_wr _ _ _
      (h.same rfl))))))))

theorem keeps_refreshPersisted (h : Keeps s0 s) : Keeps s0 (refreshPersisted s) :=
  keeps_forAll _ _ (fun _ _ h => keeps_wr _ _ _ h) h

theorem keeps_modFlash (f : Flash → Flash) (h : Keeps s0 s) : Keeps s0 (modFlash f s) := h.same rfl

theorem keeps_storeImage (key : Nat) (m : List Word) (h : Keeps s0 s) : Keeps s0 (storeImage key m s) := keeps_modFlash _ h

theorem keeps_emptyRegion (r : Nat) (err : Bool) (h : Keeps s0 s) : Keeps s0 (emptyRegion r err s) := keeps_setRegion _ _ _ _ h

theorem keeps_loadImage (m : List Word) (h : Keeps s0 s) : Keeps s0 (loadImage m s) := by
  unfold loadImage
  extract_lets +onlyGivenNames s1
  have h1 : Keeps s0 s1 := keeps_setRegion _ _ _ _ h
  exact keeps_refreshPersisted (keeps_ite _ (keeps_emptyRegion _ _ h1) h1)

theorem keeps_enrolSigner (e slot fpr : Nat) (h : Keeps s0 s) : Keeps s0 (enrolSigner e slot fpr s) :=
  keeps_refreshSigners (keeps_modFlash _ h)

theorem keepsOut_execUcLoad (q : Nat) (data : Option (List Word)) (signerOk : Bool) (kept : Option Nat) (env : CommitEnv)
    (h : Keeps s0 s) :
    KeepsOut s0 (execUcLoad q data signerOk kept env s) := by
  unfold execUcLoad
  refine keepsOut_next (keeps_hostCmd _ _ _ _ (fun _ _ h => ?_) h)
  extract_lets +onlyGivenNames _ _ _ _ _
  refine keeps_checked _ _ _ (fun _ h => keeps_checkedU _ _ _ (fun _ h => keeps_ite _ h (keeps_ite _
      (keeps_refuseMap _ _ _ _ h) ?_)) h) h
  split
  · exact keeps_finish _ _ _ _ h
  · extract_lets +onlyGivenNames s1
    have h1 : Keeps s0 s1 := keeps_loadImage _ h
    extract_lets +onlyGivenNames _
    refine keeps_ite _ (keeps_finish _ _ _ _ h) (keeps_ite _ (keeps_finish _ _ _ _ h) (keeps_ite _ (keeps_refuseMap _ _ _ _ h) ?_))
    extract_lets +onlyGivenNames s2
    have h2 : Keeps s0 s2 := keeps_when _ _ (fun _ h => keeps_enrolSigner _ _ _ h) h
    refine keeps_twoPhase _ _ _ _ _ (fun _ _ h => keeps_iteApply _ (keeps_loadImage _ h) h) (fun _ h => ?_) h2
    extract_lets +onlyGivenNames _ s3
    have h3 : Keeps s0 s3 := keeps_when _ _ (fun _ h => keeps_refreshPersisted (keeps_storeImage _ _ h)) h
    exact keeps_ite _ (keeps_ok _ _ h3) (keeps_finish _ _ _ _ h3)

theorem keepsOut_execUcClear (q : Nat) (env : CommitEnv) (h : Keeps s0 s) : KeepsOut s0 (execUcClear q env s) :=
  keepsOut_next (keeps_hostCmd _ _ _ _ (fun _ _ h => keeps_checked _ _ _ (fun _ h => keeps_checkedU _ _ _
      (fun _ h => keeps_twoPhase _ _ _ _ _ (fun _ _ h => keeps_iteApply _ (keeps_emptyRegion _ _ h) h) (fun _ h => keeps_ok _ _
      (keeps_refreshPersisted (keeps_when _ _ (fun _ h => keeps_storeImage _ _ (keeps_storeImage _ _ h)) h))) h) h) h) h)

theorem keepsOut_execUcStatus (q : Nat) (h : Keeps s0 s) : KeepsOut s0 (execUcStatus q s) :=
  keepsOut_next (keeps_hostCmd _ _ _ _ (fun _ _ h => keeps_checked _ _ _ (fun _ h => keeps_ok _ _ h) h) h)

theorem keeps_bringRegion (r : Nat) (h : Keeps s0 s) : Keeps s0 (bringRegion r s) :=
  keeps_ite _ (keeps_emptyRegion _ _ h) (keeps_ite _ (keeps_loadImage _ h) (keeps_report _ _ _ (keeps_emptyRegion _ _ h)))

/-! ## The operations and commands of Machine/Modes -/

theorem keeps_switched (mirror : Bool) (h : Keeps s0 s) : Keeps s0 (switched mirror s) := by
  unfold switched
  extract_lets +onlyGivenNames s1
  have h1 : Keeps s0 s1 := keeps_forAll _ _ (fun _ _ h => keeps_dissolveSite _ h) h
  extract_lets +onlyGivenNames s2
  have h2 : Keeps s0 s2 := keeps_forAll _ _ (fun _ _ h => keeps_modObj _ _ h) h1
  exact keeps_ite _ (keeps_roundAll h2) h2

theorem keeps_remarkRegion (r : Nat) (h : Keeps s0 s) : Keeps s0 (remarkRegion r s) := keeps_wr _ _ _ (keeps_wr _ _ _ h)

theorem keeps_switchProfile (mirror : Bool) (h : Keeps s0 s) : Keeps s0 (switchProfile mirror s) :=
  keeps_forAll _ _ (fun _ _ h => keeps_remarkRegion _ h) (keeps_wr _ _ _ (keeps_switched _ h))

theorem keepsOut_execProfileSet (q : Nat) (recordOk : Bool) (env : CommitEnv) (h : Keeps s0 s) :
    KeepsOut s0 (execProfileSet q recordOk env s) := by
  unfold execProfileSet
  refine keepsOut_next (keeps_hostCmd _ _ _ _ (fun _ _ h => ?_) h)
  extract_lets +onlyGivenNames _
  refine keeps_checked _ _ _ (fun _ h => keeps_ite _ (keeps_finish _ _ _ _ h) ?_) h
  extract_lets +onlyGivenNames _ s1
  have h1 : Keeps s0 s1 := keeps_switched _ h
  split
  · exact keeps_finishU _ _ _ _ _ h
  · exact keeps_finishU _ _ _ _ _ h
  · exact keeps_finishU _ _ _ _ _ h
  · exact keeps_ite _ (keeps_refuseMap _ _ _ _ h) (keeps_endSwitch _ (keeps_twoPhase _ _ _ _ _ (fun _ _ h => keeps_iteApply _
      (keeps_switchProfile _ h) h) (fun _ h => keeps_modCmd _ _ h) (keeps_wr _ _ _ (keeps_ite _ (keeps_writeProf _ h) h))))

theorem keepsOut_execProfileReloadDone (h : Keeps s0 s) : KeepsOut s0 (execProfileReloadDone s) := by
  unfold execProfileReloadDone
  refine keepsOut_next ?_
  split
  · exact h
  · extract_lets +onlyGivenNames _ s1
    have h1 : Keeps s0 s1 := keeps_forAll _ _ (fun _ _ h => keeps_bringRegion _ h) h
    extract_lets +onlyGivenNames s2
    have h2 : Keeps s0 s2 := keeps_wr _ _ _ h1
    exact keeps_ite _ (keeps_ok _ _ h2) (keeps_finish _ _ _ _ h2)

/-! ## The operations and commands of Machine/Calibrate -/

theorem keeps_showItem (u item : Nat) (h : Keeps s0 s) : Keeps s0 (showItem u item s) := by
  unfold showItem
  dsimp only
  split
  · exact keeps_wr _ _ _ (keeps_wr _ _ _ (keeps_wr _ _ _ (keeps_wr _ _ _ (keeps_wr _ _ _ (keeps_wr _ _ _ h)))))
  · exact keeps_wr _ _ _ h
  · exact keeps_refreshSkew _ h
  · exact keeps_refreshTuSkew _ h
  · exact keeps_forAll _ _ (fun _ _ h => keeps_wr _ _ _ (keeps_wr _ _ _ h)) h
  · exact h

theorem keeps_modCal (f : Cal → Cal) (h : Keeps s0 s) : Keeps s0 (modCal f s) := h.same rfl

theorem keeps_refreshMarked (u : Nat) (h : Keeps s0 s) : Keeps s0 (refreshMarked u s) := keeps_ite _ (keeps_wr _ _ _ h) h

theorem keeps_setEntry (u item e : Nat) (v : Word) (temp : Nat) (h : Keeps s0 s) : Keeps s0 (setEntry u item e v temp s) :=
  keeps_refreshMarked _ (keeps_when _ _ (fun _ h => keeps_wr _ _ _ h) (keeps_modCal _ h))

theorem keeps_markEntry (u item e : Nat) (h : Keeps s0 s) : Keeps s0 (markEntry u item e s) :=
  keeps_refreshMarked _ (keeps_modCal _ h)

theorem keeps_setEntries (l : List (Nat × Nat × Nat × Word)) (h : Keeps s0 s) : Keeps s0 (setEntries l s) :=
  keeps_when _ _ (fun _ h => keeps_wr _ _ _ h) (keeps_forAll _ _ (fun _ _ h => keeps_showItem _ _ h) (keeps_forAll _ _
      (fun _ _ h => keeps_setEntry _ _ _ _ _ h) h))

theorem keeps_setJob (d : Nat) (j : Option CalJob) (h : Keeps s0 s) : Keeps s0 (setJob d j s) := keeps_modCal _ h

theorem keeps_startGroup (d : Nat) (j : CalJob) (h : Keeps s0 s) : Keeps s0 (startGroup d j s) :=
  keeps_when _ _ (fun _ h => keeps_forAll _ _ (fun _ _ h => keeps_refreshOut _ _ h) h) (keeps_forAll _ _
      (fun _ _ h => keeps_wr _ _ _ h) (keeps_setJob _ _ h))

theorem keeps_openGroup (d : Nat) (h : Keeps s0 s) : Keeps s0 (openGroup d s) := by
  unfold openGroup
  split
  · exact h
  · refine keeps_ite _ h (keeps_forAll _ _ (fun _ _ h => ?_) (keeps_setJob _ _ h))
    split
    · exact keeps_openAw _ h
    · exact keeps_openPin _ h

theorem keeps_leaveGroup (j : CalJob) (units : List Nat) (h : Keeps s0 s) : Keeps s0 (leaveGroup j units s) :=
  keeps_when _ _ (fun _ h => keeps_forAll _ _ (fun _ _ h => keeps_compareNow _ _ (keeps_modWm _ _ h)) h) (keeps_when _ _
      (fun _ h => keeps_forAll _ _ (fun _ _ h => keeps_ite _ (keeps_ite _ (keeps_modAw _ _ h) h) (keeps_ite _
      (keeps_modPin _ _ h) h)) h) (keeps_updateDacs _ _ (keeps_forAll _ _ (fun _ _ h => keeps_wr _ _ _ h) (h.same rfl))))

theorem keeps_endCalRun (q : Nat) (h : Keeps s0 s) : Keeps s0 (endCalRun q s) := by
  unfold endCalRun
  extract_lets +onlyGivenNames _
  refine keeps_ite _ h ?_
  extract_lets +onlyGivenNames _ _ s1
  have h1 : Keeps s0 s1 := keeps_forAll _ _ (fun _ _ h => keeps_setJob _ _ h) h
  split
  · exact keeps_ite _ h1 (keeps_ite _ (keeps_ok _ _ h1) (keeps_finish _ _ _ _ h1))
  · exact h1

theorem keeps_nextGroup (d : Nat) (j : CalJob) (failed : List Nat) (h : Keeps s0 s) : Keeps s0 (nextGroup d j failed s) := by
  unfold nextGroup
  extract_lets +onlyGivenNames _ s1
  have h1 : Keeps s0 s1 := keeps_forAll _ _ (fun _ _ h => keeps_wr _ _ _ h) h
  extract_lets +onlyGivenNames s2
  have h2 : Keeps s0 s2 := keeps_leaveGroup _ _ h1
  exact keeps_ite _ (keeps_endCalRun _ (keeps_release _ (keeps_setJob _ _ h2))) (keeps_startGroup _ _ h2)

theorem keepsOut_execCalGroupEnd (d : Nat) (results : List CalResult) (h : Keeps s0 s) :
    KeepsOut s0 (execCalGroupEnd d results s) := by
  unfold execCalGroupEnd
  refine keepsOut_next ?_
  extract_lets +onlyGivenNames s1
  have h1 : Keeps s0 s1 := keeps_openGroup _ h
  split
  · exact h1
  · exact keeps_ite _ (keeps_endCalRun _ h1) (keeps_ite _ h1 (keeps_nextGroup _ _ _ (keeps_setEntries _ h1)))

theorem keeps_failRest (d : Nat) (h : Keeps s0 s) : Keeps s0 (failRest d s) := by
  unfold failRest
  split
  · exact h
  · exact keeps_ite _ h (keeps_nextGroup _ _ _ h)

theorem keepsOut_execCalRun (q : Nat) (env : CommitEnv) (h : Keeps s0 s) : KeepsOut s0 (execCalRun q env s) :=
  keepsOut_next (keeps_hostCmd _ _ _ _ (fun _ _ h => keeps_checked _ _ _ (fun _ h => keeps_checkedU _ _ _ (fun _ h =>
    keeps_claimPhase _ _ _ _ _ _ _ (fun _ _ h => keeps_forAll _ _ (fun _ _ h => keeps_startGroup _ _ h) h)
      (fun _ h => keeps_modCmd _ _ h) h) h) h) h)

theorem keepsOut_execCalWrite (q : Nat) (env : CommitEnv) (h : Keeps s0 s) : KeepsOut s0 (execCalWrite q env s) := by
  refine keepsOut_next (keeps_hostCmd _ _ _ _ (fun _ _ h => keeps_checked _ _ _ (fun _ h => keeps_checkedU _ _ _ (fun _ h =>
    keeps_twoPhase _ _ _ _ _ (fun _ _ h => ?_) (fun _ h => keeps_ok _ _ h) h) h) h) h)
  dsimp only
  split
  · exact keeps_forAll _ _ (fun _ _ h => keeps_markEntry _ _ _ h) h
  · exact keeps_setEntries _ h

theorem keepsOut_execCalRead (q : Nat) (h : Keeps s0 s) : KeepsOut s0 (execCalRead q s) :=
  keepsOut_next (keeps_hostCmd _ _ _ _ (fun _ _ h => keeps_checked _ _ _ (fun _ h => keeps_ok _ _ h) h) h)

theorem keeps_refreshBanks (h : Keeps s0 s) : Keeps s0 (refreshBanks s) :=
  keeps_forAll _ _ (fun _ _ h => keeps_wr _ _ _ (keeps_setReg _ _ h)) h

theorem keepsOut_execCalStore (q : Nat) (left : Option (Option Nat)) (h : Keeps s0 s) : KeepsOut s0 (execCalStore q left s) := by
  unfold execCalStore
  refine keepsOut_next (keeps_hostCmd _ _ _ _ (fun _ _ h => ?_) h)
  extract_lets +onlyGivenNames _ _ _ put
  have hput : ∀ ws s, Keeps s0 s → Keeps s0 (put ws s) := fun _ _ h => keeps_refreshBanks (keeps_modFlash _ h)
  clear_value put
  refine keeps_checked _ _ _ (fun _ h => ?_) h
  split
  · exact keeps_finish _ _ _ _ (hput _ _ h)
  · exact keeps_ok _ _ (keeps_wr _ _ _ (keeps_wr _ _ _ (hput _ _ h)))

theorem keeps_loadBanks (h : Keeps s0 s) : Keeps s0 (loadBanks s) :=
  keeps_refreshBanks (keeps_showItem _ _ (keeps_forAll _ _ (fun _ _ h => keeps_showItem _ _ (keeps_showItem _ _ h)) (keeps_forAll _ _
      (fun _ _ h => keeps_showItem _ _ h) (keeps_forAll _ _ (fun _ _ h => keeps_showItem _ _ h) (keeps_wr _ _ _ (keeps_wr _ _ _
      (keeps_when _ _ (fun _ h => keeps_raise _ _ h) (keeps_forAll _ _ (fun _ _ h => keeps_setEntry _ _ _ _ _ h)
      (keeps_modCal _ h)))))))))

theorem keepsOut_execCalStatus (q : Nat) (h : Keeps s0 s) : KeepsOut s0 (execCalStatus q s) :=
  keepsOut_next (keeps_hostCmd _ _ _ _ (fun _ _ h => keeps_checked _ _ _ (fun _ h => keeps_ok _ _ h) h) h)

theorem keeps_switchBus (d type index : Nat) (h : Keeps s0 s) : Keeps s0 (switchBus d type index s) := by
  unfold switchBus
  exact keeps_modCal _ (keeps_setReg _ _ h)

theorem keepsOut_execCalExt (q : Nat) (h : Keeps s0 s) : KeepsOut s0 (execCalExt q s) :=
  keepsOut_next (keeps_hostCmd _ _ _ _ (fun _ _ h => keeps_checked _ _ _ (fun _ h => keeps_checkedU _ _ _ (fun _ h => keeps_ite _
      (keeps_ok _ _ h) (keeps_modCmd _ _ (keeps_switchBus _ _ _ h))) h) h) h)

theorem keepsOut_execCalExtSettled (d : Nat) (h : Keeps s0 s) : KeepsOut s0 (execCalExtSettled d s) := by
  unfold execCalExtSettled
  refine keepsOut_next ?_
  split
  · exact h
  · refine keeps_ite _ h ?_
    extract_lets +onlyGivenNames s1
    have h1 : Keeps s0 s1 := keeps_modCal _ h
    extract_lets +onlyGivenNames s2
    have h2 : Keeps s0 s2 := keeps_wr _ _ _ (keeps_wr _ _ _ h1)
    split
    · exact keeps_ok _ _ h2
    · exact h2

theorem keepsOut_execCalWarmExpire (d : Nat) (h : Keeps s0 s) : KeepsOut s0 (execCalWarmExpire d s) :=
  keepsOut_next (keeps_ite _ h (h.same rfl))

theorem keepsOut_execXrDelaySet (q : Nat) (h : Keeps s0 s) : KeepsOut s0 (execXrDelaySet q s) :=
  keepsOut_next (keeps_hostCmd _ _ _ _ (fun _ _ h => keeps_checked _ _ _ (fun _ h => keeps_ok _ _ (keeps_setEntries _ h)) h) h)

theorem keeps_settleDue (i : Nat) (h : Keeps s0 s) : Keeps s0 (settleDue i s) := keeps_settleSite _ _ h

/-! ## The operations and commands of Machine/Arbiter -/

theorem keeps_modPower (f : Power → Power) (h : Keeps s0 s) : Keeps s0 (modPower f s) := h.same rfl

theorem keepsOut_execPowerBudgetSet (q : Nat) (h : Keeps s0 s) : KeepsOut s0 (execPowerBudgetSet q s) :=
  keepsOut_next (keeps_hostCmd _ _ _ _ (fun _ _ h => keeps_checked _ _ _ (fun _ h => keeps_ok _ _ (keeps_wr _ _ _ h)) h) h)

theorem keepsOut_execPowerFloorSet (q : Nat) (h : Keeps s0 s) : KeepsOut s0 (execPowerFloorSet q s) :=
  keepsOut_next (keeps_hostCmd _ _ _ _ (fun _ _ h => keeps_checked _ _ _ (fun _ h => keeps_ok _ _ (keeps_forAll _ _
      (fun _ _ h => keeps_wr _ _ _ h) h)) h) h)

theorem keepsOut_execPowerStatus (q : Nat) (h : Keeps s0 s) : KeepsOut s0 (execPowerStatus q s) :=
  keepsOut_next (keeps_hostCmd _ _ _ _ (fun _ _ h => keeps_checked _ _ _ (fun _ h => keeps_ok _ _ (keeps_rcClear _ _ _ h)) h) h)

theorem keepsOut_execThermalSet (q : Nat) (h : Keeps s0 s) : KeepsOut s0 (execThermalSet q s) :=
  keepsOut_next (keeps_hostCmd _ _ _ _ (fun _ _ h => keeps_checked _ _ _ (fun _ h => keeps_ok _ _ (keeps_setReg _ _ h)) h) h)

theorem keepsOut_execPowerStateEval (b : Nat) (h : Keeps s0 s) : KeepsOut s0 (execPowerStateEval b s) := by
  unfold execPowerStateEval
  refine keepsOut_next (keeps_ite _ h ?_)
  extract_lets +onlyGivenNames s1
  have h1 : Keeps s0 s1 := keeps_wr _ _ _ h
  exact keeps_ite _ h1 (keeps_ite _ (keeps_wakeBlock _ h1) (keeps_ite _ h1 (keeps_modPower _ h1)))

theorem keepsOut_execPowerStateEnterDone (b : Nat) (h : Keeps s0 s) : KeepsOut s0 (execPowerStateEnterDone b s) := by
  unfold execPowerStateEnterDone
  refine keepsOut_next ?_
  split
  · exact h
  · exact keeps_ite _ h (keeps_when _ _ (fun _ h => keeps_wakeBlock _ h) (keeps_wr _ _ _ (keeps_modPower _ h)))

theorem keepsOut_execPowerStateExitDone (b : Nat) (h : Keeps s0 s) : KeepsOut s0 (execPowerStateExitDone b s) := by
  unfold execPowerStateExitDone
  refine keepsOut_next ?_
  split
  · exact h
  · exact keeps_ite _ h (keeps_when _ _ (fun _ h => keeps_modPower _ h) (keeps_wr _ _ _ (keeps_modPower _ h)))

theorem keeps_beginScrub (h : Keeps s0 s) : Keeps s0 (beginScrub s) := keeps_setClaim _ _ (keeps_wr _ _ _ (keeps_modPower _ h))

theorem keeps_begin (w : Waiting) (h : Keeps s0 s) : Keeps s0 (w.begin_ s) :=
  keeps_ite _ (keeps_beginScrub h) (keeps_beginAuto _ h)

theorem keeps_grantQueue (n : Nat) (h : Keeps s0 s) : Keeps s0 (grantQueue n s) := by
  induction n generalizing s with
  | zero => exact h
  | succ n ih =>
    unfold grantQueue
    split
    · exact h
    · exact keeps_ite _ (ih (keeps_begin _ (keeps_setQueue _ h))) h

theorem keepsOut_execClaimQueueGrant (h : Keeps s0 s) : KeepsOut s0 (execClaimQueueGrant s) := keepsOut_next (keeps_grantQueue _ h)

theorem keepsOut_execScrubStep (ce : Nat) (ues : List Nat) (h : Keeps s0 s) : KeepsOut s0 (execScrubStep ce ues s) := by
  unfold execScrubStep
  refine keepsOut_next (keeps_ite _ h (keeps_ite _ (keeps_release _ (keeps_wr _ _ _ (keeps_modPower _ (keeps_forAll _ _
      (fun _ _ h => keeps_hbmError _ h) (keeps_hbmCorrected _ h))))) (keeps_ite _ h ?_)))
  extract_lets +onlyGivenNames s1
  have h1 : Keeps s0 s1 := keeps_modPower _ h
  exact keeps_ite _ (keeps_beginScrub h1) (keeps_setQueue _ h1)

theorem keeps_tripDie (d : Nat) (h : Keeps s0 s) : Keeps s0 (tripDie d s) := by
  unfold tripDie
  extract_lets +onlyGivenNames s1
  have h1 : Keeps s0 s1 := keeps_forAll _ _ (fun _ _ h => keeps_when _ _ (fun _ h => keeps_modPg _ _ h) h) h
  extract_lets +onlyGivenNames _ s2
  have h2 : Keeps s0 s2 := keeps_forAll _ _ (fun _ _ h => keeps_openPin _ (keeps_modPin _ _ h)) h1
  extract_lets +onlyGivenNames s3
  have h3 : Keeps s0 s3 := keeps_forAll _ _ (fun _ _ h => keeps_when _ _ (fun _ h => keeps_openAw _ h) h) h2
  split
  · exact keeps_ite _ (keeps_setJob _ _ h3) h3
  · exact h3

theorem keeps_readSensor (k : Nat) (temp : Int) (h : Keeps s0 s) : Keeps s0 (readSensor k temp s) := by
  unfold readSensor
  extract_lets +onlyGivenNames s1
  have h1 : Keeps s0 s1 := keeps_ite _ (keeps_noteDrift _ h) h
  extract_lets +onlyGivenNames s2
  have h2 : Keeps s0 s2 := keeps_wr _ _ _ h1
  extract_lets +onlyGivenNames _ _ _ _ s3
  have h3 : Keeps s0 s3 := keeps_wr _ _ _ (keeps_wr _ _ _ (keeps_modPower _ h2))
  refine keeps_ite _ ?_ h3
  extract_lets +onlyGivenNames s4
  have h4 : Keeps s0 s4 := keeps_report _ _ _ (keeps_raise _ _ h3)
  exact keeps_ite _ (keeps_tripDie _ h4) h4

theorem keepsOut_execTempRead (temps : List Int) (h : Keeps s0 s) : KeepsOut s0 (execTempRead temps s) :=
  keepsOut_next (keeps_ite _ h (keeps_wr _ _ _ (keeps_wr _ _ _ (keeps_wr _ _ _ (keeps_forAll _ _ (fun _ _ h => keeps_readSensor _ _ h)
      (keeps_modPower _ h))))))

theorem keepsOut_execTrippedClear (k : Nat) (h : Keeps s0 s) : KeepsOut s0 (execTrippedClear k s) :=
  keepsOut_next (keeps_ite _ h (keeps_barWrite _ _ _ (fun _ h => keeps_ite _ (keeps_clearBits _ _ _ h) h) h))

theorem keeps_outputsSafe (h : Keeps s0 s) : Keeps s0 (outputsSafe s) :=
  keeps_forAll _ _ (fun _ _ h => keeps_ite _ (keeps_endPulse _ _ h) h) (keeps_forAll _ _ (fun _ _ h => keeps_openAw _ h)
      (keeps_forAll _ _ (fun _ _ h => keeps_openPin _ (keeps_modPin _ _ h)) h))

theorem keepsOut_execThermalShutdown (k : Nat) (h : Keeps s0 s) : KeepsOut s0 (execThermalShutdown k s) :=
  keepsOut_next (keeps_ite _ h (keeps_report _ _ _ (keeps_raise _ _ (keeps_modPower _ (keeps_outputsSafe h)))))

theorem keepsOut_execRailFault (rail : Nat) (h : Keeps s0 s) : KeepsOut s0 (execRailFault rail s) :=
  keepsOut_next (keeps_ite _ h (keeps_report _ _ _ h))

/-! ## The operations and commands of Machine/Clocks -/

theorem keeps_modClk (f : Clocks → Clocks) (h : Keeps s0 s) : Keeps s0 (modClk f s) := h.same rfl

theorem keeps_modRst (f : ResetCtl → ResetCtl) (h : Keeps s0 s) : Keeps s0 (modRst f s) := h.same rfl

theorem keeps_refreshRst (h : Keeps s0 s) : Keeps s0 (refreshRst s) :=
  keeps_wr _ _ _ (keeps_wr _ _ _ (keeps_wr _ _ _ (keeps_wr _ _ _ (keeps_wr _ _ _ h))))

theorem keeps_assertSource (n sub : Nat) (till : Option Nat) (h : Keeps s0 s) : Keeps s0 (assertSource n sub till s) :=
  keeps_refreshRst (keeps_modRst _ h)

theorem keeps_fireSource (n sub : Nat) (h : Keeps s0 s) : Keeps s0 (fireSource n sub s) := keeps_assertSource _ _ _ h

theorem keeps_dropSource (n : Nat) (h : Keeps s0 s) : Keeps s0 (dropSource n s) := keeps_refreshRst (keeps_modRst _ h)

theorem keeps_refreshWarming (h : Keeps s0 s) : Keeps s0 (refreshWarming s) := keeps_wr _ _ _ (keeps_wr _ _ _ h)

theorem keepsOut_execWarmExpire (h : Keeps s0 s) : KeepsOut s0 (execWarmExpire s) := by
  unfold execWarmExpire
  refine keepsOut_next ?_
  split
  · exact keeps_ite _ h (keeps_refreshWarming (keeps_modClk _ h))
  · exact h

theorem keepsOut_execOvenLevelChange (level : Bool) (h : Keeps s0 s) : KeepsOut s0 (execOvenLevelChange level s) :=
  keepsOut_next (keeps_ite _ (keeps_refreshWarming (keeps_wr _ _ _ h)) h)

theorem keepsOut_execRefMissing (h : Keeps s0 s) : KeepsOut s0 (execRefMissing s) :=
  keepsOut_next (keeps_ite _ h (keeps_refreshWarming (keeps_wr _ _ _ (keeps_wr _ _ _ (keeps_wr _ _ _ (keeps_wr _ _ _
      (keeps_modClk _ h)))))))

theorem keepsOut_execRefPresent (h : Keeps s0 s) : KeepsOut s0 (execRefPresent s) :=
  keepsOut_next (keeps_ite _ h (keeps_wr _ _ _ (keeps_wr _ _ _ (keeps_modClk _ h))))

theorem keepsOut_execHoldoverExpire (h : Keeps s0 s) : KeepsOut s0 (execHoldoverExpire s) := by
  unfold execHoldoverExpire
  refine keepsOut_next ?_
  dsimp only
  split
  · exact keeps_ite _ h (keeps_fireSource _ _ (keeps_modClk _ h))
  · exact h

theorem keepsOut_execMtcPllLock (h : Keeps s0 s) : KeepsOut s0 (execMtcPllLock s) :=
  keepsOut_next (keeps_ite _ h (keeps_refreshWarming (keeps_wr _ _ _ (keeps_wr _ _ _ (keeps_wr _ _ _ (keeps_when _ _
      (fun _ h => keeps_modClk _ h) (keeps_ite _ h (h.same rfl))))))))

theorem keeps_failDomain (n : Nat) (h : Keeps s0 s) : Keeps s0 (failDomain n s) := by
  unfold failDomain
  extract_lets +onlyGivenNames s1 _ _ _ s2 s3 s4
  have h1 : Keeps s0 s1 := keeps_bump _ _ (keeps_raise _ _ h)
  have h2 : Keeps s0 s2 := h1.same rfl
  have h3 : Keeps s0 s3 := keeps_when _ _ (fun _ h => keeps_fireSource _ _ h) h2
  have h4 : Keeps s0 s4 := keeps_when _ _ (fun _ h => keeps_hostLinkReset (h.same rfl)) h3
  exact keeps_when _ _ (fun _ h => keeps_report _ _ _ h) (keeps_when _ _ (fun _ h => keeps_report _ _ _ h) h4)

theorem keepsOut_execClockWindowCheck (n count : Nat) (lost : Bool) (h : Keeps s0 s) :
    KeepsOut s0 (execClockWindowCheck n count lost s) :=
  keepsOut_next (keeps_ite _ h (keeps_ite _ (keeps_wr _ _ _ h) (keeps_when _ _ (fun _ h => keeps_failDomain _ h) (keeps_wr _ _ _
      (keeps_modClk _ h)))))

theorem keepsOut_execLinkLaneLoss (d : Nat) (h : Keeps s0 s) : KeepsOut s0 (execLinkLaneLoss d s) :=
  keepsOut_next (keeps_ite _ h (keeps_forAll _ _ (fun _ _ h => keeps_ite _ (keeps_haltAt _ _ _ _ h) (keeps_ite _ (keeps_wr _ _ _
      (keeps_disarm _ h)) h)) (keeps_report _ _ _ (keeps_modClk _ h))))

/-! ## The operations and commands of Machine/Ring -/

theorem keeps_modXr (f : Xearn → Xearn) (h : Keeps s0 s) : Keeps s0 (modXr f s) := h.same rfl

theorem keeps_refreshSync (h : Keeps s0 s) : Keeps s0 (refreshSync s) := keeps_wr _ _ _ h

theorem keeps_refreshRing (h : Keeps s0 s) : Keeps s0 (refreshRing s) :=
  keeps_ite _ (keeps_refreshSync (keeps_wr _ _ _ (keeps_wr _ _ _ (keeps_wr _ _ _ (keeps_when _ _ (fun _ h => keeps_wr _ _ _
      (keeps_wr _ _ _ (keeps_modXr _ h))) h))))) (keeps_refreshSync (keeps_wr _ _ _ (keeps_wr _ _ _ (keeps_wr _ _ _ h))))

theorem keeps_tryJoin (h : Keeps s0 s) : Keeps s0 (tryJoin s) :=
  keeps_ite _ h (keeps_ite _ (keeps_when _ _ (fun _ h => keeps_report _ _ _ h) (keeps_wr _ _ _ h)) (keeps_refreshRing (keeps_wr _ _ _
      (keeps_wr _ _ _ h))))

theorem keeps_beginJoin (h : Keeps s0 s) : Keeps s0 (beginJoin s) := keeps_tryJoin (keeps_wr _ _ _ h)

theorem keeps_leaveRing (st : Nat) (h : Keeps s0 s) : Keeps s0 (leaveRing st s) :=
  keeps_refreshRing (keeps_wr _ _ _ (keeps_wr _ _ _ (keeps_wr _ _ _ (keeps_modXr _ h))))

theorem keepsOut_execRingCtrl (q : Nat) (h : Keeps s0 s) : KeepsOut s0 (execRingCtrl q s) :=
  keepsOut_next (keeps_hostCmd _ _ _ _ (fun _ _ h => keeps_checked _ _ _ (fun _ h => keeps_ite _ (keeps_finish _ _ _ _ h)
      (keeps_ok _ _ (keeps_ite _ (keeps_beginJoin h) (keeps_leaveRing _ h)))) h) h)

theorem keepsOut_execSyncFrameSend (frac : Nat) (h : Keeps s0 s) : KeepsOut s0 (execSyncFrameSend frac s) :=
  keepsOut_next (keeps_ite _ h (keeps_emit _ (keeps_modXr _ h)))

theorem keeps_takeMap (map onTime : Nat) (h : Keeps s0 s) : Keeps s0 (takeMap map onTime s) := keeps_refreshRing (keeps_modXr _ h)

theorem keeps_loopCheck (stamp : Int) (residence frac : Nat) (h : Keeps s0 s) : Keeps s0 (loopCheck stamp residence frac s) := by
  unfold loopCheck
  extract_lets +onlyGivenNames _ _ _ s1
  have h1 : Keeps s0 s1 := keeps_setReg _ _ h
  exact keeps_ite _ (keeps_report _ _ _ (keeps_raise _ _ h1)) h1

theorem keeps_wantStep (offset : Int) (h : Keeps s0 s) : Keeps s0 (wantStep offset s) := keeps_wr _ _ _ (keeps_modXr _ h)

theorem keeps_takeOffset (offset : Int) (h : Keeps s0 s) : Keeps s0 (takeOffset offset s) := by
  unfold takeOffset
  extract_lets +onlyGivenNames s1
  have h1 : Keeps s0 s1 := keeps_modXr _ (keeps_setReg _ _ h)
  exact keeps_refreshSync (keeps_ite _ (keeps_wantStep _ h1) (keeps_ite _ (keeps_wantStep _ (keeps_report _ _ _ (keeps_wr _ _ _ h1)))
      (keeps_setReg _ _ (keeps_modXr _ h1))))

theorem keepsOut_execSyncFrameReceive (origin up : Nat) (stamp : Int) (residence map onTime frac through : Nat) (h : Keeps s0 s) :
    KeepsOut s0 (execSyncFrameReceive origin up stamp residence map onTime frac through s) := by
  unfold execSyncFrameReceive
  refine keepsOut_next (keeps_ite _ h (keeps_ite _ (keeps_emit _ (keeps_modXr _ h)) (keeps_ite _ (keeps_loopCheck _ _ _
      (keeps_takeMap _ _ (keeps_wr _ _ _ (keeps_modXr _ h)))) ?_)))
  extract_lets +onlyGivenNames s1
  have h1 : Keeps s0 s1 := keeps_wr _ _ _ (keeps_modXr _ h)
  extract_lets +onlyGivenNames s2
  have h2 : Keeps s0 s2 := keeps_ite _ (keeps_tryJoin (keeps_modXr _ h1)) (keeps_takeMap _ _ h1)
  extract_lets +onlyGivenNames s3
  have h3 : Keeps s0 s3 := keeps_emit _ h2
  refine keeps_ite _ h3 ?_
  extract_lets +onlyGivenNames _ s4
  have h4 : Keeps s0 s4 := keeps_when _ _ (fun _ h => keeps_report _ _ _ (keeps_wr _ _ _ h)) h3
  exact keeps_ite _ h4 (keeps_takeOffset _ h4)

theorem keepsOut_execRingStep (h : Keeps s0 s) : KeepsOut s0 (execRingStep s) := by
  unfold execRingStep
  refine keepsOut_next ?_
  split
  · exact h
  · refine keeps_ite _ h ?_
    extract_lets +onlyGivenNames _ s1 s2 _ s3
    have h1 : Keeps s0 s1 := h.same rfl
    have h2 : Keeps s0 s2 := keeps_modXr _ h1
    have h3 : Keeps s0 s3 := keeps_modPrism (fun p => { p with nextTick := s2.ticksFrom }) (fun _ => rfl) h2
    clear_value s3
    exact keeps_refreshRing (keeps_bump _ _ (keeps_wr _ _ _ (keeps_wr _ _ _ (keeps_wrPair _ _ _ (keeps_setReg _ _ h3)))))

theorem keepsOut_execSyncTimeout (h : Keeps s0 s) : KeepsOut s0 (execSyncTimeout s) := by
  unfold execSyncTimeout
  refine keepsOut_next ?_
  split
  · exact keeps_ite _ h (keeps_refreshSync (keeps_modXr _ h))
  · exact keeps_refreshSync h

theorem keepsOut_execXiLockLost (h : Keeps s0 s) : KeepsOut s0 (execXiLockLost s) :=
  keepsOut_next (keeps_ite _ h (keeps_report _ _ _ (keeps_modXr _ h)))

/-! ## The operations and commands of Machine/Reset -/

theorem keeps_refreshReach (h : Keeps s0 s) : Keeps s0 (refreshReach s) := keeps_wr _ _ _ (keeps_wr _ _ _ h)

theorem keeps_refreshService (h : Keeps s0 s) : Keeps s0 (refreshService s) :=
  keeps_wr _ _ _ (keeps_wr _ _ _ (keeps_wr _ _ _ (keeps_wr _ _ _ (keeps_forAll _ _ (fun _ _ h => keeps_setReg _ _ h) (keeps_forAll _ _
      (fun _ _ h => keeps_wr _ _ _ h) (keeps_forAll _ _ (fun _ _ h => keeps_wr _ _ _ (keeps_wr _ _ _ h)) (keeps_forAll _ _
      (fun _ _ h => keeps_wr _ _ _ h) h)))))))

theorem keeps_resetAll (h : Keeps s0 s) : Keeps s0 (resetAll s) :=
  keeps_wr _ _ _ (keeps_wr _ _ _ (keeps_wr _ _ _ (keeps_wr _ _ _ (keeps_wr _ _ _ (keeps_wr _ _ _ (Keeps.fewer h rfl
      (fun _ h => nomatch h)))))))

theorem keeps_refreshAll (h : Keeps s0 s) : Keeps s0 (refreshAll s) :=
  keeps_refreshLens (keeps_refreshRst (keeps_refreshRing (keeps_refreshWarming (keeps_refreshBootstrap (keeps_refreshSigners
      (keeps_refreshReach (keeps_refreshService h)))))))

theorem keeps_performReset (n : Nat) (h : Keeps s0 s) : Keeps s0 (performReset n s) := by
  unfold performReset
  extract_lets +onlyGivenNames _ _ _ s1
  have h1 : Keeps s0 s1 := keeps_resetCore _ (keeps_outputsSafe h)
  extract_lets +onlyGivenNames s2
  have h2 : Keeps s0 s2 := keeps_ite _ h1 (keeps_when _ _ (fun _ h => keeps_modPower _ h) (keeps_resetAll h1))
  extract_lets +onlyGivenNames s3
  have h3 : Keeps s0 s3 := keeps_forAll _ _ (fun _ _ h => keeps_setLast _ _ _ h) h2
  extract_lets +onlyGivenNames s4
  have h4 : Keeps s0 s4 := keeps_forAll _ _ (fun _ _ h => keeps_modPower _ h) h3
  exact keeps_refreshAll (keeps_ite _ h4 (h4.same rfl))

theorem keeps_recordCause (w0 unit : Word) (stamp : Nat) (h : Keeps s0 s) : Keeps s0 (recordCause w0 unit stamp s) :=
  keeps_wr _ _ _ (keeps_wr _ _ _ (keeps_forAll _ _ (fun _ _ h => keeps_setReg _ _ (keeps_setReg _ _ h)) h))

theorem keepsOut_execPowerOn (h : Keeps s0 s) : KeepsOut s0 (execPowerOn s) := keepsOut_next (keeps_assertSource _ _ _ h)

theorem keepsOut_execBrownOut (rail : Nat) (h : Keeps s0 s) : KeepsOut s0 (execBrownOut rail s) :=
  keepsOut_next (keeps_assertSource _ _ _ h)

theorem keepsOut_execNrstInLow (h : Keeps s0 s) : KeepsOut s0 (execNrstInLow s) :=
  keepsOut_next (keeps_ite _ h (keeps_assertSource _ _ _ h))

theorem keepsOut_execNrstInHigh (h : Keeps s0 s) : KeepsOut s0 (execNrstInHigh s) :=
  keepsOut_next (keeps_ite _ (keeps_dropSource _ h) h)

theorem keepsOut_execFwWatchdogExpire (core : Nat) (h : Keeps s0 s) : KeepsOut s0 (execFwWatchdogExpire core s) :=
  keepsOut_next (keeps_ite _ h (keeps_fireSource _ _ h))

theorem keepsOut_execHostWatchdogExpire (h : Keeps s0 s) : KeepsOut s0 (execHostWatchdogExpire s) :=
  keepsOut_next (keeps_ite _ h (keeps_fireSource _ _ h))

theorem keepsOut_execWdKick (key : Nat) (h : Keeps s0 s) : KeepsOut s0 (execWdKick key s) :=
  keepsOut_next (keeps_barWrite _ _ _ (fun _ h => keeps_ite _ (keeps_modRst _ h) (keeps_discard h)) h)

theorem keepsOut_execDoubleException (core : Nat) (h : Keeps s0 s) : KeepsOut s0 (execDoubleException core s) :=
  keepsOut_next (keeps_ite _ h (keeps_fireSource _ _ h))

theorem keepsOut_execFabricTimeout (h : Keeps s0 s) : KeepsOut s0 (execFabricTimeout s) := keepsOut_next (keeps_fireSource _ _ h)

theorem keepsOut_execStartTimeout (h : Keeps s0 s) : KeepsOut s0 (execStartTimeout s) :=
  keepsOut_next (keeps_ite _ h (keeps_fireSource _ _ h))

theorem keepsOut_execWaitClkTimeout (u : Nat) (h : Keeps s0 s) : KeepsOut s0 (execWaitClkTimeout u s) := by
  unfold execWaitClkTimeout
  refine keepsOut_next ?_
  split
  · exact keeps_ite _ h (keeps_fireSource _ _ (keeps_modRst _ h))
  · exact h

theorem keepsOut_execSoftwareSourceAssert (h : Keeps s0 s) : KeepsOut s0 (execSoftwareSourceAssert s) := by
  unfold execSoftwareSourceAssert
  refine keepsOut_next ?_
  split
  · exact keeps_ite _ h (keeps_fireSource _ _ (keeps_modRst _ h))
  · exact h

theorem keepsOut_execResetSourceAssert (h : Keeps s0 s) : KeepsOut s0 (execResetSourceAssert s) := by
  unfold execResetSourceAssert
  refine keepsOut_next (keeps_ite _ h ?_)
  extract_lets +onlyGivenNames _ s1
  have h1 : Keeps s0 s1 := keeps_modRst _ h
  extract_lets +onlyGivenNames _ _ s2
  have h2 : Keeps s0 s2 := keeps_modRst _ h1
  exact keeps_ite _ (keeps_refreshRst h2) (keeps_refreshRst (keeps_wr _ _ _ (keeps_performReset _ h2)))

theorem keepsOut_execOvenSampleFirst (level : Bool) (h : Keeps s0 s) : KeepsOut s0 (execOvenSampleFirst level s) :=
  keepsOut_next (keeps_ite _ (keeps_modClk _ h) h)

theorem keepsOut_execOvenSampleSecond (level : Bool) (h : Keeps s0 s) : KeepsOut s0 (execOvenSampleSecond level s) := by
  unfold execOvenSampleSecond
  refine keepsOut_next ?_
  split
  · exact keeps_ite _ h (keeps_refreshWarming (keeps_wr _ _ _ (keeps_wr _ _ _ (keeps_modClk _ (keeps_modRst _ h)))))
  · exact h

theorem keepsOut_execStrapSample (boot ring smba : Nat) (ref100 testEn : Bool) (h : Keeps s0 s) :
    KeepsOut s0 (execStrapSample boot ring smba ref100 testEn s) :=
  keepsOut_next (keeps_ite _ h (keeps_refreshRing (keeps_modRst _ (keeps_wr _ _ _ (keeps_wr _ _ _ (keeps_wr _ _ _ (keeps_wr _ _ _
      (keeps_wr _ _ _ (keeps_wr _ _ _ h)))))))))

theorem keepsOut_execResetReleaseStart (h : Keeps s0 s) : KeepsOut s0 (execResetReleaseStart s) :=
  keepsOut_next (keeps_ite _ h (keeps_refreshLens (keeps_refreshRst (keeps_when _ _ (fun _ h => (keeps_leaveRing _ (keeps_wr _ _ _
      (keeps_modRst _ h))).same rfl) (keeps_when _ _ (fun _ h => keeps_modRst _ h) (keeps_wr _ _ _ (keeps_wr _ _ _ (keeps_modRst _
      (keeps_recordCause _ _ _ h)))))))))

theorem keeps_resetHalt (i : Nat) (h : Keeps s0 s) : Keeps s0 (resetHalt i s) :=
  keeps_ite _ (keeps_haltAt _ _ _ _ h) (keeps_ite _ (keeps_wr _ _ _ (keeps_disarm _ h)) h)

theorem keeps_askIdle (u : Nat) (h : Keeps s0 s) : Keeps s0 (askIdle u s) := by
  unfold askIdle
  exact keeps_when _ _ (fun _ h => h.same rfl) (keeps_forAll _ _ (fun _ _ h => keeps_resetHalt _ h) h)

theorem keepsOut_execReset (q : Nat) (h : Keeps s0 s) : KeepsOut s0 (execReset q s) := by
  unfold execReset
  refine keepsOut_next (keeps_hostCmd _ _ _ _ (fun _ _ h => ?_) h)
  extract_lets +onlyGivenNames _ _ _ _
  refine keeps_checked _ _ _ (fun _ h => keeps_checkedU _ _ _ (fun _ h => ?_) h) h
  extract_lets +onlyGivenNames s1
  have h1 : Keeps s0 s1 := keeps_when _ _ (fun _ h => keeps_wr _ _ _ h) h
  exact keeps_ite _ (keeps_askIdle _ (keeps_modRst _ (keeps_modCmd _ _ h1))) (keeps_ok _ _ (keeps_modCmd _ _ h1))

theorem keeps_resetSite (i : Nat) (h : Keeps s0 s) : Keeps s0 (resetSite i s) := by
  unfold resetSite
  refine keeps_modSite i _ (fun _ b hb => ?_) (keeps_forAll _ _ (fun _ _ h => keeps_modTile _ _ h) (keeps_resetRegs _ _ h))
  cases hb

theorem keeps_endOnCore (core : Nat) (h : Keeps s0 s) : Keeps s0 (endOnCore core s) :=
  keeps_when _ _ (fun _ h => keeps_report _ _ _ h) (keeps_when _ _ (fun _ h => keeps_forAll _ _
      (fun _ _ h => keeps_bringRegion _ h) h) (keeps_forAll _ _ (fun _ _ h => keeps_coreFault _ h) h))

theorem keeps_resetUnit (u : Nat) (h : Keeps s0 s) : Keeps s0 (resetUnit u s) := by
  unfold resetUnit
  dsimp only
  split
  · exact keeps_openPin _ (keeps_modPin _ _ h)
  · exact keeps_forAll _ _ (fun _ _ h => keeps_openPin _ h) h
  · exact keeps_forAll _ _ (fun _ _ h => keeps_bumpBy _ _ _ (keeps_wr _ _ _ (h.same rfl))) h
  · exact keeps_endOnCore _ h
  · exact keeps_failRest _ h
  · exact keeps_ite _ h (keeps_modAw _ _ (keeps_stopSeq _ _ (keeps_openAw _ (keeps_when _ _ (fun _ h => keeps_countPlayed _ _ h) h))))
  · exact keeps_ite _ (keeps_stopChannel _ _ _ h) h
  · exact keeps_ite _ (keeps_modTu _ _ h) h
  · exact keeps_forAll _ _ (fun _ _ h => keeps_loseSource _ h) (keeps_refreshOut _ _ (keeps_modWm _ _ (keeps_monitorLost _ h)))
  · exact keeps_ite _ h (keeps_stopEngine _ (keeps_setReg _ _ (keeps_modPg _ _ h)))
  · exact keeps_resetSite _ h
  · exact h.same rfl
  · exact keeps_ite _ h (keeps_leaveRing _ h)
  · exact h

theorem keeps_isoReset (x : IsoReset) (forced : Bool) (kinds count : Nat) (h : Keeps s0 s) :
    Keeps s0 (isoReset x forced kinds count s) :=
  keeps_refreshRst (keeps_modRst _ (keeps_recordCause _ _ _ (keeps_setReg _ _ (keeps_wr _ _ _ (keeps_wr _ _ _ (keeps_wr _ _ _
      (keeps_resetUnit _ h)))))))

theorem keepsOut_execIsoResetIdle (u : Nat) (h : Keeps s0 s) : KeepsOut s0 (execIsoResetIdle u s) := by
  unfold execIsoResetIdle
  refine keepsOut_next ?_
  split
  · exact keeps_ite _ (keeps_isoReset _ _ _ _ h) h
  · exact h

theorem keepsOut_execIsoResetTimeout (u count kinds : Nat) (h : Keeps s0 s) : KeepsOut s0 (execIsoResetTimeout u count kinds s) := by
  unfold execIsoResetTimeout
  refine keepsOut_next ?_
  split
  · exact keeps_ite _ (keeps_isoReset _ _ _ _ h) h
  · exact h

theorem keeps_releaseUnit (u : Nat) (h : Keeps s0 s) : Keeps s0 (releaseUnit u s) := by
  unfold releaseUnit
  dsimp only
  split
  · exact h.same rfl
  · exact keeps_compareNow _ _ (keeps_modWm _ _ h)
  · exact Keeps.fewer h rfl (fun _ h => (List.mem_filter.1 h).1)
  · exact keeps_when _ _ (fun _ h => keeps_beginJoin h) (keeps_when _ _ (fun _ h => keeps_wr _ _ _ h) h)
  · exact h

theorem keepsOut_execBlockRelease (u : Nat) (h : Keeps s0 s) : KeepsOut s0 (execBlockRelease u s) := by
  unfold execBlockRelease
  refine keepsOut_next ?_
  split
  · exact keeps_ite _ h (keeps_ite _ (keeps_ite _ h (keeps_refreshRst (keeps_modRst _ h))) (keeps_refreshRst (keeps_ok _ _
      (keeps_releaseUnit _ (keeps_modRst _ h)))))
  · extract_lets +onlyGivenNames _
    refine keeps_ite _ h ?_
    extract_lets +onlyGivenNames s1
    have h1 : Keeps s0 s1 := keeps_modRst _ h
    refine keeps_refreshRst (keeps_ite _ ?_ (keeps_wr _ _ _ (keeps_when _ _ (fun _ h => keeps_modPower _ h) h1)))
    have h2 := keeps_modRst (fun r => { r with sysRst := false }) h1
    exact keeps_when _ _ (fun _ h => keeps_wr _ _ _ h) (keeps_wr _ _ _ (h2.same rfl))

/-! ## The operations and commands of Machine/Service -/

theorem keeps_writeService (h : Keeps s0 s) : Keeps s0 (writeService s) := keeps_wr _ _ _ (keeps_modFlash _ h)

theorem keeps_modSvc (f : Service → Service) (h : Keeps s0 s) : Keeps s0 (modSvc f s) := h.same rfl

theorem keeps_applyService (h : Keeps s0 s) : Keeps s0 (applyService s) := by
  unfold applyService
  refine keeps_refreshService ?_
  split
  · exact keeps_wr _ _ _ (keeps_modSvc _ h)
  · exact keeps_wr _ _ _ (keeps_modSvc _ h)

theorem keeps_startFirmware (h : Keeps s0 s) : Keeps s0 (startFirmware s) := by
  unfold startFirmware
  extract_lets +onlyGivenNames s1
  have h1 : Keeps s0 s1 := keeps_modRst _ h
  exact keeps_ite _ (keeps_wr _ _ _ h1) (keeps_forAll _ _ (fun _ _ h => keeps_startBincal _ h) h1)

theorem keepsOut_execBringupFirmwareReady (h : Keeps s0 s) : KeepsOut s0 (execBringupFirmwareReady s) := by
  unfold execBringupFirmwareReady
  refine keepsOut_next (keeps_ite _ h (keeps_ite _ (keeps_modRst _ h) ?_))
  extract_lets +onlyGivenNames s1
  have h1 : Keeps s0 s1 := keeps_ite _ (keeps_applyService h) h
  extract_lets +onlyGivenNames s2
  have h2 : Keeps s0 s2 := keeps_forAll _ _ (fun _ _ h => keeps_wr _ _ _ h) h1
  extract_lets +onlyGivenNames s3
  have h3 : Keeps s0 s3 := keeps_wr _ _ _ h2
  refine keeps_ite _ (keeps_refreshRst (keeps_wr _ _ _ (keeps_modRst _ h3))) ?_
  split
  · exact keeps_fireSource _ _ h3
  · exact keeps_startFirmware (keeps_storeImage _ _ (keeps_storeImage _ _ (keeps_modSvc _ (keeps_when _ _
      (fun _ h => keeps_raise _ _ h) (keeps_wr _ _ _ h3)))))

theorem keeps_loadProfile (h : Keeps s0 s) : Keeps s0 (loadProfile s) := keeps_wr _ _ _ (keeps_wr _ _ _ h)

theorem keeps_loadMicrocode (h : Keeps s0 s) : Keeps s0 (loadMicrocode s) :=
  keeps_refreshPersisted (keeps_ite _ (keeps_forAll _ _ (fun _ _ h => keeps_emptyRegion _ _ h) h) (keeps_forAll _ _
      (fun _ _ h => keeps_bringRegion _ h) h))

theorem keepsOut_execBringupComplete (sfdp : Nat) (h : Keeps s0 s) : KeepsOut s0 (execBringupComplete sfdp s) := by
  unfold execBringupComplete
  refine keepsOut_next ?_
  extract_lets +onlyGivenNames _
  refine keeps_ite _ h ?_
  extract_lets +onlyGivenNames _
  refine keeps_ite _ (keeps_refreshLens (keeps_refreshRst (keeps_modRst _ h))) ?_
  extract_lets +onlyGivenNames _ _ s1
  have h1 : Keeps s0 s1 := keeps_when _ _ (fun _ h => keeps_loadBanks h) h
  extract_lets +onlyGivenNames s2
  have h2 : Keeps s0 s2 := keeps_when _ _ (fun _ h => keeps_wr _ _ _ (keeps_modClk _ h)) h1
  exact keeps_ite _ h2 (keeps_refreshLens (keeps_refreshRst (keeps_wr _ _ _ (keeps_modRst _ (keeps_modRst _ (keeps_when _ _
      (fun _ h => keeps_beginJoin h) (keeps_wr _ _ _ (keeps_loadMicrocode (keeps_loadProfile h2)))))))))

theorem keepsOut_execFwLoad (q : Nat) (pkg : Option FwPackage) (storeOk : Bool) (h : Keeps s0 s) :
    KeepsOut s0 (execFwLoad q pkg storeOk s) :=
  keepsOut_next (keeps_hostCmd _ _ _ _ (fun _ _ h => keeps_checked _ _ _ (fun _ h => keeps_ite _ h (keeps_checked _ _ _
      (fun _ h => keeps_ite _ (keeps_finish _ _ _ _ (keeps_modFlash _ h)) (keeps_ok _ _ (keeps_refreshRst (keeps_when _ _
      (fun _ h => keeps_startFirmware (keeps_wr _ _ _ (keeps_modSvc _ (keeps_modRst _ h)))) (keeps_when _ _
      (fun _ h => keeps_modCmd _ _ h) (keeps_wr _ _ _ (keeps_when _ _ (fun _ h => keeps_wr _ _ _ (keeps_modSvc _
      (keeps_modFlash _ h))) h))))))) h)) h) h)

theorem keepsOut_execReachSet (q : Nat) (burnOk : Bool) (h : Keeps s0 s) : KeepsOut s0 (execReachSet q burnOk s) := by
  unfold execReachSet
  refine keepsOut_next (keeps_hostCmd _ _ _ _ (fun _ _ h => ?_) h)
  extract_lets +onlyGivenNames _
  refine keeps_checked _ _ _ (fun _ h => ?_) h
  extract_lets +onlyGivenNames _ s1
  have h1 : Keeps s0 s1 := h.same rfl
  exact keeps_ite _ (keeps_ok _ _ (keeps_refreshReach h1)) (keeps_finish _ _ _ _ h1)

theorem keeps_remapUnit (u : Nat) (phys : Option Nat) (hits : List Nat) (h : Keeps s0 s) : Keeps s0 (remapUnit u phys hits s) := by
  unfold remapUnit
  extract_lets +onlyGivenNames s1
  have h1 : Keeps s0 s1 := keeps_modSvc _ h
  extract_lets +onlyGivenNames _ s2
  have h2 : Keeps s0 s2 := keeps_refreshService (keeps_writeService h1)
  split
  · exact keeps_wr _ _ _ (keeps_wr _ _ _ (keeps_setReg _ _ (keeps_modTile _ _ h2)))
  · exact keeps_refreshTuSkew _ (keeps_takeBins _ _ h2)
  · exact h2

theorem keepsOut_execRemap (q ce : Nat) (hits : List Nat) (recordOk : Bool) (ue : Option Nat) (env : CommitEnv) (h : Keeps s0 s) :
    KeepsOut s0 (execRemap q ce hits recordOk ue env s) := by
  unfold execRemap
  refine keepsOut_next (keeps_hostCmd _ _ _ _ (fun _ _ h => ?_) h)
  extract_lets +onlyGivenNames _ _ _ _ _ _ _
  refine keeps_checked _ _ _ (fun _ h => keeps_checkedU _ _ _ (fun _ h => ?_) h) h
  extract_lets +onlyGivenNames _ _
  refine keeps_ite _ h ?_
  extract_lets +onlyGivenNames s1
  have h1 : Keeps s0 s1 := keeps_when _ _ (fun _ h => keeps_hbmCorrected _ h) h
  split
  · exact keeps_refuseMap _ _ _ _ (keeps_hbmError _ h1)
  · exact keeps_twoPhase _ _ _ _ _ (fun _ _ h => keeps_iteApply _ (keeps_remapUnit _ _ _ h) h) (fun _ h => keeps_ok _ _ h) h1

theorem keeps_loseSenses (n : Nat) (h : Keeps s0 s) : Keeps s0 (loseSenses n s) :=
  keeps_forAll _ _ (fun _ _ h => keeps_loseSource _ h) (keeps_forAll _ _ (fun _ _ h => keeps_stopChannel _ _ _ (keeps_raise _ _ h))
      (keeps_forAll _ _ (fun _ _ h => keeps_monitorLost _ h) h))

theorem keeps_retirePin (n : Nat) (h : Keeps s0 s) : Keeps s0 (retirePin n s) :=
  keeps_when _ _ (fun _ h => keeps_switchBus _ _ _ h) (keeps_forAll _ _ (fun _ _ h => keeps_refreshOut _ _ (keeps_raise _ _
      (keeps_modWm _ _ h))) (keeps_refreshService (keeps_writeService (keeps_modSvc _ (keeps_changeMode _ _
      (keeps_loseSenses _ h))))))

theorem keeps_unretirePin (n : Nat) (h : Keeps s0 s) : Keeps s0 (unretirePin n s) :=
  keeps_openPin _ (keeps_modPin _ _ (keeps_resetRegs _ _ (keeps_wrBoth _ _ _ (keeps_refreshService (keeps_writeService
      (keeps_modSvc _ h))))))

theorem keepsOut_execRetire (q : Nat) (recordOk : Bool) (h : Keeps s0 s) : KeepsOut s0 (execRetire q recordOk s) := by
  unfold execRetire
  refine keepsOut_next (keeps_hostCmd _ _ _ _ (fun _ _ h => ?_) h)
  dsimp only
  refine keeps_checked _ _ _ (fun _ h => keeps_checkedU _ _ _ (fun _ h => keeps_ite _ (keeps_finish _ _ _ _ h) (keeps_checkedU _ _ _
      (fun _ h => ?_) h)) h) h
  split
  · exact keeps_hostHalt _ h
  · exact keeps_ite _ (keeps_finish _ _ _ _ h) (keeps_ok _ _ (keeps_ite _ (keeps_unretirePin _ h) (keeps_retirePin _ h)))

theorem keepsOut_execRstLogRead (q : Nat) (h : Keeps s0 s) : KeepsOut s0 (execRstLogRead q s) :=
  keepsOut_next (keeps_hostCmd _ _ _ _ (fun _ _ h => keeps_checked _ _ _ (fun _ h => keeps_ok _ _ h) h) h)

theorem keepsOut_execSmbCauseRead (target : Nat) (h : Keeps s0 s) : KeepsOut s0 (execSmbCauseRead target s) :=
  keepsOut_next (keeps_ite _ (keeps_emit _ h) h)

theorem keepsOut_execSmbHistoryRead (target i : Nat) (h : Keeps s0 s) : KeepsOut s0 (execSmbHistoryRead target i s) :=
  keepsOut_next (keeps_ite _ (keeps_emit _ h) h)

/-! ## The operations and commands of Machine/Deliver -/

theorem keeps_overrun (c : Nat) (h : Keeps s0 s) : Keeps s0 (overrun c s) := keeps_raise _ _ h

theorem keeps_startByEvent (i : Nat) (e : Event) (h : Keeps s0 s) : Keeps s0 (startByEvent i e s) :=
  keeps_wr _ _ _ (keeps_beginRun _ _ (keeps_modSite _ _ (fun _ _ h => h) h))

theorem keeps_siteIn (i : Nat) (e : Event) (h : Keeps s0 s) : Keeps s0 (siteIn i e s) :=
  keeps_ite _ (keeps_overrun _ h) (keeps_ite _ (keeps_startByEvent _ _ h) (keeps_ite _ (keeps_haltAt _ _ _ _ h) (keeps_ite _
      (keeps_pauseRequest _ _ h) (keeps_ite _ (keeps_resume _ _ h) (keeps_ite _ (keeps_setEvFlag _ _ h) h)))))

theorem keeps_hostIn (hd : Nat) (e : Event) (h : Keeps s0 s) : Keeps s0 (hostIn hd e s) := by
  unfold hostIn
  extract_lets +onlyGivenNames _ s1
  have h1 : Keeps s0 s1 := keeps_wrPair _ _ _ (keeps_raiseBits _ _ _ h)
  exact keeps_ite _ (keeps_signal _ h1) h1

theorem keeps_tioIn (n : Nat) (h : Keeps s0 s) : Keeps s0 (tioIn n s) :=
  keeps_ite _ h (keeps_ite _ (keeps_overrun _ h) (h.same rfl))

theorem keeps_ringOut (n : Nat) (e : Event) (h : Keeps s0 s) : Keeps s0 (ringOut n e s) :=
  keeps_ite _ h (keeps_ite _ (keeps_overrun _ h) (keeps_emit _ (h.same rfl)))

theorem keeps_pgTrigIn (j : Nat) (e : Event) (h : Keeps s0 s) : Keeps s0 (pgTrigIn j e s) := by
  unfold pgTrigIn
  split
  · exact keeps_ite _ h (keeps_modPg _ _ h)
  · exact keeps_inputOverrun _ _ h
  · exact h

theorem keeps_tuGateIn (k : Nat) (e : Event) (h : Keeps s0 s) : Keeps s0 (tuGateIn k e s) := by
  unfold tuGateIn
  extract_lets +onlyGivenNames s1
  have h1 : Keeps s0 s1 := keeps_startBy _ _ h
  extract_lets +onlyGivenNames s2
  have h2 : Keeps s0 s2 := keeps_closeGates _ _ _ h1
  dsimp only
  split
  · exact keeps_ite _ (keeps_modTu _ _ h2) h2
  · exact keeps_ite _ h2 (keeps_ite _ (keeps_inputOverrun _ _ h2) (keeps_ite _ (keeps_modTu _ _ h2) h2))
  · exact h2

theorem keeps_strobeIn (d : Nat) (h : Keeps s0 s) : Keeps s0 (strobeIn d s) :=
  keeps_ite _ (keeps_inputOverrun _ _ h) (keeps_strobe _ _ h)

theorem keeps_dieInput (d b : Nat) (e : Event) (h : Keeps s0 s) : Keeps s0 (dieInput d b e s) := by
  unfold dieInput
  dsimp only
  split
  · exact keeps_modAw _ _ h
  · exact keeps_pgTrigIn _ _ h
  · exact keeps_modPg _ _ h
  · exact keeps_modAq _ _ h
  · exact keeps_when _ _ (fun _ h => keeps_modTu _ _ h) h
  · exact keeps_when _ _ (fun _ h => keeps_modTu _ _ h) h
  · exact keeps_tuGateIn _ _ h
  · exact keeps_strobeIn _ h

theorem keeps_dieDeliver (d : Nat) (lines : List (Nat × Event)) (h : Keeps s0 s) : Keeps s0 (dieDeliver d lines s) := by
  unfold dieDeliver
  refine keeps_forAll _ _ (fun _ _ h => ?_) h
  dsimp only
  split
  · exact h
  · exact keeps_ite _ h (keeps_dieInput _ _ _ (keeps_when _ _ (fun _ h => keeps_bumpBy _ _ _ h) h))

theorem keeps_consumerIn (c : Nat) (e : Event) (h : Keeps s0 s) : Keeps s0 (consumerIn c e s) :=
  keeps_ite _ (keeps_siteIn _ _ h) (keeps_ite _ (keeps_hostIn _ _ h) (keeps_ite _ (keeps_tioIn _ h) (keeps_ringOut _ _ h)))

theorem keeps_countMerged (c n : Nat) (h : Keeps s0 s) : Keeps s0 (countMerged c n s) :=
  keeps_when _ _ (fun _ h => keeps_bumpBy _ _ _ h) h

theorem keeps_deliver (es : List Event) (h : Keeps s0 s) : Keeps s0 (deliver es s) := by
  unfold deliver
  extract_lets +onlyGivenNames s1
  have h1 : Keeps s0 s1 := by
    refine keeps_forAll _ _ (fun _ _ h => ?_) h
    split
    · exact keeps_ite _ h (keeps_consumerIn _ _ (keeps_countMerged _ _ h))
    · exact h
  exact keeps_forAll _ _ (fun _ _ h => keeps_dieDeliver _ _ (keeps_forAll _ _ (fun _ _ h => keeps_countMerged _ _ h) h)) h1

theorem keepsOut_execPrismDeliver (n : Nat) (h : Keeps s0 s) : KeepsOut s0 (execPrismDeliver n s) := by
  unfold execPrismDeliver
  refine keepsOut_next ?_
  extract_lets +onlyGivenNames _ _ s1
  have h1 : Keeps s0 s1 := h.fewer rfl (splitDue_sub _ _ _)
  exact keeps_ite _ h (keeps_ite _ h1 (keeps_deliver _ h1))

/-! ## The operations and commands of Machine/Units -/

theorem keepsOut_execUnitAcquire (q : Nat) (h : Keeps s0 s) : KeepsOut s0 (execUnitAcquire q s) := by
  unfold execUnitAcquire
  refine keepsOut_next ?_
  split
  · exact h
  · exact keeps_ite _ h (keeps_ite _ (keeps_modCmd _ _ h) (keeps_modCmd _ _ h))

theorem keepsOut_execUnitWaitTimeout (q : Nat) (h : Keeps s0 s) : KeepsOut s0 (execUnitWaitTimeout q s) := by
  unfold execUnitWaitTimeout
  refine keepsOut_next ?_
  split
  · exact h
  · split
    · exact keeps_ite _ h (keeps_finishU _ _ _ _ _ h)
    · exact h

theorem keepsOut_execCommitAckTimeout (q : Nat) (h : Keeps s0 s) : KeepsOut s0 (execCommitAckTimeout q s) := by
  unfold execCommitAckTimeout
  refine keepsOut_next ?_
  split
  · exact h
  · exact keeps_ite _ h (keeps_endCommit _ _ h)

/-! ## The operations and commands of Machine/Access -/

theorem keeps_writeShadow (a : Nat) (f : Fld) (v : Nat) (h : Keeps s0 s) : Keeps s0 (writeShadow a f v s) := by
  unfold writeShadow
  dsimp only
  refine keeps_wrS _ _ _ ?_
  split
  · exact keeps_modCmd _ _ h
  · exact h

theorem keeps_writeField (a : Nat) (f : FieldRow) (w : Word) (h : Keeps s0 s) : Keeps s0 (writeField a f w s) := by
  unfold writeField
  split
  · exact keeps_ite _ h (keeps_wr _ _ _ h)
  · exact keeps_ite _ h (keeps_writeShadow _ _ _ h)
  · exact keeps_clearBits _ _ _ h
  · exact h

theorem keeps_writeFields (a : Nat) (r : RegRow) (i : List Nat) (w : Word) (h : Keeps s0 s) : Keeps s0 (writeFields a r i w s) :=
  keeps_when _ _ (fun _ h => keeps_discard h) (keeps_forAll _ _ (fun _ _ h => keeps_writeField _ _ _ h) h)

theorem keeps_writeReg (a : Nat) (r : RegRow) (i : List Nat) (w : Word) (h : Keeps s0 s) : Keeps s0 (writeReg a r i w s) := by
  unfold writeReg
  extract_lets +onlyGivenNames _ _ _
  refine keeps_ite _ h (keeps_ite _ (keeps_ite _ h (keeps_writeFields _ _ _ _ h)) (keeps_ite _ (keeps_when _ _ (fun _ h => h.same rfl)
      (keeps_writeFields _ _ _ _ h)) (keeps_ite _ (keeps_flushMsix (keeps_writeFields _ _ _ _ h)) (keeps_ite _
      (keeps_setEntries _ h) (keeps_ite _ (keeps_setEntries _ h) (keeps_ite _ ?_ (keeps_ite _ (keeps_refreshLens
      (keeps_writeFields _ _ _ _ h)) (keeps_ite _ (keeps_modPg _ _ h) (keeps_ite _ (keeps_wrS _ _ _ (keeps_writeFields _ _ _ _ h))
      (keeps_ite _ (keeps_wrS _ _ _ (keeps_writeFields _ _ _ _ h)) (keeps_ite _ (keeps_ite _ h (keeps_markBank _
      (keeps_writeFields _ _ _ _ h))) (keeps_ite _ (keeps_when _ _ (fun _ h => keeps_markBank _ h) (keeps_writeFields _ _ _ _ h))
      (keeps_writeFields _ _ _ _ h)))))))))))))
  extract_lets +onlyGivenNames s1
  have h1 : Keeps s0 s1 := keeps_writeFields _ _ _ _ h
  exact keeps_ite _ h1 (h1.same rfl)

theorem keeps_pageWrite (a : Nat) (w : Word) (h : Keeps s0 s) : Keeps s0 (pageWrite a w s) :=
  keeps_ite _ h (keeps_ite _ (keeps_discard h) (keeps_ite _ (keeps_tailDoorbell _ _ h) (keeps_ite _ (keeps_headDoorbell _ _ h)
      (keeps_discard h))))

theorem keepsOut_execRegWrite (bar a : Nat) (w : Word) (h : Keeps s0 s) : KeepsOut s0 (execRegWrite bar a w s) := by
  unfold execRegWrite
  refine keepsOut_next (keeps_ite _ (keeps_pageWrite _ _ h) (keeps_ite _ (keeps_ite _ (keeps_discard h) h) (keeps_ite _
      (keeps_barWrite _ _ _ (fun _ h => ?_) h) h)))
  split
  · exact keeps_writeReg _ _ _ _ h
  · exact keeps_discard h

theorem keeps_latchNow (h : Keeps s0 s) : Keeps s0 (latchNow s) := h.same rfl

theorem keepsOut_execGnNowLoRead (h : Keeps s0 s) : KeepsOut s0 (execGnNowLoRead s) :=
  keepsOut_next (keeps_ite _ (keeps_emit _ (keeps_latchNow h)) h)

theorem keeps_mirrored (r : RegRow) (i : List Nat) (h : Keeps s0 s) : Keeps s0 (State.mirrored s r i) :=
  keeps_ite _ (keeps_setReg _ _ h) (keeps_ite _ (keeps_wr _ _ _ h) (keeps_ite _ (keeps_wr _ _ _ h) (keeps_ite _ (keeps_refreshSync
      (keeps_refreshWarming h)) (keeps_ite _ (keeps_refreshRst h) (keeps_ite _ (keeps_setReg _ _ h) h)))))

theorem keeps_readMem (r : WinRead) (h : Keeps s0 s) : Keeps s0 (readMem r s) := by
  unfold readMem
  split
  · exact keeps_emit _ h
  · exact keeps_windowRead _ h

theorem keeps_readReg (a : Nat) (r : RegRow) (i : List Nat) (h : Keeps s0 s) : Keeps s0 (readReg a r i s) :=
  keeps_when _ _ (fun _ h => keeps_refreshLens h) (keeps_emit _ (keeps_forAll _ _ (fun _ _ h => keeps_clearField _ _ _ h)
      (keeps_mirrored _ _ h)))

theorem keepsOut_execRegReadClear (bar a ce : Nat) (ue : Bool) (h : Keeps s0 s) : KeepsOut s0 (execRegReadClear bar a ce ue s) := by
  unfold execRegReadClear
  refine keepsOut_next (keeps_ite _ h (keeps_ite _ (keeps_emit _ h) (keeps_ite _ (keeps_emit _ h) (keeps_ite _ (keeps_emit _
      (keeps_latchNow h)) (keeps_ite _ (keeps_holdAccess _ _ h) ?_)))))
  split
  · exact keeps_readReg _ _ _ h
  · exact keeps_readMem _ h

/-! ## The operations and commands of Machine/Tap -/

theorem keeps_tapLoad (ir : Nat) (f : Tap → Tap) (h : Keeps s0 s) : Keeps s0 (tapLoad ir f s) :=
  (keeps_ite _ (keeps_dropSource _ h) h).same rfl

theorem keepsOut_execExtest (seen : List Bool) (h : Keeps s0 s) : KeepsOut s0 (execExtest seen s) :=
  keepsOut_next (keeps_tapLoad _ _ h)

theorem keepsOut_execSamplePreload (seen cells : List Bool) (h : Keeps s0 s) : KeepsOut s0 (execSamplePreload seen cells s) :=
  keepsOut_next (keeps_tapLoad _ _ h)

theorem keepsOut_execIdcode (h : Keeps s0 s) : KeepsOut s0 (execIdcode s) := keepsOut_next (keeps_emit _ (keeps_tapLoad _ _ h))

theorem keepsOut_execClamp (h : Keeps s0 s) : KeepsOut s0 (execClamp s) := keepsOut_next (keeps_tapLoad _ _ h)

theorem keepsOut_execHighz (h : Keeps s0 s) : KeepsOut s0 (execHighz s) := keepsOut_next (keeps_tapLoad _ _ h)

theorem keepsOut_execExtestPulse (seen : List Bool) (h : Keeps s0 s) : KeepsOut s0 (execExtestPulse seen s) :=
  keepsOut_next (keeps_tapLoad _ _ h)

theorem keepsOut_execExtestTrain (seen : List Bool) (h : Keeps s0 s) : KeepsOut s0 (execExtestTrain seen s) :=
  keepsOut_next (keeps_tapLoad _ _ h)

theorem keepsOut_execSysReset (h : Keeps s0 s) : KeepsOut s0 (execSysReset s) := by
  unfold execSysReset
  refine keepsOut_next ?_
  extract_lets +onlyGivenNames _ s1
  have h1 : Keeps s0 s1 := h.same rfl
  exact keeps_ite _ h1 (keeps_assertSource _ _ _ h1)

theorem keepsOut_execBypass (code : Nat) (h : Keeps s0 s) : KeepsOut s0 (execBypass code s) :=
  keepsOut_next (keeps_ite _ h (keeps_tapLoad _ _ h))

theorem keepsOut_execTapReset (h : Keeps s0 s) : KeepsOut s0 (execTapReset s) := keepsOut_next (keeps_tapLoad _ _ h)

/-! ## The operations and commands of Machine/Fabric -/

/-! ## The operations and commands of Machine/Step -/

end

/-! ## Any command, and a step -/

section

variable {s0 s : State}

/-- Every command keeps the queue, the clock, the canonical tables and the bound on generations. -/
theorem keepsOut_exec (i : Instr) (h : Keeps s0 s) : KeepsOut s0 (exec i s) :=
  match i with
  | .nop q => keepsOut_execNop q h
  | .identify q => keepsOut_execIdentify q h
  | .sessionOpen q => keepsOut_execSessionOpen q h
  | .sessionClose q => keepsOut_execSessionClose q h
  | .keyProvision q burned => keepsOut_execKeyProvision q burned h
  | .keyRevoke q burned => keepsOut_execKeyRevoke q burned h
  | .keyStatus q => keepsOut_execKeyStatus q h
  | .patternLoad q ce data ue env => keepsOut_execPatternLoad q ce data ue env h
  | .patternFree q => keepsOut_execPatternFree q h
  | .placeReport q => keepsOut_execPlaceReport q h
  | .bufferAlloc q => keepsOut_execBufferAlloc q h
  | .bufferFree q => keepsOut_execBufferFree q h
  | .measPlace q => keepsOut_execMeasPlace q h
  | .measRelease q => keepsOut_execMeasRelease q h
  | .windowBind q => keepsOut_execWindowBind q h
  | .ledgerRead q => keepsOut_execLedgerRead q h
  | .siteForm q env => keepsOut_execSiteForm q env h
  | .siteDissolve q env => keepsOut_execSiteDissolve q env h
  | .runStart q env => keepsOut_execRunStart q env h
  | .runPause q env => keepsOut_execRunPause q env h
  | .runResume q env => keepsOut_execRunResume q env h
  | .runStep q => keepsOut_execRunStep q h
  | .runHalt q env => keepsOut_execRunHalt q env h
  | .runJump q => keepsOut_execRunJump q h
  | .runStatus q => keepsOut_execRunStatus q h
  | .ucLoad q data signerOk kept env => keepsOut_execUcLoad q data signerOk kept env h
  | .ucClear q env => keepsOut_execUcClear q env h
  | .ucStatus q => keepsOut_execUcStatus q h
  | .tsetPeriod q env => keepsOut_execTsetPeriod q env h
  | .tsetEdges q env => keepsOut_execTsetEdges q env h
  | .tsetRead q => keepsOut_execTsetRead q h
  | .tsetApply q env => keepsOut_execTsetApply q env h
  | .pinModeSet q env => keepsOut_execPinModeSet q env h
  | .levelSet q env => keepsOut_execLevelSet q env h
  | .levelStrobe q env => keepsOut_execLevelStrobe q env h
  | .levelRead q => keepsOut_execLevelRead q h
  | .formatSet q env => keepsOut_execFormatSet q env h
  | .pinMapSet q env => keepsOut_execPinMapSet q env h
  | .gangSet q => keepsOut_execGangSet q h
  | .hvLimitSet q env => keepsOut_execHvLimitSet q env h
  | .cmpCfgSet q env => keepsOut_execCmpCfgSet q env h
  | .maskSet q env => keepsOut_execMaskSet q env h
  | .failCfgSet q => keepsOut_execFailCfgSet q h
  | .failRead q bad => keepsOut_execFailRead q bad h
  | .failSummary q => keepsOut_execFailSummary q h
  | .pmuSet q env => keepsOut_execPmuSet q env h
  | .pmuMeasure q env => keepsOut_execPmuMeasure q env h
  | .awSet q env => keepsOut_execAwSet q env h
  | .awSegLoad q data => keepsOut_execAwSegLoad q data h
  | .awSeqLoad q => keepsOut_execAwSeqLoad q h
  | .awRun q env => keepsOut_execAwRun q env h
  | .awStop q env => keepsOut_execAwStop q env h
  | .awJump q => keepsOut_execAwJump q h
  | .wmSet q env => keepsOut_execWmSet q env h
  | .pgSet q => keepsOut_execPgSet q h
  | .pgListLoad q => keepsOut_execPgListLoad q h
  | .pgStart q env => keepsOut_execPgStart q env h
  | .pgStop q env => keepsOut_execPgStop q env h
  | .pgClear q env => keepsOut_execPgClear q env h
  | .aqSet q => keepsOut_execAqSet q h
  | .aqArm q env => keepsOut_execAqArm q env h
  | .aqForce q env => keepsOut_execAqForce q env h
  | .aqStop q env => keepsOut_execAqStop q env h
  | .aqRead q ce bad => keepsOut_execAqRead q ce bad h
  | .tuSet q => keepsOut_execTuSet q h
  | .tuArm q env => keepsOut_execTuArm q env h
  | .tuStop q env => keepsOut_execTuStop q env h
  | .tuRead q => keepsOut_execTuRead q h
  | .tuBincal q env => keepsOut_execTuBincal q env h
  | .xrDelaySet q => keepsOut_execXrDelaySet q h
  | .profileSet q recordOk env => keepsOut_execProfileSet q recordOk env h
  | .prismSet q => keepsOut_execPrismSet q h
  | .prismConsSet q => keepsOut_execPrismConsSet q h
  | .prismFire q => keepsOut_execPrismFire q h
  | .prismTioSet q => keepsOut_execPrismTioSet q h
  | .lensRead q => keepsOut_execLensRead q h
  | .lensAck q => keepsOut_execLensAck q h
  | .calRun q env => keepsOut_execCalRun q env h
  | .calWrite q env => keepsOut_execCalWrite q env h
  | .calRead q => keepsOut_execCalRead q h
  | .calStore q left => keepsOut_execCalStore q left h
  | .calStatus q => keepsOut_execCalStatus q h
  | .calExt q => keepsOut_execCalExt q h
  | .powerBudgetSet q => keepsOut_execPowerBudgetSet q h
  | .powerFloorSet q => keepsOut_execPowerFloorSet q h
  | .powerStatus q => keepsOut_execPowerStatus q h
  | .thermalSet q => keepsOut_execThermalSet q h
  | .reset q => keepsOut_execReset q h
  | .fwLoad q pkg storeOk => keepsOut_execFwLoad q pkg storeOk h
  | .reachSet q burnOk => keepsOut_execReachSet q burnOk h
  | .remap q ce hits recordOk ue env => keepsOut_execRemap q ce hits recordOk ue env h
  | .retire q recordOk => keepsOut_execRetire q recordOk h
  | .ringCtrl q => keepsOut_execRingCtrl q h
  | .rstLogRead q => keepsOut_execRstLogRead q h
  | .smbHistoryRead target x => keepsOut_execSmbHistoryRead target x h
  | .extest seen => keepsOut_execExtest seen h
  | .samplePreload seen cells => keepsOut_execSamplePreload seen cells h
  | .extestPulse seen => keepsOut_execExtestPulse seen h
  | .extestTrain seen => keepsOut_execExtestTrain seen h
  | .bypass code => keepsOut_execBypass code h
  | .sqTailDoorbell q v => keepsOut_execSqTailDoorbell q v h
  | .cqHeadDoorbell q v => keepsOut_execCqHeadDoorbell q v h
  | .ringEnable q w => keepsOut_execRingEnable q w h
  | .ringDisable q w => keepsOut_execRingDisable q w h
  | .siteCtrlPause x => keepsOut_execSiteCtrlPause x h
  | .siteCtrlResume x => keepsOut_execSiteCtrlResume x h
  | .siteCtrlHalt x => keepsOut_execSiteCtrlHalt x h
  | .siteCtrlStep x => keepsOut_execSiteCtrlStep x h
  | .evSet x => keepsOut_execEvSet x h
  | .seqJumpReq x seg => keepsOut_execSeqJumpReq x seg h
  | .tsetCtrlApply k => keepsOut_execTsetCtrlApply k h
  | .tsetEntryLoWrite a w => keepsOut_execTsetEntryLoWrite a w h
  | .tsetEntryHiWrite a w => keepsOut_execTsetEntryHiWrite a w h
  | .pgTimingHiWrite j w v => keepsOut_execPgTimingHiWrite j w v h
  | .lvlStrobeGo d mask => keepsOut_execLvlStrobeGo d mask h
  | .plWinWrite w v => keepsOut_execPlWinWrite w v h
  | .prSwfireWrite w => keepsOut_execPrSwfireWrite w h
  | .lensAckseqWrite w => keepsOut_execLensAckseqWrite w h
  | .wdKick key => keepsOut_execWdKick key h
  | .trippedClear k => keepsOut_execTrippedClear k h
  | .regReadClear bar a ce ue => keepsOut_execRegReadClear bar a ce ue h
  | .regWrite bar a w => keepsOut_execRegWrite bar a w h
  | .commandFetch q entry packet => keepsOut_execCommandFetch q entry packet h
  | .unitAcquire q => keepsOut_execUnitAcquire q h
  | .unitWaitTimeout q => keepsOut_execUnitWaitTimeout q h
  | .commitAckTimeout q => keepsOut_execCommitAckTimeout q h
  | .completionWrite q written => keepsOut_execCompletionWrite q written h
  | .cqIrqTimeout q => keepsOut_execCqIrqTimeout q h
  | .streamPrimeDone q ce ues => keepsOut_execStreamPrimeDone q ce ues h
  | .armedStart x => keepsOut_execArmedStart x h
  | .resumeStart x => keepsOut_execResumeStart x h
  | .refillRequest k ctrl => keepsOut_execRefillRequest k ctrl h
  | .refillComplete k ctrl err ofs addr => keepsOut_execRefillComplete k ctrl err ofs addr h
  | .scrubStep ce ues => keepsOut_execScrubStep ce ues h
  | .routineDispatch x parityOk => keepsOut_execRoutineDispatch x parityOk h
  | .microwordExec x parityOk => keepsOut_execMicrowordExec x parityOk h
  | .microWatchdog x => keepsOut_execMicroWatchdog x h
  | .cycleRead x lm => keepsOut_execCycleRead x lm h
  | .cycleTake x => keepsOut_execCycleTake x h
  | .compareOutcome x l faults => keepsOut_execCompareOutcome x l faults h
  | .failLogWrite x => keepsOut_execFailLogWrite x h
  | .failLogHeader x => keepsOut_execFailLogHeader x h
  | .sitePark x => keepsOut_execSitePark x h
  | .prismDeliver n => keepsOut_execPrismDeliver n h
  | .ringEventReceive origin n gen coarse frac hasFrac => keepsOut_execRingEventReceive origin n gen coarse frac hasFrac h
  | .tioInputEdge n rising => keepsOut_execTioInputEdge n rising h
  | .tioPulseEnd n => keepsOut_execTioPulseEnd n h
  | .tickFire k => keepsOut_execTickFire k h
  | .levelDacUpdate close => keepsOut_execLevelDacUpdate close h
  | .switchClose u => keepsOut_execSwitchClose u h
  | .pinModeDisconnect n => keepsOut_execPinModeDisconnect n h
  | .modeBusyClear n => keepsOut_execModeBusyClear n h
  | .rangeBreakOpen u => keepsOut_execRangeBreakOpen u h
  | .rangeBusyClear u => keepsOut_execRangeBusyClear u h
  | .currentLimitOnset u => keepsOut_execCurrentLimitOnset u h
  | .pinDwellExpire n => keepsOut_execPinDwellExpire n h
  | .pmuDwellExpire n => keepsOut_execPmuDwellExpire n h
  | .awDwellExpire k => keepsOut_execAwDwellExpire k h
  | .senseOpenDetect u => keepsOut_execSenseOpenDetect u h
  | .pmuServoTick n sensed => keepsOut_execPmuServoTick n sensed h
  | .pmuSample q samples => keepsOut_execPmuSample q samples h
  | .pmuMeasureDone q => keepsOut_execPmuMeasureDone q h
  | .awBoundary k => keepsOut_execAwBoundary k h
  | .awTrigPresent k => keepsOut_execAwTrigPresent k h
  | .awJumpPresent k => keepsOut_execAwJumpPresent k h
  | .wmInputCrossing k v => keepsOut_execWmInputCrossing k v h
  | .wmSettleExpire k => keepsOut_execWmSettleExpire k h
  | .eclipseClose k => keepsOut_execEclipseClose k h
  | .wmTapUpdate k mean => keepsOut_execWmTapUpdate k mean h
  | .pgGo j => keepsOut_execPgGo j h
  | .pgLeadingEdge j => keepsOut_execPgLeadingEdge j h
  | .pgTrailingEdge j => keepsOut_execPgTrailingEdge j h
  | .pgTrip j => keepsOut_execPgTrip j h
  | .pgFault j => keepsOut_execPgFault j h
  | .pgKill j => keepsOut_execPgKill j h
  | .pgServoTick j => keepsOut_execPgServoTick j h
  | .aqTrigger k => keepsOut_execAqTrigger k h
  | .aqRecordComplete k => keepsOut_execAqRecordComplete k h
  | .aqForceAct k => keepsOut_execAqForceAct k h
  | .aqTrigEvent k => keepsOut_execAqTrigEvent k h
  | .tuMeasureStart k => keepsOut_execTuMeasureStart k h
  | .tuEdge k b rising tick bin => keepsOut_execTuEdge k b rising tick bin h
  | .tuWindowClose k => keepsOut_execTuWindowClose k h
  | .tuGateClose k => keepsOut_execTuGateClose k h
  | .bincalAuto d => keepsOut_execBincalAuto d h
  | .bincalDone k hits => keepsOut_execBincalDone k hits h
  | .syncFrameSend frac => keepsOut_execSyncFrameSend frac h
  | .syncFrameReceive origin up stamp residence map onTime frac through =>
    keepsOut_execSyncFrameReceive origin up stamp residence map onTime frac through h
  | .ovenLevelChange level => keepsOut_execOvenLevelChange level h
  | .clockWindowCheck n count lost => keepsOut_execClockWindowCheck n count lost h
  | .linkLaneLoss d => keepsOut_execLinkLaneLoss d h
  | .lensRemoteIncident words => keepsOut_execLensRemoteIncident words h
  | .powerStateEval b => keepsOut_execPowerStateEval b h
  | .powerStateEnterDone b => keepsOut_execPowerStateEnterDone b h
  | .powerStateExitDone b => keepsOut_execPowerStateExitDone b h
  | .tempRead temps => keepsOut_execTempRead temps h
  | .thermalShutdown k => keepsOut_execThermalShutdown k h
  | .railFault rail => keepsOut_execRailFault rail h
  | .calGroupEnd d results => keepsOut_execCalGroupEnd d results h
  | .calWarmExpire d => keepsOut_execCalWarmExpire d h
  | .isoResetIdle u => keepsOut_execIsoResetIdle u h
  | .isoResetTimeout u count kinds => keepsOut_execIsoResetTimeout u count kinds h
  | .brownOut rail => keepsOut_execBrownOut rail h
  | .fwWatchdogExpire core => keepsOut_execFwWatchdogExpire core h
  | .doubleException core => keepsOut_execDoubleException core h
  | .waitClkTimeout u => keepsOut_execWaitClkTimeout u h
  | .ovenSampleFirst level => keepsOut_execOvenSampleFirst level h
  | .ovenSampleSecond level => keepsOut_execOvenSampleSecond level h
  | .strapSample boot ring smba ref100 testEn => keepsOut_execStrapSample boot ring smba ref100 testEn h
  | .blockRelease u => keepsOut_execBlockRelease u h
  | .bringupComplete sfdp => keepsOut_execBringupComplete sfdp h
  | .digitizerSample k raws => keepsOut_execDigitizerSample k raws h
  | .tuGateOpen k => keepsOut_execTuGateOpen k h
  | .currentLimitEnd u => keepsOut_execCurrentLimitEnd u h
  | .calExtSettled d => keepsOut_execCalExtSettled d h
  | .pcieLinkUp speed width => keepsOut_execPcieLinkUp speed width h
  | .smbCauseRead target => keepsOut_execSmbCauseRead target h
  | .idcode => keepsOut_execIdcode h
  | .clamp => keepsOut_execClamp h
  | .highz => keepsOut_execHighz h
  | .sysReset => keepsOut_execSysReset h
  | .tapReset => keepsOut_execTapReset h
  | .gnNowLoRead => keepsOut_execGnNowLoRead h
  | .windowWrite => keepsOut_execWindowWrite h
  | .perstAssert => keepsOut_execPerstAssert h
  | .perstRelease => keepsOut_execPerstRelease h
  | .functionLevelReset => keepsOut_execFunctionLevelReset h
  | .d3hotEnter => keepsOut_execD3hotEnter h
  | .d0Return => keepsOut_execD0Return h
  | .busMasterDisable => keepsOut_execBusMasterDisable h
  | .busMasterEnable => keepsOut_execBusMasterEnable h
  | .msixEnable mask => keepsOut_execMsixEnable mask h
  | .commandStart => keepsOut_execCommandStart h
  | .strobeHeldRelease => keepsOut_execStrobeHeldRelease h
  | .awRunStart => keepsOut_execAwRunStart h
  | .awStopAct => keepsOut_execAwStopAct h
  | .pgStopAct => keepsOut_execPgStopAct h
  | .aqStopAct => keepsOut_execAqStopAct h
  | .tuStopAct => keepsOut_execTuStopAct h
  | .ringStep => keepsOut_execRingStep h
  | .syncTimeout => keepsOut_execSyncTimeout h
  | .xiLockLost => keepsOut_execXiLockLost h
  | .warmExpire => keepsOut_execWarmExpire h
  | .refMissing => keepsOut_execRefMissing h
  | .refPresent => keepsOut_execRefPresent h
  | .holdoverExpire => keepsOut_execHoldoverExpire h
  | .mtcPllLock => keepsOut_execMtcPllLock h
  | .lensReportProcess => keepsOut_execLensReportProcess h
  | .lensIncidentClose => keepsOut_execLensIncidentClose h
  | .claimQueueGrant => keepsOut_execClaimQueueGrant h
  | .profileReloadDone => keepsOut_execProfileReloadDone h
  | .softwareSourceAssert => keepsOut_execSoftwareSourceAssert h
  | .powerOn => keepsOut_execPowerOn h
  | .nrstInLow => keepsOut_execNrstInLow h
  | .nrstInHigh => keepsOut_execNrstInHigh h
  | .hostWatchdogExpire => keepsOut_execHostWatchdogExpire h
  | .fabricTimeout => keepsOut_execFabricTimeout h
  | .startTimeout => keepsOut_execStartTimeout h
  | .resetSourceAssert => keepsOut_execResetSourceAssert h
  | .resetReleaseStart => keepsOut_execResetReleaseStart h
  | .bringupFirmwareReady => keepsOut_execBringupFirmwareReady h

theorem keeps_run (c : Instr) (h : Keeps s0 s) : Keeps s0 (run c s) := by
  unfold run
  split
  · rename_i e
    exact keepsOut_exec c h _ e
  · exact h

theorem keeps_replay (c : Instr) (h : Keeps s0 s) : Keeps s0 (replay s c) := by
  have h1 : Keeps s0 { s with link := { s.link with up := true } } := h.same rfl
  have h2 := keeps_run c (keeps_wr A.HL_CTRL F.HL_CTRL.WINDOW_RW 1 h1)
  exact keeps_setReg _ _ (h2.same rfl)

theorem keeps_serveFabric (h : Keeps s0 s) : Keeps s0 (serveFabric s) := by
  unfold serveFabric
  dsimp only
  exact keeps_forAll _ (fun (x : Nat × Instr) s => replay s x.2) (fun _ _ h => keeps_replay _ h) (h.same rfl)

end

/-- The state at the start of the next FAB cycle, before what falls due in it (R12, R13, R112). -/
def newCycle (s : State) : State := { keepPast s with now := s.now + 8, regs0 := s.regs, shadow0 := s.shadow, fab := [] }

/-- What is kept of the past is no other part of the state. -/
theorem keepPast_eq (s : State) : ∃ p, keepPast s = { s with past := p } := by
  unfold keepPast
  dsimp only
  split
  · exact ⟨_, rfl⟩
  · exact ⟨_, rfl⟩

theorem newCycle_eq (s : State) :
    ∃ p, newCycle s = { s with past := p, now := s.now + 8, regs0 := s.regs, shadow0 := s.shadow, fab := [] } := by
  obtain ⟨p, hp⟩ := keepPast_eq s
  exact ⟨p, by rw [newCycle, hp]⟩

/-- The new cycle's copies are those that stood, so the tables stay canonical. -/
theorem tabled_newCycle {s : State} (h : s.Tabled) : (newCycle s).Tabled := by
  obtain ⟨p, hp⟩ := newCycle_eq s
  obtain ⟨hr, hs, -, -, hsaves, hsites⟩ := h
  rw [hp]
  exact ⟨hr, hs, hr, hs, hsaves, hsites⟩

/-- What falls due in a FAB cycle: calibration groups, events, sites, records and reads. -/
theorem passCycle_eq (s : State) : passCycle s =
    let t := forAll (List.range 4) openGroup (newCycle s)
    serveReads (settleRecords (forAll (t.sites.map (·.1)) settleDue (registerDue t))) := by
  obtain ⟨p, hp⟩ := keepPast_eq s
  unfold passCycle newCycle
  rw [hp]

theorem keeps_passCycle (s : State) : Keeps (newCycle s) (passCycle s) := by
  rw [passCycle_eq]
  have h := keeps_forAll (List.range 4) openGroup (fun _ _ h => keeps_openGroup _ h) (Keeps.refl (newCycle s))
  exact keeps_serveReads (keeps_settleRecords (keeps_forAll _ _ (fun _ _ h => keeps_settleDue _ h) (keeps_registerDue h)))

theorem step_nil {s : State} (h : s.pending = []) : step s = .next (passCycle (serveFabric s)) := by
  unfold step
  rw [h]

theorem step_cons {s : State} {c : Instr} {rest : List Instr} (h : s.pending = c :: rest) :
    step s = exec c { s with pending := rest } := by
  unfold step
  rw [h]

/-- Settles O59: a command keeps the tables by `keepsOut_exec`, a FAB cycle by `keeps_passCycle`. -/
theorem stepKeepsTables : Obligations.StepKeepsTables := by
  intro s t hs he
  cases hp : s.pending with
  | nil =>
    rw [step_nil hp] at he
    rw [← Host.Outcome.next.inj he]
    exact (keeps_passCycle _).tabled (tabled_newCycle ((keeps_serveFabric (Keeps.refl s)).tabled hs))
  | cons c rest =>
    rw [step_cons hp] at he
    exact (keepsOut_exec c (Keeps.refl _) t he).tabled hs

/-! ## A step on an empty queue -/

/-- With no access in the fabric, none is made. -/
theorem serveFabric_nil {s : State} (h : s.rst.fabric = []) : serveFabric s = s := by
  have h1 : { s with rst := { s.rst with fabric := [] } } = s := by rw [← h]
  unfold serveFabric
  rw [h]
  exact h1

theorem openGroup_of_none {s : State} {d : Nat} (h : s.calJob d = none) : openGroup d s = s := by
  unfold openGroup
  rw [h]

/-- No software event is due, so none is registered. -/
theorem registerDue_of_later {s : State} (h : ∀ x ∈ s.prism.later, s.now < x.1) : registerDue s = s := by
  have hdue : s.prism.later.filter (fun x => x.1 ≤ s.now) = [] :=
    List.filter_eq_nil_iff.2 fun x hx => by simpa using h x hx
  have hlater : s.prism.later.filter (fun x => s.now < x.1) = s.prism.later :=
    List.filter_eq_self.2 fun x hx => by simpa using h x hx
  unfold registerDue
  rw [hdue, hlater]
  rfl

theorem serveReads_of_nil {s : State} (h : s.place.reads = []) : serveReads s = s := by
  unfold serveReads
  rw [h]
  rfl

/-- Calibration groups that no job forms open nothing. -/
theorem openGroups_of_none {s : State} (h : ∀ d < 4, s.calJob d = none) : forAll (List.range 4) openGroup s = s :=
  forAll_ind (P := fun t => t = s) _ _ s
    (fun d hd t ht => by rw [ht]; exact openGroup_of_none (h d (List.mem_range.1 hd))) rfl

/-- A FAB cycle in which nothing is due ends where it begins. -/
theorem passCycle_idle {s : State} (hsites : s.sites = []) (hcal : ∀ d < 4, s.calJob d = none)
    (hlater : ∀ x ∈ s.prism.later, s.now + 8 < x.1) (hreads : s.place.reads = []) : passCycle s = newCycle s := by
  obtain ⟨p, hp⟩ := newCycle_eq s
  have hjob : ∀ d < 4, (newCycle s).calJob d = none := by rw [hp]; exact hcal
  have hdue : registerDue (newCycle s) = newCycle s := registerDue_of_later (by rw [hp]; exact hlater)
  have hnone : (newCycle s).sites = [] := by rw [hp]; exact hsites
  have hread : (newCycle s).place.reads = [] := by rw [hp]; exact hreads
  rw [passCycle_eq, openGroups_of_none hjob]
  dsimp only
  rw [hdue, hnone]
  have hset : settleRecords (newCycle s) = newCycle s := by unfold settleRecords; rw [hnone]; rfl
  exact (congrArg serveReads hset).trans (serveReads_of_nil hread)

/-- Settles O57: the FAB cycle keeps the queue and the clock of the new cycle, and is that cycle where nothing is due. -/
theorem idleCycle : Obligations.IdleCycle := by
  refine ⟨fun s hp => ⟨_, step_nil hp, ?_⟩, fun s hp hfab hsites hcal hlater hreads => ?_⟩
  · have hf := keeps_serveFabric (Keeps.refl s)
    have hc := keeps_passCycle (serveFabric s)
    obtain ⟨p, hn⟩ := newCycle_eq (serveFabric s)
    exact ⟨by rw [hc.queue, hn]; exact hf.queue.trans hp, by rw [hc.time, hn, ← hf.time]⟩
  · rw [step_nil hp, serveFabric_nil hfab, passCycle_idle hsites hcal hlater hreads]
    rfl

end Sys2Proof.Machine
end

section
/-! A site's requests by register write: what SEQ_SITE_CTRL, SEQ_EVT and SEQ_JUMP do at a site (R11, R158, R162, R168). -/

namespace Sys2Proof.Machine

section

variable {s : State} {i : Nat}

/-! ## The register window -/

/-- A write that the link, the window and the fabric let through has its effect (R74, R109, R453). -/
theorem barWrite_open (c : Instr) {a : Nat} (f : State → State) (hup : s.link.up = true)
    (hrw : s.flag A.HL_CTRL F.HL_CTRL.WINDOW_RW = true) (hwait : s.fabricWait a = none) : barWrite c a f s = f s := by
  simp [barWrite, hup, hrw, hwait]

/-- A discarded write is counted (R111). -/
theorem rd_discard (s : State) : (discard s).rd A.HL_WIN_DISCARD F.HL_WIN_DISCARD.COUNT
    = min (2 ^ 32 - 1) (s.rd A.HL_WIN_DISCARD F.HL_WIN_DISCARD.COUNT + 1) := rd_bumpBy _ _ _ _ (by decide)

theorem keepsRegs_discard (s : State) : s.keepsRegs (discard s) [A.HL_WIN_DISCARD] :=
  fun _ ha => reg_setReg_ne _ _ (by simpa using ha)

/-! ## All but the registers and the sites -/

/-- The state `t` with the registers and sites of `s`: it is `s` when nothing else differs. -/
def besideOf (s t : State) : State := { t with regs := s.regs, sites := s.sites }

theorem besideOf_self (s : State) : besideOf s s = s := rfl

@[simp] theorem besideOf_setReg (a : Nat) (w : Word) (t : State) : besideOf s (setReg a w t) = besideOf s t := rfl

@[simp] theorem besideOf_wr (a : Nat) (f : Fld) (v : Nat) (t : State) : besideOf s (wr a f v t) = besideOf s t := rfl

@[simp] theorem besideOf_modSite (f : Site → Site) (t : State) : besideOf s (modSite i f t) = besideOf s t := rfl

@[simp] theorem site_wr (a : Nat) (f : Fld) (v j : Nat) (s : State) : (wr a f v s).site j = s.site j := rfl

@[simp] theorem reg_modSite (f : Site → Site) (s : State) (a : Nat) : (modSite i f s).reg a = s.reg a := rfl

/-! ## SEQ_SITE_CTRL -/

theorem siteCtrl_ne_siteState (i : Nat) : A.SEQ_SITE_CTRL i ≠ A.SEQ_SITE_STATE i := by
  unfold A.SEQ_SITE_CTRL A.SEQ_SITE_STATE
  omega

theorem jump_ne_siteState (i : Nat) : A.SEQ_JUMP i ≠ A.SEQ_SITE_STATE i := by
  unfold A.SEQ_JUMP A.SEQ_SITE_STATE
  omega

/-- The request's bit is set (R11). -/
theorem reg_setCtrl_same (m : Nat) (s : State) :
    (setCtrl i m s).reg (A.SEQ_SITE_CTRL i) = s.reg (A.SEQ_SITE_CTRL i) ||| word m := reg_setReg_same ..

theorem reg_setCtrl_ne {a : Nat} (m : Nat) (s : State) (h : a ≠ A.SEQ_SITE_CTRL i) : (setCtrl i m s).reg a = s.reg a :=
  reg_setReg_ne _ _ h

theorem site_setCtrl (m j : Nat) (s : State) : (setCtrl i m s).site j = s.site j := rfl

/-- A request's bit stands beside the site's state and leaves it. -/
theorem siteState_setCtrl (m : Nat) (s : State) : (setCtrl i m s).siteState i = s.siteState i := by
  unfold State.siteState State.rd
  rw [reg_setCtrl_ne m s (siteCtrl_ne_siteState i).symm]

/-- A running site's pause request is on record until the site takes it (R163). -/
theorem site_pauseRequest_same (gen : Nat) (s : State) :
    (pauseRequest i gen s).site i = { s.site i with pausePend := true, stopGen := gen, pauseAt := s.now } :=
  site_modSite_same i _ s

theorem site_pauseRequest_ne {j : Nat} (gen : Nat) (s : State) (h : j ≠ i) : (pauseRequest i gen s).site j = s.site j :=
  site_modSite_ne _ s h

/-- A running site is active. -/
theorem not_runs_of_not_active (h : s.active i = false) : s.runs i = false := by
  unfold State.active State.runs at *
  simp only [Bool.and_eq_false_iff, decide_eq_false_iff_not] at *
  omega

theorem not_resumable_of_not_active (h : s.active i = false) : s.resumable i = false := by
  have hrun := not_runs_of_not_active h
  have hne : s.siteState i ≠ 4 := by
    intro h4
    simp [State.active, h4] at h
  simp [State.resumable, hrun, hne]

theorem active_of_paused (h : s.siteState i = 4) : s.active i = true := by simp [State.active, h]

theorem resumable_of_paused (h : s.siteState i = 4) : s.resumable i = true := by simp [State.resumable, h]

/-- A running site's state is one of run, streaming and match-wait (R162). -/
theorem kindNow_lt (s : State) (i : Nat) : s.kindNow i < 8 := by
  unfold State.kindNow State.kindOf
  split
  · decide
  · split <;> decide

/-- The state that a resumed site shows. -/
theorem siteState_resumeRequest (steps : Option Nat) (s : State) : (resumeRequest i steps s).siteState i = s.kindNow i := by
  unfold resumeRequest State.siteState setSiteState
  rw [rd_wr_same _ _ _ _ (by decide)]
  exact Nat.mod_eq_of_lt (kindNow_lt s i)

theorem reg_resumeRequest_ne {a : Nat} (steps : Option Nat) (s : State) (h : a ≠ A.SEQ_SITE_STATE i) :
    (resumeRequest i steps s).reg a = s.reg a := reg_wr_ne _ _ _ h

/-- What a resume request makes of its site (R164, R165). -/
def resumedSite (now : Nat) (steps : Option Nat) (t : Site) : Site := { t with
  pausePend := false, resumeThen := none, steps := steps, resumeDue := some (now + 640), nextStart := 1250 * (now + 640), routineEnd := 0,
  routine := t.routine.map (fun r => { r with time := 1250 * (now + 640) - 260000, pausing := false }) }

theorem resumeRequest_eq (i : Nat) (steps : Option Nat) (s : State) :
    resumeRequest i steps s = setSiteState i (s.kindNow i) (modSite i (resumedSite s.now steps) s) := rfl

theorem site_resumeRequest_same (steps : Option Nat) (s : State) :
    (resumeRequest i steps s).site i = resumedSite s.now steps (s.site i) := by
  rw [resumeRequest_eq, setSiteState, site_wr, site_modSite_same]

theorem site_resumeRequest_ne {j : Nat} (steps : Option Nat) (s : State) (h : j ≠ i) :
    (resumeRequest i steps s).site j = s.site j := by
  rw [resumeRequest_eq, setSiteState, site_wr, site_modSite_ne _ _ h]

theorem resume_paused (steps : Option Nat) (h : s.siteState i = 4) : resume i steps s = resumeRequest i steps s := if_pos h

theorem besideOf_resumed (m : Nat) (steps : Option Nat) (s : State) :
    besideOf s (setCtrl i m (resumeRequest i steps s)) = s := by
  simp [setCtrl, resumeRequest_eq, setSiteState, besideOf_self]

/-- What a RESUME or a STEP of a paused site changes (R164, R165). -/
structure Resumed (i m : Nat) (steps : Option Nat) (s t : State) : Prop where
  site : t.site i = resumedSite s.now steps (s.site i)
  others : ∀ j, j ≠ i → t.site j = s.site j
  state : t.siteState i = s.kindNow i
  ctrl : t.reg (A.SEQ_SITE_CTRL i) = s.reg (A.SEQ_SITE_CTRL i) ||| word m
  beside : besideOf s t = s
  keeps : s.keepsRegs t [A.SEQ_SITE_CTRL i, A.SEQ_SITE_STATE i]

theorem resumed_setCtrl_resumeRequest (m : Nat) (steps : Option Nat) (s : State) :
    Resumed i m steps s (setCtrl i m (resumeRequest i steps s)) where
  site := by rw [site_setCtrl, site_resumeRequest_same]
  others j hj := by rw [site_setCtrl, site_resumeRequest_ne _ _ hj]
  state := by rw [siteState_setCtrl, siteState_resumeRequest]
  ctrl := by rw [reg_setCtrl_same, reg_resumeRequest_ne _ _ (siteCtrl_ne_siteState i)]
  beside := besideOf_resumed m steps s
  keeps a ha := by
    simp only [List.mem_cons, List.not_mem_nil, or_false, not_or] at ha
    rw [reg_setCtrl_ne _ _ ha.1, reg_resumeRequest_ne _ _ ha.2]

theorem site_cutCycles_ne {j : Nat} (u : Nat) (s : State) (h : j ≠ i) : (cutCycles i u s).site j = s.site j :=
  site_modSite_ne _ s h

/-- A stop on record: the site's cycles from the stop on are cut. -/
def stopped (i : Nat) (st : Stop) (s : State) : State :=
  modSite i (fun t => { t with stop := some st, routine := t.routine.bind haltRoutine }) (cutCycles i st.at_ s)

/-- A paused site without a stop takes the halt at once (R166). -/
theorem haltAt_paused (th gen : Nat) (h4 : s.siteState i = 4) (hstop : (s.site i).stop = none) :
    haltAt i 2 th gen s = stopped i ⟨2, th, true, gen⟩ s := by
  simp [haltAt, requestStop, stopped, h4, hstop]

theorem site_stopped_same (st : Stop) (s : State) : ((stopped i st s).site i).stop = some st :=
  congrArg Site.stop (site_modSite_same i _ _)

theorem site_stopped_ne {j : Nat} (st : Stop) (s : State) (h : j ≠ i) : (stopped i st s).site j = s.site j :=
  (site_modSite_ne _ _ h).trans (site_cutCycles_ne _ s h)

theorem reg_stopped (st : Stop) (s : State) (a : Nat) : (stopped i st s).reg a = s.reg a := by
  simp [stopped, cutCycles]

theorem besideOf_stopped (m : Nat) (st : Stop) (s : State) : besideOf s (setCtrl i m (stopped i st s)) = s := by
  simp [setCtrl, stopped, cutCycles, besideOf_self]

/-! ## SEQ_JUMP -/

theorem site_jumpRequest_same (n : Nat) (s : State) :
    (jumpRequest i n s).site i = { s.site i with jumpId := (s.site i).jumpId + 1 } := by
  rw [jumpRequest, site_wr, site_wr, site_wr, site_modSite_same]

theorem rd_jumpRequest_req (n : Nat) (s : State) : (jumpRequest i n s).rd (A.SEQ_JUMP i) F.SEQ_JUMP.REQ = 1 :=
  rd_wr_same _ _ _ _ (by decide)

theorem rd_jumpRequest_seg {n : Nat} (hn : n < 4096) (s : State) :
    (jumpRequest i n s).rd (A.SEQ_JUMP i) F.SEQ_JUMP.SEG = n := by
  unfold jumpRequest
  rw [rd_wr_apart _ _ _ _ _ (by decide), rd_wr_same _ _ _ _ (by decide)]
  exact Nat.mod_eq_of_lt hn

theorem jumpPending_jumpRequest (n : Nat) (s : State) : (jumpRequest i n s).jumpPending i = true := by
  have hne := (jump_ne_siteState i).symm
  unfold jumpRequest State.jumpPending State.flag
  rw [rd_wr_ne _ _ _ _ hne, rd_wr_ne _ _ _ _ hne, rd_wr_same _ _ _ _ (by decide)]
  rfl

theorem reg_jumpRequest_ne {a : Nat} (n : Nat) (s : State) (hj : a ≠ A.SEQ_JUMP i) (hs : a ≠ A.SEQ_SITE_STATE i) :
    (jumpRequest i n s).reg a = s.reg a := by
  unfold jumpRequest
  rw [reg_wr_ne _ _ _ hj, reg_wr_ne _ _ _ hj, reg_wr_ne _ _ _ hs, reg_modSite]

theorem besideOf_jumpRequest (n : Nat) (s : State) : besideOf s (jumpRequest i n s) = s := by
  simp [jumpRequest, besideOf_self]

end

/-! ## What each write of SEQ_SITE_CTRL does once it is let through (R162) -/

section

variable {s : State} {i : Nat} (hup : s.link.up = true) (hrw : s.flag A.HL_CTRL F.HL_CTRL.WINDOW_RW = true)
  (hwait : s.fabricWait (A.SEQ_SITE_CTRL i) = none)

include hup hrw hwait

theorem siteCtrlPause_open : exec (.siteCtrlPause i) s
    = .next (if s.runs i then setCtrl i ctrlPause (pauseRequest i 0 s) else discard s) :=
  congrArg _ (barWrite_open _ _ hup hrw hwait)

theorem siteCtrlResume_open : exec (.siteCtrlResume i) s
    = .next (if s.resumable i then setCtrl i ctrlResume (resume i none s) else discard s) :=
  congrArg _ (barWrite_open _ _ hup hrw hwait)

theorem siteCtrlStep_open : exec (.siteCtrlStep i) s
    = .next (if s.resumable i then setCtrl i ctrlStep (resume i (some 1) s) else discard s) :=
  congrArg _ (barWrite_open _ _ hup hrw hwait)

theorem siteCtrlHalt_open : exec (.siteCtrlHalt i) s
    = .next (if s.active i then setCtrl i ctrlHalt (haltAt i 2 s.unow 0 s) else discard s) :=
  congrArg _ (barWrite_open _ _ hup hrw hwait)

end

/-- Settles O24: each write passes the window by `barWrite_open` and makes the request that the site's state allows. -/
theorem siteRegisterRequests : Obligations.SiteRegisterRequests := by
  refine ⟨fun s i _ hup hrw hw hrun => ?_, fun s i _ hup hrw hw h4 => ?_, fun s i _ hup hrw hw h4 => ?_,
    fun s i _ hup hrw hw h4 hstop => ?_, fun s i _ hup hrw hw hact => ?_, fun s i _ hup hrw hw => ?_,
    fun s i n o _ hup hrw hw hform hact hobj hlen hn hbad => ?_⟩
  · refine ⟨setCtrl i ctrlPause (pauseRequest i 0 s), ?_, site_pauseRequest_same 0 s,
      fun j _ hj => site_pauseRequest_ne 0 s hj, reg_setCtrl_same _ _, rfl, fun a ha => ?_⟩
    · rw [siteCtrlPause_open hup hrw hw, if_pos hrun]
    · exact reg_setCtrl_ne _ _ (by simpa using ha)
  · obtain ⟨hsite, hothers, hstate, hctrl, hbeside, hkeeps⟩ := resumed_setCtrl_resumeRequest (i := i) ctrlResume none s
    refine ⟨setCtrl i ctrlResume (resumeRequest i none s), ?_, congrArg Site.resumeDue hsite, congrArg Site.nextStart hsite,
      congrArg Site.steps hsite, congrArg Site.pausePend hsite, fun j _ => hothers j, hstate, hctrl, hbeside, hkeeps⟩
    rw [siteCtrlResume_open hup hrw hw, if_pos (resumable_of_paused h4), resume_paused none h4]
  · obtain ⟨hsite, hothers, hstate, hctrl, hbeside, hkeeps⟩ := resumed_setCtrl_resumeRequest (i := i) ctrlStep (some 1) s
    refine ⟨setCtrl i ctrlStep (resumeRequest i (some 1) s), ?_, congrArg Site.resumeDue hsite, congrArg Site.nextStart hsite,
      congrArg Site.steps hsite, congrArg Site.pausePend hsite, fun j _ => hothers j, hstate, hctrl, hbeside, hkeeps⟩
    rw [siteCtrlStep_open hup hrw hw, if_pos (resumable_of_paused h4), resume_paused (some 1) h4]
  · refine ⟨setCtrl i ctrlHalt (stopped i ⟨2, 1250 * s.now, true, 0⟩ s), ?_, site_stopped_same _ s,
      fun j _ hj => site_stopped_ne _ s hj, ?_, besideOf_stopped _ _ s, fun a ha => ?_⟩
    · rw [siteCtrlHalt_open hup hrw hw, if_pos (active_of_paused h4), haltAt_paused _ _ h4 hstop, State.unow]
    · rw [reg_setCtrl_same, reg_stopped]
      rfl
    · rw [reg_setCtrl_ne _ _ (by simpa using ha), reg_stopped]
  · refine ⟨discard s, ?_, ?_, ?_, ?_, rd_discard s, rfl, keepsRegs_discard s⟩
    · rw [siteCtrlHalt_open hup hrw hw, if_neg (by simp [hact])]
    · rw [siteCtrlPause_open hup hrw hw, if_neg (by simp [not_runs_of_not_active hact])]
    · rw [siteCtrlResume_open hup hrw hw, if_neg (by simp [not_resumable_of_not_active hact])]
    · rw [siteCtrlStep_open hup hrw hw, if_neg (by simp [not_resumable_of_not_active hact])]
  · refine ⟨wr (A.SEQ_EVT i) F.SEQ_EVT.EV_FLAG 1 s, congrArg _ (barWrite_open _ _ hup hrw hw), ?_, rfl, fun a ha => ?_⟩
    · rw [State.evFlag, State.flag, rd_wr_same _ _ _ _ (by decide)]
      rfl
    · exact reg_wr_ne _ _ _ (by simpa using ha)
  · refine ⟨jumpRequest i n s, ?_, rd_jumpRequest_req n s, rd_jumpRequest_seg hn s, jumpPending_jumpRequest n s,
      site_jumpRequest_same n s, besideOf_jumpRequest n s, fun a ha => ?_⟩
    · show Host.Outcome.next (barWrite _ _ _ s) = _
      rw [barWrite_open _ _ hup hrw hw]
      simp [hform, hact, hobj, hbad, Nat.not_le.mpr hlen]
    · simp only [List.mem_cons, List.not_mem_nil, or_false, not_or] at ha
      exact reg_jumpRequest_ne n s ha.1 ha.2

end Sys2Proof.Machine
end
